-- ==== Sys2Proof/Word.lean ====
section
/-! DEFINITION. The word types of the machine and the plain containers its state is written with. -/

namespace Sys2Proof

/-- One byte of memory (05 R95: every format is stored little-endian). -/
abbrev Byte := BitVec 8
/-- A vector register of one lane, and an instruction word (04 R77, 14 R294). -/
abbrev W32 := BitVec 32
/-- A uniform register (04 R77). -/
abbrev W64 := BitVec 64
/-- One bit for each of the 64 lanes of a group (03 R61). -/
abbrev Mask := BitVec 64

/-- Sparse data by a numeric key: entries with keys strictly rising. An absent key reads as a default that
the reader of the map names. -/
abbrev KMap (α : Type) := List (Nat × α)

end Sys2Proof
end

