-- ==== Sys2Proof/Machine/Store.lean ====
section
/-! DEFINITION. The operations on sparse data, on the 64 lanes of a group and on little-endian bytes that every
other file of the machine uses. -/

namespace Sys2Proof.Machine

/-- The entry under a key. -/
def kfind {α : Type} : KMap α → Nat → Option α
  | [], _ => none
  | (k, v) :: t, i => if k = i then some v else kfind t i

/-- The map with an entry under `i`, kept in rising order. -/
def kins {α : Type} : KMap α → Nat → α → KMap α
  | [], i, v => [(i, v)]
  | (k, w) :: t, i, v =>
    if i < k then (i, v) :: (k, w) :: t else if i = k then (i, v) :: t else (k, w) :: kins t i v

/-- The map without an entry under `i`. -/
def kdel {α : Type} (m : KMap α) (i : Nat) : KMap α := m.filter fun e => !(e.1 == i)

/-- The value under a key, a default where there is none. -/
def kget {α : Type} (d : α) (m : KMap α) (i : Nat) : α := (kfind m i).getD d

/-- Writes a value; writing the default removes the entry, so that equal contents are equal lists. -/
def kput {α : Type} [DecidableEq α] (d : α) (m : KMap α) (i : Nat) (v : α) : KMap α :=
  if v = d then kdel m i else kins m i v

/-- The canonical form: keys strictly rising, no entry equal to the default. -/
def kwf {α : Type} [DecidableEq α] (d : α) : KMap α → Bool
  | [] => true
  | [(_, v)] => !(decide (v = d))
  | (k, v) :: (k', v') :: t => decide (k < k') && !(decide (v = d)) && kwf d ((k', v') :: t)

/-- Applies a function to the entry under a key, when there is one. -/
def kmod {α : Type} (m : KMap α) (i : Nat) (f : α → α) : KMap α :=
  match kfind m i with
  | some v => kins m i (f v)
  | none => m

/-- The keys of a map. -/
def kkeys {α : Type} (m : KMap α) : List Nat := m.map (·.1)

/-- The lowest key from 0 that the map does not hold, looked for below `n`. -/
def kfresh {α : Type} (m : KMap α) (n : Nat) : Option Nat :=
  (List.range n).find? fun i => (kfind m i).isNone

/-! ### Lanes -/

/-- The 64 lanes of a group. -/
def lanes : List Nat := List.range 64

/-- A value for every lane. -/
def mkLanes {α : Type} (f : Nat → α) : List α := lanes.map f

/-- Lane l of a list of lanes; a default where the list is shorter. -/
def laneOf {α : Type} (d : α) (v : List α) (l : Nat) : α := v.getD l d

/-- Whether lane l is in a mask. -/
def Mask.has (m : Mask) (l : Nat) : Bool := m.toNat.testBit l

/-- The number whose bit i is `f i`, for i below n. -/
def natOfBits : Nat → (Nat → Bool) → Nat
  | 0, _ => 0
  | n + 1, f => (f 0).toNat + 2 * natOfBits n fun i => f (i + 1)

/-- The mask of the lanes where a predicate holds. -/
def maskOf (f : Nat → Bool) : Mask := BitVec.ofNat 64 (natOfBits 64 f)

/-- The lanes of a mask in ascending order. -/
def Mask.list (m : Mask) : List Nat := lanes.filter fun l => Mask.has m l

/-- The lowest lane of a mask, 0 when it is empty. -/
def Mask.lowest (m : Mask) : Nat := ((Mask.list m).head?).getD 0

/-- How many lanes a mask holds. -/
def Mask.count (m : Mask) : Nat := (Mask.list m).length

/-- All 64 lanes. -/
def allLanes : Mask := BitVec.allOnes 64

/-! ### Bytes and numbers -/

/-- `n` bytes of a number, little-endian (05 R95). -/
def bytesLe : Nat → Nat → List Byte
  | 0, _ => []
  | n + 1, x => BitVec.ofNat 8 x :: bytesLe n (x / 256)

/-- The number that bytes hold, little-endian. -/
def natLe : List Byte → Nat
  | [] => 0
  | b :: t => b.toNat + 256 * natLe t

/-- Bits [lo + n - 1 : lo] of a number. -/
def bits (x lo n : Nat) : Nat := x / 2 ^ lo % 2 ^ n

/-- Bit k of a number. -/
def tbit (x k : Nat) : Bool := x / 2 ^ k % 2 == 1

/-- Reads `n` bits of a number as two's complement. -/
def sextNat (n x : Nat) : Int :=
  if 2 * (x % 2 ^ n) < 2 ^ n then Int.ofNat (x % 2 ^ n) else Int.ofNat (x % 2 ^ n) - Int.ofNat (2 ^ n)

/-- An integer modulo 2^n as a number. -/
def wrapNat (n : Nat) (x : Int) : Nat := (x % Int.ofNat (2 ^ n)).toNat

/-- The product of a list of numbers. -/
def prodNat (l : List Nat) : Nat := l.foldl (· * ·) 1

/-- A number rounded up to a multiple. -/
def roundUp (x m : Nat) : Nat := (x + m - 1) / m * m

/-- The i-th entry of a list replaced. -/
def setNth {α : Type} (l : List α) (i : Nat) (v : α) : List α := l.set i v

end Sys2Proof.Machine
end

