-- ==== Sys2Proof/Machine/Float.lean ====
section
/-! DEFINITION. Number formats, rounding and the arithmetic of 05: every operation computes on exact numbers and
rounds once. Flags are numbers in FPFLAGS bit order (05 R98): 1 NV, 2 DZ, 4 OF, 8 UF, 16 NX. -/

namespace Sys2Proof.Machine

/-- What a floating-point code holds (05 R94): a NaN (signalling or not, with its sign), an infinity, or the number
(-1)^neg * m * 2^e. -/
inductive FVal where
  | nan (sig neg : Bool)
  | inf (neg : Bool)
  | fin (neg : Bool) (m : Nat) (e : Int)
  deriving DecidableEq, Repr

/-- A binary format: exponent and fraction widths and the bias (05 R94). `ocp` marks E4M3, whose all-ones
exponent is normal but for one NaN. -/
structure Fmt where
  eb : Nat
  fb : Nat
  bias : Nat
  ocp : Bool
  deriving DecidableEq, Repr

def fp32 : Fmt := ⟨8, 23, 127, false⟩
def fp16 : Fmt := ⟨5, 10, 15, false⟩
def bf16 : Fmt := ⟨8, 7, 127, false⟩
def e5m2 : Fmt := ⟨5, 2, 15, false⟩
def e4m3 : Fmt := ⟨4, 3, 7, true⟩

/-- Rounding directions (05 R97). -/
inductive Rm where
  | rne | rtz | rdn | rup
  deriving DecidableEq, Repr

def rmOf (n : Nat) : Rm :=
  match n % 4 with
  | 0 => .rne
  | 1 => .rtz
  | 2 => .rdn
  | _ => .rup

/-- A result code and the flags it raises. -/
structure FRes where
  v : Nat
  fl : Nat
  deriving DecidableEq, Repr

def flNV : Nat := 1
def flDZ : Nat := 2
def flOF : Nat := 4
def flUF : Nat := 8
def flNX : Nat := 16

/-- The exponent of the smallest normal. -/
def Fmt.emin (f : Fmt) : Int := 1 - Int.ofNat f.bias
/-- The sign bit as a number. -/
def signBit (f : Fmt) (neg : Bool) : Nat := if neg then 2 ^ (f.eb + f.fb) else 0
/-- The code of an infinity. -/
def infCode (f : Fmt) (neg : Bool) : Nat := signBit f neg + (2 ^ f.eb - 1) * 2 ^ f.fb
/-- The code of the largest finite value. -/
def maxCode (f : Fmt) (neg : Bool) : Nat :=
  signBit f neg + (if f.ocp then 2 ^ (f.eb + f.fb) - 2 else (2 ^ f.eb - 1) * 2 ^ f.fb - 1)
/-- The canonical NaN (05 R96). -/
def nanCode (f : Fmt) (neg : Bool) : Nat :=
  if f.ocp then signBit f neg + (2 ^ (f.eb + f.fb) - 1) else (2 ^ f.eb - 1) * 2 ^ f.fb + 2 ^ (f.fb - 1)

/-- Reads a code (05 R94). -/
def decodeF (f : Fmt) (x : Nat) : FVal :=
  let neg := tbit x (f.eb + f.fb)
  let ex := bits x f.fb f.eb
  let fr := bits x 0 f.fb
  if ex = 0 then .fin neg fr (f.emin - Int.ofNat f.fb)
  else if f.ocp && ex == 2 ^ f.eb - 1 && fr == 2 ^ f.fb - 1 then .nan false neg
  else if !f.ocp && ex == 2 ^ f.eb - 1 then
    if fr = 0 then .inf neg else .nan (!(tbit fr (f.fb - 1))) neg
  else .fin neg (2 ^ f.fb + fr) (Int.ofNat ex - Int.ofNat f.bias - Int.ofNat f.fb)

/-- The code is a non-zero subnormal. -/
def isSub (f : Fmt) (x : Nat) : Bool := bits x f.fb f.eb == 0 && !(bits x 0 f.fb == 0)

/-- A source under FIN (05 R97): a subnormal reads as a zero of its sign. -/
def fin (f : Fmt) (flush : Bool) (x : Nat) : Nat :=
  if flush && isSub f x then signBit f (tbit x (f.eb + f.fb)) else x

/-- How many bits a number takes. -/
def bitLen (m : Nat) : Nat := if m = 0 then 0 else Nat.log2 m + 1

/-- Rounds m * 2^(e - q) to an integer; `sticky` says that the exact value lies a little above m. The second
result says whether the rounding was inexact. -/
def roundInt (rm : Rm) (neg : Bool) (m : Nat) (e q : Int) (sticky : Bool) : Nat × Bool :=
  if q ≤ e then (m * 2 ^ (e - q).toNat, sticky)
  else
    let d := (q - e).toNat
    let lo := m / 2 ^ d
    let rem := m % 2 ^ d
    let half := 2 ^ (d - 1)
    let inex := !(rem == 0) || sticky
    let up := match rm with
      | .rne => decide (half < rem) || (rem == half && (sticky || lo % 2 == 1))
      | .rtz => false
      | .rdn => neg && inex
      | .rup => !neg && inex
    (if up then lo + 1 else lo, inex)

/-- The code of the overflow result of R100 (05): infinity or the largest finite value; E4M3 saturates (R104). -/
def overflowCode (f : Fmt) (rm : Rm) (neg : Bool) : Nat :=
  if f.ocp then maxCode f neg
  else match rm with
    | .rne => infCode f neg
    | .rtz => maxCode f neg
    | .rdn => if neg then infCode f neg else maxCode f neg
    | .rup => if neg then maxCode f neg else infCode f neg

/-- The code of the finite number mr * 2^q, where mr has at most fb + 1 bits and q is at or above the quantum of
the subnormals. -/
def packF (f : Fmt) (neg : Bool) (mr : Nat) (q : Int) : Nat :=
  if mr < 2 ^ f.fb then signBit f neg + mr
  else if mr < 2 ^ (f.fb + 1) then
    signBit f neg + (q + Int.ofNat f.bias + Int.ofNat f.fb).toNat * 2 ^ f.fb + (mr - 2 ^ f.fb)
  else signBit f neg + (q + Int.ofNat f.bias + Int.ofNat f.fb + 1).toNat * 2 ^ f.fb

/-- Round(x, fmt, rm) under R100 (05) for a non-zero magnitude m * 2^e (a little more with `sticky`), with FOUT. -/
def roundF (f : Fmt) (rm : Rm) (fout : Bool) (neg : Bool) (m : Nat) (e : Int) (sticky : Bool) : FRes :=
  let q1 := e + Int.ofNat (bitLen m) - 1 - Int.ofNat f.fb
  let m1 := (roundInt rm neg m e q1 sticky).1
  let tiny := decide (q1 + Int.ofNat (bitLen m1) - 1 < f.emin)
  let q := if q1 < f.emin - Int.ofNat f.fb then f.emin - Int.ofNat f.fb else q1
  let r := roundInt rm neg m e q sticky
  if tiny && fout then ⟨signBit f neg, flUF + flNX⟩
  else
    let top := q + Int.ofNat (bitLen r.1) - 1
    let emax : Int := if f.ocp then Int.ofNat (2 ^ f.eb - 1) - Int.ofNat f.bias
      else Int.ofNat (2 ^ f.eb - 2) - Int.ofNat f.bias
    let tooLarge := decide (emax < top) ||
      (f.ocp && top == emax && decide (2 ^ (f.fb + 1) - 2 < r.1) && decide (bitLen r.1 = f.fb + 1))
    if tooLarge then ⟨overflowCode f rm neg, flOF + flNX⟩
    else ⟨packF f neg r.1 q, (if tiny && r.2 then flUF else 0) + (if r.2 then flNX else 0)⟩

/-- A canonical NaN result; `nv` when the operation is invalid. -/
def nanRes (f : Fmt) (nv : Bool) : FRes := ⟨nanCode f false, if nv then flNV else 0⟩

/-- A signalling NaN. -/
def FVal.snan : FVal → Bool
  | .nan s _ => s
  | _ => false

def FVal.isNan : FVal → Bool
  | .nan _ _ => true
  | _ => false

def FVal.negv : FVal → FVal
  | .nan s n => .nan s n
  | .inf n => .inf !n
  | .fin n m e => .fin (!n) m e

/-- The sign of an exact zero sum (05 R100). -/
def zeroSum (f : Fmt) (rm : Rm) (a b : Bool) : FRes :=
  ⟨signBit f (if a == b then a else decide (rm = .rdn)), 0⟩

/-- Exact signed sum of two finite numbers as an integer times 2^e. -/
def sumZ (n1 : Bool) (m1 : Nat) (e1 : Int) (n2 : Bool) (m2 : Nat) (e2 : Int) : Int × Int :=
  let e := if e1 < e2 then e1 else e2
  let a := Int.ofNat (m1 * 2 ^ (e1 - e).toNat)
  let b := Int.ofNat (m2 * 2 ^ (e2 - e).toNat)
  ((if n1 then -a else a) + (if n2 then -b else b), e)

/-- The sum of two values, rounded once. `a` is the left operand; `bad` says an operand was already invalid. -/
def addV (f : Fmt) (rm : Rm) (fout : Bool) (a b : FVal) : FRes :=
  match a, b with
  | .nan s _, y => nanRes f (s || y.snan)
  | x, .nan s _ => nanRes f (s || x.snan)
  | .inf n, .inf k => if n == k then ⟨infCode f n, 0⟩ else nanRes f true
  | .inf n, .fin _ _ _ => ⟨infCode f n, 0⟩
  | .fin _ _ _, .inf n => ⟨infCode f n, 0⟩
  | .fin n m e, .fin k l d =>
    if m = 0 ∧ l = 0 then zeroSum f rm n k
    else
      let z := sumZ n m e k l d
      if z.1 = 0 then zeroSum f rm true false
      else roundF f rm fout (decide (z.1 < 0)) z.1.natAbs z.2 false

/-- The exact product of two values; the flag says that it is invalid (0 times infinity). -/
def mulV (a b : FVal) : FVal × Bool :=
  match a, b with
  | .nan s n, y => (.nan (s || y.snan) n, false)
  | x, .nan s n => (.nan (s || x.snan) n, false)
  | .inf n, .inf k => (.inf (n != k), false)
  | .inf n, .fin k l _ => if l = 0 then (.nan false false, true) else (.inf (n != k), false)
  | .fin n m _, .inf k => if m = 0 then (.nan false false, true) else (.inf (n != k), false)
  | .fin n m e, .fin k l d => (.fin (n != k) (m * l) (e + d), false)

/-- Rounds an exact value that is not zero by cancellation. -/
def roundV (f : Fmt) (rm : Rm) (fout : Bool) (a : FVal) : FRes :=
  match a with
  | .nan s _ => nanRes f s
  | .inf n => ⟨infCode f n, 0⟩
  | .fin n m e => if m = 0 then ⟨signBit f n, 0⟩ else roundF f rm fout n m e false

/-- The product of two values, rounded once. -/
def mulF (f : Fmt) (rm : Rm) (fout : Bool) (a b : FVal) : FRes :=
  let p := mulV a b
  if p.2 then nanRes f true else roundV f rm fout p.1

/-- a * b + c, rounded once; 0 times infinity is invalid even when c is a quiet NaN (05 R100). -/
def fmaF (f : Fmt) (rm : Rm) (fout : Bool) (a b c : FVal) : FRes :=
  let p := mulV a b
  if p.2 then nanRes f true
  else match p.1, c with
    | .nan s _, y => nanRes f (s || y.snan)
    | x, y => addV f rm fout x y

/-- a / b, correctly rounded (05 R105). -/
def divF (f : Fmt) (rm : Rm) (fout : Bool) (a b : FVal) : FRes :=
  match a, b with
  | .nan s _, y => nanRes f (s || y.snan)
  | x, .nan s _ => nanRes f (s || x.snan)
  | .inf _, .inf _ => nanRes f true
  | .inf n, .fin k _ _ => ⟨infCode f (n != k), 0⟩
  | .fin n _ _, .inf k => ⟨signBit f (n != k), 0⟩
  | .fin n m e, .fin k l d =>
    if l = 0 then if m = 0 then nanRes f true else ⟨infCode f (n != k), flDZ⟩
    else if m = 0 then ⟨signBit f (n != k), 0⟩
    else
      let s := 32 + bitLen l
      roundF f rm fout (n != k) (m * 2 ^ s / l) (e - d - Int.ofNat s) (!(m * 2 ^ s % l == 0))

/-- Integer square root by bits, from bit `i` down. -/
def isqrtAux : Nat → Nat → Nat → Nat
  | 0, n, r => if (r + 1) * (r + 1) ≤ n then r + 1 else r
  | i + 1, n, r =>
    let t := r + 2 ^ (i + 1)
    isqrtAux i n (if t * t ≤ n then t else r)

def isqrt (n : Nat) : Nat := isqrtAux (bitLen n / 2 + 1) n 0

/-- √a, correctly rounded (05 R105). -/
def sqrtF (f : Fmt) (rm : Rm) (fout : Bool) (a : FVal) : FRes :=
  match a with
  | .nan s _ => nanRes f s
  | .inf n => if n then nanRes f true else ⟨infCode f false, 0⟩
  | .fin n m e =>
    if m = 0 then ⟨signBit f n, 0⟩
    else if n then nanRes f true
    else
      let o := if e % 2 = 0 then 60 else 61
      let x := m * 2 ^ o
      let r := isqrt x
      roundF f rm fout false r ((e - Int.ofNat o) / 2) (!(r * r == x))

/-- Compares two values that are not NaN: the sign of a - b. -/
def cmpV (a b : FVal) : Int :=
  match a, b with
  | .inf n, .inf k => if n == k then 0 else if n then -1 else 1
  | .inf n, _ => if n then -1 else 1
  | _, .inf k => if k then 1 else -1
  | .fin n m e, .fin k l d => (sumZ n m e (!k) l d).1
  | _, _ => 0

/-- minimumNumber and maximumNumber on codes (05 R100): -0 below +0, one NaN yields the other source. -/
def minmaxF (f : Fmt) (isMax : Bool) (x y : Nat) : FRes :=
  let a := decodeF f x
  let b := decodeF f y
  let nv := if a.snan || b.snan then flNV else 0
  match a.isNan, b.isNan with
  | true, true => ⟨nanCode f false, nv⟩
  | true, false => ⟨y, nv⟩
  | false, true => ⟨x, nv⟩
  | false, false =>
    let c := cmpV a b
    let less := decide (c < 0) || (c == 0 && tbit x (f.eb + f.fb) && !(tbit y (f.eb + f.fb)))
    ⟨if less == isMax then y else x, 0⟩

/-- Rounds to an integral value of the format; the result keeps the source's sign (16 R347). -/
def frndF (f : Fmt) (rm : Rm) (x : Nat) : FRes :=
  match decodeF f x with
  | .nan s _ => nanRes f s
  | .inf _ => ⟨x, 0⟩
  | .fin n m e =>
    if m = 0 then ⟨x, 0⟩
    else
      let r := (roundInt rm n m e 0 false).1
      if r = 0 then ⟨signBit f n, 0⟩ else ⟨(roundF f rm false n r 0 false).v, 0⟩

/-- The class bit of FCLASS (16 R337). -/
def fclassF (f : Fmt) (x : Nat) : Nat :=
  match decodeF f x with
  | .nan s _ => if s then 2 ^ 8 else 2 ^ 9
  | .inf n => if n then 2 ^ 0 else 2 ^ 7
  | .fin n m _ =>
    if m = 0 then if n then 2 ^ 3 else 2 ^ 4
    else if isSub f x then if n then 2 ^ 2 else 2 ^ 5
    else if n then 2 ^ 1 else 2 ^ 6

/-- A float to an integer of n bits (05 R104): saturated, NaN to 0. -/
def toIntF (f : Fmt) (rm : Rm) (signed : Bool) (x : Nat) : FRes :=
  let hi : Int := if signed then 2 ^ 31 - 1 else 2 ^ 32 - 1
  let lo : Int := if signed then -(2 ^ 31) else 0
  match decodeF f x with
  | .nan _ _ => ⟨0, flNV⟩
  | .inf n => ⟨wrapNat 32 (if n then lo else hi), flNV⟩
  | .fin n m e =>
    let r := roundInt rm n m e 0 false
    let z : Int := if n then -(Int.ofNat r.1) else Int.ofNat r.1
    if z < lo then ⟨wrapNat 32 lo, flNV⟩
    else if hi < z then ⟨wrapNat 32 hi, flNV⟩
    else ⟨wrapNat 32 z, if r.2 then flNX else 0⟩

/-- An integer to a float (05 R104). -/
def ofIntF (f : Fmt) (rm : Rm) (fout : Bool) (z : Int) : FRes :=
  if z = 0 then ⟨0, 0⟩ else roundF f rm fout (decide (z < 0)) z.natAbs 0 false

/-- One float format to another (05 R104). A NaN keeps its sign only in E4M3, whose infinity source saturates and
raises NX only. -/
def convF (src dst : Fmt) (rm : Rm) (fout : Bool) (x : Nat) : FRes :=
  match decodeF src x with
  | .nan s n => ⟨nanCode dst (dst.ocp && n), if s then flNV else 0⟩
  | .inf n => if dst.ocp then ⟨maxCode dst n, flNX⟩ else ⟨infCode dst n, 0⟩
  | .fin n m e => if m = 0 then ⟨signBit dst n, 0⟩ else roundF dst rm fout n m e false

/-- FADD of the atomics (06 R139): FP32, RNE, subnormals kept, canonical NaN. -/
def atomFadd (a b : W32) : W32 :=
  BitVec.ofNat 32 (addV fp32 .rne false (decodeF fp32 a.toNat) (decodeF fp32 b.toNat)).v

/-! ### Exact sums (05 R103, R109) -/

/-- ExactSum of two exact values (05 R103): a zero sum is -0 only when every term is -0. -/
def exactAdd (a b : FVal) : FVal :=
  match a, b with
  | .nan s n, _ => .nan s n
  | _, .nan s n => .nan s n
  | .inf n, .inf k => if n == k then .inf n else .nan false false
  | .inf n, _ => .inf n
  | _, .inf n => .inf n
  | .fin n m e, .fin k l d =>
    let z := sumZ n m e k l d
    if z.1 = 0 then .fin (n && k && m == 0 && l == 0) 0 0 else .fin (decide (z.1 < 0)) z.1.natAbs z.2

/-- ExactSum of a list of terms. -/
def exactSum : List FVal → FVal
  | [] => .fin false 0 0
  | [x] => x
  | x :: t => exactAdd x (exactSum t)

/-- RoundNE (05 R103), as an FP32 code. -/
def roundNE (x : FVal) : W32 := BitVec.ofNat 32 (roundV fp32 .rne false x).v

/-- The exponent e(x) = ⌊log2 |x|⌋ of a non-zero finite value (08 R180). -/
def expOf (m : Nat) (e : Int) : Int := e + Int.ofNat (bitLen m) - 1

end Sys2Proof.Machine
end

