-- ==== Sys2Proof/Syntax.lean ====
section
/-! DEFINITION. The syntax of the machine: the fields of every instruction format (14 R294), the data the events
of 95 carry, and the one inductive of instructions and steps, a constructor for each row of the opcode table. -/

namespace Sys2Proof

/-- Format RRR (14 R294): three registers, two kill bits, uniform bit. -/
structure RRR where
  d : BitVec 6
  a : BitVec 6
  b : BitVec 6
  ka : Bool
  kb : Bool
  u : Bool
  deriving DecidableEq, Repr

/-- Format RRR with one source: B and KB are zero (14 R294, R298). -/
structure Un where
  d : BitVec 6
  a : BitVec 6
  ka : Bool
  u : Bool
  deriving DecidableEq, Repr

/-- Format RRR of a major that takes no U = 1 (14 R296). -/
structure RRV where
  d : BitVec 6
  a : BitVec 6
  b : BitVec 6
  ka : Bool
  kb : Bool
  deriving DecidableEq, Repr

/-- Format RI: an 11-bit immediate (14 R294). -/
structure RI where
  d : BitVec 6
  a : BitVec 6
  imm : BitVec 11
  ka : Bool
  u : Bool
  deriving DecidableEq, Repr

/-- Format SH: a 5-bit shift amount; KIND selects the row (14 R294). -/
structure SHI where
  d : BitVec 6
  a : BitVec 6
  amt : BitVec 5
  ka : Bool
  u : Bool
  deriving DecidableEq, Repr

/-- Format WI: a 17-bit immediate (14 R294). -/
structure WI where
  d : BitVec 6
  imm : BitVec 17
  u : Bool
  deriving DecidableEq, Repr

/-- Format CP: a compare into a predicate; CMB 3 is reserved (14 R294, R297). -/
structure CP where
  pd : BitVec 3
  cond : BitVec 3
  a : BitVec 6
  b : BitVec 6
  cmb : BitVec 2
  ka : Bool
  kb : Bool
  u : Bool
  deriving DecidableEq, Repr

/-- Format RRR with shift, LEA (14 R294). -/
structure LEAF where
  d : BitVec 6
  a : BitVec 6
  b : BitVec 6
  sh : BitVec 3
  ka : Bool
  kb : Bool
  u : Bool
  deriving DecidableEq, Repr

/-- Format RRR with select, SEL (14 R294). -/
structure SELF where
  d : BitVec 6
  a : BitVec 6
  b : BitVec 6
  p : BitVec 3
  neg : Bool
  ka : Bool
  kb : Bool
  u : Bool
  deriving DecidableEq, Repr

/-- CMPRS and EXPND: the B field names a predicate (15 R327). -/
structure CPX where
  d : BitVec 6
  a : BitVec 6
  p : BitVec 3
  ka : Bool
  deriving DecidableEq, Repr

/-- VOTE.ALL and VOTE.ANY: predicates in D and A, an s-register member mask in B (18 R421). -/
structure VOTEP where
  pd : BitVec 3
  pa : BitVec 3
  b : BitVec 6
  kb : Bool
  deriving DecidableEq, Repr

/-- VOTE.BAL: an s-register in D (18 R421). -/
structure VOTEB where
  d : BitVec 6
  pa : BitVec 3
  b : BitVec 6
  kb : Bool
  deriving DecidableEq, Repr

/-- REDUX and SCAN: one source (17 R390, 18 R397). -/
structure RDX where
  d : BitVec 6
  a : BitVec 6
  ka : Bool
  deriving DecidableEq, Repr

/-- PAND, POR and PXOR: three predicates (17 R386). -/
structure PRR where
  pd : BitVec 3
  pa : BitVec 3
  pb : BitVec 3
  deriving DecidableEq, Repr

/-- PNOT: two predicates (17 R386). -/
structure PUN where
  pd : BitVec 3
  pa : BitVec 3
  deriving DecidableEq, Repr

/-- PTOS: an s-register and a predicate (17 R386). -/
structure PTOSF where
  d : BitVec 6
  pa : BitVec 3
  deriving DecidableEq, Repr

/-- PSET: a predicate and an s-register (17 R386). -/
structure PSETF where
  pd : BitVec 3
  a : BitVec 6
  deriving DecidableEq, Repr

/-- Uniform LD in format M: IDX is 63 (14 R296); W 7 is reserved (R298). -/
structure MLU where
  d : BitVec 6
  s : BitVec 6
  w : BitVec 3
  na : Bool
  lh : BitVec 4
  deriving DecidableEq, Repr

/-- Uniform ST in format M: IDX is 63 and NA is 0 (14 R296). -/
structure MSU where
  d : BitVec 6
  s : BitVec 6
  w : BitVec 3
  lh : BitVec 4
  deriving DecidableEq, Repr

/-- Loads in format M (14 R294); W 7 is reserved (R298). -/
structure ML where
  d : BitVec 6
  s : BitVec 6
  v : BitVec 6
  w : BitVec 3
  na : Bool
  lh : BitVec 4
  deriving DecidableEq, Repr

/-- ST in format M: NA is 0 (14 R296). -/
structure MS where
  d : BitVec 6
  s : BitVec 6
  v : BitVec 6
  w : BitVec 3
  lh : BitVec 4
  deriving DecidableEq, Repr

/-- PREF in format M: D and NA are 0 (14 R296). -/
structure MP where
  s : BitVec 6
  v : BitVec 6
  w : BitVec 3
  lh : BitVec 4
  deriving DecidableEq, Repr

/-- Format O, LDA and STRL (14 R294); W 2 and 3 are reserved (R298). -/
structure OF where
  d : BitVec 6
  s : BitVec 6
  w : BitVec 2
  lvl : BitVec 4
  lh : BitVec 4
  u : Bool
  deriving DecidableEq, Repr

/-- Format CM, CMNT (14 R294). -/
structure CMF where
  lvl : BitVec 2
  start : BitVec 6
  len : BitVec 6
  lh : BitVec 4
  deriving DecidableEq, Repr

/-- Format A, ATOM and ATOMN: OP selects the row (14 R294). -/
structure AT where
  d : BitVec 6
  v : BitVec 6
  ord : BitVec 2
  lvl : BitVec 4
  lh : BitVec 4
  deriving DecidableEq, Repr

/-- Format F, FENCE (14 R294). -/
structure FENF where
  ord : BitVec 2
  lvl : BitVec 4
  deriving DecidableEq, Repr

/-- Format MN, MONARM: the TMO field is zero (14 R294). -/
structure MNA where
  a : BitVec 6
  deriving DecidableEq, Repr

/-- Format MN, MONWAIT (14 R294). -/
structure MNW where
  d : BitVec 6
  tmo : BitVec 6
  deriving DecidableEq, Repr

/-- Format T, TMMA (14 R294). -/
structure TM where
  acc : BitVec 2
  shape : BitVec 5
  a : BitVec 6
  bs : BitVec 5
  f : BitVec 3
  ru : Bool
  lh : BitVec 4
  deriving DecidableEq, Repr

/-- Format TA, TZERO (14 R296). -/
structure TZ where
  acc : BitVec 2
  lh : BitVec 4
  deriving DecidableEq, Repr

/-- Format TA, TRD and TWR: SHAPE holds the column group (14 R296). -/
structure TRW where
  acc : BitVec 2
  c : BitVec 5
  x : BitVec 6
  lh : BitVec 4
  deriving DecidableEq, Repr

/-- Format TA, TBATCH: X is an s-register destination (14 R296). -/
structure TB where
  x : BitVec 6
  lh : BitVec 4
  deriving DecidableEq, Repr

/-- Format TA, TWAIT: Y is an s-register (14 R296). -/
structure TW where
  y : BitVec 6
  lh : BitVec 4
  deriving DecidableEq, Repr

/-- Format TA, TDRAIN: SHAPE[20] selects the row, SHAPE[19:16] is the tag (14 R296). -/
structure TD where
  acc : BitVec 2
  tag : BitVec 4
  x : BitVec 6
  y : BitVec 6
  lh : BitVec 4
  deriving DecidableEq, Repr

/-- Format X, TXBEGIN (14 R294). -/
structure TXB where
  s1 : BitVec 6
  deriving DecidableEq, Repr

/-- Format C, the engine instructions (14 R294). -/
structure CF where
  recr : BitVec 6
  srca : BitVec 6
  dsta : BitVec 6
  tag : BitVec 4
  lh : BitVec 4
  deriving DecidableEq, Repr

/-- Format WT, CPYWAIT: D is zero (14 R296). -/
structure WTM where
  mask : BitVec 16
  deriving DecidableEq, Repr

/-- Format WT, RLYWAIT (14 R294). -/
structure WTD where
  mask : BitVec 16
  d : BitVec 6
  deriving DecidableEq, Repr

/-- Format B, BRA (14 R294). -/
structure BF where
  neg : Bool
  p : BitVec 3
  off : BitVec 22
  deriving DecidableEq, Repr

/-- Format BD, BDIV (14 R294). -/
structure BDF where
  neg : Bool
  p : BitVec 3
  toff : BitVec 11
  roff : BitVec 11
  deriving DecidableEq, Repr

/-- Format J, CALL (14 R294). -/
structure JF where
  off : BitVec 26
  deriving DecidableEq, Repr

/-- Format LP, LOOP (14 R294). -/
structure LPF where
  s : BitVec 6
  off : BitVec 20
  deriving DecidableEq, Repr

/-- Format K with a register, RET, BRX and CALLX (14 R294). -/
structure KF where
  s : BitVec 6
  deriving DecidableEq, Repr

/-- Format Y, BAR and BARW (14 R294). -/
structure YF where
  lvl : BitVec 4
  id : BitVec 5
  pd : BitVec 3
  deriving DecidableEq, Repr

/-- Format Y, BARA: PD is zero (14 R294). -/
structure YA where
  lvl : BitVec 4
  id : BitVec 5
  deriving DecidableEq, Repr

/-- Format Y, HEAT: ID and PD are zero (14 R294). -/
structure YH where
  lvl : BitVec 4
  deriving DecidableEq, Repr

/-- Format S, SRD and SWR (14 R294). -/
structure SF where
  d : BitVec 6
  idx : BitVec 12
  deriving DecidableEq, Repr

/-- Format S, TRAP (14 R294). -/
structure TRAPF where
  code : BitVec 12
  deriving DecidableEq, Repr

/-- Format S, CLK (14 R294). -/
structure CLKF where
  d : BitVec 6
  deriving DecidableEq, Repr

/-- Format S, SIGCHK (14 R294). -/
structure SIGF where
  exp : BitVec 23
  deriving DecidableEq, Repr

/-- Format H, HIMM: a 24-bit payload (16 R350). -/
structure HI where
  y : BitVec 24
  deriving DecidableEq, Repr

/-- Format H, HSCHED (16 R357); PIPE 5 to 15 is reserved. -/
structure HS where
  delay : BitVec 8
  pipe : BitVec 4
  neg : Bool
  p : BitVec 3
  deriving DecidableEq, Repr

/-- Format H, HMOD class CACHE (16 R351). -/
structure HC where
  policy : BitVec 2
  deriving DecidableEq, Repr

/-- Format H, HMOD class ROUND (16 R351). -/
structure HR where
  rm : BitVec 2
  deriving DecidableEq, Repr

/-- Format H, HMOD class QUEUE (16 R351). -/
structure HQ where
  qb : Bool
  qa : Bool
  qd : Bool
  deriving DecidableEq, Repr

/-- Format H, HMOD class COUNT (16 R351). -/
structure HK where
  incs : BitVec 6
  idx : BitVec 12
  deriving DecidableEq, Repr

/-- Format H, HMOD class SCOPE (16 R351). -/
structure HL where
  rlvl : BitVec 4
  deriving DecidableEq, Repr

/-- LIVE and its bitmap words (14 R301): one optional word for each half of each register file, four tile bits,
and up to four scratchpad ranges (START, LEN - 1), in units of 128 bytes. -/
structure LiveF where
  v0 : Option W32
  v1 : Option W32
  s0 : Option W32
  s1 : Option W32
  acc : BitVec 4
  ranges : List (BitVec 12 × BitVec 12)
  deriving DecidableEq, Repr

/-- The AtomicOps the part completes for the host (13 R271). -/
inductive HostOp where
  | add | exch | cas
  deriving DecidableEq, Repr

/-- The widths of an AtomicOp of the link, in bits (13 R270). -/
inductive HostWidth where
  | w32 | w64 | w128
  deriving DecidableEq, Repr

/-- Who consumes uncorrectable data (11 R250): a group, an engine transfer, or the host's next read. -/
inductive Consumer where
  | group (gid : Nat)
  | xfer (x : Nat)
  | hostRead
  deriving DecidableEq, Repr

/-- Where a management request came from (13 R271, R278): packet `idx` of a queue, or the mailbox. `lid` is the
packet's LAUNCHID field, `req` its REQ byte. -/
structure Src where
  queue : Option Nat
  idx : Nat
  lid : W32
  req : Nat
  deriving DecidableEq, Repr

/-- A request turned away with BAD_REQ (13 R274, R279): where it came from, and the RECID that a FAULT_ANSWER names. -/
structure BadReq where
  src : Src
  recid : Nat
  deriving DecidableEq, Repr

/-- The source rank of a relay chunk (09 R204), and its bytes where the chunk comes from another package (13 R281). -/
structure ChunkOf where
  rank : Nat
  data : List Byte
  deriving DecidableEq, Repr

/-- A Stride port that a link comes up on, and the mode of the other end (11 R257). -/
structure PortUp where
  port : Nat
  compat : Bool
  deriving DecidableEq, Repr

/-- A firmware image that is staged (13 R283): its version, and whether its signature verifies. -/
structure Firmware where
  version : Nat
  signed : Bool
  deriving DecidableEq, Repr

/-- A sensor's reading (02 R27): die position 0 to 7, or 8 for the front-end die; sensor index; temperature in millikelvin. -/
structure Reading where
  pos : Nat
  idx : Nat
  temp : Nat
  deriving DecidableEq, Repr

/-- The fields of a REG_QUEUE request that registers a queue (13 R278). -/
structure QueueReg where
  queue : Nat
  size : Nat
  csize : Nat
  ceil : Nat
  asid : Nat
  mgmt : Bool
  ring : Nat
  cring : Nat
  deriving DecidableEq, Repr

/-- A flooded link-state update (11 R256). -/
structure LinkUpdate where
  origin : Nat
  port : Nat
  seq : Nat
  up : Bool
  deriving DecidableEq, Repr

/-- The name of a relay chunk between packages (09 R204; 13 R281, R282): LAUNCHID, level, level instance, ordinal or baton,
the record's address of a persistent collective, the first rank of the group, and destination, chunk and source. -/
structure ChunkName where
  launchid : W32
  level : Nat
  inst : Nat
  ord : Nat
  persistent : Option Nat
  first : Nat
  chunk : Nat × Nat × Nat
  deriving DecidableEq, Repr

/-- What the part looks at in an Ultra Ethernet packet (13 R282); `relay` names the relay chunk that it carries. -/
structure UePacket where
  delivery : Nat      -- 0 RUD, 1 ROD, 2 RUDI, 3 UUD
  semantic : Nat      -- 0 send, 1 tagged send, 2 RMA write, 3 RMA read, 4 atomic
  tss : Bool
  addr : Nat
  data : List Byte
  relay : Option ChunkName
  deriving DecidableEq, Repr

/-- The signed inventory record (01 R13). -/
structure InvRecord where
  serial : Nat
  grade : Nat
  seq : Nat
  sites : List (List Nat)       -- disabled core sites of each position
  slices : List (List Nat)      -- disabled L2 slices of each position
  hbms :   List (List Nat)      -- disabled HBM4E stacks of each position, 0 the lower and 1 the upper
  ports : List (List Nat)       -- disabled die-link ports of each position
  positions : List Nat          -- populated positions
  valid : Bool                  -- the signature verifies (R14)
  deriving DecidableEq, Repr

/-- Every row of the opcode table: first the encoded instructions in the table's order, then LIVE, then the steps
that no word encodes (95 and 14 R298). -/
inductive Instr where
  | iadd (f : RRR)
  | isub (f : RRR)
  | imul (f : RRR)
  | imulh (f : RRR)
  | imulhU (f : RRR)
  | imin (f : RRR)
  | iminU (f : RRR)
  | imax (f : RRR)
  | imaxU (f : RRR)
  | iabs (f : Un)
  | ineg (f : Un)
  | and (f : RRR)
  | or (f : RRR)
  | xor (f : RRR)
  | andn (f : RRR)
  | not (f : Un)
  | shl (f : RRR)
  | shr (f : RRR)
  | sar (f : RRR)
  | rol (f : RRR)
  | clz (f : Un)
  | popc (f : Un)
  | brev (f : Un)
  | mov (f : Un)
  | iaddc (f : RRR)
  | iaddi (f : RI)
  | andi (f : RI)
  | ori (f : RI)
  | xori (f : RI)
  | shli (f : SHI)
  | shri (f : SHI)
  | sari (f : SHI)
  | movi (f : WI)
  | imad (f : RRR)
  | icmp (f : CP)
  | bfeU (f : RRR)
  | bfeS (f : RRR)
  | bfi (f : RRR)
  | lea (f : LEAF)
  | sel (f : SELF)
  | fadd (f : RRR)
  | fsub (f : RRR)
  | fmul (f : RRR)
  | fmin (f : RRR)
  | fmax (f : RRR)
  | fabs (f : Un)
  | fneg (f : Un)
  | frndNe (f : Un)
  | frndZ (f : Un)
  | frndDn (f : Un)
  | frndUp (f : Un)
  | fclass (f : Un)
  | fdiv (f : RRR)
  | ffma (f : RRR)
  | fcmp (f : CP)
  | frcp (f : Un)
  | frsq (f : Un)
  | fsqrt (f : Un)
  | fexp2 (f : Un)
  | flog2 (f : Un)
  | fsin (f : Un)
  | fcos (f : Un)
  | ftanh (f : Un)
  | cvtS32F32 (f : Un)
  | cvtU32F32 (f : Un)
  | cvtF32S32 (f : Un)
  | cvtF32U32 (f : Un)
  | cvtBf16F32 (f : Un)
  | cvtF32Bf16 (f : Un)
  | cvtF16F32 (f : Un)
  | cvtF32F16 (f : Un)
  | cvtE4m3F32 (f : Un)
  | cvtF32E4m3 (f : Un)
  | cvtE5m2F32 (f : Un)
  | cvtF32E5m2 (f : Un)
  | badd2 (f : RRV)
  | bmul2 (f : RRV)
  | bfma2 (f : RRV)
  | padd2 (f : RRV)
  | padd2S (f : RRV)
  | psub2 (f : RRV)
  | psub2S (f : RRV)
  | pmul2 (f : RRV)
  | pmac2 (f : RRV)
  | srar (f : RRV)
  | srarH (f : RRV)
  | shfl (f : RRV)
  | slup (f : RRV)
  | sldn (f : RRV)
  | cmprs (f : CPX)
  | expnd (f : CPX)
  | voteAll (f : VOTEP)
  | voteAny (f : VOTEP)
  | voteBal (f : VOTEB)
  | reduxAdd (f : RDX)
  | reduxMin (f : RDX)
  | reduxMax (f : RDX)
  | reduxAnd (f : RDX)
  | reduxOr (f : RDX)
  | scanAdd (f : RDX)
  | scanMax (f : RDX)
  | pand (f : PRR)
  | por (f : PRR)
  | pxor (f : PRR)
  | pnot (f : PUN)
  | ptos (f : PTOSF)
  | pset (f : PSETF)
  | ldUniform (f : MLU)
  | stUniform (f : MSU)
  | ld (f : ML)
  | ldb (f : ML)
  | lda (f : OF)
  | st (f : MS)
  | strl (f : OF)
  | ldw (f : ML)
  | pref (f : MP)
  | cmntClean (f : CMF)
  | cmntInv (f : CMF)
  | cmntCinv (f : CMF)
  | atomAddB32 (f : AT)
  | atomAndB32 (f : AT)
  | atomOrB32 (f : AT)
  | atomXorB32 (f : AT)
  | atomMinB32 (f : AT)
  | atomMinUB32 (f : AT)
  | atomMaxB32 (f : AT)
  | atomMaxUB32 (f : AT)
  | atomExchB32 (f : AT)
  | atomCasB32 (f : AT)
  | atomFaddB32 (f : AT)
  | atomAddB64 (f : AT)
  | atomAndB64 (f : AT)
  | atomOrB64 (f : AT)
  | atomXorB64 (f : AT)
  | atomMinB64 (f : AT)
  | atomMinUB64 (f : AT)
  | atomMaxB64 (f : AT)
  | atomMaxUB64 (f : AT)
  | atomExchB64 (f : AT)
  | atomCasB64 (f : AT)
  | atomnAddB32 (f : AT)
  | atomnAndB32 (f : AT)
  | atomnOrB32 (f : AT)
  | atomnXorB32 (f : AT)
  | atomnMinB32 (f : AT)
  | atomnMinUB32 (f : AT)
  | atomnMaxB32 (f : AT)
  | atomnMaxUB32 (f : AT)
  | atomnExchB32 (f : AT)
  | atomnCasB32 (f : AT)
  | atomnFaddB32 (f : AT)
  | atomnAddB64 (f : AT)
  | atomnAndB64 (f : AT)
  | atomnOrB64 (f : AT)
  | atomnXorB64 (f : AT)
  | atomnMinB64 (f : AT)
  | atomnMinUB64 (f : AT)
  | atomnMaxB64 (f : AT)
  | atomnMaxUB64 (f : AT)
  | atomnExchB64 (f : AT)
  | atomnCasB64 (f : AT)
  | fence (f : FENF)
  | monarm (f : MNA)
  | monwait (f : MNW)
  | tmma (f : TM)
  | tzero (f : TZ)
  | trd (f : TRW)
  | twr (f : TRW)
  | tbatch (f : TB)
  | twait (f : TW)
  | tdrain (f : TD)
  | tdrainAdd (f : TD)
  | txbegin (f : TXB)
  | txend
  | txabort
  | rlystart (f : CF)
  | cpy (f : CF)
  | chain (f : CF)
  | rly (f : CF)
  | cpywait (f : WTM)
  | rlywait (f : WTD)
  | bra (f : BF)
  | bdiv (f : BDF)
  | call (f : JF)
  | rcv
  | ret (f : KF)
  | brx (f : KF)
  | callx (f : KF)
  | exit
  | nop
  | yield
  | loop (f : LPF)
  | bar (f : YF)
  | bara (f : YA)
  | barw (f : YF)
  | heat (f : YH)
  | srd (f : SF)
  | swr (f : SF)
  | trap (f : TRAPF)
  | tretRetry
  | tretNext
  | tretFix
  | clk (f : CLKF)
  | sigchk (f : SIGF)
  | himm (f : HI)
  | hsched (f : HS)
  | hmodCache (f : HC)
  | hmodRound (f : HR)
  | hmodQueue (f : HQ)
  | hmodCount (f : HK)
  | hmodScope (f : HL)
  | live (f : LiveF)
  | workRead (l : Nat)
  | pacerqWrite (g : Nat)
  | pacerqReservationExpiry (g : Nat)
  | monwaitTimeout (g : Nat)
  | loadDataReturn (n : Nat)
  | atomicReply (n : Nat) (rejected : Mask)
  | walkComplete (n : Nat)
  | batchEnter (g : Nat)
  | batchFinish (g : Nat)
  | txCommit (item : Nat)
  | engineTransferComplete (x : Nat)
  | relayChunkArrive (c dst chunk : Nat) (src : ChunkOf)
  | reduceBlockComplete (c dst chunk : Nat)
  | relayInstanceStart (c rank : Nat)
  | heatBoundary (l level inst : Nat)
  | groupEnd (g : Nat)
  | submissionDoorbell (q : Nat) (v : W64)
  | completionHeadDoorbell (q : Nat) (v : W64)
  | go (v : W64)
  | barRegisterWrite (off : Nat) (data : List Byte)
  | bar2Access (write : Bool) (off : Nat) (data : List Byte)
  | bar2Atomic (op : HostOp) (width : HostWidth) (off : Nat) (x y : W64)
  | graphNodeRegister (q : Nat)
  | launch
  | packetBadKind (q : Nat)
  | workItemPlace
  | quantumSliceExpiry (item : Nat)
  | preemptFallback (g : Nat)
  | saveComplete (item : Nat)
  | workItemRestore (item : Nat)
  | watchdogPark (g : Nat)
  | launchComplete (l : Nat)
  | pacerGrant (die : Nat)
  | pacerRecompute
  | partReset
  | firstFullSample (r : List Reading)
  | sensorSample (r : List Reading)
  | sensorTimeout (pos idx : Nat)
  | coldHoldExpiry
  | classChangeIssueStop
  | classChangeIssueResume
  | pseudoChannelRetrainDone
  | wsWindowBegin (die : Nat)
  | wsWindowEnd (die : Nat)
  | retentionPatrol (stack : Nat) (corrected : Bool)
  | errorDetected (hist unit bucket : Nat)
  | uncorrectableError (c : Consumer) (unit : Nat)
  | histogramWrite
  | dieLinkDown (link : Nat)
  | regionMoveComplete (region : Nat)
  | dieOfflineComplete
  | stridePortDown (port : Nat)
  | stridePortUp (p : PortUp)
  | linkStateUpdate (u : LinkUpdate)
  | strideResendTimeout (seq : Nat)
  | strideFlitReceive (port : Nat) (flit : List Byte)
  | ultraEthernetPacket (p : UePacket)
  | offline (s : Src) (die : Nat)
  | offlineForced (s : Src) (die : Nat)
  | restore (s : Src) (die : Nat)
  | loadWindow (s : Src) (dies : Nat) (va off len : Nat)
  | loadWindowCopy
  | loadWindowClose
  | regQueue (s : Src) (r : QueueReg)
  | queueUnregister (s : Src) (q : Nat)
  | regAsid (s : Src) (asid root : Nat)
  | asidRelease (s : Src) (asid : Nat)
  | invalidate (s : Src) (asid va len : Nat)
  | invalidateComplete (n : Nat)
  | faultAnswerResolve (s : Src) (recid : Nat)
  | faultAnswerDecline (s : Src) (recid : Nat)
  | resume (s : Src) (core slot : Nat)
  | killGroup (s : Src) (core slot : Nat)
  | killLaunch (s : Src) (core slot : Nat)
  | resumeSplit (s : Src) (core slot : Nat)
  | warmUp (s : Src)
  | cancel (s : Src)
  | safeExit (s : Src)
  | rampClear (s : Src)
  | pacerCap (s : Src) (v : Nat)
  | pacerDidt (s : Src) (v : Nat)
  | pacerOrder (s : Src) (v : Nat)
  | wdog (s : Src) (ms : Nat)
  | historyClear (s : Src)
  | telemetry (s : Src) (base slots : Nat)
  | framePool (s : Src) (list count : Nat)
  | countdown (s : Src) (node : Nat)
  | errThresh (s : Src) (hist thresh : Nat)
  | nodecfg (s : Src) (pkg node : Nat) (compat : Bool)
  | mgmtBadReq (r : BadReq)
  | getVersion
  | getCapabilities
  | negotiateAlgorithms
  | getDigests
  | getCertificate (slot offset len : Nat)
  | challenge (slot : Nat)
  | getMeasurements (index : Nat)
  | spdmUnsupportedRequest (code : Byte)
  | illegalEncoding (w : W32)
  | reHarvestService (r : InvRecord)
  | firmwareUpdate (fw : Firmware)
  deriving DecidableEq, Repr

end Sys2Proof
end

