-- ==== Sys2Proof/WellFormed.lean ====
section
/-! DEFINITION. Which terms of the syntax are instructions: the field values that 14 R298 reserves are refused here,
so that exactly the well-formed terms have words. -/

namespace Sys2Proof

/-- The width codes of format M (14 R295): 7 is reserved. -/
def wfM (w : BitVec 3) : Bool := !(w == 7)

/-- The width codes of format O (14 R295): 2 and 3 are reserved. -/
def wfO (w : BitVec 2) : Bool := decide (w.toNat < 2)

/-- The combine codes of format CP (14 R297): 3 is reserved. -/
def wfCp (c : BitVec 2) : Bool := !(c == 3)

/-- The cache levels of CMNT (06 R128): 3 is ILLEGAL. -/
def wfCm (l : BitVec 2) : Bool := !(l == 3)

/-- The PIPE values of HSCHED (16 R357): 5 to 15 are reserved. -/
def wfPipe (p : BitVec 4) : Bool := decide (p.toNat < 5)

/-- At most four scratchpad ranges (14 R301). -/
def wfLive (f : LiveF) : Bool := decide (f.ranges.length ≤ 4)

/-- No reserved field value stands in the instruction. -/
def wellFormed : Instr → Bool
  | .ldUniform f => wfM f.w
  | .stUniform f => wfM f.w
  | .ld f => wfM f.w
  | .ldb f => wfM f.w
  | .st f => wfM f.w
  | .ldw f => wfM f.w
  | .pref f => wfM f.w
  | .lda f => wfO f.w
  | .strl f => wfO f.w
  | .icmp f => wfCp f.cmb
  | .fcmp f => wfCp f.cmb
  | .cmntClean f => wfCm f.lvl
  | .cmntInv f => wfCm f.lvl
  | .cmntCinv f => wfCm f.lvl
  | .hsched f => wfPipe f.pipe
  | .live f => wfLive f
  | _ => true

end Sys2Proof
end

