-- ==== Sys2Proof/Decode.lean ====
section
/-! DEFINITION. From the bytes of an instruction to the instruction, total and rejecting by name, and back. The
layouts are those of 14 R294, the assignments those of R296 and R297, the reserved encodings those of R298. -/

namespace Sys2Proof

/-- Why bytes are no instruction (14 R298, R301; 16 R351, R357). -/
inductive Reject where
  | short                -- fewer bytes than the instruction takes
  | reservedMajor
  | reservedFunction     -- FN, COND, KIND, OP, HMOD class or TRET mode not assigned
  | reservedWidth
  | reservedCombine
  | reservedLevel        -- CMNT LEVEL 3
  | reservedPipe
  | mustBeZero
  | uniformRefused       -- U = 1 in a major that takes none
  | uniformIndex         -- IDX not 63 in a uniform LD or ST
  | liveRanges           -- NRANGE 5 to 7
  deriving DecidableEq, Repr

/-- Bits [lo + n - 1 : lo] of a word, as a number. -/
def fieldNat (w : W32) (lo n : Nat) : Nat := w.toNat / 2 ^ lo % 2 ^ n

/-- Bits [lo + n - 1 : lo] of a word. -/
def fld (w : W32) (lo n : Nat) : BitVec n := BitVec.ofNat n (w.toNat / 2 ^ lo)

/-- Bit k of a word. -/
def bit (w : W32) (k : Nat) : Bool := w.toNat / 2 ^ k % 2 == 1

/-- Bits [lo + n - 1 : lo] are zero. -/
def zero (w : W32) (lo n : Nat) : Bool := fieldNat w lo n == 0

/-- Bits [lo + n - 1 : lo] are ones. -/
def all1 (w : W32) (lo n : Nat) : Bool := fieldNat w lo n == 2 ^ n - 1

/-- `x` where the check holds, a rejection by name where it does not. -/
def need (c : Bool) (r : Reject) (x : Except Reject Instr) : Except Reject Instr :=
  if c then x else .error r

/-! ### Reading each format (14 R294) -/

def unRRR (w : W32) : RRR := ⟨fld w 20 6, fld w 14 6, fld w 8 6, bit w 2, bit w 1, bit w 0⟩
def unUn (w : W32) : Un := ⟨fld w 20 6, fld w 14 6, bit w 2, bit w 0⟩
def unRRV (w : W32) : RRV := ⟨fld w 20 6, fld w 14 6, fld w 8 6, bit w 2, bit w 1⟩
def unRI (w : W32) : RI := ⟨fld w 20 6, fld w 14 6, fld w 3 11, bit w 2, bit w 0⟩
def unSHI (w : W32) : SHI := ⟨fld w 20 6, fld w 14 6, fld w 3 5, bit w 2, bit w 0⟩
def unWI (w : W32) : WI := ⟨fld w 20 6, fld w 3 17, bit w 0⟩
def unCP (w : W32) : CP := ⟨fld w 23 3, fld w 20 3, fld w 14 6, fld w 8 6, fld w 6 2, bit w 2, bit w 1, bit w 0⟩
def unLEAF (w : W32) : LEAF := ⟨fld w 20 6, fld w 14 6, fld w 8 6, fld w 3 3, bit w 2, bit w 1, bit w 0⟩
def unSELF (w : W32) : SELF := ⟨fld w 20 6, fld w 14 6, fld w 8 6, fld w 5 3, bit w 4, bit w 2, bit w 1, bit w 0⟩
def unCPX (w : W32) : CPX := ⟨fld w 20 6, fld w 14 6, fld w 8 3, bit w 2⟩
def unVOTEP (w : W32) : VOTEP := ⟨fld w 20 3, fld w 14 3, fld w 8 6, bit w 1⟩
def unVOTEB (w : W32) : VOTEB := ⟨fld w 20 6, fld w 14 3, fld w 8 6, bit w 1⟩
def unRDX (w : W32) : RDX := ⟨fld w 20 6, fld w 14 6, bit w 2⟩
def unPRR (w : W32) : PRR := ⟨fld w 20 3, fld w 14 3, fld w 8 3⟩
def unPUN (w : W32) : PUN := ⟨fld w 20 3, fld w 14 3⟩
def unPTOSF (w : W32) : PTOSF := ⟨fld w 20 6, fld w 14 3⟩
def unPSETF (w : W32) : PSETF := ⟨fld w 20 3, fld w 14 6⟩
def unMLU (w : W32) : MLU := ⟨fld w 20 6, fld w 14 6, fld w 5 3, bit w 4, fld w 0 4⟩
def unMSU (w : W32) : MSU := ⟨fld w 20 6, fld w 14 6, fld w 5 3, fld w 0 4⟩
def unML (w : W32) : ML := ⟨fld w 20 6, fld w 14 6, fld w 8 6, fld w 5 3, bit w 4, fld w 0 4⟩
def unMS (w : W32) : MS := ⟨fld w 20 6, fld w 14 6, fld w 8 6, fld w 5 3, fld w 0 4⟩
def unMP (w : W32) : MP := ⟨fld w 14 6, fld w 8 6, fld w 5 3, fld w 0 4⟩
def unOF (w : W32) : OF := ⟨fld w 20 6, fld w 14 6, fld w 12 2, fld w 8 4, fld w 4 4, bit w 0⟩
def unCMF (w : W32) : CMF := ⟨fld w 22 2, fld w 16 6, fld w 10 6, fld w 0 4⟩
def unAT (w : W32) : AT := ⟨fld w 20 6, fld w 14 6, fld w 8 2, fld w 4 4, fld w 0 4⟩
def unFENF (w : W32) : FENF := ⟨fld w 24 2, fld w 20 4⟩
def unMNA (w : W32) : MNA := ⟨fld w 19 6⟩
def unMNW (w : W32) : MNW := ⟨fld w 19 6, fld w 13 6⟩
def unTM (w : W32) : TM := ⟨fld w 24 2, fld w 19 5, fld w 13 6, fld w 8 5, fld w 5 3, bit w 4, fld w 0 4⟩
def unTZ (w : W32) : TZ := ⟨fld w 21 2, fld w 0 4⟩
def unTRW (w : W32) : TRW := ⟨fld w 21 2, fld w 16 5, fld w 10 6, fld w 0 4⟩
def unTB (w : W32) : TB := ⟨fld w 10 6, fld w 0 4⟩
def unTW (w : W32) : TW := ⟨fld w 4 6, fld w 0 4⟩
def unTD (w : W32) : TD := ⟨fld w 21 2, fld w 16 4, fld w 10 6, fld w 4 6, fld w 0 4⟩
def unTXB (w : W32) : TXB := ⟨fld w 18 6⟩
def unCF (w : W32) : CF := ⟨fld w 20 6, fld w 14 6, fld w 8 6, fld w 4 4, fld w 0 4⟩
def unWTM (w : W32) : WTM := ⟨fld w 8 16⟩
def unWTD (w : W32) : WTD := ⟨fld w 8 16, fld w 2 6⟩
def unBF (w : W32) : BF := ⟨bit w 25, fld w 22 3, fld w 0 22⟩
def unBDF (w : W32) : BDF := ⟨bit w 25, fld w 22 3, fld w 11 11, fld w 0 11⟩
def unJF (w : W32) : JF := ⟨fld w 0 26⟩
def unLPF (w : W32) : LPF := ⟨fld w 20 6, fld w 0 20⟩
def unKF (w : W32) : KF := ⟨fld w 15 6⟩
def unYF (w : W32) : YF := ⟨fld w 20 4, fld w 15 5, fld w 12 3⟩
def unYA (w : W32) : YA := ⟨fld w 20 4, fld w 15 5⟩
def unYH (w : W32) : YH := ⟨fld w 20 4⟩
def unSF (w : W32) : SF := ⟨fld w 17 6, fld w 5 12⟩
def unTRAPF (w : W32) : TRAPF := ⟨fld w 11 12⟩
def unCLKF (w : W32) : CLKF := ⟨fld w 17 6⟩
def unSIGF (w : W32) : SIGF := ⟨fld w 0 23⟩
def unHI (w : W32) : HI := ⟨fld w 0 24⟩
def unHS (w : W32) : HS := ⟨fld w 8 8, fld w 4 4, bit w 3, fld w 0 3⟩
def unHC (w : W32) : HC := ⟨fld w 4 2⟩
def unHR (w : W32) : HR := ⟨fld w 4 2⟩
def unHQ (w : W32) : HQ := ⟨bit w 6, bit w 5, bit w 4⟩
def unHK (w : W32) : HK := ⟨fld w 16 6, fld w 4 12⟩
def unHL (w : W32) : HL := ⟨fld w 4 4⟩

/-! ### The majors (14 R296, R297) -/

def decTret (w : W32) : Except Reject Instr :=
  match fieldNat w 21 2 with
  | 0 => need (zero w 0 21) .mustBeZero (.ok .tretRetry)
  | 1 => need (zero w 0 21) .mustBeZero (.ok .tretNext)
  | 2 => need (zero w 0 21) .mustBeZero (.ok .tretFix)
  | _ => .error .reservedFunction

def decHmod (w : W32) : Except Reject Instr :=
  match fieldNat w 0 4 with
  | 0 => need (zero w 6 18) .mustBeZero (.ok (.hmodCache (unHC w)))
  | 1 => need (zero w 6 18) .mustBeZero (.ok (.hmodRound (unHR w)))
  | 2 => need (zero w 7 17) .mustBeZero (.ok (.hmodQueue (unHQ w)))
  | 3 => need (zero w 22 2) .mustBeZero (.ok (.hmodCount (unHK w)))
  | 4 => need (zero w 8 16) .mustBeZero (.ok (.hmodScope (unHL w)))
  | _ => .error .reservedFunction

def decIalu (w : W32) : Except Reject Instr :=
  match fieldNat w 3 5 with
  | 0 => .ok (.iadd (unRRR w))
  | 1 => .ok (.isub (unRRR w))
  | 2 => .ok (.imul (unRRR w))
  | 3 => .ok (.imulh (unRRR w))
  | 4 => .ok (.imulhU (unRRR w))
  | 5 => .ok (.imin (unRRR w))
  | 6 => .ok (.iminU (unRRR w))
  | 7 => .ok (.imax (unRRR w))
  | 8 => .ok (.imaxU (unRRR w))
  | 9 => need (zero w 1 1 && zero w 8 6) .mustBeZero (.ok (.iabs (unUn w)))
  | 10 => need (zero w 1 1 && zero w 8 6) .mustBeZero (.ok (.ineg (unUn w)))
  | 11 => .ok (.and (unRRR w))
  | 12 => .ok (.or (unRRR w))
  | 13 => .ok (.xor (unRRR w))
  | 14 => .ok (.andn (unRRR w))
  | 15 => need (zero w 1 1 && zero w 8 6) .mustBeZero (.ok (.not (unUn w)))
  | 16 => .ok (.shl (unRRR w))
  | 17 => .ok (.shr (unRRR w))
  | 18 => .ok (.sar (unRRR w))
  | 19 => .ok (.rol (unRRR w))
  | 20 => need (zero w 1 1 && zero w 8 6) .mustBeZero (.ok (.clz (unUn w)))
  | 21 => need (zero w 1 1 && zero w 8 6) .mustBeZero (.ok (.popc (unUn w)))
  | 22 => need (zero w 1 1 && zero w 8 6) .mustBeZero (.ok (.brev (unUn w)))
  | 23 => need (zero w 1 1 && zero w 8 6) .mustBeZero (.ok (.mov (unUn w)))
  | 24 => .ok (.iaddc (unRRR w))
  | _ => .error .reservedFunction

def decSh (w : W32) : Except Reject Instr :=
  match fieldNat w 8 2 with
  | 0 => need (zero w 1 1 && zero w 10 4) .mustBeZero (.ok (.shli (unSHI w)))
  | 1 => need (zero w 1 1 && zero w 10 4) .mustBeZero (.ok (.shri (unSHI w)))
  | 2 => need (zero w 1 1 && zero w 10 4) .mustBeZero (.ok (.sari (unSHI w)))
  | _ => .error .reservedFunction

def decImad (w : W32) : Except Reject Instr :=
  match fieldNat w 3 5 with
  | 0 => .ok (.imad (unRRR w))
  | _ => .error .reservedFunction

def decBf (w : W32) : Except Reject Instr :=
  match fieldNat w 3 5 with
  | 0 => .ok (.bfeU (unRRR w))
  | 1 => .ok (.bfeS (unRRR w))
  | 2 => .ok (.bfi (unRRR w))
  | _ => .error .reservedFunction

def decFalu (w : W32) : Except Reject Instr :=
  match fieldNat w 3 5 with
  | 0 => .ok (.fadd (unRRR w))
  | 1 => .ok (.fsub (unRRR w))
  | 2 => .ok (.fmul (unRRR w))
  | 3 => .ok (.fmin (unRRR w))
  | 4 => .ok (.fmax (unRRR w))
  | 5 => need (zero w 1 1 && zero w 8 6) .mustBeZero (.ok (.fabs (unUn w)))
  | 6 => need (zero w 1 1 && zero w 8 6) .mustBeZero (.ok (.fneg (unUn w)))
  | 7 => need (zero w 1 1 && zero w 8 6) .mustBeZero (.ok (.frndNe (unUn w)))
  | 8 => need (zero w 1 1 && zero w 8 6) .mustBeZero (.ok (.frndZ (unUn w)))
  | 9 => need (zero w 1 1 && zero w 8 6) .mustBeZero (.ok (.frndDn (unUn w)))
  | 10 => need (zero w 1 1 && zero w 8 6) .mustBeZero (.ok (.frndUp (unUn w)))
  | 11 => need (zero w 1 1 && zero w 8 6) .mustBeZero (.ok (.fclass (unUn w)))
  | 12 => .ok (.fdiv (unRRR w))
  | _ => .error .reservedFunction

def decFfma (w : W32) : Except Reject Instr :=
  match fieldNat w 3 5 with
  | 0 => .ok (.ffma (unRRR w))
  | _ => .error .reservedFunction

def decSfu (w : W32) : Except Reject Instr :=
  match fieldNat w 3 5 with
  | 0 => need (zero w 1 1 && zero w 8 6) .mustBeZero (.ok (.frcp (unUn w)))
  | 1 => need (zero w 1 1 && zero w 8 6) .mustBeZero (.ok (.frsq (unUn w)))
  | 2 => need (zero w 1 1 && zero w 8 6) .mustBeZero (.ok (.fsqrt (unUn w)))
  | 3 => need (zero w 1 1 && zero w 8 6) .mustBeZero (.ok (.fexp2 (unUn w)))
  | 4 => need (zero w 1 1 && zero w 8 6) .mustBeZero (.ok (.flog2 (unUn w)))
  | 5 => need (zero w 1 1 && zero w 8 6) .mustBeZero (.ok (.fsin (unUn w)))
  | 6 => need (zero w 1 1 && zero w 8 6) .mustBeZero (.ok (.fcos (unUn w)))
  | 7 => need (zero w 1 1 && zero w 8 6) .mustBeZero (.ok (.ftanh (unUn w)))
  | _ => .error .reservedFunction

def decCvt (w : W32) : Except Reject Instr :=
  match fieldNat w 3 5 with
  | 0 => need (zero w 1 1 && zero w 8 6) .mustBeZero (.ok (.cvtS32F32 (unUn w)))
  | 1 => need (zero w 1 1 && zero w 8 6) .mustBeZero (.ok (.cvtU32F32 (unUn w)))
  | 2 => need (zero w 1 1 && zero w 8 6) .mustBeZero (.ok (.cvtF32S32 (unUn w)))
  | 3 => need (zero w 1 1 && zero w 8 6) .mustBeZero (.ok (.cvtF32U32 (unUn w)))
  | 4 => need (zero w 1 1 && zero w 8 6) .mustBeZero (.ok (.cvtBf16F32 (unUn w)))
  | 5 => need (zero w 1 1 && zero w 8 6) .mustBeZero (.ok (.cvtF32Bf16 (unUn w)))
  | 6 => need (zero w 1 1 && zero w 8 6) .mustBeZero (.ok (.cvtF16F32 (unUn w)))
  | 7 => need (zero w 1 1 && zero w 8 6) .mustBeZero (.ok (.cvtF32F16 (unUn w)))
  | 8 => need (zero w 1 1 && zero w 8 6) .mustBeZero (.ok (.cvtE4m3F32 (unUn w)))
  | 9 => need (zero w 1 1 && zero w 8 6) .mustBeZero (.ok (.cvtF32E4m3 (unUn w)))
  | 10 => need (zero w 1 1 && zero w 8 6) .mustBeZero (.ok (.cvtE5m2F32 (unUn w)))
  | 11 => need (zero w 1 1 && zero w 8 6) .mustBeZero (.ok (.cvtF32E5m2 (unUn w)))
  | _ => .error .reservedFunction

def decBf16 (w : W32) : Except Reject Instr :=
  match fieldNat w 3 5 with
  | 0 => need (zero w 0 1) .uniformRefused (.ok (.badd2 (unRRV w)))
  | 1 => need (zero w 0 1) .uniformRefused (.ok (.bmul2 (unRRV w)))
  | 2 => need (zero w 0 1) .uniformRefused (.ok (.bfma2 (unRRV w)))
  | _ => .error .reservedFunction

def decPint (w : W32) : Except Reject Instr :=
  match fieldNat w 3 5 with
  | 0 => need (zero w 0 1) .uniformRefused (.ok (.padd2 (unRRV w)))
  | 1 => need (zero w 0 1) .uniformRefused (.ok (.padd2S (unRRV w)))
  | 2 => need (zero w 0 1) .uniformRefused (.ok (.psub2 (unRRV w)))
  | 3 => need (zero w 0 1) .uniformRefused (.ok (.psub2S (unRRV w)))
  | 4 => need (zero w 0 1) .uniformRefused (.ok (.pmul2 (unRRV w)))
  | 5 => need (zero w 0 1) .uniformRefused (.ok (.pmac2 (unRRV w)))
  | 6 => need (zero w 0 1) .uniformRefused (.ok (.srar (unRRV w)))
  | 7 => need (zero w 0 1) .uniformRefused (.ok (.srarH (unRRV w)))
  | _ => .error .reservedFunction

def decCross (w : W32) : Except Reject Instr :=
  match fieldNat w 3 5 with
  | 0 => need (zero w 0 1) .uniformRefused (.ok (.shfl (unRRV w)))
  | 1 => need (zero w 0 1) .uniformRefused (.ok (.slup (unRRV w)))
  | 2 => need (zero w 0 1) .uniformRefused (.ok (.sldn (unRRV w)))
  | 3 => need (zero w 0 1) .uniformRefused (need (zero w 1 1 && zero w 11 3) .mustBeZero (.ok (.cmprs (unCPX w))))
  | 4 => need (zero w 0 1) .uniformRefused (need (zero w 1 1 && zero w 11 3) .mustBeZero (.ok (.expnd (unCPX w))))
  | 5 => need (zero w 0 1) .uniformRefused (need (zero w 2 1 && zero w 17 3 && zero w 23 3) .mustBeZero (.ok (.voteAll (unVOTEP w))))
  | 6 => need (zero w 0 1) .uniformRefused (need (zero w 2 1 && zero w 17 3 && zero w 23 3) .mustBeZero (.ok (.voteAny (unVOTEP w))))
  | 7 => need (zero w 0 1) .uniformRefused (need (zero w 2 1 && zero w 17 3) .mustBeZero (.ok (.voteBal (unVOTEB w))))
  | 8 => need (zero w 0 1) .uniformRefused (need (zero w 1 1 && zero w 8 6) .mustBeZero (.ok (.reduxAdd (unRDX w))))
  | 9 => need (zero w 0 1) .uniformRefused (need (zero w 1 1 && zero w 8 6) .mustBeZero (.ok (.reduxMin (unRDX w))))
  | 10 => need (zero w 0 1) .uniformRefused (need (zero w 1 1 && zero w 8 6) .mustBeZero (.ok (.reduxMax (unRDX w))))
  | 11 => need (zero w 0 1) .uniformRefused (need (zero w 1 1 && zero w 8 6) .mustBeZero (.ok (.reduxAnd (unRDX w))))
  | 12 => need (zero w 0 1) .uniformRefused (need (zero w 1 1 && zero w 8 6) .mustBeZero (.ok (.reduxOr (unRDX w))))
  | 13 => need (zero w 0 1) .uniformRefused (need (zero w 1 1 && zero w 8 6) .mustBeZero (.ok (.scanAdd (unRDX w))))
  | 14 => need (zero w 0 1) .uniformRefused (need (zero w 1 1 && zero w 8 6) .mustBeZero (.ok (.scanMax (unRDX w))))
  | _ => .error .reservedFunction

def decPred (w : W32) : Except Reject Instr :=
  match fieldNat w 3 5 with
  | 0 => need (zero w 0 1) .uniformRefused (need (zero w 1 2 && zero w 11 3 && zero w 17 3 && zero w 23 3) .mustBeZero (.ok (.pand (unPRR w))))
  | 1 => need (zero w 0 1) .uniformRefused (need (zero w 1 2 && zero w 11 3 && zero w 17 3 && zero w 23 3) .mustBeZero (.ok (.por (unPRR w))))
  | 2 => need (zero w 0 1) .uniformRefused (need (zero w 1 2 && zero w 11 3 && zero w 17 3 && zero w 23 3) .mustBeZero (.ok (.pxor (unPRR w))))
  | 3 => need (zero w 0 1) .uniformRefused (need (zero w 1 2 && zero w 8 6 && zero w 17 3 && zero w 23 3) .mustBeZero (.ok (.pnot (unPUN w))))
  | 4 => need (zero w 0 1) .uniformRefused (need (zero w 1 2 && zero w 8 6 && zero w 17 3) .mustBeZero (.ok (.ptos (unPTOSF w))))
  | 5 => need (zero w 0 1) .uniformRefused (need (zero w 1 2 && zero w 8 6 && zero w 23 3) .mustBeZero (.ok (.pset (unPSETF w))))
  | _ => .error .reservedFunction

def decCmnt (w : W32) : Except Reject Instr :=
  match fieldNat w 24 2 with
  | 0 => need (zero w 4 6) .mustBeZero (need (!(fld w 22 2 == 3)) .reservedLevel (.ok (.cmntClean (unCMF w))))
  | 1 => need (zero w 4 6) .mustBeZero (need (!(fld w 22 2 == 3)) .reservedLevel (.ok (.cmntInv (unCMF w))))
  | 2 => need (zero w 4 6) .mustBeZero (need (!(fld w 22 2 == 3)) .reservedLevel (.ok (.cmntCinv (unCMF w))))
  | _ => .error .reservedFunction

def decAtom32 (w : W32) : Except Reject Instr :=
  match fieldNat w 10 4 with
  | 0 => .ok (.atomAddB32 (unAT w))
  | 1 => .ok (.atomAndB32 (unAT w))
  | 2 => .ok (.atomOrB32 (unAT w))
  | 3 => .ok (.atomXorB32 (unAT w))
  | 4 => .ok (.atomMinB32 (unAT w))
  | 5 => .ok (.atomMinUB32 (unAT w))
  | 6 => .ok (.atomMaxB32 (unAT w))
  | 7 => .ok (.atomMaxUB32 (unAT w))
  | 8 => .ok (.atomExchB32 (unAT w))
  | 9 => .ok (.atomCasB32 (unAT w))
  | 10 => .ok (.atomFaddB32 (unAT w))
  | _ => .error .reservedFunction

def decAtom64 (w : W32) : Except Reject Instr :=
  match fieldNat w 10 4 with
  | 0 => .ok (.atomAddB64 (unAT w))
  | 1 => .ok (.atomAndB64 (unAT w))
  | 2 => .ok (.atomOrB64 (unAT w))
  | 3 => .ok (.atomXorB64 (unAT w))
  | 4 => .ok (.atomMinB64 (unAT w))
  | 5 => .ok (.atomMinUB64 (unAT w))
  | 6 => .ok (.atomMaxB64 (unAT w))
  | 7 => .ok (.atomMaxUB64 (unAT w))
  | 8 => .ok (.atomExchB64 (unAT w))
  | 9 => .ok (.atomCasB64 (unAT w))
  | _ => .error .reservedFunction

def decAtomn32 (w : W32) : Except Reject Instr :=
  match fieldNat w 10 4 with
  | 0 => .ok (.atomnAddB32 (unAT w))
  | 1 => .ok (.atomnAndB32 (unAT w))
  | 2 => .ok (.atomnOrB32 (unAT w))
  | 3 => .ok (.atomnXorB32 (unAT w))
  | 4 => .ok (.atomnMinB32 (unAT w))
  | 5 => .ok (.atomnMinUB32 (unAT w))
  | 6 => .ok (.atomnMaxB32 (unAT w))
  | 7 => .ok (.atomnMaxUB32 (unAT w))
  | 8 => .ok (.atomnExchB32 (unAT w))
  | 9 => .ok (.atomnCasB32 (unAT w))
  | 10 => .ok (.atomnFaddB32 (unAT w))
  | _ => .error .reservedFunction

def decAtomn64 (w : W32) : Except Reject Instr :=
  match fieldNat w 10 4 with
  | 0 => .ok (.atomnAddB64 (unAT w))
  | 1 => .ok (.atomnAndB64 (unAT w))
  | 2 => .ok (.atomnOrB64 (unAT w))
  | 3 => .ok (.atomnXorB64 (unAT w))
  | 4 => .ok (.atomnMinB64 (unAT w))
  | 5 => .ok (.atomnMinUB64 (unAT w))
  | 6 => .ok (.atomnMaxB64 (unAT w))
  | 7 => .ok (.atomnMaxUB64 (unAT w))
  | 8 => .ok (.atomnExchB64 (unAT w))
  | 9 => .ok (.atomnCasB64 (unAT w))
  | _ => .error .reservedFunction

def decMon (w : W32) : Except Reject Instr :=
  match fieldNat w 25 1 with
  | 0 => need (zero w 0 19) .mustBeZero (.ok (.monarm (unMNA w)))
  | 1 => need (zero w 0 13) .mustBeZero (.ok (.monwait (unMNW w)))
  | _ => .error .reservedFunction

def decTile (w : W32) : Except Reject Instr :=
  match fieldNat w 23 3 with
  | 0 => need (zero w 4 17) .mustBeZero (.ok (.tzero (unTZ w)))
  | 1 => need (zero w 4 6) .mustBeZero (.ok (.trd (unTRW w)))
  | 2 => need (zero w 4 6) .mustBeZero (.ok (.twr (unTRW w)))
  | 3 => need (zero w 4 6 && zero w 16 7) .mustBeZero (.ok (.tbatch (unTB w)))
  | 4 => need (zero w 10 13) .mustBeZero (.ok (.twait (unTW w)))
  | 5 => if bit w 20 then .ok (.tdrainAdd (unTD w)) else .ok (.tdrain (unTD w))
  | _ => .error .reservedFunction

def decTx (w : W32) : Except Reject Instr :=
  match fieldNat w 24 2 with
  | 0 => need (zero w 0 18) .mustBeZero (.ok (.txbegin (unTXB w)))
  | 1 => need (zero w 0 24) .mustBeZero (.ok .txend)
  | 2 => need (zero w 0 24) .mustBeZero (.ok .txabort)
  | _ => .error .reservedFunction

def decWait (w : W32) : Except Reject Instr :=
  match fieldNat w 24 2 with
  | 0 => need (zero w 0 8) .mustBeZero (.ok (.cpywait (unWTM w)))
  | 1 => need (zero w 0 2) .mustBeZero (.ok (.rlywait (unWTD w)))
  | _ => .error .reservedFunction

def decK (w : W32) : Except Reject Instr :=
  match fieldNat w 21 5 with
  | 0 => need (zero w 0 21) .mustBeZero (.ok .rcv)
  | 1 => need (zero w 0 15) .mustBeZero (.ok (.ret (unKF w)))
  | 2 => need (zero w 0 15) .mustBeZero (.ok (.brx (unKF w)))
  | 3 => need (zero w 0 15) .mustBeZero (.ok (.callx (unKF w)))
  | 4 => need (zero w 0 21) .mustBeZero (.ok .exit)
  | 5 => need (zero w 0 21) .mustBeZero (.ok .nop)
  | 6 => need (zero w 0 21) .mustBeZero (.ok .yield)
  | _ => .error .reservedFunction

def decY (w : W32) : Except Reject Instr :=
  match fieldNat w 24 2 with
  | 0 => need (zero w 0 12) .mustBeZero (.ok (.bar (unYF w)))
  | 1 => need (zero w 0 15) .mustBeZero (.ok (.bara (unYA w)))
  | 2 => need (zero w 0 12) .mustBeZero (.ok (.barw (unYF w)))
  | 3 => need (zero w 0 20) .mustBeZero (.ok (.heat (unYH w)))
  | _ => .error .reservedFunction

def decS (w : W32) : Except Reject Instr :=
  match fieldNat w 23 3 with
  | 0 => need (zero w 0 5) .mustBeZero (.ok (.srd (unSF w)))
  | 1 => need (zero w 0 5) .mustBeZero (.ok (.swr (unSF w)))
  | 2 => need (zero w 0 11) .mustBeZero (.ok (.trap (unTRAPF w)))
  | 3 => decTret w
  | 4 => need (zero w 0 17) .mustBeZero (.ok (.clk (unCLKF w)))
  | 5 => .ok (.sigchk (unSIGF w))
  | _ => .error .reservedFunction

def decH (w : W32) : Except Reject Instr :=
  match fieldNat w 24 2 with
  | 0 => .ok (.himm (unHI w))
  | 1 => need (zero w 16 8) .mustBeZero (need (decide ((fld w 4 4).toNat < 5)) .reservedPipe (.ok (.hsched (unHS w))))
  | 2 => decHmod w
  | _ => .error .reservedFunction

def decodeWord (w : W32) : Except Reject Instr :=
  match fieldNat w 26 6 with
  | 0x01 => decIalu w
  | 0x02 => need (zero w 1 1) .mustBeZero (.ok (.iaddi (unRI w)))
  | 0x03 => need (zero w 1 1) .mustBeZero (.ok (.andi (unRI w)))
  | 0x04 => need (zero w 1 1) .mustBeZero (.ok (.ori (unRI w)))
  | 0x05 => need (zero w 1 1) .mustBeZero (.ok (.xori (unRI w)))
  | 0x06 => decSh w
  | 0x07 => need (zero w 1 2) .mustBeZero (.ok (.movi (unWI w)))
  | 0x08 => decImad w
  | 0x09 => need (zero w 3 3) .mustBeZero (need (!(fld w 6 2 == 3)) .reservedCombine (.ok (.icmp (unCP w))))
  | 0x0A => decBf w
  | 0x0B => need (zero w 6 2) .mustBeZero (.ok (.lea (unLEAF w)))
  | 0x0C => need (zero w 3 1) .mustBeZero (.ok (.sel (unSELF w)))
  | 0x10 => decFalu w
  | 0x11 => decFfma w
  | 0x12 => need (zero w 3 3) .mustBeZero (need (!(fld w 6 2 == 3)) .reservedCombine (.ok (.fcmp (unCP w))))
  | 0x13 => decSfu w
  | 0x14 => decCvt w
  | 0x15 => decBf16 w
  | 0x18 => decPint w
  | 0x19 => decCross w
  | 0x1A => decPred w
  | 0x1E => need (all1 w 8 6) .uniformIndex (need (!(fld w 5 3 == 7)) .reservedWidth (.ok (.ldUniform (unMLU w))))
  | 0x1F => need (zero w 4 1) .mustBeZero (need (all1 w 8 6) .uniformIndex (need (!(fld w 5 3 == 7)) .reservedWidth (.ok (.stUniform (unMSU w)))))
  | 0x20 => need (!(fld w 5 3 == 7)) .reservedWidth (.ok (.ld (unML w)))
  | 0x21 => need (!(fld w 5 3 == 7)) .reservedWidth (.ok (.ldb (unML w)))
  | 0x22 => need (zero w 1 3) .mustBeZero (need (zero w 13 1) .reservedWidth (.ok (.lda (unOF w))))
  | 0x23 => need (zero w 4 1) .mustBeZero (need (!(fld w 5 3 == 7)) .reservedWidth (.ok (.st (unMS w))))
  | 0x24 => need (zero w 1 3) .mustBeZero (need (zero w 13 1) .reservedWidth (.ok (.strl (unOF w))))
  | 0x25 => need (!(fld w 5 3 == 7)) .reservedWidth (.ok (.ldw (unML w)))
  | 0x26 => need (zero w 4 1 && zero w 20 6) .mustBeZero (need (!(fld w 5 3 == 7)) .reservedWidth (.ok (.pref (unMP w))))
  | 0x27 => decCmnt w
  | 0x28 => decAtom32 w
  | 0x29 => decAtom64 w
  | 0x2A => decAtomn32 w
  | 0x2B => decAtomn64 w
  | 0x2C => need (zero w 0 20) .mustBeZero (.ok (.fence (unFENF w)))
  | 0x2D => decMon w
  | 0x30 => .ok (.tmma (unTM w))
  | 0x31 => decTile w
  | 0x32 => decTx w
  | 0x33 => .ok (.rlystart (unCF w))
  | 0x34 => .ok (.cpy (unCF w))
  | 0x35 => .ok (.chain (unCF w))
  | 0x36 => .ok (.rly (unCF w))
  | 0x37 => decWait w
  | 0x38 => .ok (.bra (unBF w))
  | 0x39 => .ok (.bdiv (unBDF w))
  | 0x3A => .ok (.call (unJF w))
  | 0x3B => decK w
  | 0x3C => .ok (.loop (unLPF w))
  | 0x3D => decY w
  | 0x3E => decS w
  | 0x3F => decH w
  | _ => .error .reservedMajor

/-! ### LIVE and its words (14 R301) -/

/-- The next word when the header bit says it follows. -/
def takeWord (c : Bool) (ws : List W32) : Except Reject (Option W32 × List W32) :=
  if c then match ws with
    | [] => .error .short
    | w :: t => .ok (some w, t)
  else .ok (none, ws)

/-- `n` range words, each with zeros in [31:24]. -/
def takeRanges : Nat → List W32 → Except Reject (List (BitVec 12 × BitVec 12) × List W32)
  | 0, ws => .ok ([], ws)
  | _ + 1, [] => .error .short
  | n + 1, w :: t =>
    if zero w 24 8 then
      match takeRanges n t with
      | .ok (rs, r) => .ok ((fld w 0 12, fld w 12 12) :: rs, r)
      | .error e => .error e
    else .error .mustBeZero

def decLive (w : W32) (ws : List W32) : Except Reject (Instr × List W32) :=
  if !zero w 11 13 then .error .mustBeZero
  else if 4 < fieldNat w 8 3 then .error .liveRanges
  else match takeWord (bit w 0) ws with
    | .error e => .error e
    | .ok (v0, a) => match takeWord (bit w 1) a with
      | .error e => .error e
      | .ok (v1, b) => match takeWord (bit w 2) b with
        | .error e => .error e
        | .ok (s0, c) => match takeWord (bit w 3) c with
          | .error e => .error e
          | .ok (s1, d) => match takeRanges (fieldNat w 8 3) d with
            | .error e => .error e
            | .ok (rs, r) => .ok (.live ⟨v0, v1, s0, s1, fld w 4 4, rs⟩, r)

/-- A LIVE word: MAJ 0x3F and KIND 3. -/
def isLive (w : W32) : Bool := fieldNat w 24 8 == 0xFF

/-- The instruction at the head of a list of words, and the words after it. -/
def decodeWords : List W32 → Except Reject (Instr × List W32)
  | [] => .error .short
  | w :: ws =>
    if isLive w then decLive w ws
    else match decodeWord w with
      | .ok i => .ok (i, ws)
      | .error e => .error e

/-- Bytes as 32-bit little-endian words (14 R294); a last partial word is left out. -/
def wordsOf : List Byte → List W32
  | a :: b :: c :: d :: t =>
    BitVec.ofNat 32 (a.toNat + b.toNat * 2 ^ 8 + c.toNat * 2 ^ 16 + d.toNat * 2 ^ 24) :: wordsOf t
  | _ => []

/-- The words of a LIVE after its first. -/
def liveExtra (f : LiveF) : Nat :=
  f.v0.isSome.toNat + f.v1.isSome.toNat + f.s0.isSome.toNat + f.s1.isSome.toNat + f.ranges.length

/-- How many words an instruction takes. -/
def sizeWords : Instr → Nat
  | .live f => 1 + liveExtra f
  | _ => 1

/-- The instruction at the head of a list of bytes, and the bytes after it. -/
def decode (bs : List Byte) : Except Reject (Instr × List Byte) :=
  match decodeWords (wordsOf bs) with
  | .ok (i, _) => .ok (i, bs.drop (4 * sizeWords i))
  | .error e => .error e

/-! ### Encoding -/

/-- MAJ in [31:26] and one selecting field at `lo`. -/
def op (maj lo v : Nat) : Nat := maj * 2 ^ 26 + v * 2 ^ lo

/-- MAJ in [31:26] and two selecting fields. -/
def op2 (maj lo v lo2 v2 : Nat) : Nat := maj * 2 ^ 26 + v * 2 ^ lo + v2 * 2 ^ lo2

def pkRRR (base : Nat) (f : RRR) : W32 := BitVec.ofNat 32 (base + f.d.toNat * 2^20 + f.a.toNat * 2^14 + f.b.toNat * 2^8 + f.ka.toNat * 2^2 + f.kb.toNat * 2^1 + f.u.toNat)
def pkUn (base : Nat) (f : Un) : W32 := BitVec.ofNat 32 (base + f.d.toNat * 2^20 + f.a.toNat * 2^14 + f.ka.toNat * 2^2 + f.u.toNat)
def pkRRV (base : Nat) (f : RRV) : W32 := BitVec.ofNat 32 (base + f.d.toNat * 2^20 + f.a.toNat * 2^14 + f.b.toNat * 2^8 + f.ka.toNat * 2^2 + f.kb.toNat * 2^1)
def pkRI (base : Nat) (f : RI) : W32 := BitVec.ofNat 32 (base + f.d.toNat * 2^20 + f.a.toNat * 2^14 + f.imm.toNat * 2^3 + f.ka.toNat * 2^2 + f.u.toNat)
def pkSHI (base : Nat) (f : SHI) : W32 := BitVec.ofNat 32 (base + f.d.toNat * 2^20 + f.a.toNat * 2^14 + f.amt.toNat * 2^3 + f.ka.toNat * 2^2 + f.u.toNat)
def pkWI (base : Nat) (f : WI) : W32 := BitVec.ofNat 32 (base + f.d.toNat * 2^20 + f.imm.toNat * 2^3 + f.u.toNat)
def pkCP (base : Nat) (f : CP) : W32 := BitVec.ofNat 32 (base + f.pd.toNat * 2^23 + f.cond.toNat * 2^20 + f.a.toNat * 2^14 + f.b.toNat * 2^8 + f.cmb.toNat * 2^6 + f.ka.toNat * 2^2 + f.kb.toNat * 2^1 + f.u.toNat)
def pkLEAF (base : Nat) (f : LEAF) : W32 := BitVec.ofNat 32 (base + f.d.toNat * 2^20 + f.a.toNat * 2^14 + f.b.toNat * 2^8 + f.sh.toNat * 2^3 + f.ka.toNat * 2^2 + f.kb.toNat * 2^1 + f.u.toNat)
def pkSELF (base : Nat) (f : SELF) : W32 := BitVec.ofNat 32 (base + f.d.toNat * 2^20 + f.a.toNat * 2^14 + f.b.toNat * 2^8 + f.p.toNat * 2^5 + f.neg.toNat * 2^4 + f.ka.toNat * 2^2 + f.kb.toNat * 2^1 + f.u.toNat)
def pkCPX (base : Nat) (f : CPX) : W32 := BitVec.ofNat 32 (base + f.d.toNat * 2^20 + f.a.toNat * 2^14 + f.p.toNat * 2^8 + f.ka.toNat * 2^2)
def pkVOTEP (base : Nat) (f : VOTEP) : W32 := BitVec.ofNat 32 (base + f.pd.toNat * 2^20 + f.pa.toNat * 2^14 + f.b.toNat * 2^8 + f.kb.toNat * 2^1)
def pkVOTEB (base : Nat) (f : VOTEB) : W32 := BitVec.ofNat 32 (base + f.d.toNat * 2^20 + f.pa.toNat * 2^14 + f.b.toNat * 2^8 + f.kb.toNat * 2^1)
def pkRDX (base : Nat) (f : RDX) : W32 := BitVec.ofNat 32 (base + f.d.toNat * 2^20 + f.a.toNat * 2^14 + f.ka.toNat * 2^2)
def pkPRR (base : Nat) (f : PRR) : W32 := BitVec.ofNat 32 (base + f.pd.toNat * 2^20 + f.pa.toNat * 2^14 + f.pb.toNat * 2^8)
def pkPUN (base : Nat) (f : PUN) : W32 := BitVec.ofNat 32 (base + f.pd.toNat * 2^20 + f.pa.toNat * 2^14)
def pkPTOSF (base : Nat) (f : PTOSF) : W32 := BitVec.ofNat 32 (base + f.d.toNat * 2^20 + f.pa.toNat * 2^14)
def pkPSETF (base : Nat) (f : PSETF) : W32 := BitVec.ofNat 32 (base + f.pd.toNat * 2^20 + f.a.toNat * 2^14)
def pkMLU (base : Nat) (f : MLU) : W32 := BitVec.ofNat 32 (base + f.d.toNat * 2^20 + f.s.toNat * 2^14 + f.w.toNat * 2^5 + f.na.toNat * 2^4 + f.lh.toNat)
def pkMSU (base : Nat) (f : MSU) : W32 := BitVec.ofNat 32 (base + f.d.toNat * 2^20 + f.s.toNat * 2^14 + f.w.toNat * 2^5 + f.lh.toNat)
def pkML (base : Nat) (f : ML) : W32 := BitVec.ofNat 32 (base + f.d.toNat * 2^20 + f.s.toNat * 2^14 + f.v.toNat * 2^8 + f.w.toNat * 2^5 + f.na.toNat * 2^4 + f.lh.toNat)
def pkMS (base : Nat) (f : MS) : W32 := BitVec.ofNat 32 (base + f.d.toNat * 2^20 + f.s.toNat * 2^14 + f.v.toNat * 2^8 + f.w.toNat * 2^5 + f.lh.toNat)
def pkMP (base : Nat) (f : MP) : W32 := BitVec.ofNat 32 (base + f.s.toNat * 2^14 + f.v.toNat * 2^8 + f.w.toNat * 2^5 + f.lh.toNat)
def pkOF (base : Nat) (f : OF) : W32 := BitVec.ofNat 32 (base + f.d.toNat * 2^20 + f.s.toNat * 2^14 + f.w.toNat * 2^12 + f.lvl.toNat * 2^8 + f.lh.toNat * 2^4 + f.u.toNat)
def pkCMF (base : Nat) (f : CMF) : W32 := BitVec.ofNat 32 (base + f.lvl.toNat * 2^22 + f.start.toNat * 2^16 + f.len.toNat * 2^10 + f.lh.toNat)
def pkAT (base : Nat) (f : AT) : W32 := BitVec.ofNat 32 (base + f.d.toNat * 2^20 + f.v.toNat * 2^14 + f.ord.toNat * 2^8 + f.lvl.toNat * 2^4 + f.lh.toNat)
def pkFENF (base : Nat) (f : FENF) : W32 := BitVec.ofNat 32 (base + f.ord.toNat * 2^24 + f.lvl.toNat * 2^20)
def pkMNA (base : Nat) (f : MNA) : W32 := BitVec.ofNat 32 (base + f.a.toNat * 2^19)
def pkMNW (base : Nat) (f : MNW) : W32 := BitVec.ofNat 32 (base + f.d.toNat * 2^19 + f.tmo.toNat * 2^13)
def pkTM (base : Nat) (f : TM) : W32 := BitVec.ofNat 32 (base + f.acc.toNat * 2^24 + f.shape.toNat * 2^19 + f.a.toNat * 2^13 + f.bs.toNat * 2^8 + f.f.toNat * 2^5 + f.ru.toNat * 2^4 + f.lh.toNat)
def pkTZ (base : Nat) (f : TZ) : W32 := BitVec.ofNat 32 (base + f.acc.toNat * 2^21 + f.lh.toNat)
def pkTRW (base : Nat) (f : TRW) : W32 := BitVec.ofNat 32 (base + f.acc.toNat * 2^21 + f.c.toNat * 2^16 + f.x.toNat * 2^10 + f.lh.toNat)
def pkTB (base : Nat) (f : TB) : W32 := BitVec.ofNat 32 (base + f.x.toNat * 2^10 + f.lh.toNat)
def pkTW (base : Nat) (f : TW) : W32 := BitVec.ofNat 32 (base + f.y.toNat * 2^4 + f.lh.toNat)
def pkTD (base : Nat) (f : TD) : W32 := BitVec.ofNat 32 (base + f.acc.toNat * 2^21 + f.tag.toNat * 2^16 + f.x.toNat * 2^10 + f.y.toNat * 2^4 + f.lh.toNat)
def pkTXB (base : Nat) (f : TXB) : W32 := BitVec.ofNat 32 (base + f.s1.toNat * 2^18)
def pkCF (base : Nat) (f : CF) : W32 := BitVec.ofNat 32 (base + f.recr.toNat * 2^20 + f.srca.toNat * 2^14 + f.dsta.toNat * 2^8 + f.tag.toNat * 2^4 + f.lh.toNat)
def pkWTM (base : Nat) (f : WTM) : W32 := BitVec.ofNat 32 (base + f.mask.toNat * 2^8)
def pkWTD (base : Nat) (f : WTD) : W32 := BitVec.ofNat 32 (base + f.mask.toNat * 2^8 + f.d.toNat * 2^2)
def pkBF (base : Nat) (f : BF) : W32 := BitVec.ofNat 32 (base + f.neg.toNat * 2^25 + f.p.toNat * 2^22 + f.off.toNat)
def pkBDF (base : Nat) (f : BDF) : W32 := BitVec.ofNat 32 (base + f.neg.toNat * 2^25 + f.p.toNat * 2^22 + f.toff.toNat * 2^11 + f.roff.toNat)
def pkJF (base : Nat) (f : JF) : W32 := BitVec.ofNat 32 (base + f.off.toNat)
def pkLPF (base : Nat) (f : LPF) : W32 := BitVec.ofNat 32 (base + f.s.toNat * 2^20 + f.off.toNat)
def pkKF (base : Nat) (f : KF) : W32 := BitVec.ofNat 32 (base + f.s.toNat * 2^15)
def pkYF (base : Nat) (f : YF) : W32 := BitVec.ofNat 32 (base + f.lvl.toNat * 2^20 + f.id.toNat * 2^15 + f.pd.toNat * 2^12)
def pkYA (base : Nat) (f : YA) : W32 := BitVec.ofNat 32 (base + f.lvl.toNat * 2^20 + f.id.toNat * 2^15)
def pkYH (base : Nat) (f : YH) : W32 := BitVec.ofNat 32 (base + f.lvl.toNat * 2^20)
def pkSF (base : Nat) (f : SF) : W32 := BitVec.ofNat 32 (base + f.d.toNat * 2^17 + f.idx.toNat * 2^5)
def pkTRAPF (base : Nat) (f : TRAPF) : W32 := BitVec.ofNat 32 (base + f.code.toNat * 2^11)
def pkCLKF (base : Nat) (f : CLKF) : W32 := BitVec.ofNat 32 (base + f.d.toNat * 2^17)
def pkSIGF (base : Nat) (f : SIGF) : W32 := BitVec.ofNat 32 (base + f.exp.toNat)
def pkHI (base : Nat) (f : HI) : W32 := BitVec.ofNat 32 (base + f.y.toNat)
def pkHS (base : Nat) (f : HS) : W32 := BitVec.ofNat 32 (base + f.delay.toNat * 2^8 + f.pipe.toNat * 2^4 + f.neg.toNat * 2^3 + f.p.toNat)
def pkHC (base : Nat) (f : HC) : W32 := BitVec.ofNat 32 (base + f.policy.toNat * 2^4)
def pkHR (base : Nat) (f : HR) : W32 := BitVec.ofNat 32 (base + f.rm.toNat * 2^4)
def pkHQ (base : Nat) (f : HQ) : W32 := BitVec.ofNat 32 (base + f.qb.toNat * 2^6 + f.qa.toNat * 2^5 + f.qd.toNat * 2^4)
def pkHK (base : Nat) (f : HK) : W32 := BitVec.ofNat 32 (base + f.incs.toNat * 2^16 + f.idx.toNat * 2^4)
def pkHL (base : Nat) (f : HL) : W32 := BitVec.ofNat 32 (base + f.rlvl.toNat * 2^4)

/-- The one word of an encoded instruction other than LIVE; none for LIVE and for the steps that no word encodes. -/
def encodeWord : Instr → Option W32
  | .iadd f => some (pkRRR (op 0x01 3 0) f)
  | .isub f => some (pkRRR (op 0x01 3 1) f)
  | .imul f => some (pkRRR (op 0x01 3 2) f)
  | .imulh f => some (pkRRR (op 0x01 3 3) f)
  | .imulhU f => some (pkRRR (op 0x01 3 4) f)
  | .imin f => some (pkRRR (op 0x01 3 5) f)
  | .iminU f => some (pkRRR (op 0x01 3 6) f)
  | .imax f => some (pkRRR (op 0x01 3 7) f)
  | .imaxU f => some (pkRRR (op 0x01 3 8) f)
  | .iabs f => some (pkUn (op 0x01 3 9) f)
  | .ineg f => some (pkUn (op 0x01 3 10) f)
  | .and f => some (pkRRR (op 0x01 3 11) f)
  | .or f => some (pkRRR (op 0x01 3 12) f)
  | .xor f => some (pkRRR (op 0x01 3 13) f)
  | .andn f => some (pkRRR (op 0x01 3 14) f)
  | .not f => some (pkUn (op 0x01 3 15) f)
  | .shl f => some (pkRRR (op 0x01 3 16) f)
  | .shr f => some (pkRRR (op 0x01 3 17) f)
  | .sar f => some (pkRRR (op 0x01 3 18) f)
  | .rol f => some (pkRRR (op 0x01 3 19) f)
  | .clz f => some (pkUn (op 0x01 3 20) f)
  | .popc f => some (pkUn (op 0x01 3 21) f)
  | .brev f => some (pkUn (op 0x01 3 22) f)
  | .mov f => some (pkUn (op 0x01 3 23) f)
  | .iaddc f => some (pkRRR (op 0x01 3 24) f)
  | .iaddi f => some (pkRI (op 0x02 0 0) f)
  | .andi f => some (pkRI (op 0x03 0 0) f)
  | .ori f => some (pkRI (op 0x04 0 0) f)
  | .xori f => some (pkRI (op 0x05 0 0) f)
  | .shli f => some (pkSHI (op 0x06 8 0) f)
  | .shri f => some (pkSHI (op 0x06 8 1) f)
  | .sari f => some (pkSHI (op 0x06 8 2) f)
  | .movi f => some (pkWI (op 0x07 0 0) f)
  | .imad f => some (pkRRR (op 0x08 3 0) f)
  | .icmp f => some (pkCP (op 0x09 0 0) f)
  | .bfeU f => some (pkRRR (op 0x0A 3 0) f)
  | .bfeS f => some (pkRRR (op 0x0A 3 1) f)
  | .bfi f => some (pkRRR (op 0x0A 3 2) f)
  | .lea f => some (pkLEAF (op 0x0B 0 0) f)
  | .sel f => some (pkSELF (op 0x0C 0 0) f)
  | .fadd f => some (pkRRR (op 0x10 3 0) f)
  | .fsub f => some (pkRRR (op 0x10 3 1) f)
  | .fmul f => some (pkRRR (op 0x10 3 2) f)
  | .fmin f => some (pkRRR (op 0x10 3 3) f)
  | .fmax f => some (pkRRR (op 0x10 3 4) f)
  | .fabs f => some (pkUn (op 0x10 3 5) f)
  | .fneg f => some (pkUn (op 0x10 3 6) f)
  | .frndNe f => some (pkUn (op 0x10 3 7) f)
  | .frndZ f => some (pkUn (op 0x10 3 8) f)
  | .frndDn f => some (pkUn (op 0x10 3 9) f)
  | .frndUp f => some (pkUn (op 0x10 3 10) f)
  | .fclass f => some (pkUn (op 0x10 3 11) f)
  | .fdiv f => some (pkRRR (op 0x10 3 12) f)
  | .ffma f => some (pkRRR (op 0x11 3 0) f)
  | .fcmp f => some (pkCP (op 0x12 0 0) f)
  | .frcp f => some (pkUn (op 0x13 3 0) f)
  | .frsq f => some (pkUn (op 0x13 3 1) f)
  | .fsqrt f => some (pkUn (op 0x13 3 2) f)
  | .fexp2 f => some (pkUn (op 0x13 3 3) f)
  | .flog2 f => some (pkUn (op 0x13 3 4) f)
  | .fsin f => some (pkUn (op 0x13 3 5) f)
  | .fcos f => some (pkUn (op 0x13 3 6) f)
  | .ftanh f => some (pkUn (op 0x13 3 7) f)
  | .cvtS32F32 f => some (pkUn (op 0x14 3 0) f)
  | .cvtU32F32 f => some (pkUn (op 0x14 3 1) f)
  | .cvtF32S32 f => some (pkUn (op 0x14 3 2) f)
  | .cvtF32U32 f => some (pkUn (op 0x14 3 3) f)
  | .cvtBf16F32 f => some (pkUn (op 0x14 3 4) f)
  | .cvtF32Bf16 f => some (pkUn (op 0x14 3 5) f)
  | .cvtF16F32 f => some (pkUn (op 0x14 3 6) f)
  | .cvtF32F16 f => some (pkUn (op 0x14 3 7) f)
  | .cvtE4m3F32 f => some (pkUn (op 0x14 3 8) f)
  | .cvtF32E4m3 f => some (pkUn (op 0x14 3 9) f)
  | .cvtE5m2F32 f => some (pkUn (op 0x14 3 10) f)
  | .cvtF32E5m2 f => some (pkUn (op 0x14 3 11) f)
  | .badd2 f => some (pkRRV (op 0x15 3 0) f)
  | .bmul2 f => some (pkRRV (op 0x15 3 1) f)
  | .bfma2 f => some (pkRRV (op 0x15 3 2) f)
  | .padd2 f => some (pkRRV (op 0x18 3 0) f)
  | .padd2S f => some (pkRRV (op 0x18 3 1) f)
  | .psub2 f => some (pkRRV (op 0x18 3 2) f)
  | .psub2S f => some (pkRRV (op 0x18 3 3) f)
  | .pmul2 f => some (pkRRV (op 0x18 3 4) f)
  | .pmac2 f => some (pkRRV (op 0x18 3 5) f)
  | .srar f => some (pkRRV (op 0x18 3 6) f)
  | .srarH f => some (pkRRV (op 0x18 3 7) f)
  | .shfl f => some (pkRRV (op 0x19 3 0) f)
  | .slup f => some (pkRRV (op 0x19 3 1) f)
  | .sldn f => some (pkRRV (op 0x19 3 2) f)
  | .cmprs f => some (pkCPX (op 0x19 3 3) f)
  | .expnd f => some (pkCPX (op 0x19 3 4) f)
  | .voteAll f => some (pkVOTEP (op 0x19 3 5) f)
  | .voteAny f => some (pkVOTEP (op 0x19 3 6) f)
  | .voteBal f => some (pkVOTEB (op 0x19 3 7) f)
  | .reduxAdd f => some (pkRDX (op 0x19 3 8) f)
  | .reduxMin f => some (pkRDX (op 0x19 3 9) f)
  | .reduxMax f => some (pkRDX (op 0x19 3 10) f)
  | .reduxAnd f => some (pkRDX (op 0x19 3 11) f)
  | .reduxOr f => some (pkRDX (op 0x19 3 12) f)
  | .scanAdd f => some (pkRDX (op 0x19 3 13) f)
  | .scanMax f => some (pkRDX (op 0x19 3 14) f)
  | .pand f => some (pkPRR (op 0x1A 3 0) f)
  | .por f => some (pkPRR (op 0x1A 3 1) f)
  | .pxor f => some (pkPRR (op 0x1A 3 2) f)
  | .pnot f => some (pkPUN (op 0x1A 3 3) f)
  | .ptos f => some (pkPTOSF (op 0x1A 3 4) f)
  | .pset f => some (pkPSETF (op 0x1A 3 5) f)
  | .ldUniform f => some (pkMLU (op 0x1E 8 63) f)
  | .stUniform f => some (pkMSU (op 0x1F 8 63) f)
  | .ld f => some (pkML (op 0x20 0 0) f)
  | .ldb f => some (pkML (op 0x21 0 0) f)
  | .lda f => some (pkOF (op 0x22 0 0) f)
  | .st f => some (pkMS (op 0x23 0 0) f)
  | .strl f => some (pkOF (op 0x24 0 0) f)
  | .ldw f => some (pkML (op 0x25 0 0) f)
  | .pref f => some (pkMP (op 0x26 0 0) f)
  | .cmntClean f => some (pkCMF (op 0x27 24 0) f)
  | .cmntInv f => some (pkCMF (op 0x27 24 1) f)
  | .cmntCinv f => some (pkCMF (op 0x27 24 2) f)
  | .atomAddB32 f => some (pkAT (op 0x28 10 0) f)
  | .atomAndB32 f => some (pkAT (op 0x28 10 1) f)
  | .atomOrB32 f => some (pkAT (op 0x28 10 2) f)
  | .atomXorB32 f => some (pkAT (op 0x28 10 3) f)
  | .atomMinB32 f => some (pkAT (op 0x28 10 4) f)
  | .atomMinUB32 f => some (pkAT (op 0x28 10 5) f)
  | .atomMaxB32 f => some (pkAT (op 0x28 10 6) f)
  | .atomMaxUB32 f => some (pkAT (op 0x28 10 7) f)
  | .atomExchB32 f => some (pkAT (op 0x28 10 8) f)
  | .atomCasB32 f => some (pkAT (op 0x28 10 9) f)
  | .atomFaddB32 f => some (pkAT (op 0x28 10 10) f)
  | .atomAddB64 f => some (pkAT (op 0x29 10 0) f)
  | .atomAndB64 f => some (pkAT (op 0x29 10 1) f)
  | .atomOrB64 f => some (pkAT (op 0x29 10 2) f)
  | .atomXorB64 f => some (pkAT (op 0x29 10 3) f)
  | .atomMinB64 f => some (pkAT (op 0x29 10 4) f)
  | .atomMinUB64 f => some (pkAT (op 0x29 10 5) f)
  | .atomMaxB64 f => some (pkAT (op 0x29 10 6) f)
  | .atomMaxUB64 f => some (pkAT (op 0x29 10 7) f)
  | .atomExchB64 f => some (pkAT (op 0x29 10 8) f)
  | .atomCasB64 f => some (pkAT (op 0x29 10 9) f)
  | .atomnAddB32 f => some (pkAT (op 0x2A 10 0) f)
  | .atomnAndB32 f => some (pkAT (op 0x2A 10 1) f)
  | .atomnOrB32 f => some (pkAT (op 0x2A 10 2) f)
  | .atomnXorB32 f => some (pkAT (op 0x2A 10 3) f)
  | .atomnMinB32 f => some (pkAT (op 0x2A 10 4) f)
  | .atomnMinUB32 f => some (pkAT (op 0x2A 10 5) f)
  | .atomnMaxB32 f => some (pkAT (op 0x2A 10 6) f)
  | .atomnMaxUB32 f => some (pkAT (op 0x2A 10 7) f)
  | .atomnExchB32 f => some (pkAT (op 0x2A 10 8) f)
  | .atomnCasB32 f => some (pkAT (op 0x2A 10 9) f)
  | .atomnFaddB32 f => some (pkAT (op 0x2A 10 10) f)
  | .atomnAddB64 f => some (pkAT (op 0x2B 10 0) f)
  | .atomnAndB64 f => some (pkAT (op 0x2B 10 1) f)
  | .atomnOrB64 f => some (pkAT (op 0x2B 10 2) f)
  | .atomnXorB64 f => some (pkAT (op 0x2B 10 3) f)
  | .atomnMinB64 f => some (pkAT (op 0x2B 10 4) f)
  | .atomnMinUB64 f => some (pkAT (op 0x2B 10 5) f)
  | .atomnMaxB64 f => some (pkAT (op 0x2B 10 6) f)
  | .atomnMaxUB64 f => some (pkAT (op 0x2B 10 7) f)
  | .atomnExchB64 f => some (pkAT (op 0x2B 10 8) f)
  | .atomnCasB64 f => some (pkAT (op 0x2B 10 9) f)
  | .fence f => some (pkFENF (op 0x2C 0 0) f)
  | .monarm f => some (pkMNA (op 0x2D 25 0) f)
  | .monwait f => some (pkMNW (op 0x2D 25 1) f)
  | .tmma f => some (pkTM (op 0x30 0 0) f)
  | .tzero f => some (pkTZ (op 0x31 23 0) f)
  | .trd f => some (pkTRW (op 0x31 23 1) f)
  | .twr f => some (pkTRW (op 0x31 23 2) f)
  | .tbatch f => some (pkTB (op 0x31 23 3) f)
  | .twait f => some (pkTW (op 0x31 23 4) f)
  | .tdrain f => some (pkTD (op 0x31 23 5) f)
  | .tdrainAdd f => some (pkTD (op2 0x31 23 5 20 1) f)
  | .txbegin f => some (pkTXB (op 0x32 24 0) f)
  | .txend => some (BitVec.ofNat 32 (op 0x32 24 1))
  | .txabort => some (BitVec.ofNat 32 (op 0x32 24 2))
  | .rlystart f => some (pkCF (op 0x33 0 0) f)
  | .cpy f => some (pkCF (op 0x34 0 0) f)
  | .chain f => some (pkCF (op 0x35 0 0) f)
  | .rly f => some (pkCF (op 0x36 0 0) f)
  | .cpywait f => some (pkWTM (op 0x37 24 0) f)
  | .rlywait f => some (pkWTD (op 0x37 24 1) f)
  | .bra f => some (pkBF (op 0x38 0 0) f)
  | .bdiv f => some (pkBDF (op 0x39 0 0) f)
  | .call f => some (pkJF (op 0x3A 0 0) f)
  | .rcv => some (BitVec.ofNat 32 (op 0x3B 21 0))
  | .ret f => some (pkKF (op 0x3B 21 1) f)
  | .brx f => some (pkKF (op 0x3B 21 2) f)
  | .callx f => some (pkKF (op 0x3B 21 3) f)
  | .exit => some (BitVec.ofNat 32 (op 0x3B 21 4))
  | .nop => some (BitVec.ofNat 32 (op 0x3B 21 5))
  | .yield => some (BitVec.ofNat 32 (op 0x3B 21 6))
  | .loop f => some (pkLPF (op 0x3C 0 0) f)
  | .bar f => some (pkYF (op 0x3D 24 0) f)
  | .bara f => some (pkYA (op 0x3D 24 1) f)
  | .barw f => some (pkYF (op 0x3D 24 2) f)
  | .heat f => some (pkYH (op 0x3D 24 3) f)
  | .srd f => some (pkSF (op 0x3E 23 0) f)
  | .swr f => some (pkSF (op 0x3E 23 1) f)
  | .trap f => some (pkTRAPF (op 0x3E 23 2) f)
  | .tretRetry => some (BitVec.ofNat 32 (op 0x3E 23 3))
  | .tretNext => some (BitVec.ofNat 32 (op2 0x3E 23 3 21 1))
  | .tretFix => some (BitVec.ofNat 32 (op2 0x3E 23 3 22 1))
  | .clk f => some (pkCLKF (op 0x3E 23 4) f)
  | .sigchk f => some (pkSIGF (op 0x3E 23 5) f)
  | .himm f => some (pkHI (op 0x3F 24 0) f)
  | .hsched f => some (pkHS (op 0x3F 24 1) f)
  | .hmodCache f => some (pkHC (op 0x3F 24 2) f)
  | .hmodRound f => some (pkHR (op2 0x3F 24 2 0 1) f)
  | .hmodQueue f => some (pkHQ (op2 0x3F 24 2 1 1) f)
  | .hmodCount f => some (pkHK (op2 0x3F 24 2 0 3) f)
  | .hmodScope f => some (pkHL (op2 0x3F 24 2 2 1) f)
  | _ => none

/-- The first word of a LIVE (14 R301). -/
def liveHead (f : LiveF) : W32 :=
  BitVec.ofNat 32 (0xFF * 2 ^ 24 + f.v0.isSome.toNat + f.v1.isSome.toNat * 2 + f.s0.isSome.toNat * 2 ^ 2
    + f.s1.isSome.toNat * 2 ^ 3 + f.acc.toNat * 2 ^ 4 + f.ranges.length * 2 ^ 8)

/-- A range word of a LIVE. -/
def rangeWord (r : BitVec 12 × BitVec 12) : W32 := BitVec.ofNat 32 (r.1.toNat + r.2.toNat * 2 ^ 12)

/-- All words of an instruction, none for a step that no word encodes. -/
def encode : Instr → Option (List W32)
  | .live f => some (liveHead f :: (f.v0.toList ++ f.v1.toList ++ f.s0.toList ++ f.s1.toList
      ++ f.ranges.map rangeWord))
  | i => (encodeWord i).map ([·])

/-- Byte k of a number, little-endian. -/
def byteOf (x k : Nat) : Byte := BitVec.ofNat 8 (x / 2 ^ (8 * k))

/-- The bytes that stand in memory for a table word of `nbits` bits, with zeros after it up to the longest
instruction (a LIVE with eight words after its first). -/
def tableBytes (nbits w : Nat) : List Byte :=
  (List.range 36).map fun k => if k < nbits / 8 then byteOf w k else 0

/-- What the decoder reads from a table word. -/
def decodeTableWord (nbits w : Nat) : Option Instr :=
  match decode (tableBytes nbits w) with
  | .ok (i, _) => some i
  | .error _ => none

end Sys2Proof
end

