-- ==== Sys2Proof/Machine/AtomAlu.lean ====
section
/-! DEFINITION. What an atomic operation or an addend makes of the value it finds (15 R310; 08 R174). -/

namespace Sys2Proof.Machine

/-- The new value of a read-modify-write (15 R310) over n bits. -/
def atomNew (op n old x y : Nat) : Nat :=
  match op with
  | 0 => (old + x) % 2 ^ n
  | 1 => Nat.land old x
  | 2 => Nat.lor old x
  | 3 => Nat.xor old x
  | 4 => if sextNat n x < sextNat n old then x else old
  | 5 => min old x
  | 6 => if sextNat n old < sextNat n x then x else old
  | 7 => max old x
  | 8 => x
  | 9 => if old = x then y else old
  | _ => (atomFadd (BitVec.ofNat 32 old) (BitVec.ofNat 32 x)).toNat

/-- The value after an operation deferred to a commit, or an add-mode element of a drain (08 R174, R177): OP 16 is a
BF16 addend, whose operand is an FP32 code. -/
def addendVal (op bytes old x y : Nat) : Nat :=
  if op = 16 then (addV bf16 .rne false (decodeF bf16 old) (decodeF fp32 x)).v else atomNew op (8 * bytes) old x y

end Sys2Proof.Machine
end

