-- ==== Sys2Proof/Config.lean ====
section
/-! DEFINITION. What an implementation fixes and the spec does not: free values (no body, so nothing can be
proved of them but what holds for every value) and the few sizes the spec states. -/

namespace Sys2Proof.Config

/-- FREE VALUE (assumption 2). AC cycles that pass before a CLK read (15 R324): the spec fixes no count. -/
opaque freeCycles : Nat → Nat
/-- FREE VALUE (assumption 2). A front-end timestamp in nanoseconds (13 R274): the spec fixes no value. -/
opaque freeTime : Nat → BitVec 64
/-- FREE VALUE (assumption 14). Which FP32 value inside the error bound of 05 R105 the function numbered `fn`
(14 R297) returns for a source: an index into the values inside the bound. A function of the source alone,
as 16 R346 asks. -/
opaque freeUlp : Nat → BitVec 32 → Nat
/-- FREE VALUE (assumption 15). The die's weight-store window timer: time to the next window and time to the end
of the window in progress, in 10 ns units, taken within the bounds of 06 R122 (R123). -/
opaque freeWindow : Nat → Nat
/-- FREE VALUE (assumption 16). F of 10 R226 as a 16-bit fraction, recomputed from measured power. -/
opaque freeF : Nat → BitVec 16
/-- FREE VALUE (assumption 17). Bytes of an SPDM response that the spec does not give (13 R284). -/
opaque freeSpdm : Nat → Nat → Byte
/-- FREE VALUE (assumption 18). Which of several it is, where the spec does not say: the superblock that a full set of an L1
evicts, the stack whose pseudo-channel is retrained next, the pseudo-channel of a corrected row. -/
opaque freeChoice : Nat → Nat
/-- FREE VALUE (assumption 20). The bytes of a save image (11 R245), whose layout the spec does not give. -/
opaque freeByte : Nat → Nat → Byte
/-- FREE VALUE (assumption 10). How many other packages, and other nodes, Ultra Ethernet reaches (03 R52). -/
opaque freeReach : Nat → Nat
/-- FREE VALUE (assumption 17). SHA-256 of a measured object (13 R283), by its kind and what tells it from others. -/
opaque freeHash : Nat → List Nat → Nat → Byte
/-- FREE VALUE (assumption 10). Whether a port lies on a minimal route of the table computed last, by its number, to a
destination (11 R256; 13 R281): the topology of a node is not in the spec. -/
opaque freeRoute : Nat → Nat → Nat → Bool

end Sys2Proof.Config
end

