-- ==== Sys2Proof/Machine/State.lean ====
section
/-! DEFINITION. The state of the machine as plain data: every piece of state the spec gives the part, its groups,
its memories and its host interface, the reasons a step can stop, and the state right after reset. -/

namespace Sys2Proof.Machine

/-! ### One group -/

/-- A TRAP entry of the reconvergence stack (11 R238). `next` is the address after the trapping instruction, which
TRET.NEXT resumes at (R241). -/
structure TrapEntry where
  pc : Nat
  cause : Nat
  active : Mask
  dst : Nat
  restarting : Bool
  gather : Bool
  sig : BitVec 23
  lanes : Mask
  next : Nat
  deriving DecidableEq, Repr

/-- An entry of the reconvergence stack (03 R62): one slot, or two for a TRAP entry. -/
inductive Entry where
  | div (pc : Nat) (mask : Mask)
  | pend (pc : Nat) (mask : Mask)
  | trap (t : TrapEntry)
  deriving DecidableEq, Repr

/-- A trap to take: cause and information (11 R240), the lanes that trapped, class, GATHER, TRAPDST, GDONE, TRAPPC and the
address after the instruction. -/
structure TrapReq where
  cause : Nat
  info : W64
  lanes : Mask
  restarting : Bool
  gather : Bool
  dst : Nat
  gdone : Mask
  pc : Nat
  next : Nat
  deriving DecidableEq, Repr

/-- A pending HMOD (16 R351). -/
inductive HMod where
  | cache (policy : Nat)
  | round (rm : Nat)
  | queue (d a b : Bool)
  | count (idx incs : Nat)
  | scope (lvl : Nat)
  deriving DecidableEq, Repr

/-- The hints that wait for the next instruction (04 R90) and the address of the first of them (R91). -/
structure Hints where
  himm : Option (BitVec 24)
  hsched : Option HS
  hmod : Option HMod
  first : Option Nat
  deriving DecidableEq, Repr

/-- A completion tag (09 R195): transfers not yet complete, and the highest status. -/
structure Tag where
  left : Nat
  status : Nat
  deriving DecidableEq, Repr

/-- Why a group is not ready, as the watchdog counts it (10 R230); the last three do not count (R229, 12 R266). -/
inductive Wait where
  | queue | barrier | memory | tag | batch | renaming | monwait | other | pacer | window | forced
  deriving DecidableEq, Repr

/-- Where a group stopped for a pre-emption (11 R244, R248). -/
inductive StopAt where
  | live (f : LiveF)
  | yield
  | barrier
  | heat
  | monwait
  | boundary
  deriving DecidableEq, Repr

/-- What a resident group does. `parkFault` waits for a fault record, `parkTrap` for the answer to an undelivered
trap (its cause), `parkDog` for the answer to a watchdog parking (10 R229). `ended` holds its slot until the open
transaction of its work item ends (15 R333). -/
inductive GStat where
  | run
  | parkFault
  | parkTrap (cause : Nat)
  | parkDog
  | stopped (p : StopAt)
  | ended
  deriving DecidableEq, Repr

/-- One line a monitor watches (17 R377): an HBM line, or a scratchpad line of a work item. -/
inductive MonLine where
  | hbm (line : Nat)
  | scr (item line : Nat)
  deriving DecidableEq, Repr

/-- The monitor of a group (17 R378). -/
inductive Monitor where
  | idle
  | armed (l : MonLine)
  | fired (l : MonLine) (outcome : Nat)
  deriving DecidableEq, Repr

/-- A TMMA as captured at issue (18 R412): its tile, shape index, format word, executing lanes, the A registers of
each lane, the address of B, and whether the monitors and the checker watch it. -/
structure Tmma where
  acc : Nat
  shape : Nat
  word : W32
  rows : Mask
  a : List (List W32)
  b : Nat
  watched : Bool
  checked : Bool
  deriving DecidableEq, Repr

/-- A closed batch (08 R170): granted leave or not, and the B operands once it has entered the engine. -/
structure Batch where
  num : Nat
  tm : List Tmma
  granted : Bool
  entered : Option (List (List Byte))
  deriving DecidableEq, Repr

/-- A PACERQ reservation (10 R228): UNITS as last written, a write not yet served, weight asked and not yet granted,
weight held, and the AC cycle of its grant or last use. -/
structure PacerQ where
  units : Nat
  write : Option Nat
  pend : Option Nat
  held : Option Nat
  since : Nat
  deriving DecidableEq, Repr

/-- One subgroup of split mode (03 R68); `replay` names the lanes that its next instruction executes again (11 R241). -/
structure SplitEntry where
  pc : Nat
  mask : Mask
  parent : Nat
  replay : Option Mask
  deriving DecidableEq, Repr

/-- One resident group (04 R77 to R93, 11 R239). `trapDue` is a trap whose delivery waits for the stack's spill
(03 R66), `ahead` the values of loads that were performed before their turn, by 8-byte unit (07 R144; MODEL), `pointed` that the
pre-emption point in which it waits is counted in `points` (12 R263; MODEL). Vector registers hold 64 lanes each; an
absent register reads zero. -/
structure Group where
  launch : Nat
  item : Nat
  gidx : Nat
  stat : GStat
  wait : Option Wait
  idle : Nat
  issued : Nat
  pc : Nat
  active : Mask
  exited : Mask
  absent : Mask
  ref : Mask
  stack : List Entry
  v : KMap (List W32)
  s : KMap W64
  p : KMap Mask
  tile : KMap (List W32)
  vlive : KMap Bool
  slive : KMap Bool
  vkilled : KMap Bool
  skilled : KMap Bool
  bound : KMap Bool
  fpmode : BitVec 9
  fpflags : KMap (BitVec 5)
  satf : KMap (BitVec 2)
  trapvec : Nat
  trapcause : Nat
  trappc : Nat
  traplanes : Mask
  trapdst : Nat
  trapres : KMap W32
  trapinfo : W64
  gdone : Mask
  parkNext : Nat
  parkLanes : Mask
  parkDst : Nat
  parkBit : Bool
  sig : BitVec 23
  seen : Bool
  firstreg : Nat
  dfile : Bool
  trapen : Bool
  trapDue : Option TrapReq
  checkn : Nat
  pq : PacerQ
  hints : Hints
  replay : Option Mask
  hostAtom : Option Nat
  hostAns : Option Mask
  tags : KMap Tag
  opens : List Tmma
  batches : List Batch
  lastBatch : Nat
  issuedBatches : Nat
  mon : Monitor
  monEnd : Option Nat
  monTimeout : Bool
  barArr : KMap (Nat × Nat)
  heatArr : Option (Nat × Nat)
  abandoned : List Nat
  txBegun : Bool
  txEnded : Bool
  readLines : List Nat
  readOver : Bool
  ahead : KMap (List Byte)
  relFence : Bool
  split : Option (List SplitEntry × Nat)
  points : Nat
  pointed : Bool
  arrivals : Nat
  deriving DecidableEq, Repr

/-! ### Work items and launches -/

/-- An operation deferred to the commit (08 R177): an ATOMN, or an add-mode drain element. `op` is the ATOM OP of
14 R297, or 16 for a BF16 addend. -/
structure Deferred where
  op : Nat
  bytes : Nat
  pa : Nat
  x : Nat
  y : Nat
  deriving DecidableEq, Repr

/-- One write of an open transaction to HBM, in program order (08 R177): versioned bytes, a deferred operation, or one on an
element that lies in two pages, at the places of its bytes. -/
inductive VerWrite where
  | bytes (pa : Nat) (data : List Byte)
  | op (d : Deferred)
  | opAt (d : Deferred) (pas : List Nat)
  deriving DecidableEq, Repr

/-- Why an attempt ends and at which rung it restarts (08 R178, R185 to R187), if it does (10 R231). -/
structure Abort where
  rung : Nat
  conflict : Bool
  viaTrap : Bool
  rerun : Bool
  deriving DecidableEq, Repr

/-- A resident or saved work item (03 R50, 08 R175 to R179, 10 R217). `vers` holds its transaction's writes to HBM,
`relLines` the cores and lines of those with release order (07 R153). `area` numbers its spill area in
the launch's reserved memory (03 R66), or of a saved item its image there (11 R245); `preempt` is the cause of a pending
request and `out` that of its last save (0 SAFE, 1 slice, 2 priority), `waiters` the items that waited when its swap was
decided, and the first index not yet placed then (10 R221). -/
structure Item where
  launch : Nat
  index : Nat
  die : Nat
  cores : List Nat
  gids : List Nat
  placed : Nat
  scr : KMap Byte
  verScr : KMap Byte
  vers : List VerWrite
  relLines : List (Nat × Nat)
  txOpen : Bool
  trip : Bool
  range : Bool
  canc : Bool
  ord : Bool
  attempt : Nat
  clvl : Nat
  rung : Nat
  pred : Nat
  desc : Nat
  scrOff : Nat
  scrLen : Nat
  headLo : Int
  headHi : Int
  thetas : List Nat
  checked : Bool
  nonfin : Bool
  elems : Nat
  maxAbs : W32
  maxRel : W32
  committed : Bool
  trapped : Bool
  abort : Option Abort
  done : Bool
  cursor : Nat
  popped : List Nat
  poppedPos : Nat
  queues : KMap (List (List W32))
  preempt : Option Nat
  asked : Nat
  out : Option Nat
  waiters : List Nat × Nat
  saved : Option (List Group)
  saveParked : Bool
  area : Nat
  deriving DecidableEq, Repr

/-- A level of the declared tree (03 R47, 14 R304). -/
structure Level where
  bind : Nat
  w : Nat
  h : Nat
  fan : Nat
  deriving DecidableEq, Repr

/-- A queue binding (03 R70). -/
structure QBind where
  q : Nat
  level : Nat
  prod : Nat
  cons : Nat
  deriving DecidableEq, Repr

/-- An arm-table entry (09 R211). -/
structure Arm where
  thresh : Nat
  counter : Nat
  die : Nat
  kind : Nat
  arg : Nat
  deriving DecidableEq, Repr

/-- An arm that its counter has reached and that has not fired yet (09 R212, R439): its place in the arm table, the
die, the counter's value, whether it waits on a fault record, and the number of the group whose transfer reached it. -/
structure ArmDue where
  idx : Nat
  die : Nat
  value : Nat
  parked : Bool
  group : Nat
  deriving DecidableEq, Repr

/-- A barrier of a launch (15 R315): the pair (ID, level instance), its open phase and who has arrived in it. -/
structure Barrier where
  id : Nat
  level : Nat
  inst : Nat
  phase : Nat
  arrived : List Nat
  deriving DecidableEq, Repr

/-- A heat of a level instance (16 R349). -/
structure Heat where
  level : Nat
  inst : Nat
  count : Nat
  arrived : List Nat
  deriving DecidableEq, Repr

/-- A record of the order log (12 R263). -/
structure LogEntry where
  kind : Nat
  key : Nat
  value : Nat
  deriving DecidableEq, Repr

/-- A launch packet (13 R276); `clean` says that every bit that must be zero is zero. -/
structure Packet where
  launchid : W32
  clean : Bool
  mode : Nat
  txn : Bool
  det : Nat
  nopred : Bool
  prio : Nat
  image : Nat
  lcount : Nat
  gnode : Nat
  npred : Nat
  args : W64
  ext : Nat
  deriving DecidableEq, Repr

/-- The extension block (13 R277). -/
structure Ext where
  succ : Nat
  nsucc : Nat
  dkind : Nat
  iters : Nat
  ntiles : Nat
  armtab : Nat
  narm : Nat
  ncounter : Nat
  relspill : Nat
  relsize : Nat
  olog : Nat
  ologsize : Nat
  rbuf : Nat
  rbufsize : Nat
  resv : Nat
  resvsize : Nat
  deriving DecidableEq, Repr

/-- What an image declares (14 R303, R304). -/
structure Image where
  imageid : Nat
  entry : Nat
  levels : List Level
  vfoot : Nat
  sfoot : Nat
  afoot : Nat
  spill : Nat
  scratch : Nat
  baruse : Nat
  queues : List QBind
  rectW : Nat
  rectH : Nat
  deriving DecidableEq, Repr

/-- A record bound for a completion ring (13 R274): its type, queue and 32-byte payload. -/
structure Record where
  type : Nat
  queue : Nat
  payload : List Byte
  deriving DecidableEq, Repr

/-- Where a launch stands: waiting for its node (10 R215), reading its blocks (possibly parked on a fault record,
13 R276), placed, or over. -/
inductive LStat where
  | node
  | reading (parked : Bool)
  | bound
  | finished
  deriving DecidableEq, Repr

/-- A read of WORK on its way to the distributor (10 R223): group and destination. -/
structure WorkReq where
  gid : Nat
  d : Nat
  deriving DecidableEq, Repr

/-- A launch (10 R213 to R216). `swaps` holds the waiters of each swap whose room is free (R221), `record` its completion
record while that waits for a full ring (R216; 13 R275). -/
structure Launch where
  queue : Nat
  pktIdx : Nat
  asid : Nat
  ceil : Nat
  pkt : Packet
  ext : Ext
  img : Image
  stat : LStat
  ready : Bool
  since : Nat
  status : Nat
  faultK : Nat
  succs : List Nat
  arms : List Arm
  armWait : List ArmDue
  armfail : Bool
  extra : Bool
  killed : Bool
  counters : KMap Nat
  lastDie : Nat
  nextItem : Nat
  waiting : List Nat
  swaps : List (List Nat × Nat)
  record : Option Record
  endedItems : List Nat
  gone : List Nat
  halted : List Nat
  barBind : KMap Nat
  barriers : List Barrier
  heats : List Heat
  workQ : List WorkReq
  pool : Nat
  ordinals : KMap Nat
  lasts : KMap Nat
  logfull : Bool
  diverged : Bool
  olog : List LogEntry
  rlog : List (Nat × Nat × Nat × Nat)
  replayLog : List LogEntry
  replayRec : List (Nat × Nat × Nat × Nat)
  deriving DecidableEq, Repr

/-! ### Memory system -/

/-- A write accepted by a core's memory port and not yet performed (07 R148, R150); `seen` names the groups of the core
that have acquired since it was accepted, so that it may happen before their releases (R146); `sent` says of a write to
host memory that a release bound above CORE has sent it on, so that every later access of the part follows it on PCI
Express (R148). -/
structure PortWrite where
  core : Nat
  gid : Nat
  host : Bool
  addr : Nat
  data : List Byte
  release : Bool
  seen : List Nat
  sent : Bool
  deriving DecidableEq, Repr

/-- A copy of a superblock in an L2 slice: a valid and a dirty bit for each of its four lines (06 R126). -/
structure L2Part where
  valid : BitVec 4
  dirty : BitVec 4
  deriving DecidableEq, Repr

/-- A superblock of 512 bytes in the L2 slices (06 R126): its home copy, and the guest copies by logical die, which are
the presence bits of its directory entry. -/
structure L2Block where
  home : L2Part
  guests : KMap L2Part
  deriving DecidableEq, Repr

/-- A translation held by a die (06 R133). -/
structure Tlb where
  die : Nat
  asid : Nat
  va : Nat
  size : Nat
  base : Nat
  w : Bool
  x : Bool
  host : Bool
  nocache : Bool
  deriving DecidableEq, Repr

/-- Who waits on a translation (06 R135 to R137, 09 R439): a group, an engine transfer, an arm of a launch, a launch
whose blocks are read, the load window, or the save of a work item. -/
inductive Agent where
  | group (gid : Nat)
  | xfer (x : Nat)
  | arm (l i die : Nat)
  | launch (l : Nat)
  | window
  | save (item : Nat)
  deriving DecidableEq, Repr

/-- A pending fault record (06 R136); `wr` is its access class, write-like or read. Each agent stands with its own faulting
address and the KIND of its own access. -/
structure FaultRec where
  asid : Nat
  va : Nat
  wr : Bool
  kind : Nat
  cause : Nat
  hostat : Bool
  core : Nat
  agents : List (Agent × Nat × Nat)
  deriving DecidableEq, Repr

/-- A walk that a resolved record started again (06 R137), with the KIND of the agent's own access; `wr` is its access
class. -/
structure Walk where
  id : Nat
  asid : Nat
  va : Nat
  kind : Nat
  wr : Bool
  agent : Agent
  deriving DecidableEq, Repr

/-- An INVALIDATE not yet complete (06 R134). -/
structure Inval where
  id : Nat
  asid : Nat
  va : Nat
  len : Nat
  src : Src
  deriving DecidableEq, Repr

/-- One lane of an atomic on a host page that waits for its reply (06 R138): lane, host address, operands. -/
structure HostLane where
  lane : Nat
  addr : Nat
  va : Nat
  x : Nat
  y : Nat
  deriving DecidableEq, Repr

/-- A load or an atomic whose data has not returned (04 R88, R89): destination file and first register, the lanes
that receive, one list of lane values for each register, the lookahead left, for a host atomic its operation, width and
lanes, and the level of an acquire that waits for the reply. -/
structure Flight where
  id : Nat
  gid : Nat
  uni : Bool
  atomic : Bool
  reg : Nat
  lanes : Mask
  vals : List (List Nat)
  left : Nat
  host : Option (Nat × Nat × List HostLane)
  pc : Nat
  acq : Option Nat
  deriving DecidableEq, Repr

/-- A shape record (09 R197). -/
structure Shape where
  base : Nat
  esize : Nat
  rank : Nat
  side : Bool
  clip : Bool
  type : Nat
  osize : Nat
  perm : List Nat
  clvl : Nat
  dim : List Nat
  org : List Int
  str : List Nat
  box : List Nat
  rop : Nat
  grid : List Nat
  axes : Nat
  repl : Bool
  topk : Nat
  pad : Nat
  deriving DecidableEq, Repr

/-- The engine instructions (09 R193). -/
inductive XKind where
  | cpy | chain | drain | drainAdd | rly | rlystart
  deriving DecidableEq, Repr

/-- An engine transfer in flight (09 R195), with the ranges it owns, each with the number of its registration (07 R155).
`count` is its counter and increment, `inTx` that it issued in an open transaction, `leave` the Pacer requests not yet
granted, `coll` its collective and rank, `pos` the elements it has moved (the lines, of an add-mode drain), `vals` the
values of the elements after them that it has read, `bad` the elements that it read as uncorrectable (11 R250). -/
structure Xfer where
  id : Nat
  kind : XKind
  gid : Nat
  item : Nat
  launch : Nat
  core : Nat
  asid : Nat
  tag : Nat
  shape : Shape
  src : Nat
  dst : Nat
  prog : List W64
  tile : List W32
  count : Option (Nat × Nat)
  inTx : Bool
  owned : List (Nat × Nat × Nat)
  status : Nat
  parked : Bool
  coll : Option (Nat × Nat)
  leave : Nat
  pos : Nat
  vals : List Nat
  bad : List Nat
  old : KMap Byte
  deriving DecidableEq, Repr

/-- One rank's part in a collective (09 R203): its rank and position, its transfer, what has been read of its
contribution, whether the instance has started on it (R208) and whether it has completed there. `names` tells which RLY this
was of every rank that its group belongs to: level of the collective, rank, ordinal. -/
structure RankPart where
  rank : Nat
  pos : Nat
  xfer : Nat
  data : List Byte
  started : Bool
  done : Bool
  names : List (Nat × Nat × Nat)
  deriving DecidableEq, Repr

/-- A destination chunk of a collective (09 R204): its counter, the contributions in arrival order, and the positions
whose destinations it has been written to. -/
structure Chunk where
  dst : Nat
  idx : Nat
  left : Nat
  arrived : List Nat
  written : List Nat
  deriving DecidableEq, Repr

/-- A chunk on its way to a rank on another package (09 R204; 13 R282): PKGID and NODEID it goes to, its name and its
bytes. -/
structure RelayMsg where
  pkg : Nat
  node : Nat
  name : ChunkName
  data : List Byte
  deriving DecidableEq, Repr

/-- A collective in progress (09 R203, R208): its level instance, ordinal or baton, the record's address when
persistent, the ranks of its group by position, the positions that this package runs (10 R219), and, each as destination,
chunk and source: the chunks that wait here in their arrival order (R206, R209), the bytes that came from other packages,
the chunks that lie in a block of the launch's relay spill region (R206), and those sent to other packages. `progress`
counts, by rank position and destination chunk, the pieces of a chunk written so far. -/
structure Coll where
  id : Nat
  launch : Nat
  level : Nat
  inst : Nat
  ord : Nat
  persistent : Option Nat
  ranks : List Nat
  shape : Shape
  parts : List RankPart
  chunks : List Chunk
  spilled : List (Nat × Nat × Nat)
  mismatch : Bool
  here : List Nat
  far : List ((Nat × Nat × Nat) × List Byte)
  region : List ((Nat × Nat × Nat) × Nat)
  sent : List (Nat × Nat × Nat)
  progress : List ((Nat × Nat) × Nat)
  deriving DecidableEq, Repr

/-! ### Part -/

/-- The inventory of one compute die (01 R9, R20): position, state, live sites, stacks. -/
structure Die where
  pos : Nat
  state : Nat
  sites : List Nat
  nstk : Nat
  home : Nat
  deriving DecidableEq, Repr

/-- A die-die link (01 R20). -/
structure Link where
  a : Nat
  b : Nat
  kind : Nat
  down : Bool
  deriving DecidableEq, Repr

/-- A request of the host to the cryogenic machine that waits for the next sample (02 R33). -/
inductive ColdReq where
  | warmup | cancel | safeExit
  deriving DecidableEq, Repr

/-- A class change in progress (02 R38, R39): the target class and whether issue is stopped. -/
structure ClassChange where
  target : Nat
  stopped : Bool
  deriving DecidableEq, Repr

/-- The cryogenic machine (02 R29 to R40). `hist` holds the part temperatures of the samples of the last 60 s, newest
first, in millikelvin, `first` that of the first sample; `hold` counts the samples in a row at which the condition of
the state's held row was met; `retrain` holds for each logical stack the pseudo-channels still to retrain, `silent` the
sensors (position, index) that have returned nothing for 1 ms, and `waiting` the decisions that wait for the change in
progress, each with the request that it answers and its kind. -/
structure Cryo where
  started : Bool
  state : Nat
  cls : Nat
  chg : Nat
  band : Nat
  temp : Nat
  ramp : Bool
  sensflt : Bool
  hist : List Nat
  first : Nat
  breach : Bool
  hold : Nat
  change : Option ClassChange
  waiting : List (Nat × Option (ColdReq × Src))
  retrain : KMap Nat
  silent : List (Nat × Nat)
  reqs : List (ColdReq × Src)
  refreshOn : Bool
  deriving DecidableEq, Repr

/-- The weight-store windows of a die (06 R122, R438): the bank group of the next window, the one open, whether that
window has the 64 µs of classes 1 and 2, and whether the next begins at its end. -/
structure WsWin where
  next : Nat
  openBg : Option Nat
  long : Bool
  again : Bool
  deriving DecidableEq, Repr

/-- An error histogram (11 R258): counts by unit and bucket, and the threshold. -/
structure Hist where
  counts : KMap Nat
  thresh : Nat
  written : KMap Nat
  deriving DecidableEq, Repr

/-- A packet on the Stride link not yet acknowledged (11 R256). -/
structure StridePkt where
  seq : Nat
  dst : Nat
  round : Nat
  flit : List Byte
  deriving DecidableEq, Repr

/-- What a measurement register has been extended with (13 R283): the kind of object, 0 the ROM, 1 the firmware, 2 the
inventory record, 3 engine microcode, and what tells it from others of its kind. -/
structure Measured where
  kind : Nat
  id : List Nat
  deriving DecidableEq, Repr

/-- The Stride link (11 R256, 13 R281): ports down, last update of each origin, our own update sequence, packets not yet
acknowledged, the next sequence expected of each source and the flits that came before their turn, the flits retried
for a CRC failure, destinations given up, the last state of every port of the node, flits taken, flits sent by port, the
next sequence to each destination, how often the routes were computed, the packets sprayed so far (R257), and the mode of
the other end of each port, 1 for compatibility. -/
structure Stride where
  downPorts : List Nat
  seen : KMap Nat
  mySeq : Nat
  unacked : List StridePkt
  expect : KMap Nat
  early : List (List Byte)
  retried : Nat
  unreachable : List Nat
  routes : List LinkUpdate
  inbox : List (List Byte)
  outbox : List (Nat × List Byte)
  nextSeq : KMap Nat
  epoch : Nat
  spray : Nat
  modes : KMap Nat
  deriving DecidableEq, Repr

/-- An offline request in progress (01 R23), with the regions still to move. -/
structure Offlining where
  die : Nat
  forced : Bool
  src : Src
  regions : List Nat
  deriving DecidableEq, Repr

/-- A load window in progress (06 R121): its phase 0 translating, 1 waiting for the dies, 2 copied. -/
structure LoadWin where
  src : Src
  dies : Nat
  va : Nat
  off : Nat
  len : Nat
  asid : Nat
  phase : Nat
  parked : Bool
  pages : List Nat
  deriving DecidableEq, Repr

/-- The part: the inventory record in effect and the one in the signed store, firmware with the image staged and whether
its signature verifies, what each of the 16 measurement registers has been extended with, cold operation, fabric (01, 02,
11, 13): relay chunks for other packages, and of Ultra Ethernet what has been received, answered and sent. -/
structure Part where
  inv : InvRecord
  store : InvRecord
  dies : List Die
  links : List Link
  stackState : KMap Nat
  gen : Nat
  fwVersion : Nat
  fwStaged : Option Firmware
  fwMin : Nat
  measures : List (List Measured)
  cryo : Cryo
  ws : List WsWin
  hists : List Hist
  stride : Stride
  pkgid : Nat
  nodeid : Nat
  compat : Bool
  relayOut : List RelayMsg
  ueAccepted : Nat
  ueDropped : Nat
  ueInbox : List UePacket
  ueAnswers : List (List Byte)
  ueOut : List RelayMsg
  spdm : List (Byte × List Byte)
  off : List Offlining
  pool : List Nat
  win : Option LoadWin
  winQ : List LoadWin
  deriving DecidableEq, Repr

/-! ### Host interface -/

/-- A registered queue (13 R272 to R275). `busy` says that the previous packet has not completed (R213). -/
structure Queue where
  size : Nat
  csize : Nat
  ceil : Nat
  asid : Nat
  mgmt : Bool
  ring : Nat
  cring : Nat
  ridx : Nat
  widx : Nat
  busy : Bool
  since : Nat
  seq : Nat
  head : Nat
  held : List Record
  deriving DecidableEq, Repr

/-- A graph node (10 R215): the counter, 0 FREE, 1 WAITING or 2 READY, FAIL, and the launch that waits. -/
structure Node where
  count : Int
  state : Nat
  fail : Bool
  launch : Nat
  deriving DecidableEq, Repr

/-- A history-table entry (08 R190). -/
structure HistEnt where
  tag : Nat
  lrung : Nat
  conf : Nat
  age : Nat
  clean : Nat
  deriving DecidableEq, Repr

/-- Who asks the Pacer for leave (10 R226). -/
inductive PacerFor where
  | batch (gid num : Nat)
  | reserve (gid : Nat)
  | xfer (x : Nat)
  deriving DecidableEq, Repr

/-- A request for leave at a die. -/
structure PacerReq where
  die : Nat
  who : PacerFor
  weight : Nat
  prio : Nat
  deriving DecidableEq, Repr

/-- A management packet on its way (13 R278): where it came from, whether its KIND and its other bytes are as they must
be, and its argument bytes 8 to 63. -/
structure MgmtReq where
  src : Src
  ok : Bool
  args : List Byte
  deriving DecidableEq, Repr

/-- An access of the host through BAR2 that waits for a line an engine transfer owns (07 R156): physical address, and a
read of `n` bytes, a write, or an AtomicOp with its width and operands. -/
inductive HostAcc where
  | read (pa n : Nat)
  | write (pa : Nat) (data : List Byte)
  | atomic (op : HostOp) (wide : Bool) (pa : Nat) (x y : W64)
  deriving DecidableEq, Repr

/-- The host interface, the graph nodes and the Pacer (10, 13). `febuf` holds the lines of the front end's read buffers,
each with the groups whose later writes it lacks (07 R150, R152); `barOut` and `barStat` are what the host's last read or
AtomicOp got: its bytes, and 0 a success, 1 Unsupported Request, 2 a completer abort; `doors` are the discarded doorbells,
as queue, value and REASON, whose queue errors wait for queue 0's ring (R275). -/
structure HostIf where
  queues : KMap Queue
  mailbox : List Byte
  busy : Bool
  mstatus : Nat
  apbase : Nat
  barOut : List Byte
  barStat : Nat
  stalled : List HostAcc
  mgmt : List MgmtReq
  nodes : KMap Node
  history : KMap HistEnt
  capW : Nat
  didt : Nat
  order : Nat
  f : Nat
  accounts : KMap Int
  window : KMap (Nat × Nat)
  asks : List PacerReq
  wdogMs : Nat
  telBase : Nat
  telSlots : Nat
  telCount : Nat
  lastQueue : Nat
  febuf : KMap (List Byte × List Nat)
  doors : List (Nat × Nat × Nat)
  deriving DecidableEq, Repr

/-! ### The whole machine -/

/-- The memories, caches, translations and their traffic (06, 07). -/
structure Mem where
  hbm : List Host.Cell
  host : List Host.Cell
  ws : List Host.Cell
  l1 : KMap (List Byte)
  icache : KMap (List Byte)
  ports : List PortWrite
  relset : KMap (List Nat)
  l2 : KMap L2Block
  asids : KMap Nat
  tlb : List Tlb
  remap : KMap Nat
  poison : List Nat
  walks : List Walk
  faults : KMap FaultRec
  nextRec : KMap Nat
  invals : List Inval
  mons : List (Nat × MonLine)
  aborts : List Nat
  deriving DecidableEq, Repr

/-- What runs: launches, work items, groups by core * 32 + slot, data in flight, engine transfers, collectives, and the
chunks of collectives that no rank here has opened, each with its launch and its block of the relay spill region (09
R209). -/
structure Run where
  launches : KMap Launch
  items : KMap Item
  groups : KMap Group
  flights : List Flight
  xfers : List Xfer
  colls : List Coll
  early : List (Nat × Nat × ChunkName × List Byte)
  deriving DecidableEq, Repr

/-- One entry of the agenda: which agent moves (MODEL). -/
inductive Turn where
  | event (i : Instr)
  | issue (gid : Nat)
  | tick (n : Nat)
  | perform (n : Nat)
  | evict (core line : Nat)
  | evictHome (block : Nat)
  | evictGuest (die block : Nat)
  | readAhead (gid va : Nat)
  | frontRead (pa : Nat)
  | frontDrop (line : Nat)
  | hostWrite (addr : Nat) (data : List Byte)
  | hostPage (page : Nat) (answers : Bool)
  | barRead (off n : Nat)
  deriving DecidableEq, Repr

/-- Whose turn comes (MODEL), with `rr` the group that issued last and `turns` the one that issued last of each core and
priority (03 R74), the counters that name new things, the counter free values are drawn with, the AC cycle
count (15 R324), the cycle up to which the Pacer's accounts have run, and the time since reset in units of 1/349,680 µs,
of which a cycle of each timing class has a whole number (02 R36, R37). -/
structure Ctl where
  agenda : List Turn
  cur : Nat
  rr : Nat
  turns : KMap Nat
  nonce : Nat
  serial : Nat
  clk : Nat
  acct : Nat
  si : Nat
  deriving DecidableEq, Repr

/-- The machine. -/
structure State where
  ctl : Ctl
  mem : Mem
  run : Run
  part : Part
  host : HostIf
  deriving DecidableEq, Repr

/-- Why the machine stops with a fault. -/
inductive Fault where
  /-- Raised by every encoded instruction when no group stands under `ctl.cur`: no agent of the spec executes a word
  then. Safe: a step that fetches has a group, so only an agenda that lists an encoded instruction as an event meets
  it (assumption 53). -/
  | noGroup
  deriving DecidableEq, Repr

/-- Why a step has no meaning. -/
inductive Refusal where
  /-- Raised by an arm of exec whose instruction has no meaning yet. Safe. -/
  | notModelled (mnemonic : String)
  deriving DecidableEq, Repr

/-! ### Reset -/

def Hints.none : Hints := ⟨.none, .none, .none, .none⟩

/-- A group slot's registers as a group starts (04 R79, R93). -/
def Group.fresh : Group where
  launch := 0
  item := 0
  gidx := 0
  stat := .run
  wait := none
  idle := 0
  issued := 0
  pc := 0
  active := 0
  exited := 0
  absent := 0
  ref := 0
  stack := []
  v := []
  s := []
  p := []
  tile := []
  vlive := []
  slive := [(60, true)]
  vkilled := []
  skilled := []
  bound := []
  fpmode := 0
  fpflags := []
  satf := []
  trapvec := 0
  trapcause := 0
  trappc := 0
  traplanes := 0
  trapdst := 0
  trapres := []
  trapinfo := 0
  gdone := 0
  parkNext := 0
  parkLanes := 0
  parkDst := 0
  parkBit := false
  sig := 0
  seen := false
  firstreg := 0
  dfile := false
  trapen := false
  trapDue := none
  checkn := 0
  pq := ⟨0, none, none, none, 0⟩
  hints := Hints.none
  replay := none
  hostAtom := none
  hostAns := none
  tags := []
  opens := []
  batches := []
  lastBatch := 0
  issuedBatches := 0
  mon := .idle
  monEnd := none
  monTimeout := false
  barArr := []
  heatArr := none
  abandoned := []
  txBegun := false
  txEnded := false
  readLines := []
  readOver := false
  ahead := []
  relFence := false
  split := none
  points := 0
  pointed := false
  arrivals := 0

/-- The inventory record the model holds at reset: a Helile 1104 whose six highest sites of each die are disabled
(assumption 4, DESIGN CHOICE). -/
def InvRecord.design : InvRecord where
  serial := 0
  grade := 1104
  seq := 1
  sites := List.replicate 8 [138, 139, 140, 141, 142, 143]
  slices := List.replicate 8 []
  hbms := List.replicate 8 []
  ports := List.replicate 8 []
  positions := [0, 1, 2, 3, 4, 5, 6, 7]
  valid := true

/-- The live HBM4E stacks of a position. -/
def liveStacks (r : InvRecord) (p : Nat) : Nat :=
  ((List.range 2).filter fun k => !((r.hbms.getD p []).contains k)).length

/-- The compute dies that an inventory record gives, all online, in ascending position (01 R13, R16, R20). -/
def diesOf (r : InvRecord) : List Die :=
  if r.valid then
    ((List.range 8).filter fun p => r.positions.contains p).map fun p =>
      ⟨p, 0, (List.range 144).filter fun s => !((r.sites.getD p []).contains s), liveStacks r p, liveStacks r p * 2 ^ 36⟩
  else []

/-- The kind of the link from a position to another, and the two ports it takes: a ring link, a chord, or none
(01 R10). Which bit of a die's harvested ports (01 R13) is which link the spec does not say: 0 to the next position of the
ring, 1 to the one before, 2 to the third after and 3 to the third before is the model's choice (assumption 5). -/
def linkKind (p q : Nat) : Option (Nat × Nat × Nat) :=
  match (q + 8 - p) % 8 with
  | 1 => some (0, 0, 1)
  | 7 => some (0, 1, 0)
  | 3 => some (1, 2, 3)
  | 5 => some (1, 3, 2)
  | _ => none

/-- The ring and chord links between populated positions, none over a disabled port, in ascending order of their
lower and their higher die (01 R10, R11, R20). -/
def linksOf (r : InvRecord) (ds : List Die) : List Link :=
  ((List.range ds.length).map fun a => (List.range ds.length).filterMap fun b =>
    let p := (ds.getD a ⟨0, 0, [], 0, 0⟩).pos
    let q := (ds.getD b ⟨0, 0, [], 0, 0⟩).pos
    if a < b then
      match linkKind p q with
      | some (k, x, y) =>
        if (r.ports.getD p []).contains x || (r.ports.getD q []).contains y then none else some ⟨a, b, k, false⟩
      | none => none
    else none).flatten

/-- The cryogenic machine before the first full sample (02 R32; assumption 7). -/
def Cryo.reset : Cryo :=
  ⟨false, 0, 0, 0, 0, 0, false, false, [], 0, false, 0, none, [], [], [], [], true⟩

def WsWin.idle : WsWin := ⟨0, none, true, false⟩

def Stride.reset : Stride := ⟨[], [], 0, [], [], [], 0, [], [], [], [], [], 0, 0, []⟩

/-- The part as rebuilt from an inventory record at part reset (01 R14, R23; 02 R32). -/
def Part.ofInv (r : InvRecord) (fw fwMin : Nat) (hists : List Hist) : Part where
  inv := r
  store := r
  dies := diesOf r
  links := linksOf r (diesOf r)
  stackState := []
  gen := 0
  fwVersion := fw
  fwStaged := none
  fwMin := fwMin
  measures := [[⟨0, []⟩], [⟨1, [fw]⟩], [⟨2, [r.serial, r.seq]⟩], [⟨3, [fw]⟩]] ++ List.replicate 12 []
  cryo := Cryo.reset
  ws := (diesOf r).map fun _ => WsWin.idle
  hists := hists
  stride := Stride.reset
  pkgid := 0
  nodeid := 0
  compat := false
  relayOut := []
  ueAccepted := 0
  ueDropped := 0
  ueInbox := []
  ueAnswers := []
  ueOut := []
  spdm := []
  off := []
  pool := []
  win := none
  winQ := []

def HostIf.reset : HostIf where
  queues := []
  mailbox := List.replicate 64 0
  busy := false
  mstatus := 0
  apbase := 0
  barOut := []
  barStat := 0
  stalled := []
  mgmt := []
  nodes := []
  history := []
  capW := 3400
  didt := 100
  order := 1
  f := 65536
  accounts := []
  window := []
  asks := []
  wdogMs := 2000
  telBase := 0
  telSlots := 0
  telCount := 0
  lastQueue := 32767
  febuf := []
  doors := []

def Mem.reset : Mem where
  hbm := []
  host := []
  ws := []
  l1 := []
  icache := []
  ports := []
  relset := []
  l2 := []
  asids := []
  tlb := []
  remap := []
  poison := []
  walks := []
  faults := []
  nextRec := []
  invals := []
  mons := []
  aborts := []

def Run.reset : Run := ⟨[], [], [], [], [], [], []⟩
def Ctl.reset : Ctl := ⟨[], 0, 0, [], 0, 0, 0, 0, 0⟩

/-- The machine right after part reset: no launch, no group, no queue, memory with nothing listed, the inventory of
assumption 4, the Pacer and watchdog at their defaults (10 R227, R229). -/
def State.reset : State where
  ctl := Ctl.reset
  mem := Mem.reset
  run := Run.reset
  part := Part.ofInv InvRecord.design 1 1 (List.replicate 6 ⟨[], 0, []⟩)
  host := HostIf.reset

end Sys2Proof.Machine
end

