-- ==== Sys2Proof/Machine/Tree.lean ====
section
/-! DEFINITION. The declared tree and what follows from it (03 R47 to R55): capacities, group counts, coordinates. -/

namespace Sys2Proof.Machine

/-- The depth D of the tree (03 R47). -/
def depth (im : Image) : Nat := im.levels.length

/-- Level k, for k from 1 to D. -/
def levelAt (im : Image) (k : Nat) : Level := im.levels.getD (k - 1) ⟨0, 0, 0, 0⟩

/-- The binding of level k (0 for the thread). -/
def bindAt (im : Image) (k : Nat) : Nat := if k = 0 then 0 else (levelAt im k).bind

/-- The fan-out of level k. -/
def fanAt (im : Image) (k : Nat) : Nat := (levelAt im k).fan

/-- The product of the fan-outs of levels a + 1 to a + n. -/
def fanProd (im : Image) (a : Nat) : Nat → Nat
  | 0 => 1
  | n + 1 => fanProd im a n * fanAt im (a + n + 1)

/-- g(k), the groups of one level-k instance (03 R51). -/
def groupsAt (im : Image) (k : Nat) : Nat := fanProd im 1 (k - 1)

/-- The highest level whose binding is at most b, 0 when there is none. -/
def topLevel (im : Image) (b : Nat) : Nat :=
  (List.range (depth im + 1)).foldl (fun a k => if k ≠ 0 ∧ bindAt im k ≤ b then k else a) 0

/-- The item level: the highest bound to GROUP, CORE or CLUSTER (03 R50). -/
def itemLevel (im : Image) : Nat := topLevel im 3

/-- The highest CORE-bound level, 0 when there is none. -/
def coreLevel (im : Image) : Nat :=
  (List.range (depth im + 1)).foldl (fun a k => if k ≠ 0 ∧ bindAt im k = 2 then k else a) 0

/-- The gang level: the highest bound to DIE or PACKAGE, 0 when there is none (03 R50). -/
def gangLevel (im : Image) : Nat :=
  (List.range (depth im + 1)).foldl
    (fun a k => if k ≠ 0 ∧ (bindAt im k = 4 ∨ bindAt im k = 5) then k else a) 0

def hasCluster (im : Image) : Bool := im.levels.any fun l => l.bind == 3

/-- Groups of one work item. -/
def groupsPerItem (im : Image) : Nat := groupsAt im (itemLevel im)

/-- The group capacity G of a core (03 R51). -/
def groupCap (im : Image) : Nat :=
  let a := min 32 (min (1536 / im.vfoot) (2048 / im.sfoot))
  if im.afoot = 0 then a else min a (32 / im.afoot)

/-- c(k), the cores of one level-k instance (03 R51). -/
def coresAt (im : Image) (k : Nat) : Nat :=
  let c := coreLevel im
  if c = 0 then (groupsAt im k + groupCap im - 1) / groupCap im
  else fanProd im c (k - c)

/-- Work items of one top-level instance. -/
def itemsPerTop (im : Image) : Nat := fanProd im (itemLevel im) (depth im - itemLevel im)

/-- Work items of a launch (03 R55). -/
def itemCount (l : Launch) : Nat := itemsPerTop l.img * l.pkt.lcount

/-- Work items of one gang (03 R50), 1 without a gang level. -/
def itemsPerGang (im : Image) : Nat :=
  if gangLevel im = 0 then 1 else fanProd im (itemLevel im) (gangLevel im - itemLevel im)

/-- A group's number among all groups of the launch: its item's index, then its index in the item (12 R263). -/
def globalGroup (im : Image) (item gidx : Nat) : Nat := item * groupsPerItem im + gidx

/-- The launch-wide index of the level-k instance that holds group number G. -/
def instAt (im : Image) (k g : Nat) : Nat := g / groupsAt im k

/-- LIDX.k (03 R54) of lane `lane` of group number G. -/
def lidx (im : Image) (k g lane : Nat) : Nat :=
  if k = 0 then lane
  else if k < depth im then instAt im k g % fanAt im (k + 1)
  else if k = depth im then instAt im k g
  else 0

/-- LDIM.k (03 R54). -/
def ldim (im : Image) (lcount k : Nat) : Nat :=
  if k = 0 then 1 else if k ≤ depth im then fanAt im k else if k = depth im + 1 then lcount else 0

/-- The lanes that are not absent: those below the fan-out of level 1 (03 R48). -/
def presentLanes (im : Image) : Mask := maskOf fun l => decide (l < fanAt im 1)

/-- The position in its work item's window of the core that group `gidx` runs on (10 R217). -/
def corePos (im : Image) (gidx : Nat) : Nat :=
  if hasCluster im then
    if coreLevel im = 0 then gidx / groupCap im else gidx / groupsAt im (coreLevel im)
  else 0

/-- The highest level below k with a binding, 0 when there is none. -/
def highBelow (im : Image) (b k : Nat) : Nat :=
  (List.range k).foldl (fun a j => if j ≠ 0 ∧ bindAt im j = b then j else a) 0

/-- The package unit of the tree (03 R52): its highest PACKAGE-bound level, or its highest level bound below NODE. -/
def packageUnit (im : Image) : Nat :=
  let p := highBelow im 5 (depth im + 1)
  if p = 0 then topLevel im 5 else p

/-- PKGID and NODEID of the package that runs an instance of the package unit (10 R219): this package's own where no
level tells packages, or nodes, apart. -/
def unitHome (p : Part) (im : Image) (unit : Nat) : Nat × Nat :=
  let u := packageUnit im
  let node := topLevel im 6
  let pod := depth im
  let perNode := fanProd im u (node - u)
  (if node = u then p.pkgid else unit % perNode, if pod = node then p.nodeid else unit / perNode % fanProd im node (pod - node))

/-- Where a work item runs (10 R219). -/
def itemHome (p : Part) (im : Image) (idx : Nat) : Nat × Nat :=
  if bindAt im (depth im) < 6 then (p.pkgid, p.nodeid)
  else unitHome p im (idx / fanProd im (itemLevel im) (packageUnit im - itemLevel im))

/-- The item belongs to this package's share of the launch (10 R219). -/
def ownItem (p : Part) (im : Image) (idx : Nat) : Bool := itemHome p im idx == (p.pkgid, p.nodeid)

end Sys2Proof.Machine
end

