-- ==== Sys2Proof/Machine/Inventory.lean ====
section
/-! DEFINITION. The part's inventory: logical cores, homes, and the enumeration table (01 R16 to R22, 06 R119). -/

namespace Sys2Proof.Machine

/-- The first logical core of a die (01 R16). -/
def core0 (ds : List Die) (d : Nat) : Nat := ((ds.take d).map fun x => x.sites.length).sum

/-- The number of live cores of the package. -/
def coreCount (ds : List Die) : Nat := core0 ds ds.length

/-- The logical die and the index within it of a logical core. -/
def coreDieAux : List Die → Nat → Nat → Nat × Nat
  | [], d, c => (d, c)
  | x :: t, d, c => if c < x.sites.length then (d, c) else coreDieAux t (d + 1) (c - x.sites.length)

def coreDie (ds : List Die) (core : Nat) : Nat := (coreDieAux ds 0 core).1

/-- The site of a logical core. -/
def coreSite (ds : List Die) (core : Nat) : Nat :=
  let p := coreDieAux ds 0 core
  ((ds.getD p.1 ⟨0, 0, [], 0, 0⟩).sites).getD p.2 0

/-- The logical core at a site of a die, when it is live. -/
def coreAtSite (ds : List Die) (d site : Nat) : Option Nat :=
  match ((ds.getD d ⟨0, 0, [], 0, 0⟩).sites).findIdx? (· == site) with
  | some i => some (core0 ds d + i)
  | none => none

/-- DIEBASE (06 R119). -/
def dieBase (ds : List Die) (d : Nat) : Nat := ((ds.take d).map (·.home)).sum

/-- All HBM bytes of the package. -/
def hbmSize (ds : List Die) : Nat := dieBase ds ds.length

/-- The evacuation remap (06 R119): the physical place of an address. -/
def remapOf (remap : KMap Nat) (pa : Nat) : Nat :=
  kget (pa / 2 ^ 21) remap (pa / 2 ^ 21) * 2 ^ 21 + pa % 2 ^ 21

/-- HomeOf (06 R119): die, slice and stack; none for an address without a home. -/
def homeOf (ds : List Die) (remap : KMap Nat) (pa : Nat) : Option (Nat × Nat × Nat) :=
  let q := remapOf remap pa
  match (List.range ds.length).find? fun d => decide (dieBase ds d ≤ q) && decide (q < dieBase ds (d + 1)) with
  | none => none
  | some d =>
    let o := q - dieBase ds d
    some (d, o / 512 % 36, if (ds.getD d ⟨0, 0, [], 0, 0⟩).nstk = 2 then o / 4096 % 2 else 0)

/-! ### CRC-32 (IEEE 802.3) -/

/-- Eight shifts of the reflected CRC-32 register. -/
def crcShift : Nat → Nat → Nat
  | 0, c => c
  | n + 1, c => crcShift n (if c % 2 = 1 then Nat.xor (c / 2) 0xEDB88320 else c / 2)

def crcByte (c : Nat) (b : Byte) : Nat := crcShift 8 (Nat.xor c b.toNat)

/-- The CRC-32 of a list of bytes. -/
def crc32 (bs : List Byte) : Nat := Nat.xor (bs.foldl crcByte 0xFFFFFFFF) 0xFFFFFFFF

/-! ### The latency matrix (01 R21, R22) -/

def linkUp (ls : List Link) (a b : Nat) : Bool :=
  ls.any fun l => !l.down && ((l.a == a && l.b == b) || (l.a == b && l.b == a))

/-- One entry of the 9 × 9 latency matrix. -/
def latency (ds : List Die) (ls : List Link) (i j : Nat) : Nat :=
  let absent (k : Nat) : Bool := decide (k < 8) &&
    (decide (ds.length ≤ k) || (ds.getD k ⟨0, 2, [], 0, 0⟩).state == 2)
  if absent i || absent j then 0xFF
  else if i = 8 ∧ j = 8 then 0xFF
  else if i = 8 ∨ j = 8 then 5
  else if i = j then 2
  else if linkUp ls i j then 3
  else 4

/-! ### The enumeration table (01 R19, R20) -/

def dieRec (ds : List Die) (d : Nat) (x : Die) : List Byte :=
  bytesLe 1 d ++ bytesLe 1 x.pos ++ bytesLe 1 x.state ++ bytesLe 1 x.nstk ++ bytesLe 2 x.sites.length
    ++ bytesLe 2 (core0 ds d) ++ bytesLe 8 x.home

def coreRecs (ds : List Die) (d : Nat) (x : Die) : List Byte :=
  ((List.range x.sites.length).map fun i =>
    let s := x.sites.getD i 0
    bytesLe 2 (core0 ds d + i) ++ bytesLe 1 d ++ bytesLe 1 (s % 12 + 16 * (s / 12)) ++ bytesLe 1 s
      ++ bytesLe 1 x.state ++ bytesLe 2 0).flatten

def sliceRecs (d : Nat) : List Byte :=
  ((List.range 36).map fun t =>
    bytesLe 2 (36 * d + t) ++ bytesLe 1 d ++ bytesLe 1 (2 * (t % 6) + 16 * (2 * (t / 6)))).flatten

def linkRec (l : Link) : List Byte :=
  bytesLe 1 l.a ++ bytesLe 1 l.b ++ bytesLe 1 l.kind ++ bytesLe 1 l.down.toNat

/-- The home die of each logical stack, lower stack first (01 R16). -/
def stackDies (ds : List Die) : List Nat :=
  ((List.range ds.length).map fun d => List.replicate ((ds.getD d ⟨0, 0, [], 0, 0⟩).nstk) d).flatten

def stackRecs (p : Part) : List Byte :=
  let sd := stackDies p.dies
  ((List.range sd.length).map fun k =>
    bytesLe 1 k ++ bytesLe 1 (sd.getD k 0) ++ bytesLe 1 (kget 0 p.stackState k) ++ bytesLe 1 0).flatten

def latencyBytes (p : Part) : List Byte :=
  ((List.range 9).map fun i => (List.range 9).map fun j => BitVec.ofNat 8 (latency p.dies p.links i j)).flatten

/-- The table's bytes in use. R19 gives the arrays' offset fields and no offsets: that they stand in the order of those
fields, one after another from offset 64, with three zeros after the latency matrix that keep the stack records at a
multiple of their size, is the model's choice (assumption 4). With INV_OK clear GRADE and the counts read 0 (01 R14); that
INVSEQ and the offset fields then read 0 too, and TOTALSIZE 64, is the model's choice (assumption 4). -/
def enumBytes (p : Part) : List Byte :=
  let ds := p.dies
  let ok := p.inv.valid
  let n := ds.length
  let recs := ((List.range n).map fun d => dieRec ds d (ds.getD d ⟨0, 0, [], 0, 0⟩)).flatten
  let cores := ((List.range n).map fun d => coreRecs ds d (ds.getD d ⟨0, 0, [], 0, 0⟩)).flatten
  let slices := ((List.range n).map sliceRecs).flatten
  let links := (p.links.map linkRec).flatten
  let lat := if ok then latencyBytes p ++ bytesLe 3 0 else []
  let stackPart := stackRecs p
  let o1 := 64
  let o2 := o1 + recs.length
  let o3 := o2 + cores.length
  let o4 := o3 + slices.length
  let o5 := o4 + links.length
  let o6 := o5 + lat.length
  let total := o6 + stackPart.length
  let flags := ok.toNat + 2 * (ds.any fun d => !(d.state == 0)).toNat
  let off (x : Nat) : List Byte := bytesLe 4 (if ok then x else 0)
  let pre := bytesLe 4 0x54455A4C ++ bytesLe 2 1 ++ bytesLe 2 64 ++ bytesLe 4 total
    ++ bytesLe 2 (if ok then p.inv.grade else 0) ++ bytesLe 1 n ++ bytesLe 1 (stackDies ds).length
    ++ bytesLe 4 (coreCount ds) ++ bytesLe 2 (36 * n) ++ bytesLe 2 p.links.length
    ++ bytesLe 4 (if ok then p.inv.seq else 0) ++ bytesLe 4 flags
    ++ off o1 ++ off o2 ++ off o3 ++ off o4 ++ off o5 ++ off o6 ++ bytesLe 4 p.gen
  let rest := recs ++ cores ++ slices ++ links ++ lat ++ stackPart
  pre ++ bytesLe 4 (crc32 (pre ++ bytesLe 4 0 ++ rest)) ++ rest

/-- `n` bytes of the 64 KiB table at an offset; bytes past its size read zero (01 R18). -/
def enumRead (p : Part) (off n : Nat) : List Byte :=
  let t := (enumBytes p).drop off
  (List.range n).map fun i => t.getD i 0

end Sys2Proof.Machine
end

