-- ==== Sys2Proof/Machine/Post.lean ====
section
/-! DEFINITION. Completion rings and event records (13 R274, R275), and the bytes of HBM and host memory below
every other operation. -/

namespace Sys2Proof.Machine

/-- `n` bytes of a memory from an address. -/
def readCells (m : List Host.Cell) (a n : Nat) : List Byte := (List.range n).map fun i => kget 0 m (a + i)

/-- Bytes written to a memory at an address; the memory keeps its canonical form. -/
def writeCells (m : List Host.Cell) : Nat → List Byte → List Host.Cell
  | _, [] => m
  | a, b :: t => writeCells (kput 0 m a b) (a + 1) t

/-- `n` bytes of HBM from a physical address, through the evacuation remap (06 R119). -/
def readHbm (m : Mem) (pa n : Nat) : List Byte := (List.range n).map fun i => kget 0 m.hbm (remapOf m.remap (pa + i))

/-- Bytes written to HBM at a physical address, through the evacuation remap. -/
def writeHbm (m : Mem) : Nat → List Byte → Mem
  | _, [] => m
  | pa, b :: t => writeHbm { m with hbm := kput 0 m.hbm (remapOf m.remap pa) b } (pa + 1) t

/-! ### Records -/

/-- A fresh timestamp (13 R274): a free value. -/
def freshTime (s : State) : State × Nat :=
  ({ s with ctl := { s.ctl with nonce := s.ctl.nonce + 1 } }, (Config.freeTime s.ctl.nonce).toNat)

/-- Writes one record to its ring (13 R274): slot SEQ mod 2^CSIZE, the PHASE bit by the pass. -/
def ringWrite (m : Mem) (q : Queue) (r : Record) : Mem :=
  let phase := (q.seq / 2 ^ q.csize + 1) % 2
  let bs := bytesLe 2 r.type ++ bytesLe 1 phase ++ bytesLe 1 0 ++ bytesLe 2 r.queue ++ bytesLe 2 0
    ++ bytesLe 4 q.ridx ++ bytesLe 4 0 ++ bytesLe 8 q.seq ++ bytesLe 8 0
    ++ (List.range 32).map fun i => r.payload.getD i 0
  { m with host := writeCells m.host (q.cring + q.seq % 2 ^ q.csize * 64) bs }

/-- Posts a record on the ring of queue `qi`; a full ring keeps it in the ring's buffer (13 R275); a queue that is
not registered has no ring. -/
def post (s : State) (qi : Nat) (r : Record) : State :=
  match kfind s.host.queues qi with
  | none => s
  | some q =>
    if q.seq - q.head = 2 ^ q.csize ∨ q.held ≠ [] then
      { s with host := { s.host with queues := kins s.host.queues qi { q with held := q.held ++ [r] } } }
    else
      { s with
        mem := ringWrite s.mem q r
        host := { s.host with queues := kins s.host.queues qi { q with seq := q.seq + 1 } } }

/-- Whether a unit may post `n` records to a ring: its buffer holds at most 4,096 (13 R275). -/
def canPosts (s : State) (qi n : Nat) : Bool :=
  match kfind s.host.queues qi with
  | none => true
  | some q => decide (q.held.length + n ≤ 4096)

/-- Whether a unit may post one record. -/
def canPost (s : State) (qi : Nat) : Bool := canPosts s qi 1

/-- Moves held records onto a ring that has room. -/
def flushHeld : Nat → State → Nat → State
  | 0, s, _ => s
  | n + 1, s, qi =>
    match kfind s.host.queues qi with
    | none => s
    | some q =>
      match q.held with
      | [] => s
      | r :: t =>
        if q.seq - q.head = 2 ^ q.csize then s
        else flushHeld n
          { s with
            mem := ringWrite s.mem q r
            host := { s.host with queues := kins s.host.queues qi { q with seq := q.seq + 1, held := t } } } qi

/-- An event on queue 0's ring (13 R274): a payload of 24 bytes and then TIME. -/
def postEvent (s : State) (type queue : Nat) (body : List Byte) : State :=
  let t := freshTime s
  post t.1 0 ⟨type, queue, ((List.range 24).map fun i => body.getD i 0) ++ bytesLe 8 t.2⟩

/-- The halt, trap and save event (11 R252). -/
def postHalt (s : State) (launchid core slot kind pc cause info : Nat) : State :=
  postEvent s 6 0 (bytesLe 4 launchid ++ bytesLe 2 core ++ bytesLe 1 slot ++ bytesLe 1 kind ++ bytesLe 7 pc
    ++ bytesLe 1 cause ++ bytesLe 8 info)

/-- The cryogenic event (02 R44). TIME lies in bytes 16 to 23. -/
def postCryo (s : State) (kind oldState newState oldClass newClass sensor : Nat) : State :=
  let t := freshTime s
  let c := t.1.part.cryo
  post t.1 0 ⟨3, 0, bytesLe 1 kind ++ bytesLe 1 oldState ++ bytesLe 1 newState ++ bytesLe 1 oldClass
    ++ bytesLe 1 newClass ++ bytesLe 1 c.band ++ bytesLe 2 (c.temp / 100) ++ bytesLe 4 c.chg
    ++ bytesLe 4 sensor ++ bytesLe 8 t.2 ++ bytesLe 8 0⟩

/-- The inventory-change event (13 R274). -/
def postInv (s : State) (die link : Nat) : State :=
  postEvent s 7 0 (bytesLe 4 s.part.gen ++ bytesLe 1 die ++ bytesLe 1 link)

end Sys2Proof.Machine
end

