-- ==== Sys2Proof/Machine/Ops.lean ====
section
/-! DEFINITION. The named operations over groups, registers and memory that the meanings share: translation and the
address checks (06), the L1, the memory port and release and acquire (07), monitors (17), and taking and returning
from a trap (11). -/

namespace Sys2Proof.Machine

/-! ### Groups, items and launches -/

/-- The group in a slot. -/
def grp (s : State) (gid : Nat) : Option Group := kfind s.run.groups gid

/-- Puts a group in a slot. -/
def setGrp (s : State) (gid : Nat) (g : Group) : State :=
  { s with run := { s.run with groups := kins s.run.groups gid g } }

/-- Frees a slot. -/
def delGrp (s : State) (gid : Nat) : State :=
  { s with run := { s.run with groups := kdel s.run.groups gid } }

def modGrp (s : State) (gid : Nat) (f : Group → Group) : State :=
  { s with run := { s.run with groups := kmod s.run.groups gid f } }

def modItem (s : State) (it : Nat) (f : Item → Item) : State :=
  { s with run := { s.run with items := kmod s.run.items it f } }

def modLaunch (s : State) (l : Nat) (f : Launch → Launch) : State :=
  { s with run := { s.run with launches := kmod s.run.launches l f } }

def setMem (s : State) (m : Mem) : State := { s with mem := m }
def setPart (s : State) (p : Part) : State := { s with part := p }
def setHost (s : State) (h : HostIf) : State := { s with host := h }

/-- A fresh number for the free values. -/
def bumpNonce (s : State) : State := { s with ctl := { s.ctl with nonce := s.ctl.nonce + 1 } }

/-- A fresh name. -/
def bumpSerial (s : State) : State := { s with ctl := { s.ctl with serial := s.ctl.serial + 1 } }

def Packet.zero : Packet := ⟨0, true, 0, false, 0, false, 0, 0, 0, 0, 0, 0, 0⟩
def Ext.zero : Ext := ⟨0, 0, 0, 0, 0, 0, 0, 0, 0, 0, 0, 0, 0, 0, 0, 0⟩
def Image.zero : Image := ⟨0, 0, [], 1, 1, 0, 0, 0, 0, [], 0, 0⟩

/-- A launch before anything of it has been read. -/
def Launch.fresh : Launch where
  queue := 0
  pktIdx := 0
  asid := 0
  ceil := 0
  pkt := Packet.zero
  ext := Ext.zero
  img := Image.zero
  stat := .reading false
  ready := true
  since := 0
  status := 0
  faultK := 0
  succs := []
  arms := []
  armWait := []
  swaps := []
  record := none
  armfail := false
  extra := false
  killed := false
  counters := []
  lastDie := 255
  nextItem := 0
  waiting := []
  endedItems := []
  gone := []
  halted := []
  barBind := []
  barriers := []
  heats := []
  workQ := []
  pool := 0
  ordinals := []
  lasts := []
  logfull := false
  diverged := false
  olog := []
  rlog := []
  replayLog := []
  replayRec := []

/-- A work item before it starts. -/
def Item.fresh : Item where
  launch := 0
  index := 0
  die := 0
  cores := []
  gids := []
  placed := 0
  scr := []
  verScr := []
  vers := []
  relLines := []
  txOpen := false
  trip := false
  range := false
  canc := false
  ord := false
  attempt := 0
  clvl := 0
  rung := 3
  pred := 3
  desc := 0
  scrOff := 0
  scrLen := 0
  headLo := -126
  headHi := 127
  thetas := []
  checked := false
  nonfin := false
  elems := 0
  maxAbs := 0
  maxRel := 0
  committed := false
  trapped := false
  abort := none
  done := false
  cursor := 0
  popped := []
  poppedPos := 0
  queues := []
  preempt := none
  asked := 0
  out := none
  waiters := ([], 0)
  saved := none
  saveParked := false
  area := 0

/-- Everything an instruction of a group needs to know of where it runs. -/
structure Who where
  gid : Nat
  core : Nat
  die : Nat
  asid : Nat
  item : Nat
  own : Nat
  g : Group
  it : Item
  l : Launch
  deriving DecidableEq, Repr

/-- The place of the group in a slot. -/
def who (s : State) (gid : Nat) (g : Group) : Who :=
  let l := (kfind s.run.launches g.launch).getD Launch.fresh
  let core := gid / 32
  { gid := gid, core := core, die := coreDie s.part.dies core, asid := l.asid, item := g.item,
    own := corePos l.img g.gidx, g := g, it := (kfind s.run.items g.item).getD Item.fresh, l := l }

/-! ### Registers (04 R77) -/

/-- A vector register's lanes; v63 reads zero. -/
def rdV (g : Group) (r : Nat) : List W32 := if r = 63 then [] else kget [] g.v r
/-- Lane `l` of a vector register. -/
def rdVl (g : Group) (r l : Nat) : W32 := laneOf 0 (rdV g r) l
/-- A uniform register; s63 reads zero. -/
def rdS (g : Group) (r : Nat) : W64 := if r = 63 then 0 else kget 0 g.s r
/-- A predicate; p7 reads true. -/
def rdP (g : Group) (r : Nat) : Mask := if r = 7 then allLanes else kget 0 g.p r
/-- Writes the lanes of a mask of a vector register; v63 discards. -/
def wrV (g : Group) (r : Nat) (m : Mask) (f : Nat → W32) : Group :=
  if r = 63 then g
  else { g with v := kins g.v r (mkLanes fun l => if Mask.has m l then f l else rdVl g r l) }
/-- Writes a uniform register; s63 discards. -/
def wrS (g : Group) (r : Nat) (x : W64) : Group := if r = 63 then g else { g with s := kins g.s r x }
/-- Writes the lanes of a mask of a predicate; p7 discards. -/
def wrP (g : Group) (r : Nat) (m : Mask) (f : Nat → Bool) : Group :=
  if r = 7 then g
  else { g with p := kins g.p r (maskOf fun l => if Mask.has m l then f l else Mask.has (kget 0 g.p r) l) }
/-- Element (i, j) of a tile (04 R77). -/
def rdTile (g : Group) (a i j : Nat) : W32 := laneOf 0 (kget [] g.tile a) (64 * i + j)
/-- A whole tile written. -/
def wrTile (g : Group) (a : Nat) (f : Nat → Nat → W32) : Group :=
  { g with
    tile := kins g.tile a ((List.range 4096).map fun k => f (k / 64) (k % 64))
    bound := kins g.bound a true }

/-- Slots in use of the reconvergence stack (03 R62). -/
def slotsOf : List Entry → Nat
  | [] => 0
  | .trap _ :: t => 2 + slotsOf t
  | _ :: t => 1 + slotsOf t

/-! ### Windows and translation (06) -/

/-- The windows of the address space (06 R115). -/
inductive Win where
  | global
  | own (o : Nat)
  | peer (p o : Nat)
  | weight (o : Nat)
  | enum (o : Nat)
  | none
  deriving DecidableEq, Repr

/-- The window an address lies in (06 R115). -/
def window (va : Nat) : Win :=
  if va < 0xF0000000000000 then .global
  else if va < 0xF0000000000000 + 0x80000 then .own (va - 0xF0000000000000)
  else if 0xF1000000000000 ≤ va ∧ va < 0xF1000000000000 + 16 * 0x80000 then
    .peer ((va - 0xF1000000000000) / 0x80000) ((va - 0xF1000000000000) % 0x80000)
  else if 0xF2000000000000 ≤ va ∧ va < 0xF2000000000000 + 0x40000000 then .weight (va - 0xF2000000000000)
  else if 0xFFFFFFF0000000 ≤ va ∧ va < 0xFFFFFFF0010000 then .enum (va - 0xFFFFFFF0000000)
  else .none

/-- `n` bytes at an address lie in the global window (06 R115). -/
def inGlobal (va n : Nat) : Bool := decide (va + n ≤ 0xF0000000000000)

/-- What an access asks for. -/
inductive Acc where
  | load | ldw | store | atomic | fetch | engRead | engWrite | mon
  deriving DecidableEq, Repr

/-- The place an address names. -/
inductive Loc where
  | scr (item off : Nat)
  | hbm (pa : Nat)
  | host (a : Nat)
  | weight (a : Nat)
  | enum (o : Nat)
  deriving DecidableEq, Repr

/-- The outcome of the address checks: a place (with its page's CACHE bit), a trap cause, or a translation fault
(its cause, and whether the page is a host page), or a walk that waits for a table line an engine transfer owns (07
R156). -/
inductive Hit where
  | ok (l : Loc) (nocache : Bool)
  | trap (cause : Nat)
  | xlate (cause : Nat) (host : Bool)
  | busy
  deriving DecidableEq, Repr

/-- The region of a physical address is poisoned (06 R140). -/
def poisoned (m : Mem) (pa : Nat) : Bool := m.poison.contains (pa / 2 ^ 21)

/-- A table or page base may be read: it has a home and no poison (06 R131). -/
def homeFree (s : State) (pa n : Nat) : Bool :=
  decide (pa + n ≤ hbmSize s.part.dies) && !poisoned s.mem pa

/-- The size of a page (06 R130). -/
def pageBytes (size : Nat) : Nat :=
  match size with
  | 0 => 2 ^ 12
  | 1 => 2 ^ 16
  | 2 => 2 ^ 20
  | 3 => 2 ^ 24
  | 4 => 2 ^ 28
  | 5 => 2 ^ 32
  | _ => 2 ^ 36

/-- The page sizes of a walk level (06 R130). -/
def sizeAllowed (level size : Nat) : Bool :=
  match level with
  | 2 => size == 5 || size == 6
  | 3 => size == 2 || size == 3 || size == 4
  | 4 => size == 0 || size == 1
  | _ => false

/-- How many entries a page of a size takes (06 R130). -/
def runLen (size : Nat) : Nat :=
  match size with
  | 1 => 16
  | 3 => 16
  | 4 => 256
  | 6 => 16
  | _ => 1

/-- The bits of an entry that must be zero are zero (06 R131). -/
def pteClean (e : Nat) : Bool := bits e 10 2 == 0 && bits e 56 8 == 0

/-! ### Owned lines (07 R155, R156) -/

/-- One number space for every place that can be owned. -/
def locKey : Loc → Nat
  | .scr it o => 2 ^ 64 * (it + 1) + o
  | .hbm pa => pa
  | .host a => 2 ^ 62 + a
  | .weight a => 2 ^ 61 + a
  | .enum o => 2 ^ 60 + o

/-- Some transfer other than `me` owns a line of the bytes [key, key + n). -/
def ownedBy (xs : List Xfer) (me : Nat) (key n : Nat) : Bool :=
  xs.any fun x => !(x.id == me) && x.owned.any fun r => decide (r.1 < key + n) && decide (key < r.1 + r.2.1)

/-- A place is owned by a transfer in flight. -/
def ownedLoc (s : State) (l : Loc) (n : Nat) : Bool := ownedBy s.run.xfers 0 (locKey l) n

/-- In place of the cause of a fault: the walk waits for a line of its tables that an engine transfer owns (07 R156). -/
def walkBusy : Nat := 9

/-- The walk from a table at `level` (06 R130 to R132): a translation, or the cause of the fault (R136). -/
def walkAux (s : State) (die asid va : Nat) : Nat → Nat → Nat → Except Nat Tlb
  | 0, _, _ => .error 1
  | fuel + 1, level, table =>
    let idx := if level = 4 then bits va 12 8 else bits va (56 - 12 * level) 12
    if poisoned s.mem (table + 8 * idx) then .error 1
    else if ownedLoc s (.hbm (table + 8 * idx)) 8 then .error walkBusy
    else
      let e := natLe (readHbm s.mem (table + 8 * idx) 8)
      let addr := bits e 12 44 * 4096
      if !tbit e 0 then .error 0
      else if !pteClean e || decide (2 ≤ bits e 1 2) then .error 1
      else if bits e 1 2 = 0 then
        let tsz := if level = 3 then 2048 * 1 else 32768
        if level = 4 ∨ addr % tsz ≠ 0 ∨ !homeFree s addr 8 then .error 1
        else walkAux s die asid va fuel (level + 1) addr
      else
        let size := bits e 3 3
        if !sizeAllowed level size then .error 1
        else
          let first := idx - idx % runLen size
          if poisoned s.mem (table + 8 * first) then .error 1
          else if ownedLoc s (.hbm (table + 8 * first)) 8 then .error walkBusy
          else
            let f := natLe (readHbm s.mem (table + 8 * first) 8)
            let n := pageBytes size
            let base := bits f 12 44 * 4096 / n * n
            if !tbit f 0 || !pteClean f || !(bits f 1 2 == 1) || !(bits f 3 3 == size) then .error 1
            else if !tbit f 8 && decide (hbmSize s.part.dies < base + n) then .error 1
            else .ok ⟨die, asid, va / n * n, n, base, tbit f 6, tbit f 7, tbit f 8, tbit f 9⟩

/-- A fresh walk in an address space. -/
def walk (s : State) (die asid va : Nat) : Except Nat Tlb :=
  match kfind s.mem.asids asid with
  | none => .error 0
  | some root => walkAux s die asid va 4 1 root

/-- The translation a die holds for an address. -/
def tlbFind (m : Mem) (die asid va : Nat) : Option Tlb :=
  m.tlb.find? fun t => t.die == die && t.asid == asid && decide (t.va ≤ va) && decide (va < t.va + t.size)

/-- The cause of the permission fault of an access through a translation (06 R135). -/
def permFault (acc : Acc) (t : Tlb) : Option Nat :=
  match acc with
  | .store => if t.w then none else some 2
  | .atomic => if t.w then none else some 2
  | .engWrite => if t.w then none else some 2
  | .fetch => if t.x then none else some 3
  | _ => none

/-- Translates an address: a held translation serves when it permits the access, otherwise a walk decides. -/
def translate (s : State) (die asid va : Nat) (acc : Acc) : Except (Nat × Bool) Tlb :=
  let fresh : Except (Nat × Bool) Tlb :=
    match walk s die asid va with
    | .error c => .error (c, false)
    | .ok t => match permFault acc t with
      | some c => .error (c, t.host)
      | none => .ok t
  match tlbFind s.mem die asid va with
  | some t => if (permFault acc t).isNone then .ok t else fresh
  | none => fresh

/-- Keeps a translation for the die; an older one of the same page goes. -/
def fillTlb (s : State) (t : Tlb) : State :=
  let rest := s.mem.tlb.filter fun u => !(u.die == t.die && u.asid == t.asid && u.va == t.va)
  setMem s { s.mem with tlb := t :: rest }

/-- The page a global access translated through stays held. -/
def noteTlb (s : State) (die asid va : Nat) (acc : Acc) : State :=
  match window va with
  | .global => match translate s die asid va acc with
    | .ok t => if s.mem.tlb.contains t then s else fillTlb s t
    | .error _ => s
  | _ => s

/-- Trap causes (11 R240). -/
def cILLEGAL : Nat := 0x01
def cOPERAND : Nat := 0x02
def cDIVERGE : Nat := 0x03
def cFMTDIV : Nat := 0x04
def cFMTILL : Nat := 0x05
def cXLATE : Nat := 0x10
def cPERM : Nat := 0x11
def cALIGN : Nat := 0x12
def cATYPE : Nat := 0x13
def cWWRITE : Nat := 0x14
def cSPACE : Nat := 0x15
def cPOISON : Nat := 0x16
def cLEVEL : Nat := 0x18
def cSTACK : Nat := 0x19
def cSIG : Nat := 0x1A
def cDEAD : Nat := 0x1B
def cSOFT : Nat := 0x20
def cBREAK : Nat := 0x21

/-- The scratchpad part of the checks (06 R116): the position on the window and the offset. -/
def scrHit (w : Who) (p o n : Nat) (acc : Acc) : Hit :=
  match acc with
  | .ldw => .trap cSPACE
  | .fetch => .trap cSPACE
  | _ => if o + n ≤ w.l.img.scratch then .ok (.scr w.item (p * 2 ^ 19 + o)) true else .trap cSPACE

/-- The window, translation and poison checks of an access of `n` bytes (06 R115 to R118, R131, R140). -/
def resolve (s : State) (w : Who) (acc : Acc) (va n : Nat) : Hit :=
  match window va with
  | .none => .trap cSPACE
  | .own o => scrHit w w.own o n acc
  | .peer p o =>
    if hasCluster w.l.img && decide (p < w.l.img.rectW * w.l.img.rectH) then scrHit w p o n acc
    else .trap cSPACE
  | .weight o =>
    match acc with
    | .ldw => .ok (.weight (w.die * 2 ^ 30 + o)) true
    | .engRead => if o + n ≤ 0x40000000 then .ok (.weight (w.die * 2 ^ 30 + o)) true else .trap cSPACE
    | .store => .trap cWWRITE
    | .atomic => .trap cWWRITE
    | .engWrite => .trap cWWRITE
    | _ => .trap cSPACE
  | .enum o =>
    match acc with
    | .load => .ok (.enum o) true
    | .engRead => .trap cPERM
    | .store => .trap cPERM
    | .atomic => .trap cPERM
    | .engWrite => .trap cPERM
    | _ => .trap cSPACE
  | .global =>
    match acc with
    | .ldw => .trap cSPACE
    | _ =>
      match translate s w.die w.asid va acc with
      | .error (c, h) => if c = walkBusy then .busy else .xlate c h
      | .ok t =>
        let a := t.base + (va - t.va)
        if t.host then
          match acc with
          | .mon => .trap cPERM
          | .load => if s.mem.aborts.contains (a / 4096) then .trap cPERM else .ok (.host a) true
          | .engRead => if s.mem.aborts.contains (a / 4096) then .trap cPERM else .ok (.host a) true
          | .fetch => if s.mem.aborts.contains (a / 4096) then .trap cPERM else .ok (.host a) true
          | _ => .ok (.host a) true
        else if poisoned s.mem a then .trap cPOISON
        else .ok (.hbm a) t.nocache

/-- The checks of a thread's access in the order of 06 R117, R115 to R118, translation, poison. -/
def check (s : State) (w : Who) (acc : Acc) (va n : Nat) : Hit :=
  if va % n ≠ 0 then .trap cALIGN
  else resolve s w acc va n

/-! ### Monitors (17 R377, R378) -/

/-- Stores an outcome in an armed monitor. -/
def fireMonitor (g : Group) (o : Nat) : Group :=
  match g.mon with
  | .armed l => { g with mon := .fired l o }
  | _ => g

/-- A write event at a line fires the monitors registered on it. -/
def fireLine (s : State) (l : MonLine) : State :=
  s.mem.mons.foldl (fun s e => if e.2 = l then modGrp s e.1 fun g => fireMonitor g 0 else s) s

/-- A wake event at a line (outcome 1). -/
def wakeLine (s : State) (l : MonLine) : State :=
  s.mem.mons.foldl (fun s e => if e.2 = l then modGrp s e.1 fun g => fireMonitor g 1 else s) s

/-- The lines of 128 bytes that [a, a + n) touches. -/
def linesOf (a n : Nat) : List Nat :=
  if n = 0 then [] else (List.range ((a + n - 1) / 128 - a / 128 + 1)).map (· + a / 128)

def fireHbm (s : State) (pa n : Nat) : State := (linesOf pa n).foldl (fun s k => fireLine s (.hbm k)) s
def fireScr (s : State) (it o n : Nat) : State := (linesOf o n).foldl (fun s k => fireLine s (.scr it k)) s

/-- Removes a group's registration. -/
def dropMon (s : State) (gid : Nat) : State :=
  setMem s { s.mem with mons := s.mem.mons.filter fun e => !(e.1 == gid) }

/-- The home slice of a line, package-wide. -/
def sliceOf (s : State) (pa : Nat) : Nat :=
  match homeOf s.part.dies s.mem.remap pa with
  | some (d, k, _) => 36 * d + k
  | none => 0

/-- Registers a group's monitor; a slice that holds 256 drops its oldest, which is a write event there (17 R377). -/
def addMon (s : State) (gid : Nat) (l : MonLine) : State :=
  let s := dropMon s gid
  let same (e : Nat × MonLine) : Bool := match l, e.2 with
    | .hbm a, .hbm b => sliceOf s (a * 128) == sliceOf s (b * 128)
    | _, _ => false
  let s := if decide (256 ≤ (s.mem.mons.filter same).length) then
      match s.mem.mons.find? same with
      | some e => dropMon (modGrp s e.1 fun g => fireMonitor g 0) e.1
      | none => s
    else s
  setMem s { s.mem with mons := s.mem.mons ++ [(gid, l)] }

/-! ### L1, L2 and the memory port (06 R124 to R126, 07 R148) -/

def l1Key (core line : Nat) : Nat := core * 2 ^ 49 + line

/-- Empties a core's L1 (07 R150). -/
def flashL1 (s : State) (core : Nat) : State :=
  setMem s { s.mem with l1 := s.mem.l1.filter fun e => !(e.1 / 2 ^ 49 == core) }

/-- Drops lines of a core's L1. -/
def dropL1 (s : State) (core : Nat) (ls : List Nat) : State :=
  setMem s { s.mem with l1 := s.mem.l1.filter fun e => !(ls.any fun k => e.1 == l1Key core k) }

/-- The superblocks of a core's L1 that hold a tag, least first (06 R124). -/
def l1Blocks (s : State) (core : Nat) : List Nat :=
  ((s.mem.l1.filter fun e => e.1 / 2 ^ 49 == core).map fun e => e.1 % 2 ^ 49 / 4).eraseDups

/-- A superblock leaves a core's L1 (06 R124). -/
def evictL1 (s : State) (core block : Nat) : State := dropL1 s core ((List.range 4).map (· + 4 * block))

/-- A tag for a line: of the 256 superblocks that fill the 128 KiB one leaves, which one the spec does not say (06 R124;
assumption 18). -/
def takeTag (s : State) (core line : Nat) : State :=
  let bs := l1Blocks s core
  if bs.contains (line / 4) || decide (bs.length < 256) then s
  else bumpNonce (evictL1 s core (bs.getD (Config.freeChoice s.ctl.nonce % 256) 0))

/-- The home die of a place. -/
def homeDie (s : State) (pa : Nat) : Nat :=
  match homeOf s.part.dies s.mem.remap pa with
  | some (d, _) => d
  | none => 0

def L2Part.none : L2Part := ⟨0, 0⟩
def L2Block.none : L2Block := ⟨L2Part.none, []⟩

/-- The bit of a line in its superblock. -/
def lineBit (pa : Nat) : BitVec 4 := BitVec.twoPow 4 (pa / 128 % 4)

/-- A copy that holds no line is gone. -/
def dropEmpty (m : KMap L2Part) : KMap L2Part := m.filter fun e => !(e.2.valid == 0)

/-- Keeps what the L2 and its directory know of a read by a die: with `alloc` a die that is not the home keeps a guest
copy (06 R126). -/
def l2Read (s : State) (die pa : Nat) (alloc : Bool) : State :=
  let e := kget L2Block.none s.mem.l2 (pa / 512)
  let b := lineBit pa
  let home := { e.home with valid := e.home.valid ||| b }
  let g := kget L2Part.none e.guests die
  let e' : L2Block :=
    if homeDie s pa == die || !alloc then { e with home := home }
    else ⟨home, kins e.guests die { g with valid := g.valid ||| b }⟩
  setMem s { s.mem with l2 := kins s.mem.l2 (pa / 512) e' }

/-- A write by a die invalidates every guest copy of the line but its own, a dirty one after it is written back; its own
guest copy is updated and dirty, and otherwise the home copy is (06 R126). A write at the home itself takes no die. -/
def l2Write (s : State) (die pa : Nat) : State :=
  let e := kget L2Block.none s.mem.l2 (pa / 512)
  let b := lineBit pa
  let own := !(homeDie s pa == die) && !((kget L2Part.none e.guests die).valid &&& b == 0)
  let back := e.guests.any fun g => !(g.1 == die) && !(g.2.dirty &&& b == 0)
  let guests := dropEmpty (e.guests.map fun g => (g.1,
    if own && g.1 == die then { g.2 with dirty := g.2.dirty ||| b }
    else ⟨g.2.valid &&& ~~~b, g.2.dirty &&& ~~~b⟩))
  let home : L2Part := ⟨e.home.valid ||| b, if own && !back then e.home.dirty else e.home.dirty ||| b⟩
  setMem s { s.mem with l2 := kins s.mem.l2 (pa / 512) ⟨home, guests⟩ }

/-- A guest superblock is evicted: its dirty lines go back to the home (06 R126). -/
def evictGuest (s : State) (die block : Nat) : State :=
  let e := kget L2Block.none s.mem.l2 block
  let g := kget L2Part.none e.guests die
  setMem s { s.mem with
    l2 := kput L2Block.none s.mem.l2 block
      ⟨{ e.home with dirty := e.home.dirty ||| g.dirty }, kdel e.guests die⟩ }

/-- A home superblock is evicted: its guest copies are recalled, then its dirty lines go to HBM (06 R126). -/
def evictHome (s : State) (block : Nat) : State := setMem s { s.mem with l2 := kdel s.mem.l2 block }

/-- The buffered writes of a core, and those that any core has sent on, laid over one byte. -/
def overlay (ws : List PortWrite) (core : Nat) (host : Bool) (a : Nat) (b : Byte) : Byte :=
  ws.foldl (fun b w =>
    if (w.core = core ∨ w.sent) ∧ w.host = host ∧ w.addr ≤ a ∧ a < w.addr + w.data.length then
      w.data.getD (a - w.addr) b else b) b

/-- What the cores of a port see of HBM: the home's bytes under the core's own buffered writes (06 R124). -/
def portHbm (s : State) (core pa n : Nat) : List Byte :=
  (List.range n).map fun i => overlay s.mem.ports core false (pa + i) ((readHbm s.mem (pa + i) 1).getD 0 0)

/-- What a core sees of host memory: a read follows what the part has sent to the host before it (07 R148). -/
def portHost (s : State) (core a n : Nat) : List Byte :=
  (List.range n).map fun i => overlay s.mem.ports core true (a + i) (kget 0 s.mem.host (a + i))

/-- The front end's read buffers hold a line that a group has written since (07 R150). -/
def staleFront (s : State) (gid : Nat) (ls : List Nat) : State :=
  setHost s { s.host with
    febuf := s.host.febuf.map fun e =>
      if ls.contains e.1 && !e.2.2.contains gid then (e.1, e.2.1, e.2.2 ++ [gid]) else e }

/-- The front end's read buffers drop lines that the part itself or the host writes (assumption 57). -/
def dropFront (s : State) (ls : List Nat) : State :=
  setHost s { s.host with febuf := s.host.febuf.filter fun e => !(ls.contains e.1) }

/-- Performs one buffered write (07 R148): visible to every agent from this instant. -/
def performWrite (s : State) (w : PortWrite) : State :=
  if w.host then setMem s { s.mem with host := writeCells s.mem.host w.addr w.data }
  else
    let s := setMem s (writeHbm s.mem w.addr w.data)
    let s := l2Write s (coreDie s.part.dies w.core) w.addr
    fireHbm (staleFront s w.gid (linesOf w.addr w.data.length)) w.addr w.data.length

/-- Two writes of one core, or one sent on and a later one, touch a common byte. -/
def overlaps (a b : PortWrite) : Bool :=
  (a.core == b.core || a.sent) && a.host == b.host && decide (a.addr < b.addr + b.data.length)
    && decide (b.addr < a.addr + a.data.length)

/-- The buffered writes in the order they were accepted, each with whether it is performed when those that `p` selects
are: a write that a later performed one overlaps goes before it (07 R148). -/
def pickWrites (p : PortWrite → Bool) : List PortWrite → List (PortWrite × Bool)
  | [] => []
  | w :: t =>
    let r := pickWrites p t
    (w, p w || r.any fun u => u.2 && overlaps w u.1) :: r

/-- Performs the buffered writes that `p` selects, and before each of them the earlier ones it overlaps (07 R148,
R150). -/
def drainWhere (s : State) (p : PortWrite → Bool) : State :=
  let r := pickWrites p s.mem.ports
  let kept := (r.filter fun u => !u.2).map (·.1)
  (r.filter (·.2)).foldl (fun s u => performWrite s u.1) (setMem s { s.mem with ports := kept })

/-- A write happens before what the group does next: its own, or one of its core that it has seen (07 R146). -/
def writeBefore (gid : Nat) (w : PortWrite) : Bool := w.gid == gid || w.seen.contains gid

/-- The writes to host memory that a group's release covers go out on PCI Express, ahead of every later access of the part
to the host's memory; they are not acknowledged (07 R148, R150, R152). -/
def sendHost (s : State) (gid : Nat) : State :=
  setMem s { s.mem with ports := s.mem.ports.map fun w => if w.host && writeBefore gid w then { w with sent := true } else w }

/-- The release wait of a level bound above CORE (07 R150): every earlier write of the group is performed, and every
write of a sibling group that may happen before the release (R146, R148); host-memory writes are sent, and at SYSTEM they
and those sent before are acknowledged. -/
def drainTo (s : State) (sys : Bool) (gid : Nat) : State :=
  if sys then drainWhere s fun w => writeBefore gid w || (w.host && w.sent)
  else sendHost (drainWhere s fun w => writeBefore gid w && !w.host) gid

/-- The release wait at SYSTEM: host-memory writes are acknowledged, and the front end's read buffers drop the lines that
the group wrote (07 R150). -/
def drainGroup (s : State) (gid : Nat) : State :=
  let s := drainTo s true gid
  setHost s { s.host with febuf := s.host.febuf.filter fun e => !(e.2.2.contains gid) }

/-- A group of a core acquires: what the core's port holds may happen before its later accesses (07 R146). -/
def seeWrites (s : State) (core gid : Nat) : State :=
  setMem s { s.mem with
    ports := s.mem.ports.map fun w =>
      if w.core = core ∧ !(w.seen.contains gid) then { w with seen := w.seen ++ [gid] } else w }

/-- The loads that a group performs after this are not yet performed (07 R146, R151). -/
def dropAhead (s : State) (gid : Nat) : State := modGrp s gid fun g => { g with ahead := [] }

/-- The 8-byte units of a place. -/
def unitsOf (l : Loc) (n : Nat) : List Nat :=
  (List.range ((locKey l + n - 1) / 8 - locKey l / 8 + 1)).map (· + locKey l / 8)

/-- An access of the group to a place ends what an earlier load of it had read ahead (07 R148). -/
def endAhead (g : Group) (l : Loc) (n : Nat) : Group :=
  if g.ahead.isEmpty then g else { g with ahead := g.ahead.filter fun e => !((unitsOf l n).contains e.1) }

/-- Performs every write of a core (07 R153). -/
def drainCore (s : State) (core : Nat) : State := drainWhere s fun w => w.core == core

/-! ### Reading and writing a place -/

/-- How a load treats the L1: may it hit, may it fill, may a miss leave a guest line (06 R124, R125). -/
structure L1Mode where
  hit : Bool
  fill : Bool
  guest : Bool
  deriving DecidableEq, Repr

/-- The line of an L1 that holds a place. -/
def l1Line (s : State) (core pa : Nat) : Option (List Byte) := kfind s.mem.l1 (l1Key core (pa / 128))

/-- Whether a load of a place would hit the core's L1. -/
def l1Hit (s : State) (w : Who) (md : L1Mode) (l : Loc) : Bool :=
  match l with
  | .hbm pa => md.hit && (l1Line s w.core pa).isSome
  | _ => false

/-- The scratchpad versions of a work item laid over bytes (08 R177). -/
def verOver (m : KMap Byte) (a : Nat) (bs : List Byte) : List Byte :=
  (List.range bs.length).map fun i => (kfind m (a + i)).getD (bs.getD i 0)

/-- Writes version bytes. -/
def verPut (m : KMap Byte) : Nat → List Byte → KMap Byte
  | _, [] => m
  | a, b :: t => verPut (kins m a b) (a + 1) t

/-- One write of a transaction over the bytes written so far and those of memory (08 R177). -/
def verStep (base : Nat → Byte) (m : KMap Byte) : VerWrite → KMap Byte
  | .bytes pa data => verPut m pa data
  | .op d =>
    let old := natLe ((List.range d.bytes).map fun i => (kfind m (d.pa + i)).getD (base (d.pa + i)))
    verPut m d.pa (bytesLe d.bytes (addendVal d.op d.bytes old d.x d.y))
  | .opAt d pas =>
    let old := natLe (pas.map fun a => (kfind m a).getD (base a))
    (pas.zip (bytesLe d.bytes (addendVal d.op d.bytes old d.x d.y))).foldl (fun m e => kins m e.1 e.2) m

/-- The bytes that a transaction's writes leave, in program order, over those of memory (08 R177). -/
def verMap (base : Nat → Byte) (vs : List VerWrite) : KMap Byte := vs.foldl (verStep base) []

/-- The HBM bytes at an address as a work item sees them over what memory or its caches give. -/
def verView (i : Item) (base : Nat → Byte) (pa n : Nat) : List Byte :=
  let m := if i.txOpen then verMap base i.vers else []
  (List.range n).map fun k => (kfind m (pa + k)).getD (base (pa + k))

/-- What loads performed ahead of their turn have read, laid over bytes. -/
def aheadOver (g : Group) (l : Loc) (bs : List Byte) : List Byte :=
  if g.ahead.isEmpty then bs
  else (List.range bs.length).map fun k =>
    match kfind g.ahead ((locKey l + k) / 8) with
    | some u => u.getD ((locKey l + k) % 8) 0
    | none => bs.getD k 0

/-- A byte of HBM as a load of a core finds it: in the L1 where it may hit, and otherwise at the home under the core's
own buffered writes (06 R124). -/
def loadByte (s : State) (w : Who) (md : L1Mode) (a : Nat) : Byte :=
  match (if md.hit then l1Line s w.core a else none) with
  | some bs => bs.getD (a % 128) 0
  | none => (portHbm s w.core a 1).getD 0 0

/-- The bytes a thread reads at a place (06 R124, R127; 07 R149; 08 R177). -/
def readLoc (s : State) (w : Who) (md : L1Mode) (l : Loc) (n : Nat) : List Byte :=
  aheadOver w.g l (match l with
  | .scr it o =>
    let i := (kfind s.run.items it).getD Item.fresh
    verOver (if i.txOpen then i.verScr else []) o (readCells i.scr o n)
  | .hbm pa => verView w.it (loadByte s w md) pa n
  | .host a => portHost s w.core a n
  | .weight a => readCells s.mem.ws a n
  | .enum o => enumRead s.part o n)

/-- What a load leaves in the caches: a miss fills the line (06 R124), and the directory knows the reader. -/
def touchLoad (s : State) (w : Who) (md : L1Mode) (l : Loc) (nocache : Bool) : State :=
  match l with
  | .hbm pa =>
    if l1Hit s w md l then s
    else
      let s := l2Read s w.die pa md.guest
      if md.fill && !nocache then
        let s := takeTag s w.core (pa / 128)
        let line := portHbm s w.core (pa / 128 * 128) 128
        setMem s { s.mem with l1 := kins s.mem.l1 (l1Key w.core (pa / 128)) line }
      else s
  | _ => s

/-- Records an HBM line read, for a REMOTE fence (07 R154). -/
def noteRead (g : Group) (l : Loc) : Group :=
  match l with
  | .hbm pa =>
    if g.readLines.contains (pa / 128) then g
    else if g.readLines.length < 64 then { g with readLines := g.readLines ++ [pa / 128] }
    else { g with readOver := true }
  | _ => g

/-- The home directory notes a core that writes a line with release order; a ninth core promotes the eight
first (07 R153). -/
def noteRelease (s : State) (core pa : Nat) : State :=
  let line := pa / 128
  let cs := kget [] s.mem.relset line
  if cs.contains core then s
  else if cs.length < 8 then setMem s { s.mem with relset := kins s.mem.relset line (cs ++ [core]) }
  else
    let s := cs.foldl drainCore s
    setMem s { s.mem with relset := kins s.mem.relset line [core] }

/-- Promotion of a line for an acquire (07 R153): every core of its set but the reader's performs its writes. -/
def promoteLine (s : State) (core line : Nat) : State :=
  let s := ((kget [] s.mem.relset line).filter fun c => !(c == core)).foldl drainCore s
  setMem s { s.mem with relset := kdel s.mem.relset line }

/-- The lines of a store in the writing core's own L1 follow it (06 R124). -/
def storeL1 (s : State) (core pa : Nat) (bs : List Byte) : State :=
  let k := l1Key core (pa / 128)
  match kfind s.mem.l1 k with
  | none => s
  | some old =>
    let line := (List.range 128).map fun i =>
      if pa % 128 ≤ i ∧ i < pa % 128 + bs.length then bs.getD (i - pa % 128) 0 else old.getD i 0
    setMem s { s.mem with l1 := kins s.mem.l1 k line }

/-- The conflict rank of a work item: LAUNCHID, then tile index (08 R178). -/
def txRank (s : State) (it : Nat) : Nat :=
  let i := (kfind s.run.items it).getD Item.fresh
  let l := (kfind s.run.launches i.launch).getD Launch.fresh
  l.pkt.launchid.toNat * 2 ^ 64 + i.index

/-! ### The order log (12 R263 to R268) -/

/-- RECORD that still appends. -/
def recording (l : Launch) : Bool := l.pkt.det == 1 && !l.logfull

/-- REPLAY that still forces. -/
def replaying (l : Launch) : Bool := l.pkt.det == 2 && !l.diverged

/-- The launch of a number. -/
def launchOf (s : State) (lid : Nat) : Launch := (kfind s.run.launches lid).getD Launch.fresh

/-- Two entries of one stream: KIND and KEY, and the work item for a scratchpad location (12 R263). -/
def sameStream (byItem : Bool) (a b : LogEntry) : Bool :=
  a.kind == b.kind && a.key == b.key && (!byItem || a.value % 2 ^ 32 == b.value % 2 ^ 32)

/-- Whether a choice may be made now (12 R266). -/
inductive Go where
  | go | hold | diverge
  deriving DecidableEq, Repr

/-- The turn of a choice: under REPLAY every earlier entry of its stream comes first, and a choice without an entry
diverges (R268). -/
def turnOf (l : Launch) (byItem : Bool) (e : LogEntry) : Go :=
  if !replaying l then .go
  else match l.replayLog.find? (sameStream byItem e) with
    | none => .diverge
    | some x => if x = e then .go else if l.replayLog.contains e then .hold else .diverge

/-- Appends an entry under RECORD; a region that is full sets LOGFULL (12 R264). -/
def appendLog (l : Launch) (e : LogEntry) : Launch :=
  if !recording l then l
  else
    let put := decide (64 + 16 * (l.olog.length + 1) ≤ l.ext.ologsize)
    { l with
      olog := if put then l.olog ++ [e] else l.olog
      logfull := decide (l.ext.ologsize < 64 + 16 * (l.olog.length + 2)) }

/-- Makes a choice: appended under RECORD, consumed under REPLAY, DIVERGED when it has no entry. -/
def choose (s : State) (lid : Nat) (byItem : Bool) (e : LogEntry) : State :=
  modLaunch s lid fun l =>
    match turnOf l byItem e with
    | .diverge => { l with diverged := true }
    | _ => if replaying l then { l with replayLog := l.replayLog.erase e } else appendLog l e

/-- The log entry of a pre-emption of a group that had reached `n` points, the one it stops at among them (12 R263, KIND
4). -/
def swapLog (idx gidx n : Nat) : LogEntry := ⟨4, 0, idx % 2 ^ 32 + gidx * 2 ^ 32 + n % 2 ^ 23 * 2 ^ 41⟩

/-- The log entry is a pre-emption of a group of a work item. -/
def swapOf (idx gidx : Nat) (e : LogEntry) : Bool := e.kind == 4 && e.value % 2 ^ 41 == idx % 2 ^ 32 + gidx * 2 ^ 32

/-- REPLAY stops the group once it has reached `n` points: its next pre-emption in the log says so (12 R266). -/
def stopsAt (l : Launch) (idx gidx n : Nat) : Bool :=
  replaying l && l.replayLog.find? (swapOf idx gidx) == some (swapLog idx gidx n)

/-- REPLAY stops the group at its next instruction boundary: the log has a pre-emption for as many points as it has reached
(11 R248; 12 R266; assumption 60). -/
def swapHeld (s : State) (g : Group) : Bool :=
  (kfind s.run.items g.item).any fun i => stopsAt (launchOf s g.launch) i.index g.gidx g.points

/-- REPLAY gives up where a group ends before a pre-emption that the log has for it (12 R268). -/
def loseSwaps (s : State) (g : Group) : State :=
  match kfind s.run.items g.item with
  | none => s
  | some i => modLaunch s g.launch fun l =>
    if replaying l && l.replayLog.any (swapOf i.index g.gidx) then { l with diverged := true } else l

/-- The log entry of a conflict abort (12 R263, KIND 8). -/
def conflictEntry (i : Item) : LogEntry := ⟨8, 0, i.index % 2 ^ 32 + i.attempt % 256 * 2 ^ 32⟩

/-- The log aborts the current attempt of a work item at its TXEND (12 R266). -/
def doomed (s : State) (item : Nat) : Bool :=
  (kfind s.run.items item).any fun i =>
    (kfind s.run.launches i.launch).any fun l => replaying l && l.replayLog.contains (conflictEntry i)

/-- A versioned write, no deferred operation, touches a line (08 R178). -/
def VerWrite.touches (line : Nat) : VerWrite → Bool
  | .bytes pa data => (linesOf pa data.length).contains line
  | .op _ => false
  | .opAt _ _ => false

/-- Another work item whose open transaction holds a version of a line (08 R178), but for an attempt that the log aborts at
its TXEND (12 R266). -/
def holderOf (s : State) (me line : Nat) : Option Nat :=
  (s.run.items.find? fun e => !(e.1 == me) && e.2.txOpen && e.2.abort.isNone && !(doomed s e.1)
    && e.2.vers.any (VerWrite.touches line)).map (·.1)

/-- Marks a work item's attempt for an abort, unless one is marked already; a conflict is logged when it is chosen (12
R263, R264). -/
def markAbort (s : State) (it : Nat) (a : Abort) : State :=
  match kfind s.run.items it with
  | none => s
  | some i =>
    if i.abort.isSome then s
    else
      let s := modItem s it fun i => { i with abort := some a }
      if a.conflict then choose s i.launch false (conflictEntry i) else s

/-- A write of an open transaction at a line of HBM (08 R178): the state after a conflict, and whether the writer keeps
the line. An attempt that the log aborts later goes on with a version of its own (12 R266). -/
def txClaim (s : State) (item line : Nat) : Bool × State :=
  match holderOf s item line with
  | none => (true, s)
  | some other =>
    if doomed s item then (true, s)
    else if txRank s other < txRank s item then
      (false, markAbort s item ⟨((kfind s.run.items item).getD Item.fresh).rung, true, false, true⟩)
    else (true, markAbort s other ⟨((kfind s.run.items other).getD Item.fresh).rung, true, false, true⟩)

/-- A store accepted by a core's port: b128 data go as two halves, which are unordered (07 R145, R148). -/
def portPush (s : State) (w : Who) (host : Bool) (a : Nat) (bs : List Byte) (release : Bool) : State :=
  let one (a : Nat) (bs : List Byte) : PortWrite := ⟨w.core, w.gid, host, a, bs, release, [], false⟩
  setMem s { s.mem with
    ports := s.mem.ports ++ (if bs.length = 16 then [one a (bs.take 8), one (a + 8) (bs.drop 8)] else [one a bs]) }

/-- Stores bytes at a place for a group (18 R407, 08 R177): scratchpad bytes at once or as versions, HBM bytes as
versions with the conflict rule, or through the core's memory port, host bytes through the port. -/
def storeLoc (s : State) (w : Who) (release : Bool) (l : Loc) (bs : List Byte) : State :=
  let i := (kfind s.run.items w.item).getD Item.fresh
  let s := modGrp s w.gid fun g => endAhead g l bs.length
  match l with
  | .scr it o =>
    let off := o % 2 ^ 19
    if i.txOpen && it == w.item && o / 2 ^ 19 == w.own && decide (i.scrOff ≤ off)
        && decide (off + bs.length ≤ i.scrOff + i.scrLen) then
      modItem s it fun i => { i with verScr := verPut i.verScr o bs }
    else
      let s := modItem s it fun i => { i with scr := writeCells i.scr o bs }
      fireScr s it o bs.length
  | .hbm pa =>
    if i.txOpen then
      let r := txClaim s w.item (pa / 128)
      if r.1 then
        modItem r.2 w.item fun i =>
          { i with
            vers := i.vers ++ [.bytes pa bs]
            relLines := if release then i.relLines ++ [(w.core, pa / 128)] else i.relLines }
      else r.2
    else
      let s := storeL1 s w.core pa bs
      let s := if release then noteRelease s w.core pa else s
      portPush s w false pa bs release
  | .host a => portPush s w true a bs release
  | _ => s

/-- A write of bytes to host memory behind those that the part has sent (07 R148). -/
def writeHost (s : State) (a : Nat) (bs : List Byte) : State :=
  let s := drainWhere s fun w => w.host && w.sent
  setMem s { s.mem with host := writeCells s.mem.host a bs }

/-- A write that an engine or the part performs at once, at the home (07 R148). -/
def writeNow (s : State) (die : Nat) (l : Loc) (bs : List Byte) : State :=
  match l with
  | .scr it o => fireScr (modItem s it fun i => { i with scr := writeCells i.scr o bs }) it o bs.length
  | .hbm pa => fireHbm (l2Write (setMem s (writeHbm s.mem pa bs)) die pa) pa bs.length
  | .host a => writeHost s a bs
  | _ => s

/-- What an engine or the part reads at the home, without any version or L1. -/
def readNow (s : State) (l : Loc) (n : Nat) : List Byte :=
  match l with
  | .scr it o => readCells ((kfind s.run.items it).getD Item.fresh).scr o n
  | .hbm pa => readHbm s.mem pa n
  | .host a => (List.range n).map fun i => overlay (s.mem.ports.filter (·.sent)) 0 true (a + i) (kget 0 s.mem.host (a + i))
  | .weight a => readCells s.mem.ws a n
  | .enum o => enumRead s.part o n

/-! ### Levels (07 R150) -/

/-- A level operand is bound above CORE; SYSTEM (13) and REMOTE (14) are. -/
def aboveCore (im : Image) (lvl : Nat) : Bool := decide (13 ≤ lvl) || decide (3 ≤ bindAt im lvl)

/-- The wait of a release at a level (07 R150): host-memory writes and the front end's read buffers only at SYSTEM
(R152). -/
def releaseAt (s : State) (w : Who) (lvl : Nat) : State :=
  if lvl = 13 then drainGroup s w.gid else if aboveCore w.l.img lvl then drainTo s false w.gid else s

/-- What an acquire at a level does (07 R146, R150): the L1 is invalidated at a level above CORE. -/
def acquireAt (s : State) (w : Who) (lvl : Nat) : State :=
  let s := if lvl = 0 then s else dropAhead (seeWrites s w.core w.gid) w.gid
  if aboveCore w.l.img lvl then flashL1 s w.core else s

/-- An acquire FENCE or acquire access ends the list of the lines that the group has read (07 R154). -/
def forgetReads (s : State) (gid : Nat) : State := modGrp s gid fun g => { g with readLines := [], readOver := false }

/-- Every core that holds a group of a launch. -/
def launchCores (s : State) (lid : Nat) : List Nat :=
  ((s.run.groups.filter fun e => e.2.launch == lid).map fun e => e.1 / 32).eraseDups

/-- The promotion of an acquire FENCE with LVL = REMOTE (07 R154). -/
def promoteReads (s : State) (w : Who) : State :=
  if w.g.readOver then (launchCores s w.g.launch).foldl drainCore s
  else w.g.readLines.foldl (fun s k => promoteLine s w.core k) s

/-! ### Fault records (06 R135, R136) -/

/-- The access class of a record's KIND (06 R136): write-like or read. -/
def writeLike (kind : Nat) : Bool := kind == 1 || kind == 2 || kind == 5

/-- The traffic of a save, which is write-like (06 R136, KIND 6). -/
def savesTo (s : State) (a : Agent) : Bool :=
  match a with
  | .save it => ((kfind s.run.items it).getD Item.fresh).saved.isNone
  | _ => false

/-- The pending record of a pool that a fault attaches to (06 R136). -/
def recordOf (s : State) (pool asid va : Nat) (wr : Bool) : Option (Nat × FaultRec) :=
  s.mem.faults.find? fun e =>
    e.1 / 2 ^ 24 == pool && e.2.asid == asid && e.2.va == va / 4096 * 4096 && e.2.wr == wr

/-- A pool holds 256 records; a fault that finds none free and joins none waits (06 R136), and so does one whose event
finds the buffer of queue 0's ring full (13 R275). -/
def poolFull (s : State) (pool asid va : Nat) (wr : Bool) : Bool :=
  (decide (256 ≤ (s.mem.faults.filter fun e => e.1 / 2 ^ 24 == pool).length) || !canPost s 0)
    && (recordOf s pool asid va wr).isNone

/-- Opens or joins a fault record of an access class for an agent; `pool` is the logical die or 0xFF for the front
end. -/
def openFaultAs (wr : Bool) (s : State) (pool asid va kind cause : Nat) (hostat : Bool) (core : Nat) (a : Agent) : State :=
  let page := va / 4096 * 4096
  match recordOf s pool asid va wr with
  | some (id, _) =>
    setMem s { s.mem with faults := kmod s.mem.faults id fun r => { r with agents := r.agents ++ [(a, va, kind)] } }
  | none =>
    let n := kget 0 s.mem.nextRec pool
    let id := pool * 2 ^ 24 + n % 2 ^ 24
    let s := setMem s { s.mem with
      faults := kins s.mem.faults id ⟨asid, page, wr, kind, cause, hostat, core, [(a, va, kind)]⟩
      nextRec := kins s.mem.nextRec pool (n + 1) }
    postEvent s 4 0 (bytesLe 4 id ++ bytesLe 1 asid ++ bytesLe 1 kind ++ bytesLe 1 cause
      ++ bytesLe 1 hostat.toNat ++ bytesLe 8 page ++ bytesLe 2 core)

/-- Opens or joins a fault record of the class of its KIND. -/
def openFault (s : State) (pool asid va kind cause : Nat) (hostat : Bool) (core : Nat) (a : Agent) : State :=
  openFaultAs (writeLike kind || savesTo s a) s pool asid va kind cause hostat core a

/-! ### The reconvergence stack's slots and their spill (03 R62, R66) -/

/-- The two words of each slot of an entry, the lower slot first (03 R62; 11 R238). -/
def entrySlots : Entry → List (W64 × W64)
  | .div pc m => [(BitVec.ofNat 64 (pc % 2 ^ 56), m)]
  | .pend pc m => [(BitVec.ofNat 64 (pc % 2 ^ 56 + 2 ^ 62), m)]
  | .trap e =>
    [(BitVec.ofNat 64 (e.pc % 2 ^ 56 + e.cause % 64 * 2 ^ 56 + 2 ^ 63), e.active),
      (BitVec.ofNat 64 (e.dst % 256 + e.restarting.toNat * 2 ^ 8 + e.gather.toNat * 2 ^ 9 + e.sig.toNat * 2 ^ 10 + 2 ^ 63),
        e.lanes)]

/-- The slots of a stack in the order they were pushed. -/
def stackSlots (st : List Entry) : List (W64 × W64) := (st.reverse.map entrySlots).flatten

/-- The 16 bytes of a slot. -/
def slotBytes (x : W64 × W64) : List Byte := bytesLe 8 x.1.toNat ++ bytesLe 8 x.2.toNat

/-- An entry as its slots stand in memory, where they do; the address after a trapping instruction is not in them. -/
def readEntry (e : Entry) (lo hi : Option (W64 × W64)) : Entry :=
  match e with
  | .trap t =>
    let t := match lo with
      | some x => { t with pc := x.1.toNat % 2 ^ 56, cause := bits x.1.toNat 56 6, active := x.2 }
      | none => t
    match hi with
    | some x => .trap { t with
        dst := bits x.1.toNat 0 8
        restarting := tbit x.1.toNat 8
        gather := tbit x.1.toNat 9
        sig := BitVec.ofNat 23 (bits x.1.toNat 10 23)
        lanes := x.2 }
    | none => .trap t
  | e => match lo with
    | none => e
    | some x => if bits x.1.toNat 62 2 = 0 then .div (x.1.toNat % 2 ^ 56) x.2 else .pend (x.1.toNat % 2 ^ 56) x.2

/-- One byte written through an address space, where it translates. -/
def storeVa (s : State) (die asid va : Nat) (b : Byte) : State :=
  match translate s die asid va .engWrite with
  | .error _ => s
  | .ok t =>
    let a := t.base + (va - t.va)
    if t.host then writeHost s a [b]
    else if poisoned s.mem a then s
    else fireHbm (l2Write (setMem (dropFront s [a / 128]) (writeHbm s.mem a [b])) die a) a 1

/-- Consecutive bytes written through an address space. -/
def storeVas (s : State) (die asid : Nat) : Nat → List Byte → State
  | _, [] => s
  | va, b :: t => storeVas (storeVa s die asid va b) die asid (va + 1) t

/-- One byte read through an address space, where it translates. -/
def loadVa (s : State) (die asid va : Nat) : Option Byte :=
  match translate s die asid va .engRead with
  | .error _ => none
  | .ok t =>
    let a := t.base + (va - t.va)
    (readNow s (if t.host then .host a else .hbm a) 1).head?

/-- The bytes of a work item's spill area: SPILLSLOTS slots for each of its groups (03 R66). -/
def areaBytes (im : Image) : Nat := 16 * im.spill * groupsPerItem im

/-- The address of a slot of a group's spill area: the areas of the resident work items of a launch lie one after
another from the start of its reserved memory (03 R66; assumption 33). -/
def spillVa (w : Who) (g : Group) (k : Nat) : Nat :=
  w.l.ext.resv + w.it.area * areaBytes w.l.img + 16 * (g.gidx * w.l.img.spill + k)

/-- The first slot that the spill or refill of a stack going from `a` to `b` slots touches and that does not
translate, with the CAUSE (03 R66; 06 R135), or whose line an engine transfer owns, with `walkBusy` (07 R156). -/
def spillFault (s : State) (w : Who) (g : Group) (a b : Nat) : Option (Nat × Nat) :=
  let lo := min a b - 32
  (List.range (max a b - 32 - lo)).findSome? fun k =>
    let va := spillVa w g (lo + k)
    match translate s w.die w.asid va (if a < b then .engWrite else .engRead) with
    | .ok t => if !t.host && ownedLoc s (.hbm (t.base + (va - t.va))) 16 then some (va, walkBusy) else none
    | .error (c, _) => some (va, c)

/-- The slots `lo` to `lo + n - 1` of a stack written to the group's spill area. -/
def spillSlots (s : State) (w : Who) (g : Group) (st : List Entry) (lo n : Nat) : State :=
  (List.range n).foldl (fun s k =>
    storeVas s w.die w.asid (spillVa w g (lo + k)) (slotBytes ((stackSlots st).getD (lo + k) (0, 0)))) s

/-- The spill when the stack goes from `a` slots to the stack `st`: the core keeps the newest 32 (03 R66). -/
def spillOut (s : State) (w : Who) (g : Group) (a : Nat) (st : List Entry) : State :=
  spillSlots s w g st (a - 32) (slotsOf st - 32 - (a - 32))

/-- A slot of the spill area, where it is readable. -/
def spilledSlot (s : State) (w : Who) (g : Group) (k : Nat) : Option (W64 × W64) :=
  let bs := (List.range 16).filterMap fun i => loadVa s w.die w.asid (spillVa w g k + i)
  if bs.length = 16 then some (BitVec.ofNat 64 (natLe (bs.take 8)), BitVec.ofNat 64 (natLe (bs.drop 8))) else none

/-- Removes exited lanes from a DIV or PEND entry (03 R65). -/
def dropLanes (x : Mask) : Entry → Entry
  | .div pc m => .div pc (m &&& ~~~x)
  | .pend pc m => .pend pc (m &&& ~~~x)
  | .trap e => .trap e

/-- The entries of a stack of `n` slots, top first, those past the newest 32 as memory holds them, without the lanes that
have left the group since they were spilled (03 R65). -/
def refillFrom (s : State) (w : Who) (g : Group) (n : Nat) : List Entry → List Entry
  | [] => []
  | e :: t =>
    let k := slotsOf t
    let rd (k : Nat) : Option (W64 × W64) := if k + 32 < n then spilledSlot s w g k else none
    dropLanes g.exited (readEntry e (rd k) (rd (k + 1))) :: refillFrom s w g n t

/-- The group's stack as its next pop finds it (03 R66). -/
def stackNow (s : State) (w : Who) (g : Group) : List Entry :=
  if slotsOf g.stack ≤ 32 then g.stack else refillFrom s w g (slotsOf g.stack) g.stack

/-- AC frequency of a timing class in MHz (02 R36). -/
def acMhz (cls : Nat) : Nat :=
  match cls with
  | 0 => 940
  | 1 => 620
  | _ => 240

/-- Units of `ctl.si` in a microsecond: the least common multiple of the frequencies of 02 R36. -/
def siUnits : Nat := 349680

/-- The time that AC cycles take in the current class, in units of `ctl.si` (02 R37). -/
def siOf (s : State) (cycles : Nat) : Nat := cycles * (siUnits / acMhz s.part.cryo.cls)

/-- The AC cycle count is at least a number: what waits for that cycle has come. -/
def timeAt (s : State) (n : Nat) : State :=
  { s with ctl := { s.ctl with clk := max s.ctl.clk n, si := s.ctl.si + siOf s (n - s.ctl.clk) } }

/-- The address `n` bytes after another: a PC has 56 bits (03 R62; 11 R239). -/
def pcAfter (pc n : Nat) : Nat := (pc + n) % 2 ^ 56

/-! ### Taking a trap (11 R232 to R239) and returning from one (R241) -/

/-- The slots a group's stack may hold: 32 in the core and the spill area (03 R66). -/
def stackMax (im : Image) : Nat := 32 + im.spill

/-- Loads the trap state registers (11 R239). -/
def loadTrapRegs (g : Group) (t : TrapReq) : Group :=
  { g with
    trapcause := t.cause
    trappc := t.pc
    traplanes := t.lanes
    trapdst := t.dst
    trapinfo := t.info
    gdone := t.gdone
    hints := Hints.none
    wait := none
    idle := 0
    replay := none
    trapDue := none }

/-- The entry that delivery pushes (11 R238). -/
def trapEntryOf (g : Group) (t : TrapReq) : TrapEntry :=
  ⟨t.pc, t.cause, g.active, t.dst, t.restarting, t.gather, g.sig, t.lanes, t.next⟩

/-- Delivery in one action (11 R238): the entry pushed, the registers loaded, SIG saved and cleared, the handler
entered with the trapped lanes, the reference mask set (R254). -/
def deliver (g : Group) (t : TrapReq) : Group :=
  { loadTrapRegs g t with
    stack := .trap (trapEntryOf g t) :: g.stack
    sig := 0
    active := t.lanes
    ref := t.lanes
    pc := g.trapvec }

/-- The parking of a trap that is not delivered (11 R239): a restarting instruction is executed again at RESUME, a
completing one resumes after it. -/
def parkTrap (g : Group) (t : TrapReq) : Group :=
  { loadTrapRegs g t with
    stat := .parkTrap t.cause
    pc := if t.restarting then t.pc else t.next
    parkNext := t.next
    replay := if t.gather && t.restarting then some t.lanes else none }

/-- The launch identifier of a group. -/
def launchIdOf (s : State) (g : Group) : Nat :=
  ((kfind s.run.launches g.launch).getD Launch.fresh).pkt.launchid.toNat

/-- The delivery of a trap, with the spill of the slots that it pushes out of the core (03 R66; 11 R238): where the spill
does not translate the group parks, and where no fault record is free it waits, with the trap due. -/
def deliverAt (s : State) (gid : Nat) (g : Group) (t : TrapReq) : State :=
  let w := who s gid g
  let a := slotsOf g.stack
  match spillFault s w g a (a + 2) with
  | none => spillOut (setGrp s gid (deliver g t)) w g a (deliver g t).stack
  | some (va, k) =>
    if k = walkBusy ∨ poolFull s w.die w.asid va true then setGrp s gid { g with trapDue := some t, wait := some .memory, hints := Hints.none }
    else setGrp (openFaultAs true s w.die w.asid va 6 k false w.core (.group gid)) gid
      { g with trapDue := some t, stat := .parkFault, wait := none, hints := Hints.none }

/-- A trap parks the group, and the event of 11 R252 says so; while the buffer of queue 0's ring is full it waits, with
the trap due (13 R275). -/
def haltWith (kind : Nat) (s : State) (gid : Nat) (g : Group) (t : TrapReq) : State :=
  if !canPost s 0 then setGrp s gid { g with stat := .run, trapDue := some t, wait := some .other, hints := Hints.none }
  else postHalt (setGrp s gid (parkTrap g t)) (launchIdOf s g) (gid / 32) (gid % 32) kind t.pc t.cause t.info.toNat

/-- A trap that is not delivered: KIND 0 for no handler, 3 for want of stack slots (11 R239). -/
def undelivered (s : State) (gid : Nat) (g : Group) (t : TrapReq) : State :=
  haltWith (if g.trapvec = 0 then 0 else 3) s gid g t

/-- A trap is raised: inside an open transaction at rung 0 to 2 the attempt aborts to rung 3 (08 R186), and otherwise
`f` takes it. -/
def orAbort (s : State) (gid : Nat) (g : Group) (f : State) : State :=
  let it := (kfind s.run.items g.item).getD Item.fresh
  if it.txOpen && decide (it.rung ≤ 2) then
    markAbort (setGrp s gid { g with hints := Hints.none, wait := some .other }) g.item ⟨3, false, true, true⟩
  else f

/-- A trap that firmware handles, which parks the group (03 R68; 08 R186). -/
def firmwareTrap (s : State) (gid : Nat) (g : Group) (t : TrapReq) : State := orAbort s gid g (haltWith 0 s gid g t)

/-- Takes a trap for the group in a slot: inside an open transaction at rung 0 to 2 the attempt aborts to rung 3 (08
R186); otherwise the trap is delivered when TRAPVEC is not zero and two slots are free (R238), and otherwise the
group parks and the event of R252 is posted. -/
def takeTrap (s : State) (gid : Nat) (g : Group) (t : TrapReq) : State :=
  let l := (kfind s.run.launches g.launch).getD Launch.fresh
  orAbort s gid g (
  if !(g.trapvec == 0) && decide (slotsOf g.stack + 2 ≤ stackMax l.img) then deliverAt s gid g t
  else undelivered s gid g t)

/-- After a return the registers reload from the next TRAP entry below, when there is one (11 R241). -/
def reloadTrap (g : Group) : Group :=
  match g.stack.find? fun e => match e with
      | .trap _ => true
      | _ => false with
  | some (.trap e) =>
    { g with
      trapcause := e.cause
      trappc := e.pc
      traplanes := e.lanes
      trapdst := e.dst
      gdone := if e.gather then e.active &&& ~~~e.lanes else 0 }
  | _ => g

/-- In split mode the lanes of a mask come back to the running subgroup from the others (03 R68; assumption 22). -/
def takeBack (m : Mask) (x : List SplitEntry × Nat) : List SplitEntry × Nat :=
  let less (t : List SplitEntry) : List SplitEntry :=
    (t.map fun e => { e with mask := e.mask &&& ~~~m }).filter fun e => !(e.mask == 0)
  (less (x.1.take x.2) ++ (x.1.drop x.2).take 1 ++ less (x.1.drop (x.2 + 1)), (less (x.1.take x.2)).length)

/-- Pops a TRAP entry (11 R241): active from its lower slot, SIG from its upper slot, the reference mask set. -/
def popTrap (g : Group) (e : TrapEntry) (rest : List Entry) (pc : Nat) : Group :=
  let m := e.active &&& ~~~g.exited
  reloadTrap { g with stack := rest, active := m, sig := e.sig, ref := m, pc := pc, split := g.split.map (takeBack m) }

/-- A subgroup that may run: under a TRAP entry only those of the lanes that trapped, whose handler runs (assumption
22). -/
def subRuns (g : Group) (x : SplitEntry) : Bool :=
  match g.stack with
  | .trap e :: _ => x.mask &&& ~~~e.lanes == 0
  | _ => true

/-- In split mode another subgroup than the running one may run. -/
def otherRuns (g : Group) : Bool :=
  match g.split with
  | some (t, i) => (t.take i ++ t.drop (i + 1)).any fun x => !(x.mask == 0) && subRuns g x
  | none => false

end Sys2Proof.Machine
end

