-- ==== Sys2Proof/Machine/Issue.lean ====
section
/-! DEFINITION. The issue of one instruction of a group: what holds it back (04 R88), the hints it carries (R90,
14 R299), its guard and the lanes that execute it (03 R60, R61; 14 R300), the registers it reads, kills and writes
(04 R81 to R83, R86), and what follows its effect: the signature (11 R254), the program counter, a trap, a wait or a
park. -/

namespace Sys2Proof.Machine

/-! ### What an instruction asks for and answers -/

/-- The registers of an instruction: (true, n) is s-register n, (false, n) is v-register n. -/
structure Regs where
  reads : List (Bool × Nat)
  kills : List (Bool × Nat)
  writes : List (Bool × Nat)
  deriving DecidableEq, Repr

/-- How an instruction takes a guard: per lane, once for the group (15 R306), or not at all (14 R300). -/
inductive Pol where
  | lanes | once | none
  deriving DecidableEq, Repr

/-- A trap an instruction raises: cause, information, lanes (the active mask when not given) and TRAPDST. -/
structure Tr where
  cause : Nat
  info : W64
  lanes : Option Mask
  dst : Nat
  deriving DecidableEq, Repr

/-- What the effect of an instruction ends in: it completes; it completes and PC goes elsewhere; it completes, PC goes
elsewhere and the next instruction runs as a replay (TRET.RETRY); a restarting trap
that changed nothing; one that left a partial effect (11 R236); a completing trap after the effect; a wait that
changed nothing; a wait that keeps a state (an arrival); a park on a fault record, with the lanes that a replay of a
gather executes. -/
inductive Out where
  | done (s : State)
  | jump (s : State) (pc : Nat)
  | ret (s : State) (pc : Nat) (replay : Option Mask)
  | trap (t : Tr)
  | part (s : State) (t : Tr) (bit : Bool)
  | late (s : State) (t : Tr)
  | wait (w : Wait)
  | hold (s : State) (w : Wait)
  | park (s : State) (lanes : Mask) (gather : Bool)
  deriving DecidableEq, Repr

/-- Where an instruction issues: its group as it stands before the instruction, the executing lanes, the state before
it, whether it runs as a replay, and the address after it. -/
structure Ctx where
  i : Instr
  word : W32
  w : Who
  x : Mask
  s0 : State
  replay : Bool
  next : Nat
  dst : Nat
  deriving DecidableEq, Repr

def Ctx.g (c : Ctx) : Group := c.w.g
def Ctx.gid (c : Ctx) : Nat := c.w.gid
/-- The address of the instruction. -/
def Ctx.pc (c : Ctx) : Nat := c.w.g.pc
/-- TRAPPC: the instruction, or the first hint of its sequence (04 R91). -/
def Ctx.first (c : Ctx) : Nat := c.w.g.hints.first.getD c.w.g.pc

/-- An instruction's meaning as its issue needs it. -/
structure Meaning where
  i : Instr
  pol : Pol
  regs : Group → Regs
  dst : Group → Nat
  pre : Ctx → Option Out
  body : Ctx → State → Out

/-! ### Words -/

/-- The first word of an instruction. -/
def wordOf (i : Instr) : W32 := ((encode i).getD []).headD 0

def majOf (w : W32) : Nat := w.toNat / 2 ^ 26

/-- FnOf of 11 R254: the FN field of formats RRR, TA, X, K, Y, S and MN, 0 for every other format. -/
def fnOf (w : W32) : Nat :=
  let m := majOf w
  let n := w.toNat
  if m = 0x01 ∨ m = 0x08 ∨ m = 0x0A ∨ (0x10 ≤ m ∧ m ≤ 0x15 ∧ m ≠ 0x12) ∨ (0x18 ≤ m ∧ m ≤ 0x1A) then bits n 3 5
  else if m = 0x31 ∨ m = 0x3E then bits n 23 3
  else if m = 0x32 ∨ m = 0x3D then bits n 24 2
  else if m = 0x3B then bits n 21 5
  else if m = 0x2D then bits n 25 1
  else 0

/-- The branch-class words (11 R254). -/
def branchClass (w : W32) : Bool :=
  let m := majOf w
  m == 0x38 || m == 0x39 || m == 0x3A || m == 0x3C || (m == 0x3B && decide (fnOf w ≤ 4))

/-- The words that do not update SIG besides the branch class: hints, LIVE, SIGCHK and TRET (11 R254, 18 R416). -/
def sigSilent (w : W32) : Bool :=
  majOf w == 0x3F || (majOf w == 0x3E && (fnOf w == 5 || fnOf w == 3))

/-- The key of 11 R254. -/
def sigKey (w : W32) (diverged : Bool) : Nat := majOf w + 64 * fnOf w + 2048 * diverged.toNat

/-- One step of the signature (11 R254). -/
def sigNext (sig : BitVec 23) (key : Nat) : BitVec 23 :=
  ((sig <<< 1) ||| (sig >>> 22)) ^^^ BitVec.ofNat 23 key

/-! ### Hints (04 R90, 14 R299) -/

/-- An HMOD of a class attaches to a word. -/
def hmodFits (w : W32) : HMod → Bool
  | .cache _ => [0x1E, 0x20, 0x21, 0x22, 0x25].contains (majOf w)
  | .round _ => [0x10, 0x11, 0x13, 0x14, 0x15].contains (majOf w)
  | .queue _ _ _ =>
    [0x01, 0x08, 0x0A, 0x0B, 0x0C, 0x10, 0x11, 0x13, 0x14, 0x15, 0x18, 0x19, 0x1A].contains (majOf w)
  | .count _ _ => [0x33, 0x34, 0x35, 0x36].contains (majOf w) || (majOf w == 0x31 && fnOf w == 5)
  | .scope _ => [0x22, 0x24, 0x28, 0x29, 0x2A, 0x2B, 0x2C].contains (majOf w)

/-- An HIMM attaches to RI but MAJ 0x06, WI, M and O. -/
def himmFits (w : W32) : Bool :=
  [0x02, 0x03, 0x04, 0x05, 0x07, 0x1E, 0x1F, 0x20, 0x21, 0x22, 0x23, 0x24, 0x25, 0x26].contains (majOf w)

/-- The pending hints fit the instruction; a LIVE takes none (04 R90). -/
def hintsFit (h : Hints) (w : W32) : Bool :=
  (h.himm.isNone || himmFits w)
    && (match h.hmod with
      | none => true
      | some m => hmodFits w m)
    && !(h.first.isSome && majOf w == 0x3F)

/-- A QUEUE modifier on a uniform form (04 R80). U is bit 0 of the word in every format that takes QUEUE. -/
def queueUniform (h : Hints) (w : W32) : Bool :=
  match h.hmod with
  | some (.queue _ _ _) => tbit w.toNat 0
  | _ => false

/-- The lanes where the guard holds (14 R300). -/
def guardMask (g : Group) : Mask :=
  match g.hints.hsched with
  | none => allLanes
  | some h => if h.neg then ~~~(rdP g h.p.toNat) else rdP g h.p.toNat

/-- An HSCHED guard other than p7 unnegated (14 R300). -/
def guarded (g : Group) : Bool :=
  match g.hints.hsched with
  | none => false
  | some h => !(h.p == 7) || h.neg

/-! ### Registers (04 R81 to R86) -/

def isLiveReg (g : Group) (r : Bool × Nat) : Bool := kget false (if r.1 then g.slive else g.vlive) r.2
def isKilled (g : Group) (r : Bool × Nat) : Bool := kget false (if r.1 then g.skilled else g.vkilled) r.2

/-- Live names of a file (04 R85). -/
def liveCount (g : Group) (u : Bool) : Nat := (if u then g.slive else g.vlive).length

/-- The name holds a version again (04 R82). -/
def markLive (g : Group) (r : Bool × Nat) : Group :=
  if r.2 = 63 then g
  else if r.1 then { g with slive := kput false g.slive r.2 true, skilled := kput false g.skilled r.2 false }
  else { g with vlive := kput false g.vlive r.2 true, vkilled := kput false g.vkilled r.2 false }

/-- The name is killed: its version is freed, and it reads zero (04 R82). -/
def markKilled (g : Group) (r : Bool × Nat) : Group :=
  if r.2 = 63 then g
  else if r.1 then
    { g with
      s := kdel g.s r.2
      slive := kput false g.slive r.2 false
      skilled := kput false g.skilled r.2 true }
  else
    { g with
      v := kdel g.v r.2
      vlive := kput false g.vlive r.2 false
      vkilled := kput false g.vkilled r.2 true }

/-- The first dead read of an instruction, in the order of its operands. -/
def deadRead (g : Group) (rs : List (Bool × Nat)) : Option (Bool × Nat) :=
  rs.find? fun r => !(r.2 == 63) && isKilled g r

/-- A dead read is noted in DEADREAD (04 R86). -/
def noteDead (g : Group) (d : Option (Bool × Nat)) : Group :=
  match d with
  | none => g
  | some r => if g.seen then g else { g with seen := true, firstreg := r.2, dfile := r.1 }

/-- The names of a file that a write list would raise the group's count above its footprint by (04 R83). -/
def overFoot (g : Group) (writes : List (Bool × Nat)) (u : Bool) (foot : Nat) : Bool :=
  let news := (writes.filter fun r => r.1 == u && !(r.2 == 63) && !(isLiveReg g r)).eraseDups
  !news.isEmpty && decide (foot < liveCount g u + news.length)

/-- The kills of an instruction that its writes do not make live again. A destination that is its own killed source keeps
its previous value in the lanes that do not execute (04 R81, R82 do not say; assumption 50). -/
def applyKills (g : Group) (kills writes : List (Bool × Nat)) : Group :=
  kills.foldl (fun g r => if writes.contains r then g else markKilled g r) g

/-- The renaming of an instruction's registers (04 R81 to R83): dead reads noted, killed sources freed, destinations
made live; or the trap of R83. -/
def rename (g : Group) (l : Launch) (r : Regs) : Except Nat Group :=
  let g1 := applyKills (noteDead g (deadRead g r.reads)) r.kills r.writes
  if overFoot g1 r.writes false l.img.vfoot then .error 0x0101
  else if overFoot g1 r.writes true l.img.sfoot then .error 0x0102
  else .ok (r.writes.foldl markLive g1)

/-! ### What holds an instruction back (04 R88) -/

/-- The v- or s-registers a flight will write. -/
def flightRegs (f : Flight) : List (Bool × Nat) := (List.range f.vals.length).map fun k => (f.uni, f.reg + k)

/-- A flight of the group that holds back an instruction with these registers. -/
def flightHolds (gid : Nat) (r : Regs) (f : Flight) : Bool :=
  f.gid == gid && (f.left == 0
    || (flightRegs f).any fun x => r.reads.contains x || r.kills.contains x || r.writes.contains x)

/-- Issue is stopped for a class change (02 R38). -/
def issueStopped (s : State) : Bool :=
  match s.part.cryo.change with
  | some c => c.stopped
  | none => false

/-- Why a group may not issue an instruction now. -/
def heldBack (s : State) (gid : Nat) (g : Group) (r : Regs) : Option Wait :=
  if issueStopped s || g.pq.write.isSome then some .other
  else if swapHeld s g then some .forced
  else if ((kfind s.run.launches g.launch).getD Launch.fresh).workQ.any fun r => r.gid == gid then some .other
  else if g.hostAtom.isSome || s.run.flights.any (flightHolds gid r) then some .memory
  else
    match kfind s.run.items g.item with
    | some it => if it.abort.isSome then some .other else none
    | none => none

/-! ### After the effect -/

/-- One more of the LH allowance of each earlier long-latency instruction is used (04 R88). -/
def countIssue (s : State) (gid : Nat) : State :=
  { s with run := { s.run with
    flights := s.run.flights.map fun f => if f.gid = gid then { f with left := f.left - 1 } else f } }

/-- The signature and the reference mask after an instruction (11 R254). -/
def sigStep (c : Ctx) (g : Group) : Group :=
  if branchClass c.word then { g with ref := g.active }
  else if sigSilent c.word then g
  else { g with sig := sigNext g.sig (sigKey c.word (!(c.g.active == g.ref))) }

/-- The retirement of an instruction: signature, hints, replay, wait and PC. LIVE does not count towards LH (17 R375). -/
def retire (c : Ctx) (pc : Nat) (s : State) : State :=
  modGrp (if majOf c.word = 0x3F then s else countIssue s c.gid) c.gid fun g =>
    { sigStep c g with
      pc := pc
      hints := Hints.none
      replay := none
      wait := none
      idle := 0
      issued := s.ctl.clk
      pointed := false }

/-! ### Split mode (03 R68) -/

/-- Two subgroups fuse when their PCs and parent identifiers are equal; one that has an instruction to replay fuses after
it (11 R241; assumption 22). -/
def fuses (e x : SplitEntry) : Bool := x.pc == e.pc && x.parent == e.parent && e.replay.isNone && x.replay.isNone

/-- The subgroups of a list with those that fuse made one. -/
def fuse : List SplitEntry → List SplitEntry
  | [] => []
  | e :: t =>
    { e with mask := (t.filter (fuses e)).foldl (fun m x => m ||| x.mask) e.mask } :: (fuse t).filter fun x => !(fuses e x)

/-- A subgroup becomes the running one. -/
def runSub (g : Group) (e : SplitEntry) : Group := { g with pc := e.pc, active := e.mask, ref := e.mask, replay := e.replay }

/-- After an instruction of a group in split mode: the running subgroup goes back to the table, subgroups fuse, and
the next one that may run runs; the group leaves split mode when of several one remains (assumption 22). -/
def rotateSplit (g : Group) : Group :=
  match g.split with
  | none => g
  | some (t, i) =>
    let e := t.getD i ⟨0, 0, 0, none⟩
    let u := t.take i ++ (if g.active = 0 then [] else [⟨g.pc, g.active, e.parent, g.replay⟩]) ++ t.drop (i + 1)
    let k := if g.active = 0 then i else i + 1
    let turned := u.drop k ++ u.take k
    let others := turned.filter fun x => !subRuns g x
    match fuse (turned.filter (subRuns g)), others with
    | [], _ => g
    | [e], [] => { runSub g e with split := if t.length ≤ 1 then some ([e], 0) else none }
    | e :: rest, _ => { runSub g e with split := some (e :: rest ++ others, 0) }

/-- Subgroups issue round-robin. -/
def nextSubgroup (s : State) (gid : Nat) : State :=
  modGrp s gid fun g => if g.split.isSome && g.stat == .run then rotateSplit g else g

/-- A trap of an instruction, taken from a state (11 R232, R233); `done` says that GDONE is loaded (R236). -/
def raise (c : Ctx) (s : State) (t : Tr) (restarting gather done : Bool) : State :=
  match grp s c.gid with
  | none => s
  | some g =>
    let lanes := t.lanes.getD g.active
    takeTrap s c.gid g
      { cause := t.cause, info := t.info, lanes := lanes, restarting := restarting, gather := gather, dst := t.dst,
        gdone := if done then g.active &&& ~~~lanes else 0, pc := c.first, next := c.next }

/-- The park of an instruction on a fault record (06 R135): PC goes back to the first hint. -/
def parkOn (c : Ctx) (s : State) (lanes : Mask) (gather : Bool) : State :=
  modGrp s c.gid fun g =>
    { g with
      stat := .parkFault
      wait := none
      pc := c.first
      hints := Hints.none
      parkNext := c.next
      parkLanes := lanes
      parkDst := c.dst
      parkBit := gather && (c.replay || !(lanes == c.x))
      gdone := if gather then g.active &&& ~~~lanes else 0
      replay := if gather then some lanes else none }

/-- The state that an outcome leaves. -/
def settle (c : Ctx) (o : Out) : State :=
  match o with
  | .done s => nextSubgroup (retire c c.next s) c.gid
  | .jump s pc => nextSubgroup (retire c pc s) c.gid
  | .ret s pc r => nextSubgroup (modGrp (retire c pc s) c.gid fun g => { g with replay := r }) c.gid
  | .trap t => raise c c.s0 t true false false
  | .part s t bit => raise c s t true bit true
  | .late s t => raise c (retire c c.next s) t false false false
  | .wait w => modGrp c.s0 c.gid fun g => { g with wait := some w }
  | .hold s w => modGrp s c.gid fun g => { g with wait := some w }
  | .park s lanes gather => parkOn c s lanes gather

/-! ### Issue -/

/-- The lanes that execute: a replay's lanes, or the active lanes where the guard holds. -/
def execLanes (g : Group) (pol : Pol) : Mask :=
  match g.replay with
  | some m => m &&& g.active
  | none => match pol with
    | .none => g.active
    | _ => guardMask g &&& g.active

def illegal (w : W32) (dst : Nat) : Tr := ⟨cILLEGAL, w.setWidth 64, none, dst⟩
def badOperand (w : W32) (dst : Nat) : Tr := ⟨cOPERAND, w.setWidth 64, none, dst⟩

/-- The checks before an instruction's own (14 R299, R300; 04 R80; 15 R306). -/
def frontCheck (g : Group) (pol : Pol) (w : W32) (dst : Nat) : Option Tr :=
  let x := execLanes g pol
  if !hintsFit g.hints w then some (illegal w dst)
  else if queueUniform g.hints w then some (badOperand w dst)
  else if pol == .none && guarded g then some (illegal w dst)
  else if pol == .once && g.replay.isNone && !(x == 0) && !(x == g.active) then some ⟨cDIVERGE, x, none, dst⟩
  else none

/-- The instruction's own checks, its registers and its effect. A vector instruction reads its sources, and so notes a dead
read of them, also when no lane executes it: 04 R86 does not say (assumption 21). -/
def perform (m : Meaning) (c : Ctx) : Out :=
  match m.pre c with
  | some o => o
  | none =>
    let r := m.regs c.g
    match deadRead c.g r.reads, c.g.trapen with
    | some d, true => .trap ⟨cDEAD, BitVec.ofNat 64 (d.1.toNat * 64 + d.2), none, c.dst⟩
    | _, _ =>
      match rename c.g c.w.l r with
      | .error n => .trap ⟨cOPERAND, BitVec.ofNat 64 n, none, c.dst⟩
      | .ok g1 => m.body c (setGrp c.s0 c.gid g1)

/-- An instruction that runs once and whose guard holds in no active lane: only its kill bits act (03 R60, 04 R82). -/
def skipped (m : Meaning) (c : Ctx) : Out :=
  .done (modGrp c.s0 c.gid fun g => applyKills g (m.regs c.g).kills [])

/-- The context of an issue. -/
def ctxOf (m : Meaning) (s : State) (gid : Nat) (g : Group) : Ctx :=
  { i := m.i, word := wordOf m.i, w := who s gid g, x := execLanes g m.pol, s0 := s, replay := g.replay.isSome,
    next := pcAfter g.pc (4 * sizeWords m.i), dst := m.dst g }

/-- An HSCHED DELAY holds the instruction until that many AC cycles after the group's previous issue (16 R357). -/
def delayed (s : State) (g : Group) : State :=
  match g.hints.hsched with
  | some h => timeAt s (g.issued + h.delay.toNat)
  | none => s

/-- One instruction of the group in a slot. -/
def issueAt (m : Meaning) (s : State) (gid : Nat) (g : Group) : State :=
  if g.stat ≠ .run then s
  else match heldBack s gid g (m.regs g) with
    | some w => modGrp s gid fun g => { g with wait := some w }
    | none =>
      let c := ctxOf m (delayed s g) gid g
      match frontCheck g m.pol c.word c.dst with
      | some t => settle c (.trap t)
      | none =>
        if m.pol = .once ∧ c.x = 0 then settle c (skipped m c)
        else settle c (perform m c)

/-- One instruction of the current group. -/
def issue (m : Meaning) (s : State) : Host.Outcome State Fault Refusal :=
  match grp s s.ctl.cur with
  | none => .fault .noGroup
  | some g => .next (issueAt m s s.ctl.cur g)

/-- TRAPDST of a destination (11 R239). -/
def dstV (r : Nat) : Nat := r
def dstS (r : Nat) : Nat := 64 + r
def dstP (r : Nat) : Nat := 128 + r
def dstNone : Nat := 192

/-- No registers. -/
def noRegs : Regs := ⟨[], [], []⟩

end Sys2Proof.Machine
end

