-- ==== Sys2Proof/Machine/Flags.lean ====
section
/-! DEFINITION. FPMODE, FPFLAGS and SATF: the controls an operation reads, the flags it sets and the completing trap it
raises (05 R97 to R102). -/

namespace Sys2Proof.Machine

/-- The controls of one vector floating-point operation (05 R97, 16 R353). -/
structure Fp where
  rm : Rm
  fin : Bool
  fout : Bool
  deriving DecidableEq, Repr

/-- FPMODE with the ROUND modifier of the instruction laid over RM. -/
def fpOf (g : Group) : Fp :=
  { rm := match g.hints.hmod with
      | some (.round r) => rmOf r
      | _ => rmOf (bits g.fpmode.toNat 0 2)
    fin := tbit g.fpmode.toNat 2
    fout := tbit g.fpmode.toNat 3 }

/-- TEN of FPMODE. -/
def tenOf (g : Group) : Nat := bits g.fpmode.toNat 4 5

/-- FPFLAGS with the flags of an operation set in the lanes of a mask (05 R98). -/
def setFlags (g : Group) (x : Mask) (fl : Nat → Nat) : Group :=
  let step (m : KMap (BitVec 5)) (l : Nat) : KMap (BitVec 5) := kput 0 m l (kget 0 m l ||| BitVec.ofNat 5 (fl l))
  { g with fpflags := (Mask.list x).foldl step g.fpflags }

/-- SATF with the bits of an operation set in the lanes of a mask (05 R102). -/
def setSat (g : Group) (x : Mask) (st : Nat → Nat) : Group :=
  let step (m : KMap (BitVec 2)) (l : Nat) : KMap (BitVec 2) := kput 0 m l (kget 0 m l ||| BitVec.ofNat 2 (st l))
  { g with satf := (Mask.list x).foldl step g.satf }

/-- The lowest set bit of a number below 2^n. -/
def lowBit (n x : Nat) : Nat := ((List.range n).find? fun k => tbit x k).getD 0

/-- The completing trap of the enabled exceptions that the lanes of a mask raised (05 R101). -/
def fpTrap (g : Group) (x : Mask) (fl : Nat → Nat) (dst : Nat) : Option Tr :=
  let en (l : Nat) : Nat := Nat.land (fl l) (tenOf g)
  let union := (Mask.list x).foldl (fun u l => Nat.lor u (en l)) 0
  if union = 0 then none
  else
    let b := lowBit 5 union
    some ⟨0x08 + b, BitVec.ofNat 64 union, some (maskOf fun l => Mask.has x l && tbit (en l) b), dst⟩

end Sys2Proof.Machine
end

