-- ==== Sys2Proof/Machine/Replay.lean ====
section
/-! DEFINITION. The order log, the record buffer and replay (12 R259 to R268): appending a choice under RECORD, waiting
for its turn and consuming it under REPLAY, and recorded reads. -/

namespace Sys2Proof.Machine

/-- One recorded read (12 R265, R267): the value the instruction returns, with the entry appended or taken. `who` is
the work item, `low` bytes 4 and 5 of the entry. Under REPLAY the next entry of the group serves, and one that names
another INDEX or lane sets DIVERGED (R268). -/
def recRead (s : State) (lid item low idx value : Nat) : Nat × State :=
  let l := launchOf s lid
  if recording l then
    (value, modLaunch s lid fun l =>
      { l with
        rlog := if 16 * (l.rlog.length + 1) ≤ l.ext.rbufsize then l.rlog ++ [(item, low, idx, value)] else l.rlog
        logfull := decide (l.ext.rbufsize < 16 * (l.rlog.length + 2)) })
  else if replaying l then
    match (l.replayRec.find? fun e => e.1 == item && e.2.1 % 512 == low % 512).filter
        fun e => e.2.1 == low && e.2.2.1 == idx with
    | some e => (e.2.2.2, modLaunch s lid fun l => { l with replayRec := l.replayRec.erase e })
    | none => (value, modLaunch s lid fun l => { l with diverged := true })
  else (value, s)

/-- The entry of one arrival of an atomic (KIND 1). -/
def atomicEntry (va item gidx lane count : Nat) (engine : Bool) : LogEntry :=
  ⟨1, va % 2 ^ 56, item % 2 ^ 32 + gidx * 2 ^ 32 + engine.toNat * 2 ^ 41 + lane * 2 ^ 42 + count % 2 ^ 16 * 2 ^ 48⟩

/-- The entry of a queue push (KIND 9). -/
def queueEntry (item q gidx : Nat) : LogEntry := ⟨9, item % 2 ^ 32 + q * 2 ^ 32, gidx⟩

end Sys2Proof.Machine
end

