-- ==== Sys2Proof/Machine/Operands.lean ====
section
/-! DEFINITION. The operand forms of the arithmetic instructions: v- and s-registers, queues (03 R69, 04 R80),
immediates with HIMM (16 R350), predicate destinations (16 R338), and the runner that applies one lane's function to
all executing lanes and writes the results. -/

namespace Sys2Proof.Machine

/-! ### Queues (03 R69 to R71) -/

/-- The QUEUE marks an instruction carries: D, A, B. -/
def marks (g : Group) : Bool × Bool × Bool :=
  match g.hints.hmod with
  | some (.queue d a b) => (d, a, b)
  | _ => (false, false, false)

/-- The binding of a queue. -/
def bindingOf (l : Launch) (q : Nat) : Option QBind := l.img.queues.find? fun b => b.q == q

/-- The key of a queue of the group's core in its work item. -/
def queueKey (w : Who) (q : Nat) : Nat := w.own * 8 + q

/-- The entries of a queue, oldest first. -/
def queueOf (w : Who) (q : Nat) : List (List W32) := kget [] w.it.queues (queueKey w q)

/-- The group stands on the named side of a queue (03 R70). -/
def queueSide (w : Who) (q : Nat) (push : Bool) : Bool :=
  match bindingOf w.l q with
  | none => false
  | some b =>
    lidx w.l.img b.level (globalGroup w.l.img w.it.index w.g.gidx) 0 == (if push then b.prod else b.cons)

/-- A marked operand names a queue the group may use. -/
def queueOk (w : Who) (r : Nat) (push : Bool) : Bool := decide (r < 8) && queueSide w r push

/-- A queue with more than one producer group, whose pushes are logged (12 R263). -/
def manyProducers (w : Who) (q : Nat) : Bool :=
  match bindingOf w.l q with
  | none => false
  | some b => decide (1 < ((List.range (groupsPerItem w.l.img)).filter fun k =>
      corePos w.l.img k == w.own
        && lidx w.l.img b.level (globalGroup w.l.img w.it.index k) 0 == b.prod).length)

/-- A push that the order log holds back (12 R266). -/
def pushHeld (w : Who) (q : Nat) : Bool :=
  manyProducers w q && turnOf w.l false (queueEntry w.it.index q w.g.gidx) == .hold

/-- The queue work of an instruction with marks (qd, qa, qb) on operands d, a, b: a trap, a wait, or nothing. -/
def queuePre (c : Ctx) (m : Bool × Bool × Bool) (d a b : Nat) (md ma mb : Bool) : Option Out :=
  let bad := (m.1 && !md) || (m.2.1 && !ma) || (m.2.2 && !mb)
    || (m.1 && !queueOk c.w d true) || (m.2.1 && !queueOk c.w a false) || (m.2.2 && !queueOk c.w b false)
  let empty (q : Nat) : Bool := (queueOf c.w q).isEmpty
  let popped := (m.2.1 && a == d) || (m.2.2 && b == d)
  if bad then some (.trap (badOperand c.word c.dst))
  else if (m.2.1 && empty a) || (m.2.2 && empty b) then some (.wait .queue)
  else if m.1 && decide (4 ≤ (queueOf c.w d).length - popped.toNat) then some (.wait .queue)
  else if m.1 && pushHeld c.w d then some (.wait .forced)
  else none

/-- The entry at the head of a queue. -/
def queueHead (w : Who) (q : Nat) : List W32 := (queueOf w q).headD []

/-- Pops the named queues once each and pushes an entry. -/
def queueRun (w : Who) (pops : List Nat) (push : Option (Nat × List W32)) (it : Item) : Item :=
  let qs := pops.eraseDups.foldl
    (fun m q => kput [] m (queueKey w q) ((kget [] m (queueKey w q)).drop 1)) it.queues
  match push with
  | none => { it with queues := qs }
  | some (q, e) => { it with queues := kput [] qs (queueKey w q) (kget [] qs (queueKey w q) ++ [e]) }

/-- The queue effects of an instruction on the state; a pop acquires (03 R71). -/
def queueEffects (s : State) (w : Who) (pops : List Nat) (push : Option (Nat × List W32)) : State :=
  let s0 := if pops.isEmpty then s else dropAhead (seeWrites s w.core w.gid) w.gid
  let s1 := modItem s0 w.item (queueRun w pops push)
  match push with
  | some (q, _) => if manyProducers w q then choose s1 w.g.launch false (queueEntry w.it.index q w.g.gidx) else s1
  | none => s1

/-! ### Arithmetic instructions -/

/-- One lane's operands, as numbers, and its predicate. -/
structure LaneIn where
  a : Nat
  b : Nat
  d : Nat
  p : Bool
  deriving DecidableEq, Repr

/-- One lane's result: the value (0 or 1 for a compare), floating-point flags, SATF bits, carry. -/
structure LaneOut where
  v : Nat
  fl : Nat
  sat : Nat
  cy : Option Bool
  deriving DecidableEq, Repr

/-- A second source: a register, a number, or none. -/
inductive Src2 where
  | reg (b : Nat) (kb : Bool)
  | num (n : Int)
  deriving DecidableEq, Repr

/-- A destination: a register, or a predicate with its combine (16 R338). -/
inductive AluDst where
  | reg (d : Nat)
  | pred (pd cmb : Nat)
  deriving DecidableEq, Repr

/-- The operands of an arithmetic instruction. `rb` says that it reads B, `rd` that it reads D, `pp` which predicate it
reads and whether inverted. -/
structure Alu where
  dst : AluDst
  a : Nat
  ra : Bool
  ka : Bool
  b : Src2
  rd : Bool
  u : Bool
  pp : Option (Nat × Bool)
  deriving DecidableEq, Repr

def Alu.width (al : Alu) : Nat := if al.u then 64 else 32

def Alu.dnum (al : Alu) : Nat :=
  match al.dst with
  | .reg d => d
  | .pred _ _ => 63

def Alu.bnum (al : Alu) : Nat :=
  match al.b with
  | .reg b _ => b
  | .num _ => 63

def Alu.readsB (al : Alu) : Bool :=
  match al.b with
  | .reg _ _ => true
  | .num _ => false

def Alu.killB (al : Alu) : Bool :=
  match al.b with
  | .reg _ k => k
  | .num _ => false

/-- The registers of an arithmetic instruction; a queue operand is no register (04 R80). -/
def Alu.regs (al : Alu) (g : Group) : Regs :=
  let m := marks g
  let a := if al.ra && !m.2.1 then [(al.u, al.a)] else []
  let b := if al.readsB && !m.2.2 then [(al.u, al.bnum)] else []
  let d := match al.dst with
    | .reg d => if m.1 then [] else [(al.u, d)]
    | .pred _ _ => []
  { reads := a ++ b ++ (if al.rd then d else [])
    kills := (if al.ka then a else []) ++ (if al.killB then b else [])
    writes := d }

/-- TRAPDST of an arithmetic instruction. -/
def Alu.dstOf (al : Alu) (g : Group) : Nat :=
  match al.dst with
  | .pred pd _ => dstP pd
  | .reg d => if (marks g).1 then dstNone else if al.u then dstS d else dstV d

/-- The predicate condition of a lane. -/
def Alu.cond (al : Alu) (g : Group) (l : Nat) : Bool :=
  match al.pp with
  | none => false
  | some (p, neg) => Mask.has (rdP g p) l != neg

/-- An operand of a lane: a queue entry's slot, or a register. -/
def operandAt (c : Ctx) (u marked : Bool) (r l : Nat) : Nat :=
  if marked then (laneOf 0 (queueHead c.w r) l).toNat
  else if u then (rdS c.g r).toNat
  else (rdVl c.g r l).toNat

/-- A lane's operands. -/
def Alu.input (al : Alu) (c : Ctx) (l : Nat) : LaneIn :=
  let m := marks c.g
  { a := if al.ra then operandAt c al.u m.2.1 al.a l else 0
    b := match al.b with
      | .reg b _ => operandAt c al.u m.2.2 b l
      | .num n => wrapNat al.width n
    d := if al.rd then operandAt c al.u false al.dnum l else 0
    p := al.cond c.g l }

/-- The checks of an arithmetic instruction: its queue operands, and in a uniform form that reads a predicate the
agreement of the executing lanes (16 R361, 18 R398). A QUEUE mark on D is refused for every form that also reads D, BFI
and BFMA2 among them (assumption 50). -/
def Alu.check (al : Alu) (c : Ctx) : Option Out :=
  let on := maskOf fun l => Mask.has c.x l && al.cond c.g l
  if al.u && al.pp.isSome && !(on == 0) && !(on == c.x) then some (.trap ⟨cDIVERGE, on, none, c.dst⟩)
  else queuePre c (marks c.g) al.dnum al.a al.bnum
    (match al.dst with
      | .reg _ => !al.rd
      | .pred _ _ => false) al.ra al.readsB

/-- The results of all lanes; a uniform form computes once, for the lowest executing lane. -/
def Alu.results (al : Alu) (op : Nat → Fp → LaneIn → LaneOut) (c : Ctx) : List LaneOut :=
  let fp := fpOf c.g
  if al.u then
    let r := op 64 fp (al.input c (Mask.lowest c.x))
    mkLanes fun _ => r
  else mkLanes fun l => if Mask.has c.x l then op 32 fp (al.input c l) else ⟨0, 0, 0, none⟩

/-- Writes a compare's condition under its combine. -/
def combine (cmb : Nat) (old new : Bool) : Bool :=
  match cmb with
  | 0 => new
  | 1 => old && new
  | _ => old || new

/-- The group after the results are written: destination, flags, SATF, carry. -/
def Alu.write (al : Alu) (c : Ctx) (rs : List LaneOut) (g : Group) : Group :=
  let r (l : Nat) : LaneOut := laneOf ⟨0, 0, 0, none⟩ rs l
  let g := match al.dst with
    | .reg d =>
      if (marks c.g).1 then g
      else if al.u then wrS g d (BitVec.ofNat 64 (r (Mask.lowest c.x)).v)
      else
        let new := mkLanes fun l => if Mask.has c.x l then BitVec.ofNat 32 (r l).v else rdVl c.g d l
        if d = 63 then g else { g with v := kins g.v d new }
    | .pred pd cmb => wrP g pd c.x fun l => combine cmb (Mask.has (rdP c.g pd) l) ((r l).v == 1)
  let g := setSat (setFlags g c.x fun l => (r l).fl) c.x fun l => (r l).sat
  if ((r (Mask.lowest c.x)).cy).isSome then wrP g 6 c.x fun l => ((r l).cy).getD false else g

/-- The queue entry an arithmetic instruction pushes. -/
def Alu.entry (c : Ctx) (rs : List LaneOut) : List W32 :=
  mkLanes fun l => if Mask.has c.x l then BitVec.ofNat 32 (laneOf ⟨0, 0, 0, none⟩ rs l).v else 0

/-- The effect of an arithmetic instruction. -/
def Alu.run (al : Alu) (op : Nat → Fp → LaneIn → LaneOut) (c : Ctx) (s : State) : Out :=
  let rs := al.results op c
  let m := marks c.g
  let pops := (if m.2.1 then [al.a] else []) ++ (if m.2.2 then [al.bnum] else [])
  let push := if m.1 then some (al.dnum, Alu.entry c rs) else none
  let s1 := modGrp s c.gid (al.write c rs)
  let s2 := if m.1 || m.2.1 || m.2.2 then queueEffects s1 c.w pops push else s1
  match fpTrap c.g c.x (fun l => (laneOf ⟨0, 0, 0, none⟩ rs l).fl) c.dst with
  | some t => .late s2 t
  | none => .done s2

/-- The meaning of an arithmetic instruction. -/
def Alu.meaning (i : Instr) (al : Alu) (op : Nat → Fp → LaneIn → LaneOut) : Meaning :=
  { i := i
    pol := if al.u then .once else .lanes
    regs := al.regs
    dst := al.dstOf
    pre := al.check
    body := al.run op }

/-! ### The operand forms -/

def aluRRR (f : RRR) (rd : Bool) : Alu :=
  ⟨.reg f.d.toNat, f.a.toNat, true, f.ka, .reg f.b.toNat f.kb, rd, f.u, none⟩

def aluUn (f : Un) : Alu := ⟨.reg f.d.toNat, f.a.toNat, true, f.ka, .num 0, false, f.u, none⟩

def aluRRV (f : RRV) (rd : Bool) : Alu :=
  ⟨.reg f.d.toNat, f.a.toNat, true, f.ka, .reg f.b.toNat f.kb, rd, false, none⟩

def aluLEA (f : LEAF) : Alu :=
  ⟨.reg f.d.toNat, f.a.toNat, true, f.ka, .reg f.b.toNat f.kb, false, f.u, none⟩

def aluSEL (f : SELF) : Alu :=
  ⟨.reg f.d.toNat, f.a.toNat, true, f.ka, .reg f.b.toNat f.kb, false, f.u, some (f.p.toNat, f.neg)⟩

def aluCP (f : CP) : Alu :=
  ⟨.pred f.pd.toNat f.cmb.toNat, f.a.toNat, true, f.ka, .reg f.b.toNat f.kb, false, f.u, none⟩

def aluSH (f : SHI) : Alu :=
  ⟨.reg f.d.toNat, f.a.toNat, true, f.ka, .num (Int.ofNat f.amt.toNat), false, f.u, none⟩

/-- The immediate of an RI instruction with its HIMM: PAYLOAD above IMM11, 35 bits (16 R350). -/
def immRI (h : Hints) (imm : BitVec 11) (signed : Bool) : Int :=
  match h.himm with
  | none => if signed then sextNat 11 imm.toNat else Int.ofNat imm.toNat
  | some y =>
    let x := y.toNat * 2 ^ 11 + imm.toNat
    if signed then sextNat 35 x else Int.ofNat x

/-- The immediate of MOVI with its HIMM: 41 bits, signed. -/
def immWI (h : Hints) (imm : BitVec 17) : Int :=
  match h.himm with
  | none => sextNat 17 imm.toNat
  | some y => sextNat 41 (y.toNat * 2 ^ 17 + imm.toNat)

def aluRI (f : RI) (n : Int) : Alu := ⟨.reg f.d.toNat, f.a.toNat, true, f.ka, .num n, false, f.u, none⟩

def aluWI (f : WI) (n : Int) : Alu := ⟨.reg f.d.toNat, 63, false, false, .num n, false, f.u, none⟩

/-- The hints of the current group, none when there is none. -/
def curHints (s : State) : Hints :=
  match grp s s.ctl.cur with
  | some g => g.hints
  | none => Hints.none

end Sys2Proof.Machine
end

