-- ==== Sys2Proof/Machine/Access.lean ====
section
/-! DEFINITION. What the memory instructions share: level operands (03 R57, R58), register limits (17 R367), the checks
of every executing lane and their traps and parks (11 R235 to R237; 06 R135 to R137), waiting for owned lines (07
R156) and for weight-store windows (06 R122). -/

namespace Sys2Proof.Machine

/-! ### Level operands -/

/-- The check of a level operand (03 R57, R58): REMOTE only where `remote`. -/
def levelTrap (c : Ctx) (lvl : Nat) (remote : Bool) : Option Tr :=
  if lvl = 15 then some (illegal c.word c.dst)
  else if lvl = 14 ∧ remote = false then some (badOperand c.word c.dst)
  else if 1 ≤ lvl ∧ lvl ≤ 12 ∧ depth c.w.l.img < lvl then some ⟨cLEVEL, BitVec.ofNat 64 lvl, none, c.dst⟩
  else none

/-- The level of the release half and the check of an HMOD of class SCOPE (16 R356): only with acq-rel, at most LVL. -/
def scopeTrap (c : Ctx) (acqrel : Bool) (lvl : Nat) : Option Tr :=
  match c.g.hints.hmod with
  | some (.scope r) =>
    if acqrel = false ∨ 14 ≤ r ∨ lvl < r then some (badOperand c.word c.dst)
    else if 1 ≤ r ∧ r ≤ 12 ∧ depth c.w.l.img < r then some ⟨cLEVEL, BitVec.ofNat 64 r, none, c.dst⟩
    else none
  | _ => none

/-- The level at which the release half acts. -/
def releaseLevel (g : Group) (lvl : Nat) : Nat :=
  match g.hints.hmod with
  | some (.scope r) => r
  | _ => lvl

/-- The first of several checks that fails. -/
def firstTrap : List (Option Tr) → Option Out
  | [] => none
  | some t :: _ => some (.trap t)
  | none :: r => firstTrap r

/-! ### Widths and register limits (14 R295, 17 R367) -/

/-- The bytes of a width code of format M. -/
def bytesM (w : Nat) : Nat :=
  match w with
  | 0 => 1
  | 1 => 1
  | 2 => 2
  | 3 => 2
  | 4 => 4
  | 5 => 8
  | _ => 16

/-- How many registers a datum takes. -/
def regsM (u : Bool) (w : Nat) : Nat :=
  if u then if w = 6 then 2 else 1
  else if w = 6 then 4 else if w = 5 then 2 else 1

/-- A data register is within its limits. -/
def dataRegOk (u : Bool) (w r : Nat) : Bool :=
  if u then !(w == 6) || r % 2 == 0
  else if w = 6 then r % 4 == 0 && decide (r ≤ 60)
  else if w = 5 then r % 2 == 0 && decide (r ≤ 60)
  else true

/-- The registers r to r + n - 1 of a file. -/
def regRun (u : Bool) (r n : Nat) : List (Bool × Nat) := (List.range n).map fun k => (u, r + k)

/-- The register check as a trap. -/
def regTrap (c : Ctx) (ok : Bool) : Option Tr := if ok then none else some (badOperand c.word c.dst)

/-! ### Addresses -/

/-- The byte displacement of an HIMM (16 R350). -/
def disp (h : Hints) : Int :=
  match h.himm with
  | none => 0
  | some y => sextNat 24 y.toNat

/-- BASE + IDX + displacement modulo 2^64 (17 R368); IDX = 63 adds nothing. -/
def laneAddr (g : Group) (base idx l : Nat) : Nat :=
  wrapNat 64 (Int.ofNat (rdS g base).toNat + (if idx = 63 then 0 else Int.ofNat (rdVl g idx l).toNat) + disp g.hints)

/-- The checks of one lane. -/
structure LaneHit where
  lane : Nat
  va : Nat
  hit : Hit
  deriving DecidableEq, Repr

/-- The checks of every lane of a list. -/
def probe (s : State) (w : Who) (acc : Acc) (n : Nat) (ls : List Nat) (addr : Nat → Nat) : List LaneHit :=
  ls.map fun l => ⟨l, addr l, check s w acc (addr l) n⟩

/-- The place of a lane whose checks pass. -/
def LaneHit.loc? (h : LaneHit) : Option Loc :=
  match h.hit with
  | .ok l _ => some l
  | _ => none

def LaneHit.cause? (h : LaneHit) : Option Nat :=
  match h.hit with
  | .trap k => some k
  | _ => none

def LaneHit.isXlate (h : LaneHit) : Bool :=
  match h.hit with
  | .xlate _ _ => true
  | _ => false

/-- The lane traps before any translation: for its alignment or its window (06 R115 to R118). -/
def LaneHit.isEarly (h : LaneHit) : Bool := h.cause?.isSome && (h.hit == .trap cALIGN || !(window h.va == .global))

/-- The mask of the lanes of some checks. -/
def hitMask (hs : List LaneHit) : Mask := maskOf fun l => hs.any fun h => h.lane == l

/-- The trap of several lanes (11 R235): the lowest cause, and the address of the lowest lane that raised it. -/
def lanesTrap (hs : List LaneHit) (dst : Nat) : Option Tr :=
  let ts := hs.filter fun h => h.cause?.isSome
  match ts with
  | [] => none
  | h :: t =>
    let k := (t.map fun x => x.cause?.getD 255).foldl min (h.cause?.getD 255)
    let va := ((ts.find? fun x => x.cause? == some k).map (·.va)).getD 0
    some ⟨k, BitVec.ofNat 64 va, some (hitMask ts), dst⟩

/-- The trap of an instruction that faults as a whole: the active mask (11 R235). -/
def wholeTrap (hs : List LaneHit) (dst : Nat) : Option Tr := (lanesTrap hs dst).map fun t => { t with lanes := none }

/-- The bank group of the die in which a weight-store place lies is in its window (06 R122). -/
def inWindow (s : State) (l : Loc) : Bool :=
  match l with
  | .weight a => ((s.part.ws.getD (a / 2 ^ 30) WsWin.idle).openBg) == some (a % 2 ^ 30 / 2 ^ 26)
  | _ => false

/-- Some lane's place is owned by an engine transfer, or in a weight-store window. -/
def blockedBy (s : State) (hs : List LaneHit) (n : Nat) : Option Wait :=
  if hs.any fun h => match h.loc? with
      | some l => ownedLoc s l n
      | none => false then some .memory
  else if hs.any fun h => match h.loc? with
      | some l => inWindow s l
      | none => false then some .window
  else none

/-- The fault records of every lane that faults in translation, opened or joined in lane order, and whether any was: a
fault that finds no record free waits (06 R136). -/
def openAll (s : State) (c : Ctx) (kind : Nat) (hs : List LaneHit) : State × Bool :=
  hs.foldl (fun r h => match h.hit with
    | .xlate k host =>
      if poolFull r.1 c.w.die c.w.asid h.va (writeLike kind) then r
      else (openFault r.1 c.w.die c.w.asid h.va kind k (host && kind == 2) c.w.core (.group c.gid), true)
    | _ => r) (s, false)

/-- The park of an instruction some of whose lanes fault in translation, or a wait while no record is free. -/
def parkHits (s : State) (c : Ctx) (kind : Nat) (hs : List LaneHit) (lanes : Mask) (gather : Bool) : Out :=
  let r := openAll s c kind hs
  if r.2 then .park r.1 lanes gather else .wait .memory

/-- What the checks of an instruction that takes no partial effect lead to before it is performed (11 R237): alignment
and windows first, then translation, then the rest (18 R406), then the waits of the lanes in `bs`. -/
def hitsPreOn (s : State) (c : Ctx) (kind n : Nat) (hs bs : List LaneHit) (whole : Bool) : Option Out :=
  let t := if whole then wholeTrap hs c.dst else lanesTrap hs c.dst
  let xs := hs.filter LaneHit.isXlate
  if hs.any LaneHit.isEarly then t.map .trap
  else if hs.any fun h => h.hit == .busy then some (.wait .memory)
  else if !xs.isEmpty then some (parkHits s c kind xs (if whole then c.g.active else hitMask xs) false)
  else match t with
    | some t => some (.trap t)
    | none => (blockedBy s bs n).map .wait

/-- The same where every lane waits for owned lines. -/
def hitsPre (s : State) (c : Ctx) (kind n : Nat) (hs : List LaneHit) (whole : Bool) : Option Out :=
  hitsPreOn s c kind n hs hs whole

/-- The pages of the lanes stay translated. -/
def noteAll (s : State) (w : Who) (acc : Acc) (hs : List LaneHit) : State :=
  hs.foldl (fun s h => noteTlb s w.die w.asid h.va acc) s

/-! ### Reading -/

/-- The L1 treatment of a load by NA and the cache policy (06 R125, 16 R352); `b` marks LDB. -/
def l1ModeOf (g : Group) (b na : Bool) : L1Mode :=
  let pol := match g.hints.hmod with
    | some (.cache p) => p
    | _ => 0
  let na := match pol with
    | 1 => false
    | 2 => true
    | _ => na
  if b || pol == 3 then ⟨false, false, !na⟩ else ⟨true, !na, !na⟩

/-- A page that is never in L1 makes every LD act as LDB (06 R131). -/
def pageMode (md : L1Mode) (nocache : Bool) : L1Mode :=
  if nocache then ⟨false, false, md.guest⟩ else md

/-- The lane's load hits the L1, where no engine's ownership of the line reaches it (07 R157; 17 R370). -/
def LaneHit.inL1 (s : State) (w : Who) (md : L1Mode) (h : LaneHit) : Bool :=
  match h.hit with
  | .ok l nc => l1Hit s w (pageMode md nc) l
  | _ => false

/-- Reads the place of one lane and leaves what a load leaves: the caches and the group's list of lines read. -/
def readLane (s : State) (w : Who) (md : L1Mode) (l : Loc) (nocache : Bool) (n : Nat) : Nat × State :=
  let md := pageMode md nocache
  let v := natLe (readLoc s w md l n)
  (v, modGrp (touchLoad s w md l nocache) w.gid fun g => endAhead (noteRead g l) l n)

/-- Reads the places of the lanes whose checks pass, in ascending lane order. -/
def readLanes (s : State) (w : Who) (md : L1Mode) (n : Nat) : List LaneHit → List (Nat × Nat) × State
  | [] => ([], s)
  | h :: t =>
    match h.hit with
    | .ok l nc =>
      let r := readLane s w md l nc n
      let rest := readLanes r.2 w md n t
      ((h.lane, r.1) :: rest.1, rest.2)
    | _ => readLanes s w md n t

/-- Extends a loaded value to a register (17 R367). -/
def extendM (u : Bool) (w v : Nat) : Nat :=
  let n := if u then 64 else 32
  match w with
  | 1 => wrapNat n (sextNat 8 v)
  | 3 => wrapNat n (sextNat 16 v)
  | _ => v

/-- The value of register k of a datum. -/
def partM (u : Bool) (w k v : Nat) : Nat :=
  if regsM u w = 1 then extendM u w v else v / 2 ^ ((if u then 64 else 32) * k) % 2 ^ (if u then 64 else 32)

/-- Puts a load in flight: its data comes back with LOAD_DATA_RETURN (95). -/
def launchFlight (s : State) (f : Flight) : State :=
  bumpSerial { s with run := { s.run with flights := s.run.flights ++ [{ f with id := s.ctl.serial }] } }

/-- The register values of a load: one list of 64 lanes for each register, or one value when uniform. -/
def loadVals (u : Bool) (w : Nat) (vs : List (Nat × Nat)) : List (List Nat) :=
  (List.range (regsM u w)).map fun k =>
    if u then [partM u w k ((vs.head?.map (·.2)).getD 0)]
    else mkLanes fun l => partM u w k (((vs.find? fun e => e.1 == l).map (·.2)).getD 0)

/-! ### Writing -/

/-- The data of one lane of a store. -/
def storeData (g : Group) (u : Bool) (w r l : Nat) : Nat :=
  ((List.range (regsM u w)).map fun k =>
    if u then (rdS g (r + k)).toNat * 2 ^ (64 * k) else (rdVl g (r + k) l).toNat * 2 ^ (32 * k)).sum

/-- A relaxed write has release order after a release FENCE (07 R153). -/
def relOrder (s : State) (gid : Nat) : Bool :=
  match grp s gid with
  | some g => g.relFence
  | none => false

/-- Under REPLAY a conflict waits for the holder's commit instead of aborting, but not in an attempt that the log aborts
at its TXEND (12 R266). -/
def conflictHeld (s : State) (w : Who) (hs : List LaneHit) : Bool :=
  replaying w.l && w.it.txOpen && !(w.l.replayLog.contains (conflictEntry w.it)) && hs.any fun h => match h.loc? with
    | some (.hbm pa) => (holderOf s w.item (pa / 128)).isSome
    | _ => false

/-- Stores the lanes in ascending order, so that the highest lane's bytes remain (07 R144). -/
def storeLanes (s : State) (w : Who) (rel : Bool) (n : Nat) (data : Nat → Nat) (hs : List LaneHit) : State :=
  hs.foldl (fun s h => match h.hit with
    | .ok l _ => storeLoc s w rel l (bytesLe n (data h.lane))
    | _ => s) s

end Sys2Proof.Machine
end

