-- ==== Sys2Proof/Machine/Pacer.lean ====
section
/-! DEFINITION. The Pacer (10 R226 to R228): the die accounts, requests for leave, reservations, and the order in
which requests are granted. -/

namespace Sys2Proof.Machine

/-- The part is in SAFE (02 R31). -/
def inSafe (s : State) : Bool := s.part.cryo.state == 6

/-- What an account holds at most, and before any debit (10 R226; assumption 12). -/
def accountCap : Int := 33554432

def accountOf (s : State) (die : Nat) : Int := kget accountCap s.host.accounts die

/-- Takes a weight from a die's account, and counts it in the current 1 µs window (10 R227). -/
def debit (s : State) (die weight : Nat) : State :=
  let w := kget (0, 0) s.host.window die
  setHost s { s.host with
    accounts := kput accountCap s.host.accounts die (accountOf s die - Int.ofNat weight)
    window := kins s.host.window die (w.1, w.2 + weight) }

/-- Returns a weight to a die's account. -/
def credit (s : State) (die weight : Nat) : State :=
  setHost s { s.host with
    accounts := kput accountCap s.host.accounts die (min accountCap (accountOf s die + Int.ofNat weight)) }

/-- Queues a request for leave. -/
def askPacer (s : State) (r : PacerReq) : State := setHost s { s.host with asks := s.host.asks ++ [r] }

/-- What a group's reservation covers of a request (10 R228): the weight left to ask for. -/
def drawReserve (s : State) (gid weight : Nat) : Nat × State :=
  match (grp s gid).bind fun g => g.pq.held with
  | none => (weight, s)
  | some h =>
    let left := if weight < h then some (h - weight) else none
    (weight - h, modGrp s gid fun g => { g with pq := { g.pq with held := left, since := s.ctl.clk } })

/-- Returns a group's reservation, held or asked for (10 R228). -/
def returnReserve (s : State) (gid : Nat) : State :=
  match grp s gid with
  | none => s
  | some g =>
    let s := match g.pq.held with
      | some h => credit s (coreDie s.part.dies (gid / 32)) h
      | none => s
    let s := setHost s { s.host with asks := s.host.asks.filter fun r => !(r.who == .reserve gid) }
    modGrp s gid fun g => { g with pq := { g.pq with held := none, pend := none } }

/-- MACs of BF16 a die performs in one AC cycle (00 R3). -/
def diePeak (s : State) (die : Nat) : Nat := 12288 * ((s.part.dies.getD die ⟨0, 0, [], 0, 0⟩).sites.length)

/-- The di/dt limit allows a weight in the current window (10 R227; 02 R46). -/
def didtAllows (s : State) (die weight : Nat) : Bool :=
  let w := kget (0, 0) s.host.window die
  s.host.didt == 100 ||
    decide (w.2 + weight ≤ w.1 + s.host.didt * diePeak s die * acMhz s.part.cryo.cls / 100)

/-- The account covers a request (10 R226). -/
def covers (s : State) (die weight : Nat) : Bool :=
  let a := accountOf s die
  if accountCap < Int.ofNat weight then decide (a = accountCap) else decide (Int.ofNat weight ≤ a)

/-- Requests that SAFE does not hold back: the chunks of engine transfers (02 R45). -/
def safeAllows (s : State) (r : PacerReq) : Bool :=
  !inSafe s || match r.who with
    | .xfer _ => true
    | _ => false

/-- The request a die serves next (10 R226, R227): PRIO, then arrival; or arrival alone with ORDER 0. -/
def nextAsk (s : State) (die : Nat) : Option PacerReq :=
  let rs := s.host.asks.filter fun r => r.die == die && safeAllows s r
  match rs with
  | [] => none
  | r :: t =>
    if s.host.order = 0 then some r
    else some (t.foldl (fun a x => if a.prio < x.prio then x else a) r)

/-- Every refill of AC cycles (10 R226): F times the die's peak rate, up to the cap. -/
def refill (s : State) (cycles : Nat) : State :=
  setHost s { s.host with
    accounts := s.host.accounts.filterMap fun e =>
      let v := min accountCap (e.2 + Int.ofNat (s.host.f * diePeak s e.1 * cycles / 65536))
      if v = accountCap then none else some (e.1, v) }

end Sys2Proof.Machine
end

