-- ==== Sys2Proof/Machine/Matrix.lean ====
section
/-! DEFINITION. The matrix engine: TMMA, batches, TZERO, TRD, TWR, TBATCH and TWAIT (08 R163 to R173; 18 R409, R412,
R413, R415, R420), its arithmetic (05 R107 to R111), the monitors (08 R180 to R182) and the checker (05 R113). -/

namespace Sys2Proof.Machine

/-! ### Formats and shapes -/

/-- The element width of an operand type of the format word (08 R164, R165): bits, 0 for no type. -/
def typeBits (t : Nat) : Nat :=
  match t with
  | 0 => 4
  | 1 => 4
  | 2 => 8
  | 3 => 8
  | 4 => 16
  | 5 => 16
  | 6 => 32
  | 7 => 8
  | _ => 0

/-- The format word matches a row of 08 R164. -/
def fmtOk (w : Nat) : Bool :=
  let a := bits w 0 4
  let b := bits w 4 4
  let acc := bits w 8 2
  bits w 10 22 == 0 && decide (a ≤ 7) && decide (b ≤ 7) &&
    (if a = 7 ∨ b = 7 then a == 7 && b == 7 && acc == 1 else typeBits a == typeBits b && acc == 0)

/-- Shapes of 08 R165 by element width and index. -/
def shapeOf (w idx : Nat) : Nat × Nat × Nat :=
  match w, idx with
  | 4, 0 => (64, 64, 128)
  | 4, 1 => (64, 32, 128)
  | 4, 2 => (64, 16, 128)
  | 4, 3 => (32, 32, 128)
  | 4, 4 => (64, 64, 64)
  | 4, 5 => (16, 16, 64)
  | 4, 6 => (8, 8, 32)
  | 4, 7 => (4, 4, 32)
  | 8, 0 => (64, 64, 64)
  | 8, 1 => (64, 32, 64)
  | 8, 2 => (64, 16, 64)
  | 8, 3 => (32, 32, 64)
  | 8, 4 => (64, 64, 32)
  | 8, 5 => (16, 16, 32)
  | 8, 6 => (8, 8, 32)
  | 8, 7 => (4, 4, 32)
  | 16, 0 => (64, 64, 32)
  | 16, 1 => (64, 32, 32)
  | 16, 2 => (64, 16, 32)
  | 16, 3 => (32, 32, 32)
  | 16, 4 => (64, 64, 16)
  | 16, 5 => (16, 16, 16)
  | 16, 6 => (8, 8, 16)
  | 16, 7 => (4, 4, 16)
  | 32, 0 => (64, 32, 8)
  | 32, 1 => (64, 16, 8)
  | 32, 2 => (32, 32, 8)
  | 32, 3 => (16, 16, 8)
  | 32, 4 => (64, 64, 4)
  | 32, 5 => (16, 16, 4)
  | 32, 6 => (8, 8, 4)
  | 32, 7 => (4, 4, 4)
  | _, _ => (0, 0, 0)

/-- The shape a format word and an index select. -/
def tmmaShape (word idx : Nat) : Nat × Nat × Nat := shapeOf (typeBits (bits word 0 4)) idx

/-- How many registers a row of A takes (08 R166). -/
def aRegs (word idx : Nat) : Nat :=
  let w := typeBits (bits word 0 4)
  (tmmaShape word idx).2.2 * w / 32 + (if w = 4 then 1 else 0)

/-- The bytes of B from its address to the end of its scale region (08 R167). -/
def bBytes (word idx : Nat) : Nat :=
  let (_, n, k) := tmmaShape word idx
  let w := typeBits (bits word 0 4)
  n * k * w / 8 + (if w = 4 then n * (k / 32) else 0)

/-- The weight of a TMMA (10 R226): the MACs of its full shape by width class. -/
def tmmaWeight (t : Tmma) : Nat :=
  let (m, n, k) := tmmaShape t.word.toNat t.shape
  match typeBits (bits t.word.toNat 0 4) with
  | 4 => m * n * k / 4
  | 8 => m * n * k / 2
  | 16 => m * n * k
  | _ => m * n * k * 4

/-! ### Element values (05 R107 to R109) -/

/-- Magnitudes of E2M1 in halves. -/
def e2m1 (m : Nat) : Nat := [0, 1, 2, 3, 4, 6, 8, 12].getD m 0

/-- A decoded 4-bit code: sign, magnitude in halves; a zero code is +0. -/
def code4 (t c : Nat) : Bool × Nat :=
  let s := tbit c 3
  let m := c % 8
  if t = 0 then
    let z := sextNat 4 c
    (decide (z < 0), 2 * z.natAbs)
  else
    let v := if t = 1 then e2m1 m else if t = 2 then (if m = 0 then 0 else 2 ^ m)
      else 2 * [0, 1, 2, 3, 4, 6, 8, 12].getD m 0
    (s && !(v == 0), v)

/-- The value of an element: its type in the format word, its code and its block's scale byte. -/
def elemVal (type code scale : Nat) : FVal :=
  match type with
  | 0 => if scale = 255 then .nan false false
    else
      let v := code4 1 code
      .fin v.1 v.2 (Int.ofNat scale - 128)
  | 1 => if scale % 64 = 63 then .nan false false
    else
      let v := code4 (scale / 64) code
      .fin v.1 v.2 (Int.ofNat (scale % 64) - 32)
  | 2 => decodeF e4m3 code
  | 3 => decodeF e5m2 code
  | 4 => decodeF bf16 code
  | 5 => decodeF fp16 code
  | 6 => decodeF fp32 code
  | _ => .fin (decide (sextNat 8 code < 0)) (sextNat 8 code).natAbs 0

/-- ValA(i, k) (08 R166). -/
def valA (t : Tmma) (i k : Nat) : FVal :=
  let ty := bits t.word.toNat 0 4
  let w := typeBits ty
  let reg (n : Nat) : Nat := (laneOf 0 (t.a.getD n []) i).toNat
  let code := bits (reg (k * w / 32)) (k * w % 32) w
  let scale := bits (reg (aRegs t.word.toNat t.shape - 1)) (8 * (k / 32)) 8
  elemVal ty code scale

/-- ValB(k, j) (08 R167) from the bytes of the span. -/
def valB (t : Tmma) (bs : List Byte) (k j : Nat) : FVal :=
  let ty := bits t.word.toNat 4 4
  let (_, n, kk) := tmmaShape t.word.toNat t.shape
  let idx := j * kk + k
  let byte (o : Nat) : Nat := (bs.getD o 0).toNat
  if typeBits ty = 4 then
    let scale := byte (n * kk / 2 + j * (kk / 32) + k / 32)
    elemVal ty (bits (byte (idx / 2)) (4 * (idx % 2)) 4) scale
  else
    let w := typeBits ty / 8
    elemVal ty (natLe ((bs.drop (idx * w)).take w)) 0

/-- The K-block length KB (05 R109). -/
def blockLen (word : Nat) : Nat :=
  match typeBits (bits word 0 4) with
  | 4 => 32
  | 8 => 32
  | 16 => 16
  | _ => 4

/-- What the monitors and the checker see of one element. -/
structure Watch where
  range : Bool
  canc : Bool
  nonfin : Bool
  elems : Nat
  maxAbs : Nat
  maxRel : Nat
  deriving DecidableEq, Repr

def Watch.none : Watch := ⟨false, false, false, 0, 0, 0⟩

def Watch.join (a b : Watch) : Watch :=
  ⟨a.range || b.range, a.canc || b.canc, a.nonfin || b.nonfin, a.elems + b.elems, max a.maxAbs b.maxAbs,
    max a.maxRel b.maxRel⟩

/-- A value outside the headroom window (08 R181). -/
def outside (lo hi : Int) : FVal → Bool
  | .nan _ _ => true
  | .inf _ => true
  | .fin _ m e => !(m == 0) && (decide (expOf m e < lo) || decide (hi < expOf m e))

/-- The exponent of a non-zero finite value. -/
def expo? : FVal → Option Int
  | .fin _ m e => if m = 0 then none else some (expOf m e)
  | _ => none

/-- The largest exponent among the non-zero finite terms. -/
def topExp (ts : List FVal) : Option Int :=
  ts.foldl (fun a x => match a, expo? x with
    | some p, some q => some (max p q)
    | none, q => q
    | p, none => p) none

/-- The cancellation monitor of one element (08 R182). -/
def cancels (theta : Nat) (terms : List FVal) (v : FVal) : Bool :=
  if theta = 255 then false
  else match topExp terms, v with
    | some p, .fin _ m e => m == 0 || decide (Int.ofNat theta < p - expOf m e)
    | _, _ => false

/-- The checker on one element (05 R113): the reference rounds the whole sum once. -/
def checkElem (terms : List FVal) (res : FVal) : Watch :=
  let ref := roundNE (exactSum terms)
  match res, decodeF fp32 ref.toNat with
  | .fin n m e, .fin k l d =>
    let diff := exactAdd (.fin n m e) (.fin (!k) l d)
    let mag : FVal := match diff with
      | .fin _ x y => .fin false x y
      | x => x
    let abs := (roundV fp32 .rne false mag).v
    let rel := if l = 0 then 0 else (divF fp32 .rne false mag (.fin false l d)).v
    { Watch.none with elems := 1, maxAbs := abs, maxRel := rel }
  | _, _ => { Watch.none with elems := 1, nonfin := true }

/-- The limits the monitors compare with. -/
structure Limits where
  lo : Int
  hi : Int
  theta : Nat
  deriving DecidableEq, Repr

/-- One block of the accumulation (05 R109): the products of K-block b. -/
def blockProds (t : Tmma) (bs : List Byte) (i j b : Nat) : List FVal :=
  let kb := blockLen t.word.toNat
  (List.range kb).map fun x => (mulV (valA t i (b * kb + x)) (valB t bs (b * kb + x) j)).1

/-- The FP32 accumulation of one element through its blocks, with what the range monitor saw. -/
def accFp (t : Tmma) (bs : List Byte) (lim : Limits) (i j : Nat) (c : W32) : W32 × Bool :=
  let kk := (tmmaShape t.word.toNat t.shape).2.2
  (List.range (kk / blockLen t.word.toNat)).foldl (fun a b =>
    let ps := blockProds t bs i j b
    let sum := exactSum ps
    let r := roundNE (exactAdd (decodeF fp32 a.1.toNat) sum)
    (r, a.2 || ps.any (outside lim.lo lim.hi) || outside lim.lo lim.hi sum
      || outside lim.lo lim.hi (decodeF fp32 r.toNat))) (c, false)

/-- The integer value of an INT8 element. -/
def intOf : FVal → Int
  | .fin n m _ => if n then -Int.ofNat m else Int.ofNat m
  | _ => 0

/-- The INT32 accumulation of one element (05 R111). -/
def accInt (t : Tmma) (bs : List Byte) (i j : Nat) (c : W32) : W32 :=
  let kk := (tmmaShape t.word.toNat t.shape).2.2
  let sum := (List.range kk).foldl (fun a k => a + intOf (valA t i k) * intOf (valB t bs k j)) 0
  BitVec.ofNat 32 (wrapNat 32 (Int.ofNat c.toNat + sum))

/-- An integer as a value. -/
def intVal (i : Int) : FVal := .fin (decide (i < 0)) i.natAbs 0

/-- The checker on an element of an INT32 accumulation (05 R113): its values are the integers (assumption 56). -/
def checkInt (t : Tmma) (bs : List Byte) (i j : Nat) (c res : W32) : Watch :=
  let kk := (tmmaShape t.word.toNat t.shape).2.2
  checkElem (intVal c.toInt :: (List.range kk).map fun k => intVal (intOf (valA t i k) * intOf (valB t bs k j)))
    (intVal res.toInt)

/-- One element of a TMMA: its new value and what was seen. -/
def tmmaElem (t : Tmma) (bs : List Byte) (lim : Limits) (i j : Nat) (c : W32) : W32 × Watch :=
  if bits t.word.toNat 8 2 = 1 then
    let r := accInt t bs i j c
    (r, if t.checked then checkInt t bs i j c r else Watch.none)
  else
    let kk := (tmmaShape t.word.toNat t.shape).2.2
    let r := accFp t bs lim i j c
    let terms := decodeF fp32 c.toNat ::
      (if t.watched || t.checked then (List.range kk).map fun k => (mulV (valA t i k) (valB t bs k j)).1 else [])
    let w : Watch := if t.checked then checkElem terms (decodeF fp32 r.1.toNat) else Watch.none
    (r.1, { w with
      range := t.watched && r.2
      canc := t.watched && cancels lim.theta terms (decodeF fp32 r.1.toNat) })

/-- A whole TMMA on its tile (18 R412): rows of executing lanes below M, columns below N. -/
def tmmaRun (t : Tmma) (bs : List Byte) (lim : Limits) (old : List W32) : List W32 × Watch :=
  let sh := tmmaShape t.word.toNat t.shape
  let es := (List.range 4096).map fun p =>
    let i := p / 64
    let j := p % 64
    let c := laneOf 0 old p
    if Mask.has t.rows i && decide (i < sh.1) && decide (j < sh.2.1) then tmmaElem t bs lim i j c
    else (c, Watch.none)
  (es.map (·.1), es.foldl (fun w e => w.join e.2) Watch.none)

/-! ### Batches (08 R170, R173) -/

/-- The number after a batch number. -/
def nextBatch (n : Nat) : Nat := if n = 0xFFFFFFFF then 1 else n + 1

/-- Closes the group's open TMMAs into a batch and asks for its leave: a reservation is drawn on first, and a batch of
a work item with a pre-emption pending has leave at once (11 R246). -/
def closeBatch (s : State) (gid : Nat) : State :=
  match grp s gid with
  | none => s
  | some g =>
    if g.opens.isEmpty then s
    else
      let n := nextBatch g.lastBatch
      let weight := (g.opens.map tmmaWeight).sum
      let die := coreDie s.part.dies (gid / 32)
      let prio := ((kfind s.run.launches g.launch).getD Launch.fresh).pkt.prio
      let pre := ((kfind s.run.items g.item).getD Item.fresh).preempt.isSome
      let r := drawReserve s gid weight
      let granted := pre || r.1 == 0
      let s1 := modGrp r.2 gid fun g =>
        { g with
          opens := []
          batches := g.batches ++ [⟨n, g.opens, granted, none⟩]
          lastBatch := n
          issuedBatches := g.issuedBatches + 1 }
      if pre then debit s1 die r.1
      else if r.1 = 0 then s1
      else askPacer s1 ⟨die, .batch gid n, r.1, prio⟩

/-- Grants a batch its leave. -/
def grantBatch (s : State) (gid num : Nat) : State :=
  modGrp s gid fun g =>
    { g with batches := g.batches.map fun b => if b.num = num then { b with granted := true } else b }

/-- A tile that a TMMA of a list names. -/
def namesTile (ts : List Tmma) (a : Nat) : Bool := ts.any fun t => t.acc == a

/-- An accumulator instruction meets its tile (08 R170, R172): an open TMMA that names it closes its batch, and the
group waits until every batch that names it has finished. -/
def tileReady (s : State) (gid a : Nat) : State × Bool :=
  match grp s gid with
  | none => (s, true)
  | some g =>
    let s1 := if namesTile g.opens a then closeBatch s gid else s
    let busy := namesTile g.opens a || g.batches.any fun b => namesTile b.tm a
    (s1, !busy)

/-- The tile check (04 R84). -/
def tileTrap (c : Ctx) (a : Nat) : Option Tr :=
  if c.w.l.img.afoot ≤ a then some (badOperand c.word c.dst) else none

/-- Runs an effect on a tile, or waits for it. -/
def withTile (c : Ctx) (s : State) (a : Nat) (f : State → Out) : Out :=
  let r := tileReady c.s0 c.gid a
  if r.2 then f s else .hold r.1 .batch

/-! ### TMMA -/

/-- The format word of a lane (08 R164). -/
def fmtWord (f : TM) (g : Group) (l : Nat) : W32 := rdVl g (56 + f.f.toNat) l

/-- The agreed format word: that of the lowest executing lane. -/
def fmtAgreed (f : TM) (g : Group) (x : Mask) : W32 := fmtWord f g (Mask.lowest x)

/-- The lanes whose word differs from the lowest lane's. -/
def fmtDiffer (f : TM) (g : Group) (x : Mask) : Mask :=
  maskOf fun l => Mask.has x l && !(fmtWord f g l == fmtAgreed f g x)

/-- The span of B lies in the own scratchpad or in the weight store (08 R167). -/
def bSpanOk (w : Who) (va n : Nat) : Bool :=
  match window va with
  | .own o => decide (o + n ≤ w.l.img.scratch)
  | .weight o => decide (o + n ≤ 0x40000000)
  | _ => false

/-- The checks of 08 R169, in order. A TMMA without an executing lane checks nothing (R163). -/
def tmmaPre (f : TM) (c : Ctx) : Option Out :=
  if c.x = 0 then none
  else
    let word := fmtAgreed f c.g c.x
    let sh := f.shape.toNat
    let va := (rdS c.g f.bs.toNat).toNat
    let diff := fmtDiffer f c.g c.x
    firstTrap [
      tileTrap c f.acc.toNat,
      if diff = 0 then none else some ⟨cFMTDIV, diff, none, c.dst⟩,
      if fmtOk word.toNat && decide (sh < 8) then none
        else some ⟨cFMTILL, BitVec.ofNat 64 (word.toNat + sh * 2 ^ 32), none, c.dst⟩,
      if f.a.toNat + aRegs word.toNat sh ≤ 56 then none else some (badOperand c.word c.dst),
      if va % 64 = 0 then none else some ⟨cALIGN, BitVec.ofNat 64 va, none, c.dst⟩,
      if bSpanOk c.w va (bBytes word.toNat sh) then none else some ⟨cSPACE, BitVec.ofNat 64 va, none, c.dst⟩]

/-- The registers a TMMA reads, in order: the format word and the address of B for the checks of 08 R169, then its rows of A
(18 R412). -/
def tmmaRegs (f : TM) (g : Group) : Regs :=
  let x := execLanes g .lanes
  if x = 0 then noRegs
  else
    let n := aRegs (fmtAgreed f g x).toNat f.shape.toNat
    ⟨[(false, 56 + f.f.toNat), (true, f.bs.toNat)] ++ regRun false f.a.toNat n, [], []⟩

/-- The TMMA as its issue captures it (08 R166, R180; 05 R113). -/
def tmmaOf (f : TM) (c : Ctx) : Tmma :=
  let word := fmtAgreed f c.g c.x
  let inTx := c.w.it.txOpen && decide (c.w.it.rung ≤ 2)
  { acc := f.acc.toNat, shape := f.shape.toNat, word := word, rows := c.x,
    a := (List.range (aRegs word.toNat f.shape.toNat)).map fun k => rdV c.g (f.a.toNat + k),
    b := (rdS c.g f.bs.toNat).toNat, watched := inTx && bits word.toNat 8 2 == 0, checked := inTx && c.w.it.checked }

/-- The effect of TMMA at issue (08 R170): it opens; 64 open ones are closed first. Its tile counts as bound from here on
(04 R84 names the first write; assumption 50). -/
def tmmaIssue (f : TM) (c : Ctx) (s : State) : Out :=
  if c.x = 0 then .done s
  else
    let s1 := if 64 ≤ c.g.opens.length then closeBatch s c.gid else s
    .done (modGrp s1 c.gid fun g =>
      { g with opens := g.opens ++ [tmmaOf f c], bound := kins g.bound f.acc.toNat true })

/-- TMMA (18 R412). -/
def execTmma (f : TM) (s : State) : Host.Outcome State Fault Refusal :=
  issue
    { i := .tmma f
      pol := .lanes
      regs := tmmaRegs f
      dst := fun _ => dstNone
      pre := tmmaPre f
      body := tmmaIssue f } s

/-! ### TZERO, TRD, TWR, TBATCH, TWAIT -/

/-- TZERO (18 R420): the whole tile, whatever the executing lanes. -/
def execTzero (f : TZ) (s : State) : Host.Outcome State Fault Refusal :=
  issue
    { i := .tzero f
      pol := .once
      regs := fun _ => noRegs
      dst := fun _ => dstNone
      pre := fun c => firstTrap [tileTrap c f.acc.toNat]
      body := fun c s => withTile c s f.acc.toNat fun s =>
        .done (modGrp s c.gid fun g => wrTile g f.acc.toNat fun _ _ => 0) } s

/-- The checks of TRD and TWR (18 R415). -/
def trwPre (f : TRW) (c : Ctx) : Option Out :=
  firstTrap [regTrap c (decide (f.c.toNat < 8)), regTrap c (decide (f.x.toNat ≤ 56)), tileTrap c f.acc.toNat]

/-- TRD (18 R415): tile columns 8c to 8c + 7 to eight v-registers. -/
def execTrd (f : TRW) (s : State) : Host.Outcome State Fault Refusal :=
  issue
    { i := .trd f
      pol := .lanes
      regs := fun _ => ⟨[], [], regRun false f.x.toNat 8⟩
      dst := fun _ => dstV f.x.toNat
      pre := trwPre f
      body := fun c s => withTile c s f.acc.toNat fun s =>
        .done (modGrp s c.gid fun g => (List.range 8).foldl
          (fun g k => wrV g (f.x.toNat + k) c.x fun i => rdTile c.g f.acc.toNat i (8 * f.c.toNat + k)) g) } s

/-- TWR (18 R415): eight v-registers to tile columns 8c to 8c + 7, in the rows of the executing lanes. -/
def execTwr (f : TRW) (s : State) : Host.Outcome State Fault Refusal :=
  issue
    { i := .twr f
      pol := .lanes
      regs := fun _ => ⟨regRun false f.x.toNat 8, [], []⟩
      dst := fun _ => dstNone
      pre := trwPre f
      body := fun c s => withTile c s f.acc.toNat fun s =>
        .done (if c.x = 0 then s
          else modGrp s c.gid fun g => wrTile g f.acc.toNat fun i j =>
            if Mask.has c.x i && j / 8 == f.c.toNat then rdVl c.g (f.x.toNat + j % 8) i
            else rdTile c.g f.acc.toNat i j) } s

/-- TBATCH (18 R409): closes the open TMMAs; the number of the group's most recent batch. -/
def execTbatch (f : TB) (s : State) : Host.Outcome State Fault Refusal :=
  issue
    { i := .tbatch f
      pol := .once
      regs := fun _ => ⟨[], [], [(true, f.x.toNat)]⟩
      dst := fun _ => dstS f.x.toNat
      pre := fun _ => none
      body := fun c s => .done (modGrp (closeBatch s c.gid) c.gid fun g =>
        wrS g f.x.toNat (BitVec.ofNat 64 g.lastBatch)) } s

/-- Whether TWAIT on batch n must wait (08 R171). -/
def batchPending (g : Group) (n : Nat) : Bool :=
  let m : Int := 0xFFFFFFFF
  let d := ((Int.ofNat g.lastBatch - Int.ofNat n) % m).toNat
  if n = 0 ∨ g.issuedBatches = 0 then false
  else
    let d := if d < 2 ^ 31 then d else 0
    decide (d < g.issuedBatches) && decide (d < g.batches.length)

/-- TWAIT (18 R409). -/
def execTwait (f : TW) (s : State) : Host.Outcome State Fault Refusal :=
  issue
    { i := .twait f
      pol := .once
      regs := fun _ => ⟨[(true, f.y.toNat)], [], []⟩
      dst := fun _ => dstNone
      pre := fun _ => none
      body := fun c s =>
        if batchPending c.g ((rdS c.g f.y.toNat).toNat % 2 ^ 32) then .wait .batch else .done s } s

/-! ### What the engine does on its own -/

/-- The place of B's span: own scratchpad or weight store. -/
def bLoc (w : Who) (va : Nat) : Option Loc :=
  match window va with
  | .own o => some (.scr w.item (w.own * 2 ^ 19 + o))
  | .weight o => some (.weight (w.die * 2 ^ 30 + o))
  | _ => none

/-- A span lies in an open weight-store window of its die (06 R122): it may touch two bank groups. -/
def spanWindow (s : State) (l : Loc) (n : Nat) : Bool :=
  match l with
  | .weight a => inWindow s (.weight a) || inWindow s (.weight (a + n - 1))
  | _ => false

/-- The B-reads of a batch may be performed now (07 R156; 06 R122). -/
def bReady (s : State) (w : Who) (t : Tmma) : Bool :=
  match bLoc w t.b with
  | none => true
  | some l =>
    let n := bBytes t.word.toNat t.shape
    !ownedLoc s l n && !spanWindow s l n

/-- The bytes of B as the batch enters the engine (08 R167). -/
def bRead (s : State) (w : Who) (t : Tmma) : List Byte :=
  match bLoc w t.b with
  | none => []
  | some l => readLoc s w ⟨false, false, false⟩ l (bBytes t.word.toNat t.shape)

/-- The first batch of a group that has not entered the engine, with the batches around it. -/
def splitBatch : List Batch → Option (List Batch × Batch × List Batch)
  | [] => none
  | b :: t =>
    if b.entered.isNone then some ([], b, t)
    else (splitBatch t).map fun r => (b :: r.1, r.2.1, r.2.2)

/-- BATCH_ENTER (95; 08 R167): the group's next batch enters with leave, and reads its B operands. -/
def batchEnterAt (s : State) (gid : Nat) (g : Group) : State :=
  match splitBatch g.batches with
  | none => s
  | some (p, b, t) =>
    let w := who s gid g
    if b.granted && b.tm.all (bReady s w) then
      setGrp s gid { g with batches := p ++ { b with entered := some (b.tm.map (bRead s w)) } :: t }
    else s

def execBatchEnter (gid : Nat) (s : State) : Host.Outcome State Fault Refusal :=
  .next (match grp s gid with
    | some g => batchEnterAt s gid g
    | none => s)

/-- Adds what a batch's monitors and checker saw to the work item (08 R179, R181, R182; 05 R114). -/
def noteWatch (it : Item) (w : Watch) : Item :=
  { it with
    trip := it.trip || w.range || w.canc
    range := it.range || w.range
    canc := it.canc || w.canc
    nonfin := it.nonfin || w.nonfin
    elems := it.elems + w.elems
    maxAbs := BitVec.ofNat 32 (max it.maxAbs.toNat w.maxAbs)
    maxRel := BitVec.ofNat 32 (max it.maxRel.toNat w.maxRel) }

/-- Performs the TMMAs of a batch in program order. -/
def runTmmas (lim : Limits) : List (Tmma × List Byte) → KMap (List W32) → Watch → KMap (List W32) × Watch
  | [], m, w => (m, w)
  | (t, bs) :: r, m, w =>
    let x := tmmaRun t bs lim (kget [] m t.acc)
    runTmmas lim r (kins m t.acc x.1) (w.join x.2)

/-- BATCH_FINISH (95; 08 R170): the group's oldest batch, once entered, finishes. -/
def batchFinishAt (s : State) (gid : Nat) (g : Group) : State :=
  match g.batches with
  | [] => s
  | b :: t =>
    match b.entered with
    | none => s
    | some bs =>
      let it := (kfind s.run.items g.item).getD Item.fresh
      let lim : Limits := ⟨it.headLo, it.headHi, it.thetas.getD it.rung 255⟩
      let r := runTmmas lim (b.tm.zip bs) g.tile Watch.none
      modItem (setGrp s gid { g with tile := r.1, batches := t }) g.item fun i => noteWatch i r.2

def execBatchFinish (gid : Nat) (s : State) : Host.Outcome State Fault Refusal :=
  .next (match grp s gid with
    | some g => batchFinishAt s gid g
    | none => s)

end Sys2Proof.Machine
end

