-- ==== Sys2Proof/Machine/Points.lean ====
section
/-! DEFINITION. Pre-emption points (11 R244): whether a group that reaches one stops there, and how it stops. -/

namespace Sys2Proof.Machine

/-- The points that a group has reached when its instruction is its point; a wait counts its point once. -/
def pointNo (c : Ctx) : Nat := if c.g.pointed then c.g.points else c.g.points + 1

/-- A group that reaches a point stops there: under REPLAY where the log says so (12 R266), otherwise when a
pre-emption or swap of its work item is pending. -/
def pointDue (c : Ctx) : Bool :=
  if replaying c.w.l then stopsAt c.w.l c.w.it.index c.g.gidx (pointNo c) else c.w.it.preempt.isSome

/-- One more point reached. -/
def countPoint (s : State) (c : Ctx) : State :=
  modGrp s c.gid fun g => { g with points := g.points + 1, pointed := true }

/-- Every batch of a group has leave at once, debited to its die's account (11 R246). -/
def grantAll (s : State) (gid : Nat) : State :=
  let mine (r : PacerReq) : Bool := match r.who with
    | .batch g _ => g == gid
    | _ => false
  let s1 := (s.host.asks.filter mine).foldl (fun s r => debit s r.die r.weight) s
  let s2 := setHost s1 { s1.host with asks := s1.host.asks.filter fun r => !mine r }
  modGrp s2 gid fun g => { g with batches := g.batches.map fun b => { b with granted := true } }

/-- A group that stops at a point closes its open batch (08 R170), and its batches have leave (11 R246). At a point where it
does not stop the batch stays open: 08 R170 names the close at a pre-emption point, which 11 R246 gives to a group that
stops (assumption 60). -/
def closeAtPoint (s : State) (gid : Nat) : State := grantAll (closeBatch s gid) gid

/-- The group stops after the instruction that is its point, which then completes (11 R249). -/
def stopAfter (s : State) (c : Ctx) (p : StopAt) : State :=
  modGrp (closeAtPoint s c.gid) c.gid fun g => { g with stat := .stopped p, points := g.points + 1 }

/-- The group stops in its wait: PC goes back to the first hint of the instruction, which a restore issues again. -/
def stopIn (s : State) (c : Ctx) (p : StopAt) : State :=
  modGrp (closeAtPoint s c.gid) c.gid fun g => { g with stat := .stopped p, pc := c.first, hints := Hints.none }

/-- A BAR, BARW, HEAT or MONWAIT, from the state of its issue or of an arrival: its point counts once, whether it waits or
not, so that the counts of the order log do not hang on timing (12 R263; assumption 60). -/
def atPoint (s : State) (c : Ctx) : State := if c.g.pointed then s else countPoint s c

/-- The wait of such an instruction: the group stops in it when a request is pending, and waits otherwise. -/
def waitPoint (s : State) (c : Ctx) (w : Wait) (p : StopAt) : Out :=
  let s := atPoint s c
  .hold (if pointDue c then stopIn s c p else s) w

end Sys2Proof.Machine
end

