-- ==== Sys2Proof/Machine/Fence.lean ====
section
/-! DEFINITION. FENCE (16 R340, R341; 07 R151, R153, R154), CMNT (06 R128, R129; 15 R325, R326), MONARM and MONWAIT
(17 R377 to R380). -/

namespace Sys2Proof.Machine

/-! ### FENCE -/

/-- The effect of FENCE on its executing lanes (16 R341). -/
def fenceRun (f : FENF) (c : Ctx) (s : State) : Out :=
  if c.x = 0 then .done s
  else
    let rel := tbit f.ord.toNat 1
    let s1 := modGrp s c.gid fun g => { g with relFence := rel }
    let s2 := if rel then releaseAt s1 c.w (releaseLevel c.g f.lvl.toNat) else s1
    if tbit f.ord.toNat 0 then
      .done (forgetReads (acquireAt (if f.lvl = 14 then promoteReads s2 c.w else s2) c.w f.lvl.toNat) c.gid)
    else .done s2

/-- FENCE (16 R340). -/
def execFence (f : FENF) (s : State) : Host.Outcome State Fault Refusal :=
  issue
    { i := .fence f
      pol := .lanes
      regs := fun _ => noRegs
      dst := fun _ => dstNone
      pre := fun c => firstTrap [levelTrap c f.lvl.toNat (tbit f.ord.toNat 0), scopeTrap c (f.ord == 3) f.lvl.toNat]
      body := fenceRun f } s

/-! ### CMNT -/

/-- The operations of CMNT: INV and CINV have the same effect (06 R128). -/
inductive Maint where
  | clean | inv
  deriving DecidableEq, Repr

/-- The last address of the global window. -/
def globalEnd : Nat := 0xEFFFFFFFFFFFFF

/-- The effect on the lines `b` of a superblock in the L2: at LEVEL 1 on the issuing die's copy, at LEVEL 2 on every copy
(06 R129). -/
def maintL2 (home : Bool) (die lvl : Nat) (m : Maint) (b : BitVec 4) (e : L2Block) : L2Block :=
  let mine (d : Nat) : Bool := lvl == 2 || d == die
  let part (p : L2Part) : L2Part := match m with
    | .clean => { p with dirty := p.dirty &&& ~~~b }
    | .inv => ⟨p.valid &&& ~~~b, p.dirty &&& ~~~b⟩
  let back := e.guests.foldl (fun x g => if mine g.1 then x ||| (g.2.dirty &&& b) else x) 0
  let guests := dropEmpty (e.guests.map fun g => if mine g.1 then (g.1, part g.2) else g)
  if lvl == 2 || home then ⟨part e.home, guests⟩
  else ⟨{ e.home with dirty := e.home.dirty ||| back }, guests⟩

/-- Maintenance of the lines of [pa, pa + n) on an HBM page. -/
def maintRange (s : State) (w : Who) (lvl : Nat) (m : Maint) (pa n : Nat) : State :=
  let inside (line : Nat) : Bool := decide (pa / 128 ≤ line) && decide (line * 128 < pa + n)
    && !poisoned s.mem (line * 128)
  let l1 := match m with
    | .clean => s.mem.l1
    | .inv => s.mem.l1.filter fun e => !(e.1 / 2 ^ 49 == w.core && inside (e.1 % 2 ^ 49))
  let bits (k : Nat) : BitVec 4 := (List.range 4).foldl (fun x i =>
    if inside (4 * k + i) then x ||| BitVec.twoPow 4 i else x) 0
  let l2 := if lvl = 0 then s.mem.l2
    else s.mem.l2.filterMap fun e =>
      let x := maintL2 (homeDie s (e.1 * 512) == w.die) w.die lvl m (bits e.1) e.2
      if x = L2Block.none then none else some (e.1, x)
  setMem s { s.mem with l1 := l1, l2 := l2 }

/-- The pages from `a` to `last`, in order. A page that faults, or that holds a line owned by an engine transfer (15
R326), ends it with its address and the fault's cause, if any; what was done stays done (11 R237). -/
def maintPages (c : Ctx) (lvl : Nat) (m : Maint) (last : Nat) : Nat → Nat → State → State × Option (Nat × Option Nat)
  | 0, _, s => (s, none)
  | fuel + 1, a, s =>
    if last < a then (s, none)
    else match translate s c.w.die c.w.asid a .load with
      | .error (k, _) => (s, some (a, some k))
      | .ok t =>
        let stop := min (last + 1) (t.va + t.size)
        let pa := t.base + (a - t.va)
        let s1 := noteTlb s c.w.die c.w.asid a .load
        if t.host then maintPages c lvl m last fuel stop s1
        else if ownedLoc s (.hbm pa) (stop - a) then (s1, some (a, none))
        else maintPages c lvl m last fuel stop (maintRange s1 c.w lvl m pa (stop - a))

/-- The effect of CMNT. -/
def cmntRun (m : Maint) (f : CMF) (c : Ctx) (s : State) : Out :=
  let start := (rdS c.g f.start.toNat).toNat
  let len := (rdS c.g f.len.toNat).toNat
  if len = 0 then .done s
  else if globalEnd < start + len - 1 then .trap ⟨cSPACE, BitVec.ofNat 64 start, none, c.dst⟩
  else
    let a := start / 128 * 128
    let last := (start + len - 1) / 128 * 128 + 127
    let r := maintPages c f.lvl.toNat m last ((last - a) / 4096 + 2) a (drainGroup s c.gid)
    match r.2 with
    | none => .done r.1
    | some (_, none) => .wait .memory
    | some (va, some k) =>
      if k = walkBusy ∨ poolFull s c.w.die c.w.asid va false then .wait .memory
      else .park (openFault r.1 c.w.die c.w.asid va 0 k false c.w.core (.group c.gid)) c.g.active false

def cmntMeaning (i : Instr) (m : Maint) (f : CMF) : Meaning :=
  { i := i
    pol := .once
    regs := fun _ => ⟨[(true, f.start.toNat), (true, f.len.toNat)], [], []⟩
    dst := fun _ => dstNone
    pre := fun _ => none
    body := cmntRun m f }

/-- CMNT.CLEAN (06 R129). -/
def execCmntClean (f : CMF) (s : State) : Host.Outcome State Fault Refusal := issue (cmntMeaning (.cmntClean f) .clean f) s
/-- CMNT.INV (06 R129). -/
def execCmntInv (f : CMF) (s : State) : Host.Outcome State Fault Refusal := issue (cmntMeaning (.cmntInv f) .inv f) s
/-- CMNT.CINV (06 R128): the same effect as INV. -/
def execCmntCinv (f : CMF) (s : State) : Host.Outcome State Fault Refusal := issue (cmntMeaning (.cmntCinv f) .inv f) s

/-! ### MONARM and MONWAIT -/

/-- The line a monitor watches at a place. -/
def monLineOf : Loc → Option MonLine
  | .hbm pa => some (.hbm (pa / 128))
  | .scr it o => some (.scr it (o / 128))
  | _ => none

/-- The effect of MONARM (17 R377): what the group reads after it is read after the registration (R380). -/
def monarmRun (f : MNA) (c : Ctx) (s : State) : Out :=
  let va := (rdS c.g f.a.toNat).toNat
  let hs : List LaneHit := [⟨0, va, resolve s c.w .mon va 1⟩]
  match hitsPre c.s0 c 0 1 hs true with
  | some x => x
  | none =>
    match hs.head?.bind LaneHit.loc? with
    | none => .done s
    | some l =>
      let s1 := dropAhead (noteAll s c.w .mon hs) c.gid
      let s2 := match l with
        | .hbm pa => dropL1 s1 c.w.core [pa / 128]
        | _ => s1
      match monLineOf l with
      | none => .done s2
      | some k => .done (modGrp (addMon s2 c.gid k) c.gid fun g => { g with mon := .armed k, monTimeout := false, monEnd := none })

/-- MONARM (17 R377). -/
def execMonarm (f : MNA) (s : State) : Host.Outcome State Fault Refusal :=
  issue
    { i := .monarm f
      pol := .once
      regs := fun _ => ⟨[(true, f.a.toNat)], [], []⟩
      dst := fun _ => dstNone
      pre := fun _ => none
      body := monarmRun f } s

/-- MONWAIT completes with an outcome: registration removed, monitor IDLE (17 R378), the outcome recorded or fed back
(R379). -/
def monDone (f : MNW) (c : Ctx) (s : State) (o : Nat) : Out :=
  let s1 := modGrp (dropMon (atPoint s c) c.gid) c.gid fun g => { g with mon := .idle, monTimeout := false, monEnd := none }
  let r := recRead s1 c.g.launch c.w.it.index c.g.gidx 0xF01 o
  .done (modGrp r.2 c.gid fun g => wrS g f.d.toNat (BitVec.ofNat 64 r.1))

/-- The effect of MONWAIT (17 R378, R379). -/
def monwaitRun (f : MNW) (c : Ctx) (s : State) : Out :=
  match c.g.mon with
  | .idle => monDone f c s 3
  | .fired _ o => monDone f c s o
  | .armed _ =>
    if c.g.monTimeout then monDone f c s 2
    else
      let t := (rdS c.g f.tmo.toNat).toNat
      let n := if t = 0 then none else some (c.g.monEnd.getD (c.s0.ctl.clk + t))
      waitPoint (modGrp c.s0 c.gid fun g => { g with monEnd := n }) c .monwait .monwait

/-- MONWAIT (17 R379). -/
def execMonwait (f : MNW) (s : State) : Host.Outcome State Fault Refusal :=
  issue
    { i := .monwait f
      pol := .once
      regs := fun _ => ⟨[(true, f.tmo.toNat)], [], [(true, f.d.toNat)]⟩
      dst := fun _ => dstS f.d.toNat
      pre := fun _ => none
      body := monwaitRun f } s

end Sys2Proof.Machine
end

