-- ==== Sys2Proof/Machine/Atomic.lean ====
section
/-! DEFINITION. ATOM and ATOMN (15 R309 to R312; 06 R138, R139; 08 R177; 12 R263). -/

namespace Sys2Proof.Machine

/-- The operands of an atomic: OP of 14 R297, width, whether it returns, ORD and LVL. -/
structure AtomOp where
  op : Nat
  wide : Bool
  ret : Bool
  f : AT
  deriving DecidableEq, Repr

def AtomOp.bytes (o : AtomOp) : Nat := if o.wide then 8 else 4
def AtomOp.d (o : AtomOp) : Nat := o.f.d.toNat
def AtomOp.v (o : AtomOp) : Nat := o.f.v.toNat
def AtomOp.lvl (o : AtomOp) : Nat := o.f.lvl.toNat
def AtomOp.cas (o : AtomOp) : Bool := o.op == 9
def AtomOp.acq (o : AtomOp) : Bool := tbit o.f.ord.toNat 0
def AtomOp.rel (o : AtomOp) : Bool := tbit o.f.ord.toNat 1

/-- The registers of D that hold the operands. -/
def AtomOp.srcRegs (o : AtomOp) : Nat := (if o.wide then 2 else 1) * (if o.cas then 2 else 1)
/-- The registers of D that receive the old value. -/
def AtomOp.dstRegs (o : AtomOp) : Nat := if o.wide then 2 else 1

/-- The limits of D and ADDR (15 R309). -/
def AtomOp.regsOk (o : AtomOp) : Bool :=
  (o.v % 2 == 0 && decide (o.v ≤ 60)) &&
    (if o.cas then
      if o.wide then o.d % 4 == 0 && decide (o.d ≤ 56) else o.d % 2 == 0 && decide (o.d ≤ 60)
    else !o.wide || (o.d % 2 == 0 && decide (o.d ≤ 60)))

def AtomOp.regs (o : AtomOp) (_ : Group) : Regs :=
  ⟨regRun false o.d o.srcRegs ++ regRun false o.v 2, [], if o.ret then regRun false o.d o.dstRegs else []⟩

def AtomOp.dstOf (o : AtomOp) (_ : Group) : Nat := if o.ret then dstV o.d else dstNone

def AtomOp.pre (o : AtomOp) (c : Ctx) : Option Out :=
  firstTrap [regTrap c o.regsOk, levelTrap c o.lvl o.acq, scopeTrap c (o.acq && o.rel) o.lvl]

/-- A datum of n bytes in consecutive v-registers of a lane. -/
def vDatum (g : Group) (r n l : Nat) : Nat :=
  if n = 8 then (rdVl g r l).toNat + (rdVl g (r + 1) l).toNat * 2 ^ 32 else (rdVl g r l).toNat

/-- The address of a lane: its ADDR pair. -/
def AtomOp.addr (o : AtomOp) (g : Group) (l : Nat) : Nat := vDatum g o.v 8 l
/-- The operand of a lane, or the compare value of CAS. -/
def AtomOp.x (o : AtomOp) (g : Group) (l : Nat) : Nat := vDatum g o.d o.bytes l
/-- The new value of CAS. -/
def AtomOp.y (o : AtomOp) (g : Group) (l : Nat) : Nat := vDatum g (o.d + o.dstRegs) o.bytes l

/-- A host page accepts ADD, EXCH and CAS (06 R138). -/
def hostTakes (op : Nat) : Bool := op == 0 || op == 8 || op == 9

/-- The checks of every executing lane; a host page refuses the other operations. -/
def AtomOp.hits (o : AtomOp) (c : Ctx) (s : State) : List LaneHit :=
  (probe s c.w .atomic o.bytes (Mask.list c.x) (o.addr c.g)).map fun h => match h.hit with
    | .ok (.host _) _ => if hostTakes o.op then h else { h with hit := .trap cATYPE }
    | _ => h

/-- One read-modify-write at a scratchpad or HBM place (06 R139, 15 R311): the old value and the state after. It acts on
the home copy, after every guest copy has gone. Of an open transaction it is performed at once and not undone (08 R177),
and a conflict over the line ends one of the two attempts (R178). -/
def atomAt (s : State) (w : Who) (rel : Bool) (op n x y : Nat) (l : Loc) : Nat × State :=
  match l with
  | .scr it o =>
    let i := (kfind s.run.items it).getD Item.fresh
    let old := natLe (readCells i.scr o n)
    let bs := bytesLe n (atomNew op (8 * n) old x y)
    let off := o % 2 ^ 19
    let versioned := i.txOpen && decide (i.scrOff ≤ off) && decide (off + n ≤ i.scrOff + i.scrLen)
    (old, fireScr (modItem s it fun i =>
      { i with scr := writeCells i.scr o bs, verScr := if versioned then verPut i.verScr o bs else i.verScr }) it o n)
  | .hbm pa =>
    let s := if w.it.txOpen then (txClaim s w.item (pa / 128)).2 else s
    let s := drainWhere s fun p => p.core == w.core && !p.host && decide (p.addr < pa + n)
      && decide (pa < p.addr + p.data.length)
    let old := natLe (readHbm s.mem pa n)
    let s := dropL1 s w.core [pa / 128]
    let s := l2Write (setMem (staleFront s w.gid [pa / 128]) (writeHbm s.mem pa (bytesLe n (atomNew op (8 * n) old x y)))) 255 pa
    (old, fireHbm (if rel then noteRelease s w.core pa else s) pa n)
  | _ => (0, s)

/-- Arrivals of this operation are logged (12 R263). -/
def AtomOp.logged (o : AtomOp) : Bool := o.ret || o.op == 8 || o.op == 9 || o.op == 10

/-- An ATOMN to an HBM page inside an open transaction is deferred (08 R177). -/
def AtomOp.defers (o : AtomOp) (w : Who) (l : Loc) : Bool :=
  !o.ret && w.it.txOpen && (match l with
    | .hbm _ => true
    | _ => false)

/-- The log entries of the lanes that arrive now, with the stream rule for each; lanes on host pages arrive with the
reply. -/
def AtomOp.entries (o : AtomOp) (c : Ctx) (hs : List LaneHit) : List (Bool × LogEntry) :=
  if !o.logged then []
  else
    let now := hs.filter fun h => match h.loc? with
      | some (.host _) => false
      | some l => !o.defers c.w l
      | none => false
    (List.range now.length).map fun k =>
      let h := now.getD k ⟨0, 0, .trap 0⟩
      (match h.loc? with
        | some (.scr _ _) => true
        | _ => false,
       atomicEntry h.va c.w.it.index c.g.gidx h.lane (c.g.arrivals + k) false)

/-- Some arrival is not in its turn (12 R266). -/
def heldByLog (l : Launch) : List (Bool × LogEntry) → Bool
  | [] => false
  | e :: t => turnOf l e.1 e.2 == .hold || heldByLog { l with replayLog := l.replayLog.erase e.2 } t

/-- The state in which the arrivals are logged or consumed. -/
def logAll (s : State) (c : Ctx) (es : List (Bool × LogEntry)) : State :=
  modGrp (es.foldl (fun s e => choose s c.g.launch e.1 e.2) s) c.gid fun g => { g with arrivals := g.arrivals + es.length }

/-- The lanes performed in ascending order: old values by lane; host lanes are left for the reply. -/
def AtomOp.lanes (o : AtomOp) (c : Ctx) (rel : Bool) : List LaneHit → State → List (Nat × Nat) × State
  | [], s => ([], s)
  | h :: t, s =>
    match h.loc? with
    | none => o.lanes c rel t s
    | some (.host _) => o.lanes c rel t s
    | some l =>
      let x := o.x c.g h.lane
      let y := o.y c.g h.lane
      if o.defers c.w l then
        match l with
        | .hbm pa =>
          let e : Deferred := ⟨o.op, o.bytes, pa, x, y⟩
          o.lanes c rel t (modItem s c.w.item fun it =>
            { it with
              vers := it.vers ++ [.op e]
              relLines := if rel then it.relLines ++ [(c.w.core, pa / 128)] else it.relLines })
        | _ => o.lanes c rel t s
      else
        let r := atomAt s c.w rel o.op o.bytes x y l
        let rest := o.lanes c rel t (modGrp r.2 c.gid fun g =>
          endAhead (if o.ret then noteRead g l else g) l o.bytes)
        ((h.lane, r.1) :: rest.1, rest.2)

/-- The lanes of an atomic that go to host pages. -/
def AtomOp.hostLanes (o : AtomOp) (c : Ctx) (hs : List LaneHit) : List HostLane :=
  hs.filterMap fun h => match h.loc? with
    | some (.host a) => some ⟨h.lane, a, h.va, o.x c.g h.lane, o.y c.g h.lane⟩
    | _ => none

/-- Register values of old values by lane. -/
def atomVals (wide : Bool) (vs : List (Nat × Nat)) : List (List Nat) :=
  (List.range (if wide then 2 else 1)).map fun k =>
    mkLanes fun l => ((vs.find? fun e => e.1 == l).map (·.2)).getD 0 / 2 ^ (32 * k) % 2 ^ 32

/-- The end of an atomic whose host reply has come (06 R138, 11 R236): rejected lanes trap, the others are done. -/
def AtomOp.answered (o : AtomOp) (c : Ctx) (s : State) (rej : Mask) : Out :=
  let s1 := modGrp s c.gid fun g => { g with hostAns := none }
  let s2 := if o.acq then forgetReads (acquireAt s1 c.w o.lvl) c.gid else s1
  if rej = 0 then .done s2
  else .part s2 ⟨cATYPE, BitVec.ofNat 64 (o.addr c.g (Mask.lowest rej)), some rej, c.dst⟩
    (!(c.x &&& ~~~rej == 0) || c.replay)

/-- The effect of an atomic once its lanes' checks have passed. -/
def AtomOp.perform (o : AtomOp) (c : Ctx) (s : State) (hs : List LaneHit) : Out :=
  let es := o.entries c hs
  let now := hs.filter fun h => h.loc?.any fun l => !o.defers c.w l
  if heldByLog c.w.l es || conflictHeld c.s0 c.w now then .wait .forced
  else
    let s1 := logAll (noteAll s c.w .atomic hs) c es
    let some1 := hs.any fun h => match h.loc? with
      | some l => !o.defers c.w l
      | none => false
    let s2 := if o.rel && some1 then releaseAt s1 c.w (releaseLevel c.g o.lvl) else s1
    let s3 := if o.lvl = 14 then
        hs.foldl (fun s h => match h.loc? with
          | some (.hbm pa) => if o.defers c.w (.hbm pa) then promoteReads s c.w else promoteLine s c.w.core (pa / 128)
          | _ => s) (flashL1 s2 c.w.core)
      else s2
    let r := o.lanes c (o.rel || c.g.relFence) hs s3
    let host := o.hostLanes c hs
    let vals := if o.ret then atomVals o.wide r.1 else []
    let left := if host.isEmpty then o.f.lh.toNat + 1 else 1
    let got := maskOf fun l => r.1.any fun e => e.1 == l
    let fl : Flight := ⟨0, c.gid, false, true, o.d, got, vals, left, none, c.pc, none⟩
    if host.isEmpty then
      let s4 := if o.acq then forgetReads (acquireAt r.2 c.w o.lvl) c.gid else r.2
      .done (if o.ret then launchFlight s4 fl else s4)
    else
      let s4 := drainWhere r.2 fun p => p.host && (p.core == c.w.core || p.sent)
      let id := s4.ctl.serial
      .hold (modGrp (launchFlight s4 { fl with host := some (o.op, o.bytes, host) }) c.gid
        fun g => { g with hostAtom := some id }) .memory

/-- A replay after a partial effect that traps or parks again leaves the same lanes to the next replay (11 R236). -/
def keepReplay (c : Ctx) (o : Out) : Out :=
  if !c.replay then o
  else match o with
    | .trap t => .part c.s0 { t with lanes := some c.x } true
    | .park s _ _ => .park s c.x true
    | o => o

/-- The effect of an atomic. -/
def AtomOp.run (o : AtomOp) (c : Ctx) (s : State) : Out :=
  match c.g.hostAns with
  | some rej => o.answered c s rej
  | none =>
    if c.x = 0 then .done s
    else
      let hs := o.hits c s
      match hitsPre c.s0 c 2 o.bytes hs false with
      | some x => keepReplay c x
      | none => o.perform c s hs

def AtomOp.meaning (i : Instr) (o : AtomOp) : Meaning :=
  { i := i, pol := .lanes, regs := o.regs, dst := o.dstOf, pre := o.pre, body := o.run }

/-- ATOM.ADD.b32 (15 R310). -/
def execAtomAddB32 (f : AT) (s : State) : Host.Outcome State Fault Refusal :=
  issue (AtomOp.meaning (.atomAddB32 f) ⟨0, false, true, f⟩) s
/-- ATOM.AND.b32 (15 R310). -/
def execAtomAndB32 (f : AT) (s : State) : Host.Outcome State Fault Refusal :=
  issue (AtomOp.meaning (.atomAndB32 f) ⟨1, false, true, f⟩) s
/-- ATOM.OR.b32 (15 R310). -/
def execAtomOrB32 (f : AT) (s : State) : Host.Outcome State Fault Refusal :=
  issue (AtomOp.meaning (.atomOrB32 f) ⟨2, false, true, f⟩) s
/-- ATOM.XOR.b32 (15 R310). -/
def execAtomXorB32 (f : AT) (s : State) : Host.Outcome State Fault Refusal :=
  issue (AtomOp.meaning (.atomXorB32 f) ⟨3, false, true, f⟩) s
/-- ATOM.MIN.b32 (15 R310). -/
def execAtomMinB32 (f : AT) (s : State) : Host.Outcome State Fault Refusal :=
  issue (AtomOp.meaning (.atomMinB32 f) ⟨4, false, true, f⟩) s
/-- ATOM.MIN.U.b32 (15 R310). -/
def execAtomMinUB32 (f : AT) (s : State) : Host.Outcome State Fault Refusal :=
  issue (AtomOp.meaning (.atomMinUB32 f) ⟨5, false, true, f⟩) s
/-- ATOM.MAX.b32 (15 R310). -/
def execAtomMaxB32 (f : AT) (s : State) : Host.Outcome State Fault Refusal :=
  issue (AtomOp.meaning (.atomMaxB32 f) ⟨6, false, true, f⟩) s
/-- ATOM.MAX.U.b32 (15 R310). -/
def execAtomMaxUB32 (f : AT) (s : State) : Host.Outcome State Fault Refusal :=
  issue (AtomOp.meaning (.atomMaxUB32 f) ⟨7, false, true, f⟩) s
/-- ATOM.EXCH.b32 (15 R310). -/
def execAtomExchB32 (f : AT) (s : State) : Host.Outcome State Fault Refusal :=
  issue (AtomOp.meaning (.atomExchB32 f) ⟨8, false, true, f⟩) s
/-- ATOM.CAS.b32 (15 R310). -/
def execAtomCasB32 (f : AT) (s : State) : Host.Outcome State Fault Refusal :=
  issue (AtomOp.meaning (.atomCasB32 f) ⟨9, false, true, f⟩) s
/-- ATOM.FADD.b32 (15 R310). -/
def execAtomFaddB32 (f : AT) (s : State) : Host.Outcome State Fault Refusal :=
  issue (AtomOp.meaning (.atomFaddB32 f) ⟨10, false, true, f⟩) s
/-- ATOM.ADD.b64 (15 R310). -/
def execAtomAddB64 (f : AT) (s : State) : Host.Outcome State Fault Refusal :=
  issue (AtomOp.meaning (.atomAddB64 f) ⟨0, true, true, f⟩) s
/-- ATOM.AND.b64 (15 R310). -/
def execAtomAndB64 (f : AT) (s : State) : Host.Outcome State Fault Refusal :=
  issue (AtomOp.meaning (.atomAndB64 f) ⟨1, true, true, f⟩) s
/-- ATOM.OR.b64 (15 R310). -/
def execAtomOrB64 (f : AT) (s : State) : Host.Outcome State Fault Refusal :=
  issue (AtomOp.meaning (.atomOrB64 f) ⟨2, true, true, f⟩) s
/-- ATOM.XOR.b64 (15 R310). -/
def execAtomXorB64 (f : AT) (s : State) : Host.Outcome State Fault Refusal :=
  issue (AtomOp.meaning (.atomXorB64 f) ⟨3, true, true, f⟩) s
/-- ATOM.MIN.b64 (15 R310). -/
def execAtomMinB64 (f : AT) (s : State) : Host.Outcome State Fault Refusal :=
  issue (AtomOp.meaning (.atomMinB64 f) ⟨4, true, true, f⟩) s
/-- ATOM.MIN.U.b64 (15 R310). -/
def execAtomMinUB64 (f : AT) (s : State) : Host.Outcome State Fault Refusal :=
  issue (AtomOp.meaning (.atomMinUB64 f) ⟨5, true, true, f⟩) s
/-- ATOM.MAX.b64 (15 R310). -/
def execAtomMaxB64 (f : AT) (s : State) : Host.Outcome State Fault Refusal :=
  issue (AtomOp.meaning (.atomMaxB64 f) ⟨6, true, true, f⟩) s
/-- ATOM.MAX.U.b64 (15 R310). -/
def execAtomMaxUB64 (f : AT) (s : State) : Host.Outcome State Fault Refusal :=
  issue (AtomOp.meaning (.atomMaxUB64 f) ⟨7, true, true, f⟩) s
/-- ATOM.EXCH.b64 (15 R310). -/
def execAtomExchB64 (f : AT) (s : State) : Host.Outcome State Fault Refusal :=
  issue (AtomOp.meaning (.atomExchB64 f) ⟨8, true, true, f⟩) s
/-- ATOM.CAS.b64 (15 R310). -/
def execAtomCasB64 (f : AT) (s : State) : Host.Outcome State Fault Refusal :=
  issue (AtomOp.meaning (.atomCasB64 f) ⟨9, true, true, f⟩) s
/-- ATOMN.ADD.b32 (15 R310). -/
def execAtomnAddB32 (f : AT) (s : State) : Host.Outcome State Fault Refusal :=
  issue (AtomOp.meaning (.atomnAddB32 f) ⟨0, false, false, f⟩) s
/-- ATOMN.AND.b32 (15 R310). -/
def execAtomnAndB32 (f : AT) (s : State) : Host.Outcome State Fault Refusal :=
  issue (AtomOp.meaning (.atomnAndB32 f) ⟨1, false, false, f⟩) s
/-- ATOMN.OR.b32 (15 R310). -/
def execAtomnOrB32 (f : AT) (s : State) : Host.Outcome State Fault Refusal :=
  issue (AtomOp.meaning (.atomnOrB32 f) ⟨2, false, false, f⟩) s
/-- ATOMN.XOR.b32 (15 R310). -/
def execAtomnXorB32 (f : AT) (s : State) : Host.Outcome State Fault Refusal :=
  issue (AtomOp.meaning (.atomnXorB32 f) ⟨3, false, false, f⟩) s
/-- ATOMN.MIN.b32 (15 R310). -/
def execAtomnMinB32 (f : AT) (s : State) : Host.Outcome State Fault Refusal :=
  issue (AtomOp.meaning (.atomnMinB32 f) ⟨4, false, false, f⟩) s
/-- ATOMN.MIN.U.b32 (15 R310). -/
def execAtomnMinUB32 (f : AT) (s : State) : Host.Outcome State Fault Refusal :=
  issue (AtomOp.meaning (.atomnMinUB32 f) ⟨5, false, false, f⟩) s
/-- ATOMN.MAX.b32 (15 R310). -/
def execAtomnMaxB32 (f : AT) (s : State) : Host.Outcome State Fault Refusal :=
  issue (AtomOp.meaning (.atomnMaxB32 f) ⟨6, false, false, f⟩) s
/-- ATOMN.MAX.U.b32 (15 R310). -/
def execAtomnMaxUB32 (f : AT) (s : State) : Host.Outcome State Fault Refusal :=
  issue (AtomOp.meaning (.atomnMaxUB32 f) ⟨7, false, false, f⟩) s
/-- ATOMN.EXCH.b32 (15 R310). -/
def execAtomnExchB32 (f : AT) (s : State) : Host.Outcome State Fault Refusal :=
  issue (AtomOp.meaning (.atomnExchB32 f) ⟨8, false, false, f⟩) s
/-- ATOMN.CAS.b32 (15 R310). -/
def execAtomnCasB32 (f : AT) (s : State) : Host.Outcome State Fault Refusal :=
  issue (AtomOp.meaning (.atomnCasB32 f) ⟨9, false, false, f⟩) s
/-- ATOMN.FADD.b32 (15 R310). -/
def execAtomnFaddB32 (f : AT) (s : State) : Host.Outcome State Fault Refusal :=
  issue (AtomOp.meaning (.atomnFaddB32 f) ⟨10, false, false, f⟩) s
/-- ATOMN.ADD.b64 (15 R310). -/
def execAtomnAddB64 (f : AT) (s : State) : Host.Outcome State Fault Refusal :=
  issue (AtomOp.meaning (.atomnAddB64 f) ⟨0, true, false, f⟩) s
/-- ATOMN.AND.b64 (15 R310). -/
def execAtomnAndB64 (f : AT) (s : State) : Host.Outcome State Fault Refusal :=
  issue (AtomOp.meaning (.atomnAndB64 f) ⟨1, true, false, f⟩) s
/-- ATOMN.OR.b64 (15 R310). -/
def execAtomnOrB64 (f : AT) (s : State) : Host.Outcome State Fault Refusal :=
  issue (AtomOp.meaning (.atomnOrB64 f) ⟨2, true, false, f⟩) s
/-- ATOMN.XOR.b64 (15 R310). -/
def execAtomnXorB64 (f : AT) (s : State) : Host.Outcome State Fault Refusal :=
  issue (AtomOp.meaning (.atomnXorB64 f) ⟨3, true, false, f⟩) s
/-- ATOMN.MIN.b64 (15 R310). -/
def execAtomnMinB64 (f : AT) (s : State) : Host.Outcome State Fault Refusal :=
  issue (AtomOp.meaning (.atomnMinB64 f) ⟨4, true, false, f⟩) s
/-- ATOMN.MIN.U.b64 (15 R310). -/
def execAtomnMinUB64 (f : AT) (s : State) : Host.Outcome State Fault Refusal :=
  issue (AtomOp.meaning (.atomnMinUB64 f) ⟨5, true, false, f⟩) s
/-- ATOMN.MAX.b64 (15 R310). -/
def execAtomnMaxB64 (f : AT) (s : State) : Host.Outcome State Fault Refusal :=
  issue (AtomOp.meaning (.atomnMaxB64 f) ⟨6, true, false, f⟩) s
/-- ATOMN.MAX.U.b64 (15 R310). -/
def execAtomnMaxUB64 (f : AT) (s : State) : Host.Outcome State Fault Refusal :=
  issue (AtomOp.meaning (.atomnMaxUB64 f) ⟨7, true, false, f⟩) s
/-- ATOMN.EXCH.b64 (15 R310). -/
def execAtomnExchB64 (f : AT) (s : State) : Host.Outcome State Fault Refusal :=
  issue (AtomOp.meaning (.atomnExchB64 f) ⟨8, true, false, f⟩) s
/-- ATOMN.CAS.b64 (15 R310). -/
def execAtomnCasB64 (f : AT) (s : State) : Host.Outcome State Fault Refusal :=
  issue (AtomOp.meaning (.atomnCasB64 f) ⟨9, true, false, f⟩) s

end Sys2Proof.Machine
end

