-- ==== Sys2Proof/Machine/Graph.lean ====
section
/-! DEFINITION. The graph nodes (10 R215): registration, the countdown, and a node that fails its launch. -/

namespace Sys2Proof.Machine

/-- A node that nothing has touched. -/
def Node.free : Node := ⟨0, 0, false, 0⟩

def nodeAt (s : State) (n : Nat) : Node := kget Node.free s.host.nodes n

def setNode (s : State) (n : Nat) (x : Node) : State :=
  setHost s { s.host with nodes := kput Node.free s.host.nodes n x }

/-- A launch that ends without running: its status, and nothing left but its completion (95, LAUNCH_COMPLETE). -/
def endLaunch (s : State) (lid status k : Nat) : State :=
  modLaunch s lid fun l => { l with stat := .finished, status := status, faultK := k }

/-- A READY node whose FAIL is set completes its launch with PRED_FAILED; the node is FREE again. -/
def settleNode (s : State) (n : Nat) : State :=
  let x := nodeAt s n
  if x.state = 2 ∧ x.fail then setNode (endLaunch s x.launch 9 0) n Node.free else s

/-- The launch of a node has become ready (10 R214): its waiting time starts. -/
def readyLaunch (s : State) (lid : Nat) : State :=
  modLaunch s lid fun l => { l with ready := true, since := s.ctl.clk }

/-- A counter is a signed 32-bit value (10 R215). -/
def count32 (n : Int) : Int := (n + 2 ^ 31) % 2 ^ 32 - 2 ^ 31

/-- NODE_COUNTDOWN (95; 10 R215). -/
def countdownNode (s : State) (n : Nat) (fail : Bool) : State :=
  let x := nodeAt s n
  let y := { x with count := count32 (x.count - 1), fail := x.fail || fail }
  match x.state with
  | 0 => setNode s n y
  | 1 =>
    if y.count = 0 then settleNode (readyLaunch (setNode s n { y with state := 2 }) x.launch) n
    else setNode s n y
  | _ => settleNode (modLaunch (setNode s n y) x.launch fun l => { l with extra := true }) n

/-- A packet that names a node reaches the head of its queue (10 R215). -/
def registerNode (s : State) (n npred lid : Nat) : State :=
  let x := nodeAt s n
  if x.state ≠ 0 then endLaunch s lid 10 0
  else
    let c := count32 (x.count + Int.ofNat npred)
    if 0 < c then setNode s n ⟨c, 1, x.fail, lid⟩
    else
      let s := readyLaunch (setNode s n ⟨c, 2, x.fail, lid⟩) lid
      settleNode (if c < 0 then modLaunch s lid fun l => { l with extra := true } else s) n

/-- The launch of a READY node is chosen (10 R215): the node is FREE again. -/
def chooseNode (s : State) (n : Nat) : State := setNode s n Node.free

end Sys2Proof.Machine
end

