-- ==== Sys2Proof/Machine/Sfu.lean ====
section
/-! DEFINITION. The special functions of 05 R105 and R106. Each computes an interval that holds the exact value and
returns one of the FP32 values that lie within the stated error of every number of that interval; which one is a
free value (assumption 14). -/

namespace Sys2Proof.Machine

/-- Fraction bits of the fixed-point numbers used here. -/
def sfuF : Nat := 192
/-- 1 in fixed point. -/
def fxOne : Int := 2 ^ sfuF
/-- π in fixed point, truncated. -/
def fxPi : Int := 19720096697726538562396133364228268891463450865190089732560
/-- ln 2 in fixed point, truncated. -/
def fxLn2 : Int := 4350955369971217654477563090224794165364344896676135745069

def fxMul (a b : Int) : Int := a * b / fxOne
def fxDiv (a b : Int) : Int := a * fxOne / b

/-- m * 2^e in fixed point. -/
def fxOf (m : Nat) (e : Int) : Int :=
  let s := e + Int.ofNat sfuF
  if 0 ≤ s then Int.ofNat (m * 2 ^ s.toNat) else Int.ofNat (m / 2 ^ (-s).toNat)

/-- 1 + x/k (1 + x/(k+1) (...)) with n terms: the exponential series in Horner form. -/
def expSer : Nat → Nat → Int → Int
  | 0, _, _ => fxOne
  | n + 1, k, x => fxOne + fxMul x (expSer n (k + 1) x) / Int.ofNat k

/-- y (1 + y²·c(k) + ...), the odd series Σ y^(2i+1)/(2i+1). -/
def atanhSer : Nat → Nat → Int → Int → Int
  | 0, _, _, _ => 0
  | n + 1, k, p, y2 => p / Int.ofNat k + atanhSer n (k + 2) (fxMul p y2) y2

/-- The sine or cosine series from term x^k/k!. -/
def trigSer : Nat → Nat → Int → Int → Int
  | 0, _, _, _ => 0
  | n + 1, k, t, x2 => t - trigSer n (k + 2) (fxMul t x2 / Int.ofNat ((k + 1) * (k + 2))) x2

/-- A significand that FP32 holds. -/
def fp32Fits (k : Nat) : Bool := decide (k ≤ 2 ^ 24) || (decide (k ≤ 2 ^ 25) && k % 2 == 0) || k % 4 == 0

/-- One FP32 value within n ulp of every number of [lo, hi] * 2^e, chosen by the free value; NX is raised, UF for a
tiny result, OF beyond the range (05 R100, R105). -/
def pickUlp (fn : Nat) (src : Nat) (fout neg : Bool) (lo hi : Nat) (e : Int) (n : Nat) : FRes :=
  if 128 ≤ expOf lo e then ⟨infCode fp32 neg, flOF + flNX⟩
  else
    let q := if expOf lo e - 23 ≤ -149 then -149 else expOf lo e - 24
    let f := if expOf lo e - 23 ≤ -149 then 1 else 2
    let sh := (q - e).toNat
    let kmax := lo / 2 ^ sh + n * f
    let kmin := (hi + 2 ^ sh - 1) / 2 ^ sh - n * f
    let cand := ((List.range (kmax + 1 - kmin)).map (· + kmin)).filter fp32Fits
    let k := cand.getD (Config.freeUlp fn (BitVec.ofNat 32 src) % cand.length) (lo / 2 ^ sh)
    if q = -149 ∧ k < 2 ^ 23 then
      if fout then ⟨signBit fp32 neg, flUF + flNX⟩ else ⟨signBit fp32 neg + k, flUF + flNX⟩
    else
      let r := roundF fp32 .rne fout neg k q false
      ⟨r.v, if tbit r.fl 2 then flOF + flNX else if tbit r.fl 3 then flUF + flNX else flNX⟩

/-- The magnitude of a fixed-point value, widened by 2^20 units on both sides, as an interval. -/
def pickFx (fn src : Nat) (fout : Bool) (neg : Bool) (v : Int) (n : Nat) : FRes :=
  pickUlp fn src fout (neg != decide (v < 0)) (v.natAbs - 2 ^ 20) (v.natAbs + 2 ^ 20) (-(Int.ofNat sfuF)) n

/-- 2^x for x in fixed point, as a fixed-point number in [1, 2) and an exponent. -/
def fxExp2 (x : Int) : Int × Int :=
  (expSer 48 1 (fxMul (x % fxOne) fxLn2), x / fxOne)

def isPow2 (m : Nat) : Bool := m == 2 ^ Nat.log2 m

/-- FRCP (05 R105). -/
def frcp (fout : Bool) (x : Nat) : FRes :=
  match decodeF fp32 x with
  | .nan s _ => nanRes fp32 s
  | .inf n => ⟨signBit fp32 n, 0⟩
  | .fin n m e =>
    if m = 0 then ⟨infCode fp32 n, flDZ⟩
    else
      let ex := -(expOf m e)
      if isPow2 m && decide (-126 ≤ ex) && decide (ex ≤ 127) then ⟨packF fp32 n (2 ^ 23) (ex - 23), 0⟩
      else pickUlp 0 x fout n (2 ^ 120 / m) (2 ^ 120 / m + 1) (-e - 120) 1

/-- FRSQ (05 R105). -/
def frsq (fout : Bool) (x : Nat) : FRes :=
  match decodeF fp32 x with
  | .nan s _ => nanRes fp32 s
  | .inf n => if n then nanRes fp32 true else ⟨0, 0⟩
  | .fin n m e =>
    if m = 0 then ⟨infCode fp32 n, flDZ⟩
    else if n then nanRes fp32 true
    else if isPow2 m && expOf m e % 2 == 0 then ⟨packF fp32 false (2 ^ 23) (-(expOf m e) / 2 - 23), 0⟩
    else
      let o := if e % 2 = 0 then 0 else 1
      let r := isqrt (2 ^ 200 / (m * 2 ^ o))
      pickUlp 1 x fout false (r - 1) (r + 1) (-((e - Int.ofNat o) / 2) - 100) 1

/-- FEXP2 (05 R105). -/
def fexp2 (fout : Bool) (x : Nat) : FRes :=
  match decodeF fp32 x with
  | .nan s _ => nanRes fp32 s
  | .inf n => if n then ⟨0, 0⟩ else ⟨infCode fp32 false, 0⟩
  | .fin n m e =>
    if m = 0 then ⟨packF fp32 false (2 ^ 23) (-23), 0⟩
    else if expOf m e < -60 then
      if n then pickUlp 3 x fout false (2 ^ 100 - 2 ^ 41) (2 ^ 100) (-100) 2
      else pickUlp 3 x fout false (2 ^ 100) (2 ^ 100 + 2 ^ 41) (-100) 2
    else
      let v := if n then -(fxOf m e) else fxOf m e
      if 128 * fxOne ≤ v then ⟨infCode fp32 false, flOF + flNX⟩
      else if v < -150 * fxOne then ⟨0, flUF + flNX⟩
      else if v % fxOne = 0 ∧ -149 * fxOne ≤ v then roundF fp32 .rne fout false 1 (v / fxOne) false
      else
        let r := fxExp2 v
        pickUlp 3 x fout false (r.1.natAbs - 2 ^ 20) (r.1.natAbs + 2 ^ 20) (r.2 - Int.ofNat sfuF) 2

/-- FLOG2 (05 R105). -/
def flog2 (fout : Bool) (x : Nat) : FRes :=
  match decodeF fp32 x with
  | .nan s _ => nanRes fp32 s
  | .inf n => if n then nanRes fp32 true else ⟨infCode fp32 false, 0⟩
  | .fin n m e =>
    if m = 0 then ⟨infCode fp32 true, flDZ⟩
    else if n then nanRes fp32 true
    else if isPow2 m then
      ofIntF fp32 .rne fout (expOf m e)
    else
      let t0 := fxOf m (-(Int.ofNat (bitLen m) - 1))
      let up := decide (3 * fxOne < 2 * t0)
      let t := if up then t0 / 2 else t0
      let ex := expOf m e + (if up then 1 else 0)
      let y := fxDiv (t - fxOne) (t + fxOne)
      let ln := 2 * atanhSer 50 1 y (fxMul y y)
      pickFx 4 x fout false (ex * fxOne + fxDiv ln fxLn2) 2

/-- Sine and cosine of a fixed-point argument. -/
def fxSinCos (v : Int) : Int × Int :=
  let h := fxPi / 2
  let n := (v + h / 2) / h
  let r := v - n * h
  let r2 := fxMul r r
  let s := trigSer 40 1 r r2
  let c := trigSer 40 0 fxOne r2
  match (n % 4).toNat with
  | 0 => (s, c)
  | 1 => (c, -s)
  | 2 => (-s, -c)
  | _ => (-c, s)

/-- The argument of R106 (05) in units of 2^-a: x itself up to 2^16, the reduced argument y beyond. -/
def trigArg (m : Nat) (e : Int) : Nat × Int × Bool :=
  if expOf m e < 16 ∨ (isPow2 m ∧ expOf m e = 16) then (m, e, false)
  else
    let q : Int := if e < -21 then e else -21
    let a := m * 2 ^ (e - q).toNat
    let p := 13176795 * 2 ^ (-21 - q).toNat
    let d := a / p
    let r := a % p
    let up := decide (p < 2 * r) || (2 * r == p && d % 2 == 1)
    if up then (p - r, q, true) else (r, q, false)

/-- FSIN and FCOS (05 R105, R106). Where the reduced argument of a source above 2^16 is 0, FSIN is +0 with NX whatever the
source's sign (assumption 14). -/
def ftrig (cosine : Bool) (fout : Bool) (x : Nat) : FRes :=
  let fn := if cosine then 6 else 5
  match decodeF fp32 x with
  | .nan s _ => nanRes fp32 s
  | .inf _ => nanRes fp32 true
  | .fin n m e =>
    let one : Nat := 0x3F800000
    if m = 0 then if cosine then ⟨one, 0⟩ else ⟨x, 0⟩
    else
      let a := trigArg m e
      let neg := n != a.2.2
      if a.1 = 0 then if cosine then ⟨one, flNX⟩ else ⟨0, flNX⟩
      else if expOf a.1 a.2.1 < -30 then
        if cosine then pickUlp fn x fout false (2 ^ 100 - 2 ^ 41) (2 ^ 100) (-100) 2
        else pickUlp fn x fout neg (a.1 * 2 ^ 100 - a.1 * 2 ^ 41) (a.1 * 2 ^ 100) (a.2.1 - 100) 2
      else
        let r := fxSinCos (fxOf a.1 a.2.1)
        if cosine then pickFx fn x fout false r.2 2 else pickFx fn x fout neg r.1 2

/-- FTANH (05 R105). -/
def ftanh (fout : Bool) (x : Nat) : FRes :=
  match decodeF fp32 x with
  | .nan s _ => nanRes fp32 s
  | .inf n => ⟨signBit fp32 n + 0x3F800000, 0⟩
  | .fin n m e =>
    if m = 0 then ⟨x, 0⟩
    else if 9 * fxOne ≤ fxOf m e then ⟨signBit fp32 n + 0x3F800000, flNX⟩
    else if expOf m e < -25 then
      pickUlp 7 x fout n (m * 2 ^ 100 - m * 2 ^ 51) (m * 2 ^ 100) (e - 100) 2
    else
      let p := fxExp2 (fxDiv (2 * fxOf m e) fxLn2)
      let w := p.1 * 2 ^ p.2.toNat
      pickFx 7 x fout n (fxDiv (w - fxOne) (w + fxOne)) 2

/-- The SFU functions by their code (14 R297) on an FP32 source, under FIN and FOUT; only FSQRT rounds under rm. -/
def sfu (fn : Nat) (rm : Rm) (flush fout : Bool) (x0 : Nat) : FRes :=
  let x := fin fp32 flush x0
  match fn with
  | 0 => frcp fout x
  | 1 => frsq fout x
  | 2 => sqrtF fp32 rm fout (decodeF fp32 x)
  | 3 => fexp2 fout x
  | 4 => flog2 fout x
  | 5 => ftrig false fout x
  | 6 => ftrig true fout x
  | _ => ftanh fout x

end Sys2Proof.Machine
end

