-- ==== Sys2Proof/Machine/FloatAlu.lean ====
section
/-! DEFINITION. The vector floating-point instructions (15 R330, R331, R313; 16 R334 to R347; 05 R94 to R106): FALU,
FFMA, FCMP, SFU, CVT and packed BF16. A uniform form works on bits [31:0] and writes zeros above (05 R100). -/

namespace Sys2Proof.Machine

/-- A floating-point result with its flags. -/
def fout (r : FRes) : LaneOut := ⟨r.v, r.fl, 0, none⟩

/-- In(x) of 16 R334 on an FP32 source. -/
def in32 (fp : Fp) (x : Nat) : Nat := fin fp32 fp.fin (x % 2 ^ 32)

/-- In(x) decoded. -/
def val32 (fp : Fp) (x : Nat) : FVal := decodeF fp32 (in32 fp x)


/-- FADD (16 R336): A + B, rounded once. -/
def faddOp (_ : Nat) (fp : Fp) (x : LaneIn) : LaneOut :=
  fout (addV fp32 fp.rm fp.fout (val32 fp x.a) (val32 fp x.b))

/-- FADD (16 R336): the instruction. -/
def execFadd (f : RRR) (s : State) : Host.Outcome State Fault Refusal :=
  issue ((aluRRR f false).meaning (.fadd f) faddOp) s

/-- FSUB (16 R336): FADD with the sign of B inverted. -/
def fsubOp (_ : Nat) (fp : Fp) (x : LaneIn) : LaneOut :=
  fout (addV fp32 fp.rm fp.fout (val32 fp x.a) (val32 fp x.b).negv)

/-- FSUB (16 R336): the instruction. -/
def execFsub (f : RRR) (s : State) : Host.Outcome State Fault Refusal :=
  issue ((aluRRR f false).meaning (.fsub f) fsubOp) s

/-- FMUL (16 R336): A * B, rounded once. -/
def fmulOp (_ : Nat) (fp : Fp) (x : LaneIn) : LaneOut :=
  fout (mulF fp32 fp.rm fp.fout (val32 fp x.a) (val32 fp x.b))

/-- FMUL (16 R336): the instruction. -/
def execFmul (f : RRR) (s : State) : Host.Outcome State Fault Refusal :=
  issue ((aluRRR f false).meaning (.fmul f) fmulOp) s

/-- FMIN (16 R344): minimumNumber of the sources after In. -/
def fminOp (_ : Nat) (fp : Fp) (x : LaneIn) : LaneOut :=
  fout (minmaxF fp32 false (in32 fp x.a) (in32 fp x.b))

/-- FMIN (16 R344): the instruction. -/
def execFmin (f : RRR) (s : State) : Host.Outcome State Fault Refusal :=
  issue ((aluRRR f false).meaning (.fmin f) fminOp) s

/-- FMAX (16 R344): maximumNumber of the sources after In. -/
def fmaxOp (_ : Nat) (fp : Fp) (x : LaneIn) : LaneOut :=
  fout (minmaxF fp32 true (in32 fp x.a) (in32 fp x.b))

/-- FMAX (16 R344): the instruction. -/
def execFmax (f : RRR) (s : State) : Host.Outcome State Fault Refusal :=
  issue ((aluRRR f false).meaning (.fmax f) fmaxOp) s

/-- FABS (16 R335): A with bit [31] cleared. -/
def fabsOp (_ : Nat) (_ : Fp) (x : LaneIn) : LaneOut :=
  fout ⟨x.a % 2 ^ 31, 0⟩

/-- FABS (16 R335): the instruction. -/
def execFabs (f : Un) (s : State) : Host.Outcome State Fault Refusal :=
  issue ((aluUn f).meaning (.fabs f) fabsOp) s

/-- FNEG (16 R335): A with bit [31] inverted. -/
def fnegOp (_ : Nat) (_ : Fp) (x : LaneIn) : LaneOut :=
  fout ⟨Nat.xor (x.a % 2 ^ 32) (2 ^ 31), 0⟩

/-- FNEG (16 R335): the instruction. -/
def execFneg (f : Un) (s : State) : Host.Outcome State Fault Refusal :=
  issue ((aluUn f).meaning (.fneg f) fnegOp) s

/-- FRND.NE (16 R347): In(A) rounded to an integral value to nearest, ties to even. -/
def frndNeOp (_ : Nat) (fp : Fp) (x : LaneIn) : LaneOut :=
  fout (frndF fp32 .rne (in32 fp x.a))

/-- FRND.NE (16 R347): the instruction. -/
def execFrndNe (f : Un) (s : State) : Host.Outcome State Fault Refusal :=
  issue ((aluUn f).meaning (.frndNe f) frndNeOp) s

/-- FRND.Z (16 R347): In(A) rounded to an integral value towards zero. -/
def frndZOp (_ : Nat) (fp : Fp) (x : LaneIn) : LaneOut :=
  fout (frndF fp32 .rtz (in32 fp x.a))

/-- FRND.Z (16 R347): the instruction. -/
def execFrndZ (f : Un) (s : State) : Host.Outcome State Fault Refusal :=
  issue ((aluUn f).meaning (.frndZ f) frndZOp) s

/-- FRND.DN (16 R347): In(A) rounded to an integral value towards minus infinity. -/
def frndDnOp (_ : Nat) (fp : Fp) (x : LaneIn) : LaneOut :=
  fout (frndF fp32 .rdn (in32 fp x.a))

/-- FRND.DN (16 R347): the instruction. -/
def execFrndDn (f : Un) (s : State) : Host.Outcome State Fault Refusal :=
  issue ((aluUn f).meaning (.frndDn f) frndDnOp) s

/-- FRND.UP (16 R347): In(A) rounded to an integral value towards plus infinity. -/
def frndUpOp (_ : Nat) (fp : Fp) (x : LaneIn) : LaneOut :=
  fout (frndF fp32 .rup (in32 fp x.a))

/-- FRND.UP (16 R347): the instruction. -/
def execFrndUp (f : Un) (s : State) : Host.Outcome State Fault Refusal :=
  issue ((aluUn f).meaning (.frndUp f) frndUpOp) s

/-- FCLASS (16 R337): the class bit of A. -/
def fclassOp (_ : Nat) (_ : Fp) (x : LaneIn) : LaneOut :=
  fout ⟨fclassF fp32 (x.a % 2 ^ 32), 0⟩

/-- FCLASS (16 R337): the instruction. -/
def execFclass (f : Un) (s : State) : Host.Outcome State Fault Refusal :=
  issue ((aluUn f).meaning (.fclass f) fclassOp) s

/-- FDIV (16 R336, 05 R105): A / B, correctly rounded. -/
def fdivOp (_ : Nat) (fp : Fp) (x : LaneIn) : LaneOut :=
  fout (divF fp32 fp.rm fp.fout (val32 fp x.a) (val32 fp x.b))

/-- FDIV (16 R336, 05 R105): the instruction. -/
def execFdiv (f : RRR) (s : State) : Host.Outcome State Fault Refusal :=
  issue ((aluRRR f false).meaning (.fdiv f) fdivOp) s

/-- FFMA (16 R343): A * B + D, rounded once. -/
def ffmaOp (_ : Nat) (fp : Fp) (x : LaneIn) : LaneOut :=
  fout (fmaF fp32 fp.rm fp.fout (val32 fp x.a) (val32 fp x.b) (val32 fp x.d))

/-- FFMA (16 R343): the instruction. -/
def execFfma (f : RRR) (s : State) : Host.Outcome State Fault Refusal :=
  issue ((aluRRR f true).meaning (.ffma f) ffmaOp) s

/-- The conditions of FCMP (16 R338). -/
def fcond (cond : Nat) (a b : FVal) : Bool :=
  let un := a.isNan || b.isNan
  let z := cmpV a b
  match cond with
  | 0 => !un && z == 0
  | 1 => un || !(z == 0)
  | 2 => !un && decide (z < 0)
  | 3 => !un && decide (z ≤ 0)
  | 4 => !un && decide (0 < z)
  | 5 => !un && decide (0 ≤ z)
  | 6 => un
  | _ => !un

/-- NV of FCMP (16 R339): a signalling NaN, or any NaN under LT, LE, GT and GE. -/
def fcmpFlags (cond : Nat) (a b : FVal) : Nat :=
  if a.snan || b.snan || (decide (2 ≤ cond ∧ cond ≤ 5) && (a.isNan || b.isNan)) then flNV else 0

/-- FCMP (16 R338): the condition as 0 or 1. -/
def fcmpOp (cond : Nat) (_ : Nat) (fp : Fp) (x : LaneIn) : LaneOut :=
  let a := val32 fp x.a
  let b := val32 fp x.b
  ⟨(fcond cond a b).toNat, fcmpFlags cond a b, 0, none⟩

/-- FCMP (16 R338): the instruction. -/
def execFcmp (f : CP) (s : State) : Host.Outcome State Fault Refusal :=
  issue ((aluCP f).meaning (.fcmp f) (fcmpOp f.cond.toNat)) s

/-- FRCP (16 R345, R346; 05 R105): 1 / a. -/
def frcpOp (_ : Nat) (fp : Fp) (x : LaneIn) : LaneOut :=
  fout (sfu 0 fp.rm fp.fin fp.fout (x.a % 2 ^ 32))

/-- FRCP (16 R345, R346; 05 R105): the instruction. -/
def execFrcp (f : Un) (s : State) : Host.Outcome State Fault Refusal :=
  issue ((aluUn f).meaning (.frcp f) frcpOp) s

/-- FRSQ (16 R345, R346; 05 R105): 1 / √a. -/
def frsqOp (_ : Nat) (fp : Fp) (x : LaneIn) : LaneOut :=
  fout (sfu 1 fp.rm fp.fin fp.fout (x.a % 2 ^ 32))

/-- FRSQ (16 R345, R346; 05 R105): the instruction. -/
def execFrsq (f : Un) (s : State) : Host.Outcome State Fault Refusal :=
  issue ((aluUn f).meaning (.frsq f) frsqOp) s

/-- FSQRT (16 R345, R346; 05 R105): √a, correctly rounded. -/
def fsqrtOp (_ : Nat) (fp : Fp) (x : LaneIn) : LaneOut :=
  fout (sfu 2 fp.rm fp.fin fp.fout (x.a % 2 ^ 32))

/-- FSQRT (16 R345, R346; 05 R105): the instruction. -/
def execFsqrt (f : Un) (s : State) : Host.Outcome State Fault Refusal :=
  issue ((aluUn f).meaning (.fsqrt f) fsqrtOp) s

/-- FEXP2 (16 R345, R346; 05 R105): 2^a. -/
def fexp2Op (_ : Nat) (fp : Fp) (x : LaneIn) : LaneOut :=
  fout (sfu 3 fp.rm fp.fin fp.fout (x.a % 2 ^ 32))

/-- FEXP2 (16 R345, R346; 05 R105): the instruction. -/
def execFexp2 (f : Un) (s : State) : Host.Outcome State Fault Refusal :=
  issue ((aluUn f).meaning (.fexp2 f) fexp2Op) s

/-- FLOG2 (16 R345, R346; 05 R105): log2 a. -/
def flog2Op (_ : Nat) (fp : Fp) (x : LaneIn) : LaneOut :=
  fout (sfu 4 fp.rm fp.fin fp.fout (x.a % 2 ^ 32))

/-- FLOG2 (16 R345, R346; 05 R105): the instruction. -/
def execFlog2 (f : Un) (s : State) : Host.Outcome State Fault Refusal :=
  issue ((aluUn f).meaning (.flog2 f) flog2Op) s

/-- FSIN (16 R345, R346; 05 R105): sin a. -/
def fsinOp (_ : Nat) (fp : Fp) (x : LaneIn) : LaneOut :=
  fout (sfu 5 fp.rm fp.fin fp.fout (x.a % 2 ^ 32))

/-- FSIN (16 R345, R346; 05 R105): the instruction. -/
def execFsin (f : Un) (s : State) : Host.Outcome State Fault Refusal :=
  issue ((aluUn f).meaning (.fsin f) fsinOp) s

/-- FCOS (16 R345, R346; 05 R105): cos a. -/
def fcosOp (_ : Nat) (fp : Fp) (x : LaneIn) : LaneOut :=
  fout (sfu 6 fp.rm fp.fin fp.fout (x.a % 2 ^ 32))

/-- FCOS (16 R345, R346; 05 R105): the instruction. -/
def execFcos (f : Un) (s : State) : Host.Outcome State Fault Refusal :=
  issue ((aluUn f).meaning (.fcos f) fcosOp) s

/-- FTANH (16 R345, R346; 05 R105): tanh a. -/
def ftanhOp (_ : Nat) (fp : Fp) (x : LaneIn) : LaneOut :=
  fout (sfu 7 fp.rm fp.fin fp.fout (x.a % 2 ^ 32))

/-- FTANH (16 R345, R346; 05 R105): the instruction. -/
def execFtanh (f : Un) (s : State) : Host.Outcome State Fault Refusal :=
  issue ((aluUn f).meaning (.ftanh f) ftanhOp) s

/-- CVT.S32.F32 (15 R330, 05 R104): to a signed integer, saturated. -/
def cvtS32F32Op (_ : Nat) (fp : Fp) (x : LaneIn) : LaneOut :=
  fout (toIntF fp32 fp.rm true (in32 fp x.a))

/-- CVT.S32.F32 (15 R330, 05 R104): the instruction. -/
def execCvtS32F32 (f : Un) (s : State) : Host.Outcome State Fault Refusal :=
  issue ((aluUn f).meaning (.cvtS32F32 f) cvtS32F32Op) s

/-- CVT.U32.F32 (15 R330, 05 R104): to an unsigned integer, saturated. -/
def cvtU32F32Op (_ : Nat) (fp : Fp) (x : LaneIn) : LaneOut :=
  fout (toIntF fp32 fp.rm false (in32 fp x.a))

/-- CVT.U32.F32 (15 R330, 05 R104): the instruction. -/
def execCvtU32F32 (f : Un) (s : State) : Host.Outcome State Fault Refusal :=
  issue ((aluUn f).meaning (.cvtU32F32 f) cvtU32F32Op) s

/-- CVT.F32.S32 (15 R330, 05 R104): from a signed integer. -/
def cvtF32S32Op (_ : Nat) (fp : Fp) (x : LaneIn) : LaneOut :=
  fout (ofIntF fp32 fp.rm fp.fout (sextNat 32 x.a))

/-- CVT.F32.S32 (15 R330, 05 R104): the instruction. -/
def execCvtF32S32 (f : Un) (s : State) : Host.Outcome State Fault Refusal :=
  issue ((aluUn f).meaning (.cvtF32S32 f) cvtF32S32Op) s

/-- CVT.F32.U32 (15 R330, 05 R104): from an unsigned integer. -/
def cvtF32U32Op (_ : Nat) (fp : Fp) (x : LaneIn) : LaneOut :=
  fout (ofIntF fp32 fp.rm fp.fout (Int.ofNat (x.a % 2 ^ 32)))

/-- CVT.F32.U32 (15 R330, 05 R104): the instruction. -/
def execCvtF32U32 (f : Un) (s : State) : Host.Outcome State Fault Refusal :=
  issue ((aluUn f).meaning (.cvtF32U32 f) cvtF32U32Op) s

/-- CVT.BF16.F32 (15 R330, 05 R104): narrowed under rm. -/
def cvtBf16F32Op (_ : Nat) (fp : Fp) (x : LaneIn) : LaneOut :=
  fout (convF fp32 bf16 fp.rm fp.fout (in32 fp x.a))

/-- CVT.BF16.F32 (15 R330, 05 R104): the instruction. -/
def execCvtBf16F32 (f : Un) (s : State) : Host.Outcome State Fault Refusal :=
  issue ((aluUn f).meaning (.cvtBf16F32 f) cvtBf16F32Op) s

/-- CVT.F32.BF16 (15 R330, 05 R104): widened exactly. -/
def cvtF32Bf16Op (_ : Nat) (fp : Fp) (x : LaneIn) : LaneOut :=
  fout (convF bf16 fp32 .rne false (fin bf16 fp.fin (x.a % 2 ^ 16)))

/-- CVT.F32.BF16 (15 R330, 05 R104): the instruction. -/
def execCvtF32Bf16 (f : Un) (s : State) : Host.Outcome State Fault Refusal :=
  issue ((aluUn f).meaning (.cvtF32Bf16 f) cvtF32Bf16Op) s

/-- CVT.F16.F32 (15 R330, 05 R104): narrowed under rm. -/
def cvtF16F32Op (_ : Nat) (fp : Fp) (x : LaneIn) : LaneOut :=
  fout (convF fp32 fp16 fp.rm false (in32 fp x.a))

/-- CVT.F16.F32 (15 R330, 05 R104): the instruction. -/
def execCvtF16F32 (f : Un) (s : State) : Host.Outcome State Fault Refusal :=
  issue ((aluUn f).meaning (.cvtF16F32 f) cvtF16F32Op) s

/-- CVT.F32.F16 (15 R330, 05 R104): widened exactly. -/
def cvtF32F16Op (_ : Nat) (_ : Fp) (x : LaneIn) : LaneOut :=
  fout (convF fp16 fp32 .rne false (x.a % 2 ^ 16))

/-- CVT.F32.F16 (15 R330, 05 R104): the instruction. -/
def execCvtF32F16 (f : Un) (s : State) : Host.Outcome State Fault Refusal :=
  issue ((aluUn f).meaning (.cvtF32F16 f) cvtF32F16Op) s

/-- CVT.E4M3.F32 (15 R330, 05 R104): narrowed under rm. -/
def cvtE4m3F32Op (_ : Nat) (fp : Fp) (x : LaneIn) : LaneOut :=
  fout (convF fp32 e4m3 fp.rm false (in32 fp x.a))

/-- CVT.E4M3.F32 (15 R330, 05 R104): the instruction. -/
def execCvtE4m3F32 (f : Un) (s : State) : Host.Outcome State Fault Refusal :=
  issue ((aluUn f).meaning (.cvtE4m3F32 f) cvtE4m3F32Op) s

/-- CVT.F32.E4M3 (15 R330, 05 R104): widened exactly. -/
def cvtF32E4m3Op (_ : Nat) (_ : Fp) (x : LaneIn) : LaneOut :=
  fout (convF e4m3 fp32 .rne false (x.a % 2 ^ 8))

/-- CVT.F32.E4M3 (15 R330, 05 R104): the instruction. -/
def execCvtF32E4m3 (f : Un) (s : State) : Host.Outcome State Fault Refusal :=
  issue ((aluUn f).meaning (.cvtF32E4m3 f) cvtF32E4m3Op) s

/-- CVT.E5M2.F32 (15 R330, 05 R104): narrowed under rm. -/
def cvtE5m2F32Op (_ : Nat) (fp : Fp) (x : LaneIn) : LaneOut :=
  fout (convF fp32 e5m2 fp.rm false (in32 fp x.a))

/-- CVT.E5M2.F32 (15 R330, 05 R104): the instruction. -/
def execCvtE5m2F32 (f : Un) (s : State) : Host.Outcome State Fault Refusal :=
  issue ((aluUn f).meaning (.cvtE5m2F32 f) cvtE5m2F32Op) s

/-- CVT.F32.E5M2 (15 R330, 05 R104): widened exactly. -/
def cvtF32E5m2Op (_ : Nat) (_ : Fp) (x : LaneIn) : LaneOut :=
  fout (convF e5m2 fp32 .rne false (x.a % 2 ^ 8))

/-- CVT.F32.E5M2 (15 R330, 05 R104): the instruction. -/
def execCvtF32E5m2 (f : Un) (s : State) : Host.Outcome State Fault Refusal :=
  issue ((aluUn f).meaning (.cvtF32E5m2 f) cvtF32E5m2Op) s

/-! ### Packed BF16 (15 R313) -/

/-- Half h of a register after In. -/
def half16 (fp : Fp) (x h : Nat) : FVal := decodeF bf16 (fin bf16 fp.fin (bits x (16 * h) 16))

/-- Both halves of a packed operation; the flags merge. -/
def pair16 (f : Nat → FRes) : LaneOut :=
  ⟨(f 0).v + (f 1).v * 2 ^ 16, Nat.lor (f 0).fl (f 1).fl, 0, none⟩

/-- BADD2 (15 R313): a + b in each half. -/
def badd2Op (_ : Nat) (fp : Fp) (x : LaneIn) : LaneOut :=
  pair16 fun h => addV bf16 fp.rm fp.fout (half16 fp x.a h) (half16 fp x.b h)

/-- BADD2 (15 R313): the instruction. -/
def execBadd2 (f : RRV) (s : State) : Host.Outcome State Fault Refusal :=
  issue ((aluRRV f false).meaning (.badd2 f) badd2Op) s

/-- BMUL2 (15 R313): a * b in each half. -/
def bmul2Op (_ : Nat) (fp : Fp) (x : LaneIn) : LaneOut :=
  pair16 fun h => mulF bf16 fp.rm fp.fout (half16 fp x.a h) (half16 fp x.b h)

/-- BMUL2 (15 R313): the instruction. -/
def execBmul2 (f : RRV) (s : State) : Host.Outcome State Fault Refusal :=
  issue ((aluRRV f false).meaning (.bmul2 f) bmul2Op) s

/-- BFMA2 (15 R313): a * b + c in each half, rounded once. -/
def bfma2Op (_ : Nat) (fp : Fp) (x : LaneIn) : LaneOut :=
  pair16 fun h => fmaF bf16 fp.rm fp.fout (half16 fp x.a h) (half16 fp x.b h) (half16 fp x.d h)

/-- BFMA2 (15 R313): the instruction. -/
def execBfma2 (f : RRV) (s : State) : Host.Outcome State Fault Refusal :=
  issue ((aluRRV f true).meaning (.bfma2 f) bfma2Op) s

end Sys2Proof.Machine
end

