-- ==== Sys2Proof/Machine/IntAlu.lean ====
section
/-! DEFINITION. The integer instructions (15 to 18; 05 R102): IALU, immediates, shifts, IMAD, ICMP, bit fields, LEA
and SEL. Every result is taken modulo 2^W, with W 32 for v-registers and 64 for s-registers; no flag is set. -/

namespace Sys2Proof.Machine

/-- A plain result. -/
def val (v : Nat) : LaneOut := ⟨v, 0, 0, none⟩

/-- The bits of a number reversed over n bits (15 R320). -/
def revBits (n x : Nat) : Nat := natOfBits n fun i => tbit x (n - 1 - i)

/-- How many of the low n bits are set. -/
def popBits (n x : Nat) : Nat := ((List.range n).filter fun i => tbit x i).length

/-- Leading zero bits over n bits (15 R320). -/
def clzBits (n x : Nat) : Nat := n - bitLen (x % 2 ^ n)

/-- SHL, SHR and SAR with every bit of B read (18 R395). -/
def shlN (W a k : Nat) : Nat := if k < W then a * 2 ^ k % 2 ^ W else 0
def shrN (W a k : Nat) : Nat := if k < W then a / 2 ^ k else 0
def sarN (W a k : Nat) : Nat :=
  if k < W then wrapNat W (sextNat W a / Int.ofNat (2 ^ k))
  else if tbit a (W - 1) then 2 ^ W - 1 else 0

/-- ROL (17 R384). -/
def rolN (W a b : Nat) : Nat :=
  let k := b % W
  if k = 0 then a else (a * 2 ^ k + a / 2 ^ (W - k)) % 2 ^ W

/-- The field of BFE and BFI (15 R318): position and the bits inside the word. -/
def fieldPos (b : Nat) : Nat := bits b 0 8
def fieldLen (W b : Nat) : Nat := min (bits b 8 8) (W - min (fieldPos b) W)

/-- The conditions of ICMP (17 R363, 14 R297). -/
def icond (W cond a b : Nat) : Bool :=
  match cond with
  | 0 => a == b
  | 1 => !(a == b)
  | 2 => decide (sextNat W a < sextNat W b)
  | 3 => decide (sextNat W a ≤ sextNat W b)
  | 4 => decide (sextNat W b < sextNat W a)
  | 5 => decide (sextNat W b ≤ sextNat W a)
  | 6 => decide (a < b)
  | _ => decide (b ≤ a)


/-- IADD (16 R360): (A + B) mod 2^W. -/
def iaddOp (W : Nat) (_ : Fp) (x : LaneIn) : LaneOut := val ((x.a + x.b) % 2 ^ W)

/-- IADD (16 R360): the instruction. -/
def execIadd (f : RRR) (s : State) : Host.Outcome State Fault Refusal :=
  issue ((aluRRR f false).meaning (.iadd f) iaddOp) s

/-- ISUB (16 R360): (A - B) mod 2^W. -/
def isubOp (W : Nat) (_ : Fp) (x : LaneIn) : LaneOut := val ((x.a + (2 ^ W - x.b)) % 2 ^ W)

/-- ISUB (16 R360): the instruction. -/
def execIsub (f : RRR) (s : State) : Host.Outcome State Fault Refusal :=
  issue ((aluRRR f false).meaning (.isub f) isubOp) s

/-- IMUL (16 R366): the low half of the product. -/
def imulOp (W : Nat) (_ : Fp) (x : LaneIn) : LaneOut := val (x.a * x.b % 2 ^ W)

/-- IMUL (16 R366): the instruction. -/
def execImul (f : RRR) (s : State) : Host.Outcome State Fault Refusal :=
  issue ((aluRRR f false).meaning (.imul f) imulOp) s

/-- IMULH (16 R366): the high half of the signed product. -/
def imulhOp (W : Nat) (_ : Fp) (x : LaneIn) : LaneOut :=
  val (wrapNat W (sextNat W x.a * sextNat W x.b / Int.ofNat (2 ^ W)))

/-- IMULH (16 R366): the instruction. -/
def execImulh (f : RRR) (s : State) : Host.Outcome State Fault Refusal :=
  issue ((aluRRR f false).meaning (.imulh f) imulhOp) s

/-- IMULH.U (16 R366): the high half of the unsigned product. -/
def imulhUOp (W : Nat) (_ : Fp) (x : LaneIn) : LaneOut := val (x.a * x.b / 2 ^ W)

/-- IMULH.U (16 R366): the instruction. -/
def execImulhU (f : RRR) (s : State) : Host.Outcome State Fault Refusal :=
  issue ((aluRRR f false).meaning (.imulhU f) imulhUOp) s

/-- IMIN (16 R365): the signed smaller. -/
def iminOp (W : Nat) (_ : Fp) (x : LaneIn) : LaneOut := val (if sextNat W x.a ≤ sextNat W x.b then x.a else x.b)

/-- IMIN (16 R365): the instruction. -/
def execImin (f : RRR) (s : State) : Host.Outcome State Fault Refusal :=
  issue ((aluRRR f false).meaning (.imin f) iminOp) s

/-- IMIN.U (16 R365): the unsigned smaller. -/
def iminUOp (_ : Nat) (_ : Fp) (x : LaneIn) : LaneOut := val (min x.a x.b)

/-- IMIN.U (16 R365): the instruction. -/
def execIminU (f : RRR) (s : State) : Host.Outcome State Fault Refusal :=
  issue ((aluRRR f false).meaning (.iminU f) iminUOp) s

/-- IMAX (16 R365): the signed larger. -/
def imaxOp (W : Nat) (_ : Fp) (x : LaneIn) : LaneOut := val (if sextNat W x.a ≤ sextNat W x.b then x.b else x.a)

/-- IMAX (16 R365): the instruction. -/
def execImax (f : RRR) (s : State) : Host.Outcome State Fault Refusal :=
  issue ((aluRRR f false).meaning (.imax f) imaxOp) s

/-- IMAX.U (16 R365): the unsigned larger. -/
def imaxUOp (_ : Nat) (_ : Fp) (x : LaneIn) : LaneOut := val (max x.a x.b)

/-- IMAX.U (16 R365): the instruction. -/
def execImaxU (f : RRR) (s : State) : Host.Outcome State Fault Refusal :=
  issue ((aluRRR f false).meaning (.imaxU f) imaxUOp) s

/-- IABS (16 R359): A when it is not negative, and 0 - A otherwise. -/
def iabsOp (W : Nat) (_ : Fp) (x : LaneIn) : LaneOut := val (if tbit x.a (W - 1) then (2 ^ W - x.a) % 2 ^ W else x.a)

/-- IABS (16 R359): the instruction. -/
def execIabs (f : Un) (s : State) : Host.Outcome State Fault Refusal :=
  issue ((aluUn f).meaning (.iabs f) iabsOp) s

/-- INEG (16 R359): (0 - A) mod 2^W. -/
def inegOp (W : Nat) (_ : Fp) (x : LaneIn) : LaneOut := val ((2 ^ W - x.a) % 2 ^ W)

/-- INEG (16 R359): the instruction. -/
def execIneg (f : Un) (s : State) : Host.Outcome State Fault Refusal :=
  issue ((aluUn f).meaning (.ineg f) inegOp) s

/-- AND (15 R307): A and B. -/
def andOp (_ : Nat) (_ : Fp) (x : LaneIn) : LaneOut := val (Nat.land x.a x.b)

/-- AND (15 R307): the instruction. -/
def execAnd (f : RRR) (s : State) : Host.Outcome State Fault Refusal :=
  issue ((aluRRR f false).meaning (.and f) andOp) s

/-- OR (17 R384): A or B. -/
def orOp (_ : Nat) (_ : Fp) (x : LaneIn) : LaneOut := val (Nat.lor x.a x.b)

/-- OR (17 R384): the instruction. -/
def execOr (f : RRR) (s : State) : Host.Outcome State Fault Refusal :=
  issue ((aluRRR f false).meaning (.or f) orOp) s

/-- XOR (18 R422): A xor B. -/
def xorOp (_ : Nat) (_ : Fp) (x : LaneIn) : LaneOut := val (Nat.xor x.a x.b)

/-- XOR (18 R422): the instruction. -/
def execXor (f : RRR) (s : State) : Host.Outcome State Fault Refusal :=
  issue ((aluRRR f false).meaning (.xor f) xorOp) s

/-- ANDN (15 R307): A and not B. -/
def andnOp (W : Nat) (_ : Fp) (x : LaneIn) : LaneOut := val (Nat.land x.a (2 ^ W - 1 - x.b))

/-- ANDN (15 R307): the instruction. -/
def execAndn (f : RRR) (s : State) : Host.Outcome State Fault Refusal :=
  issue ((aluRRR f false).meaning (.andn f) andnOp) s

/-- NOT (17 R384): not A. -/
def notOp (W : Nat) (_ : Fp) (x : LaneIn) : LaneOut := val (2 ^ W - 1 - x.a)

/-- NOT (17 R384): the instruction. -/
def execNot (f : Un) (s : State) : Host.Outcome State Fault Refusal :=
  issue ((aluUn f).meaning (.not f) notOp) s

/-- SHL (18 R395): A shifted left by all of B. -/
def shlOp (W : Nat) (_ : Fp) (x : LaneIn) : LaneOut := val (shlN W x.a x.b)

/-- SHL (18 R395): the instruction. -/
def execShl (f : RRR) (s : State) : Host.Outcome State Fault Refusal :=
  issue ((aluRRR f false).meaning (.shl f) shlOp) s

/-- SHR (18 R395): A shifted right, filling with zeros. -/
def shrOp (W : Nat) (_ : Fp) (x : LaneIn) : LaneOut := val (shrN W x.a x.b)

/-- SHR (18 R395): the instruction. -/
def execShr (f : RRR) (s : State) : Host.Outcome State Fault Refusal :=
  issue ((aluRRR f false).meaning (.shr f) shrOp) s

/-- SAR (18 R395): A shifted right, filling with its sign. -/
def sarOp (W : Nat) (_ : Fp) (x : LaneIn) : LaneOut := val (sarN W x.a x.b)

/-- SAR (18 R395): the instruction. -/
def execSar (f : RRR) (s : State) : Host.Outcome State Fault Refusal :=
  issue ((aluRRR f false).meaning (.sar f) sarOp) s

/-- ROL (17 R384): A rotated left by B mod W. -/
def rolOp (W : Nat) (_ : Fp) (x : LaneIn) : LaneOut := val (rolN W x.a x.b)

/-- ROL (17 R384): the instruction. -/
def execRol (f : RRR) (s : State) : Host.Outcome State Fault Refusal :=
  issue ((aluRRR f false).meaning (.rol f) rolOp) s

/-- CLZ (15 R320): the leading zero bits of A. -/
def clzOp (W : Nat) (_ : Fp) (x : LaneIn) : LaneOut := val (clzBits W x.a)

/-- CLZ (15 R320): the instruction. -/
def execClz (f : Un) (s : State) : Host.Outcome State Fault Refusal :=
  issue ((aluUn f).meaning (.clz f) clzOp) s

/-- POPC (17 R384): the one bits of A. -/
def popcOp (W : Nat) (_ : Fp) (x : LaneIn) : LaneOut := val (popBits W x.a)

/-- POPC (17 R384): the instruction. -/
def execPopc (f : Un) (s : State) : Host.Outcome State Fault Refusal :=
  issue ((aluUn f).meaning (.popc f) popcOp) s

/-- BREV (15 R320): the bits of A reversed. -/
def brevOp (W : Nat) (_ : Fp) (x : LaneIn) : LaneOut := val (revBits W x.a)

/-- BREV (15 R320): the instruction. -/
def execBrev (f : Un) (s : State) : Host.Outcome State Fault Refusal :=
  issue ((aluUn f).meaning (.brev f) brevOp) s

/-- MOV (17 R381): A. -/
def movOp (_ : Nat) (_ : Fp) (x : LaneIn) : LaneOut := val x.a

/-- MOV (17 R381): the instruction. -/
def execMov (f : Un) (s : State) : Host.Outcome State Fault Refusal :=
  issue ((aluUn f).meaning (.mov f) movOp) s

/-- IADDC (16 R361): A + B + p6, and the carry out. -/
def iaddcOp (W : Nat) (_ : Fp) (x : LaneIn) : LaneOut :=
  let t := x.a + x.b + x.p.toNat
  ⟨t % 2 ^ W, 0, 0, some (decide (2 ^ W ≤ t))⟩

/-- The operands of IADDC: p6 is the carry in. -/
def aluIaddc (f : RRR) : Alu := { aluRRR f false with pp := some (6, false) }

/-- IADDC (16 R361): the instruction. -/
def execIaddc (f : RRR) (s : State) : Host.Outcome State Fault Refusal :=
  issue ((aluIaddc f).meaning (.iaddc f) iaddcOp) s

/-- IADDI (16 R362): the instruction, with the immediate of 16 R350. -/
def execIaddi (f : RI) (s : State) : Host.Outcome State Fault Refusal :=
  issue ((aluRI f (immRI (curHints s) f.imm true)).meaning (.iaddi f) iaddOp) s

/-- ANDI (15 R308): the instruction, with the immediate of 16 R350. -/
def execAndi (f : RI) (s : State) : Host.Outcome State Fault Refusal :=
  issue ((aluRI f (immRI (curHints s) f.imm false)).meaning (.andi f) andOp) s

/-- ORI (17 R384): the instruction, with the immediate of 16 R350. -/
def execOri (f : RI) (s : State) : Host.Outcome State Fault Refusal :=
  issue ((aluRI f (immRI (curHints s) f.imm false)).meaning (.ori f) orOp) s

/-- XORI (18 R422): the instruction, with the immediate of 16 R350. -/
def execXori (f : RI) (s : State) : Host.Outcome State Fault Refusal :=
  issue ((aluRI f (immRI (curHints s) f.imm false)).meaning (.xori f) xorOp) s

/-- SHLI (18 R396): SHL by AMT. -/
def execShli (f : SHI) (s : State) : Host.Outcome State Fault Refusal :=
  issue ((aluSH f).meaning (.shli f) shlOp) s

/-- SHRI (18 R396): SHR by AMT. -/
def execShri (f : SHI) (s : State) : Host.Outcome State Fault Refusal :=
  issue ((aluSH f).meaning (.shri f) shrOp) s

/-- SARI (18 R396): SAR by AMT. -/
def execSari (f : SHI) (s : State) : Host.Outcome State Fault Refusal :=
  issue ((aluSH f).meaning (.sari f) sarOp) s

/-- MOVI (17 R382): the sign-extended immediate. -/
def moviOp (_ : Nat) (_ : Fp) (x : LaneIn) : LaneOut := val x.b

/-- MOVI (17 R382): the instruction, which reads no register. -/
def execMovi (f : WI) (s : State) : Host.Outcome State Fault Refusal :=
  issue (({ aluWI f (immWI (curHints s) f.imm) with ra := false }).meaning (.movi f) moviOp) s

/-- IMAD (16 R364): (A * B + D) mod 2^W. -/
def imadOp (W : Nat) (_ : Fp) (x : LaneIn) : LaneOut := val ((x.a * x.b + x.d) % 2 ^ W)

/-- IMAD (16 R364): the instruction. -/
def execImad (f : RRR) (s : State) : Host.Outcome State Fault Refusal :=
  issue ((aluRRR f true).meaning (.imad f) imadOp) s

/-- ICMP (17 R363): the condition as 0 or 1. -/
def icmpOp (cond W : Nat) (_ : Fp) (x : LaneIn) : LaneOut := val (icond W cond x.a x.b).toNat

/-- ICMP (17 R363): the instruction. -/
def execIcmp (f : CP) (s : State) : Host.Outcome State Fault Refusal :=
  issue ((aluCP f).meaning (.icmp f) (icmpOp f.cond.toNat)) s

/-- BFE.U (15 R318): the field, zero-extended. -/
def bfeUOp (W : Nat) (_ : Fp) (x : LaneIn) : LaneOut := val (x.a / 2 ^ fieldPos x.b % 2 ^ fieldLen W x.b)

/-- BFE.U (15 R318): the instruction. -/
def execBfeU (f : RRR) (s : State) : Host.Outcome State Fault Refusal :=
  issue ((aluRRR f false).meaning (.bfeU f) bfeUOp) s

/-- BFE.S (15 R318): the field, sign-extended; 0 when it has no bits. -/
def bfeSOp (W : Nat) (_ : Fp) (x : LaneIn) : LaneOut :=
  val (if fieldLen W x.b = 0 then 0 else wrapNat W (sextNat (fieldLen W x.b) (x.a / 2 ^ fieldPos x.b)))

/-- BFE.S (15 R318): the instruction. -/
def execBfeS (f : RRR) (s : State) : Host.Outcome State Fault Refusal :=
  issue ((aluRRR f false).meaning (.bfeS f) bfeSOp) s

/-- BFI (15 R318): the low bits of A placed in the field of D; D when the field has no bits. -/
def bfiOp (W : Nat) (_ : Fp) (x : LaneIn) : LaneOut :=
  let n := fieldLen W x.b
  let p := fieldPos x.b
  if n = 0 then val x.d
  else val (x.d - bits x.d p n * 2 ^ p + x.a % 2 ^ n * 2 ^ p)

/-- BFI (15 R318): the instruction. -/
def execBfi (f : RRR) (s : State) : Host.Outcome State Fault Refusal :=
  issue ((aluRRR f true).meaning (.bfi f) bfiOp) s

/-- LEA (17 R374): ((A << SH) + B) mod 2^W. -/
def leaOp (sh W : Nat) (_ : Fp) (x : LaneIn) : LaneOut := val ((x.a * 2 ^ sh + x.b) % 2 ^ W)

/-- LEA (17 R374): the instruction. -/
def execLea (f : LEAF) (s : State) : Host.Outcome State Fault Refusal :=
  issue ((aluLEA f).meaning (.lea f) (leaOp f.sh.toNat)) s

/-- SEL (18 R398): A where the condition holds, B elsewhere. -/
def selOp (_ : Nat) (_ : Fp) (x : LaneIn) : LaneOut := val (if x.p then x.a else x.b)

/-- SEL (18 R398): the instruction. -/
def execSel (f : SELF) (s : State) : Host.Outcome State Fault Refusal :=
  issue ((aluSEL f).meaning (.sel f) selOp) s

end Sys2Proof.Machine
end

