-- ==== Sys2Proof/Machine/Shape.lean ====
section
/-! DEFINITION. Shape records and their elements (09 R197, R198), chain programs (09 R200, R201), and the grid of a
collective (09 R202). -/

namespace Sys2Proof.Machine

/-! ### The record (09 R197) -/

/-- Which instruction checks a record. -/
inductive RecFor where
  | copy | chain | rly
  deriving DecidableEq, Repr

/-- `n` bytes of a record from an offset, as a number. -/
def recAt (b : List Byte) (off n : Nat) : Nat := natLe ((b.drop off).take n)

/-- The fields of a record as they stand, sizes in bytes. -/
def rawShape (b : List Byte) : Shape :=
  let ctrl := recAt b 7 1
  let ty := recAt b 8 1
  let es := 2 ^ bits ctrl 0 2
  let os := bits ty 3 3
  { base := recAt b 0 7
    esize := es
    rank := bits ctrl 2 3
    side := tbit ctrl 5
    clip := bits ctrl 6 2 == 1
    type := bits ty 0 3
    osize := if os = 0 then es else 2 ^ (os - 1)
    perm := (List.range 5).map fun e => bits (recAt b 9 2) (3 * e) 3
    clvl := recAt b 11 1
    dim := (List.range 5).map fun d => recAt b (12 + 2 * d) 2
    org := (List.range 5).map fun d => sextNat 16 (recAt b (22 + 2 * d) 2)
    str := (List.range 5).map fun d => if d = 0 then es else recAt b (28 + 4 * d) 4
    box := (List.range 5).map fun d => recAt b (48 + d) 1
    rop := bits (recAt b 53 1) 0 4
    grid := (List.range 3).map fun k => recAt b (54 + k) 1
    axes := bits (recAt b 57 1) 0 3
    repl := tbit (recAt b 57 1) 3
    topk := recAt b 58 2
    pad := recAt b 60 4 }

/-- How many elements the box holds. -/
def Shape.count (sh : Shape) : Nat := prodNat ((List.range sh.rank).map fun d => sh.box.getD d 0 + 1)

/-- PERM is a permutation of the dimensions below RANK and the identity above. -/
def permOk (sh : Shape) (raw : Nat) (identity : Bool) : Bool :=
  !tbit raw 15 && (List.range 5).all fun e =>
    if e < sh.rank then
      (if identity then sh.perm.getD e 0 == e else (sh.perm.take sh.rank).contains e)
    else sh.perm.getD e 0 == e

/-- TYPE is legal for ESIZE. -/
def typeOk (sh : Shape) : Bool :=
  match sh.type with
  | 0 => true
  | 1 => true
  | 2 => sh.esize == 4
  | 3 => sh.esize == 2
  | 4 => sh.esize == 2
  | _ => false

/-- The extents of the grid along the axes of the collective: n of 09 R202. -/
def Shape.ranksIn (sh : Shape) : Nat :=
  prodNat ((List.range 3).map fun k => if tbit sh.axes k then sh.grid.getD k 1 else 1)

/-- The fields in ascending order of offset, each with whether it meets its limits; `depth` is TREEDEPTH and `ldim`
gives LDIM of a level. -/
def fieldChecks (b : List Byte) (f : RecFor) (depth : Nat) (ldim : Nat → Nat) : List (Nat × Bool) :=
  let sh := rawShape b
  let rly := f == .rly
  let high (d : Nat) : Bool := decide (sh.rank ≤ d)
  let n := sh.ranksIn
  [(7, decide (1 ≤ sh.rank ∧ sh.rank ≤ 5) && decide (bits (recAt b 7 1) 6 2 ≤ 1)
      && !(f == .chain && sh.esize == 8) && !(rly && sh.side)),
   (8, typeOk sh && bits (recAt b 8 1) 6 2 == 0 && !(f == .chain && (decide (4 < bits (recAt b 8 1) 3 3) || (sh.side && !(sh.osize == sh.esize))))),
   (9, permOk sh (recAt b 9 2) rly),
   (11, !rly || decide (2 ≤ sh.clvl ∧ sh.clvl ≤ 12 ∧ sh.clvl ≤ depth))]
  ++ ((List.range 5).map fun d => (12 + 2 * d, !(high d && !(sh.dim.getD d 0 == 0))))
  ++ ((List.range 5).map fun d => (22 + 2 * d, !(high d && !(sh.org.getD d 0 == 0))))
  ++ ((List.range 4).map fun d => (32 + 4 * d, !(high (d + 1) && !(sh.str.getD (d + 1) 0 == 0))))
  ++ [(48, decide (sh.count * sh.esize ≤ 2 ^ 26) && !(high 0 && !(sh.box.getD 0 0 == 0)))]
  ++ ((List.range 4).map fun d => (49 + d, !(high (d + 1) && !(sh.box.getD (d + 1) 0 == 0))))
  ++ (if rly then
    [(53, recAt b 53 1 / 16 == 0 && decide (sh.rop ≤ 6) && !((sh.rop == 4 || sh.rop == 5) && decide (2 ≤ sh.type))),
     (54, !(sh.grid.getD 0 0 == 0)
        && (sh.grid.getD 1 0 == 0 || sh.grid.getD 2 0 == 0 || prodNat sh.grid == ldim sh.clvl)),
     (55, !(sh.grid.getD 1 0 == 0)),
     (56, !(sh.grid.getD 2 0 == 0)),
     (57, recAt b 57 1 / 16 == 0 && !(sh.axes == 0) && decide (n ≤ 4096) && !(sh.rop == 6 && !sh.repl)
        && !(!sh.repl && !(sh.rop == 6) && !(sh.count % n == 0))),
     (58, if sh.rop = 6 then decide (1 ≤ sh.topk ∧ sh.topk ≤ 4096 ∧ sh.topk ≤ n * sh.count) else sh.topk == 0)]
   else [])

/-- The record, or the byte offset of its first failing field (09 R194). -/
def parseShape (b : List Byte) (f : RecFor) (depth : Nat) (ldim : Nat → Nat) : Except Nat Shape :=
  match (fieldChecks b f depth ldim).find? fun e => !e.2 with
  | some e => .error e.1
  | none => .ok (rawShape b)

/-! ### Elements (09 R198) -/

/-- One box element: its dense index, its offset on the record side, whether it is in range, and its coordinates. -/
structure Elem where
  i : Nat
  off : Int
  inr : Bool
  c : List Nat
  deriving DecidableEq, Repr

/-- The digits of a dense index: pairs of record dimension and coordinate. -/
def digits (sh : Shape) : List Nat → Nat → List (Nat × Nat)
  | [], _ => []
  | d :: t, i =>
    let n := sh.box.getD d 0 + 1
    (d, i % n) :: digits sh t (i / n)

/-- The box coordinate of a dense index. -/
def Shape.coord (sh : Shape) (i : Nat) : List Nat :=
  let ds := digits sh (sh.perm.take sh.rank) i
  (List.range 5).map fun d => ((ds.find? fun e => e.1 == d).map (·.2)).getD 0

/-- The element of a dense index. -/
def Shape.elem (sh : Shape) (i : Nat) : Elem :=
  let c := sh.coord i
  let x (d : Nat) : Int := sh.org.getD d 0 + Int.ofNat (c.getD d 0)
  { i := i
    off := ((List.range sh.rank).map fun d => x d * Int.ofNat (sh.str.getD d 0)).foldl (· + ·) 0
    inr := (List.range sh.rank).all fun d => decide (0 ≤ x d) && decide (x d ≤ Int.ofNat (sh.dim.getD d 0))
    c := c }

/-- Every element of the box in ascending dense index. -/
def Shape.elems (sh : Shape) : List Elem := (List.range sh.count).map sh.elem

/-- The record-side address of an element: `base` is the value of the record side's address register. -/
def Shape.recVa (sh : Shape) (base : Nat) (e : Elem) : Nat :=
  wrapNat 64 (Int.ofNat sh.base + Int.ofNat base + e.off)

/-- The low bytes of PAD, zero-extended to an element (09 R197). -/
def Shape.padVal (sh : Shape) : Nat := sh.pad % 2 ^ (8 * sh.esize)

/-- CLIP 1 and some element out of range (09 R198). -/
def Shape.outOfBounds (sh : Shape) : Bool := sh.clip && sh.elems.any fun e => !e.inr

/-! ### Chain programs (09 R200, R201) -/

/-- The operation of an IALU word that a chain may hold. -/
def chainInt (fn : Nat) : Option (Nat → Fp → LaneIn → LaneOut) :=
  match fn with
  | 0x00 => some iaddOp
  | 0x01 => some isubOp
  | 0x02 => some imulOp
  | 0x05 => some iminOp
  | 0x06 => some iminUOp
  | 0x07 => some imaxOp
  | 0x08 => some imaxUOp
  | 0x09 => some iabsOp
  | 0x0A => some inegOp
  | 0x0B => some andOp
  | 0x0C => some orOp
  | 0x0D => some xorOp
  | 0x0E => some andnOp
  | 0x0F => some notOp
  | 0x10 => some shlOp
  | 0x11 => some shrOp
  | 0x12 => some sarOp
  | 0x13 => some rolOp
  | 0x17 => some movOp
  | _ => none

/-- The operation of an FALU word. -/
def chainFloat (fn : Nat) : Option (Nat → Fp → LaneIn → LaneOut) :=
  match fn with
  | 0x00 => some faddOp
  | 0x01 => some fsubOp
  | 0x02 => some fmulOp
  | 0x03 => some fminOp
  | 0x04 => some fmaxOp
  | 0x05 => some fabsOp
  | 0x06 => some fnegOp
  | 0x07 => some frndNeOp
  | 0x08 => some frndZOp
  | 0x09 => some frndDnOp
  | 0x0A => some frndUpOp
  | 0x0C => some fdivOp
  | _ => none

/-- The operation of an SFU word. -/
def chainSfu (fn : Nat) : Option (Nat → Fp → LaneIn → LaneOut) :=
  match fn with
  | 0x00 => some frcpOp
  | 0x01 => some frsqOp
  | 0x02 => some fsqrtOp
  | 0x03 => some fexp2Op
  | 0x04 => some flog2Op
  | 0x05 => some fsinOp
  | 0x06 => some fcosOp
  | 0x07 => some ftanhOp
  | _ => none

/-- The operation of a CVT word. -/
def chainCvt (fn : Nat) : Option (Nat → Fp → LaneIn → LaneOut) :=
  match fn with
  | 0x00 => some cvtS32F32Op
  | 0x01 => some cvtU32F32Op
  | 0x02 => some cvtF32S32Op
  | 0x03 => some cvtF32U32Op
  | 0x04 => some cvtBf16F32Op
  | 0x05 => some cvtF32Bf16Op
  | 0x06 => some cvtF16F32Op
  | 0x07 => some cvtF32F16Op
  | 0x08 => some cvtE4m3F32Op
  | 0x09 => some cvtF32E4m3Op
  | 0x0A => some cvtE5m2F32Op
  | 0x0B => some cvtF32E5m2Op
  | _ => none

/-- The operation of a CLASS and FN, when a chain may hold it. -/
def chainOp (cls fn : Nat) : Option (Nat → Fp → LaneIn → LaneOut) :=
  match cls with
  | 1 => chainInt fn
  | 2 => chainFloat fn
  | 3 => chainSfu fn
  | 4 => chainCvt fn
  | _ => none

/-- The format of a word's result, where it is a floating-point code. -/
def chainFmt (cls fn : Nat) : Option Fmt :=
  match cls, fn with
  | 2, _ => some fp32
  | 3, _ => some fp32
  | 4, 0x04 => some bf16
  | 4, 0x06 => some fp16
  | 4, 0x08 => some e4m3
  | 4, 0x0A => some e5m2
  | 4, 0x00 => none
  | 4, 0x01 => none
  | 4, _ => some fp32
  | _, _ => none

/-- One operation word meets its limits: `ended` says that a word of CLASS 0 has come before. -/
def chainWordOk (ended : Bool) (w : Nat) : Bool :=
  if ended then w == 0
  else bits w 9 23 == 0 && (bits w 0 3 == 0 || (chainOp (bits w 0 3) (bits w 3 5)).isSome)

/-- The number of the first word of a program that fails. -/
def chainFail : Bool → Nat → List Nat → Option Nat
  | _, _, [] => none
  | ended, k, w :: t =>
    if chainWordOk ended w then chainFail (ended || bits w 0 3 == 0) (k + 1) t else some k

/-- The words before the first of CLASS 0. -/
def chainWords (ws : List Nat) : List Nat := ws.takeWhile fun w => !(bits w 0 3 == 0)

/-- A NaN result is the canonical NaN (09 R201). -/
def canonOf (f : Option Fmt) (v : Nat) : Nat :=
  match f with
  | some f => if (decodeF f v).isNan then nanCode f false else v
  | none => v

/-- A unary operation, which ignores the constant (09 R200). -/
def chainUnary (cls fn : Nat) : Bool :=
  match cls with
  | 1 => [0x09, 0x0A, 0x0F, 0x17].contains fn
  | 2 => decide (5 ≤ fn ∧ fn ≤ 10)
  | _ => true

/-- Op(w, x) of 15 R323: the word's operation on x and its constant, with RNE, subnormals kept and no flag. -/
def chainStep (x w : Nat) : Nat :=
  let cls := bits w 0 3
  let fn := bits w 3 5
  match chainOp cls fn with
  | none => x
  | some op =>
    let c := bits w 32 32
    let swap := tbit w 8 && !chainUnary cls fn
    let a := if swap then c else x
    let b := if swap then x else c
    canonOf (chainFmt cls fn) ((op 32 ⟨.rne, false, false⟩ ⟨a, b, 0, false⟩).v % 2 ^ 32)

/-- The final value of an element (09 R201): loaded zero- or sign-extended, run through the program. -/
def chainRun (sh : Shape) (ws : List Nat) (v : Nat) : Nat :=
  let x := if sh.type = 1 then wrapNat 32 (sextNat (8 * sh.esize) v) else v
  (chainWords ws).foldl chainStep x

/-! ### The grid of a collective (09 R202) -/

/-- The coordinate of rank q on an axis. -/
def rankCoord (sh : Shape) (q k : Nat) : Nat :=
  let gx := sh.grid.getD 0 1
  let gy := sh.grid.getD 1 1
  match k with
  | 0 => q % gx
  | 1 => q / gx % gy
  | _ => q / (gx * gy)

/-- Two ranks share their coordinates on every axis outside AXES. -/
def sameGroup (sh : Shape) (q r : Nat) : Bool :=
  (List.range 3).all fun k => tbit sh.axes k || rankCoord sh q k == rankCoord sh r k

/-- The ranks of the group of rank q, by position: ascending rank is ascending position, x fastest. -/
def groupRanks (sh : Shape) (q : Nat) : List Nat := (List.range (prodNat sh.grid)).filter (sameGroup sh q)

/-- The fields in which the records of a collective must agree (09 R203). -/
def agrees (a b : Shape) : Bool :=
  a.esize == b.esize && a.type == b.type && a.rank == b.rank && a.box == b.box && a.clvl == b.clvl && a.rop == b.rop
    && a.grid == b.grid && a.axes == b.axes && a.repl == b.repl && a.topk == b.topk

end Sys2Proof.Machine
end

