-- ==== Sys2Proof/Machine/Engine.lean ====
section
/-! DEFINITION. The copy and chain engines: CPY, CHAIN, TDRAIN, TDRAIN.ADD, CPYWAIT and RLYWAIT (09 R193 to R201; 08
R174; 15 R323, R328, R329; 17 R394; 18 R410, R411), ownership (07 R155 to R157), and the engine counters and arms (09
R210 to R212, R439). -/

namespace Sys2Proof.Machine

/-! ### Pieces of a range -/

/-- A range cut at line boundaries; a piece lies in one page. -/
def pieces (va n : Nat) : List (Nat × Nat) :=
  (linesOf va n).map fun k =>
    let lo := max va (k * 128)
    (lo, min (va + n) ((k + 1) * 128) - lo)

/-- The first piece of some ranges that the checks refuse, with its address. -/
def firstBad (s : State) (w : Who) (acc : Acc) (rs : List (Nat × Nat)) : Option (Hit × Nat) :=
  ((rs.flatMap fun r => pieces r.1 r.2).find? fun p => match resolve s w acc p.1 p.2 with
    | .ok _ _ => false
    | _ => true).map fun p => (resolve s w acc p.1 p.2, p.1)

/-- The places of the pieces of some ranges, up to the first that the checks refuse. -/
def placesOf (s : State) (w : Who) (acc : Acc) (rs : List (Nat × Nat)) : List (Loc × Nat) :=
  ((rs.flatMap fun r => pieces r.1 r.2).map fun p => match resolve s w acc p.1 p.2 with
    | .ok l _ => some (l, p.2)
    | _ => none).takeWhile Option.isSome |>.filterMap id

/-- What an engine reads at a place (07 R157): the home's bytes, for a transfer issued in an open transaction under the
versions of its work item (08 R177). -/
def engRead (s : State) (w : Who) (tx : Bool) (l : Loc) (n : Nat) : List Byte :=
  match l with
  | .hbm pa => if tx then verView w.it (fun a => (readHbm s.mem a 1).getD 0 0) pa n else readHbm s.mem pa n
  | .scr _ _ => if tx then readLoc s { w with g := Group.fresh } ⟨false, false, false⟩ l n else readNow s l n
  | _ => readNow s l n

/-- `n` bytes from an address, as an engine reads them. -/
def engBytes (s : State) (w : Who) (tx : Bool) (va n : Nat) : List Byte :=
  (pieces va n).flatMap fun p => match resolve s w .engRead p.1 p.2 with
    | .ok l _ => engRead s w tx l p.2
    | _ => List.replicate p.2 0

/-- Puts bytes at an address by a function that puts them at a place. -/
def putBytes (w : Who) (put : State → Loc → List Byte → State) (s : State) (va : Nat) (bs : List Byte) : State :=
  (pieces va bs.length).foldl (fun s p => match resolve s w .engWrite p.1 p.2 with
    | .ok l _ => put s l ((bs.drop (p.1 - va)).take p.2)
    | _ => s) s

/-- The issuing core's L1 lines of a place go (07 R157). -/
def dropLoc (s : State) (core : Nat) (l : Loc) : State :=
  match l with
  | .hbm pa => dropL1 s core [pa / 128]
  | _ => s

/-- The front end's read buffers lack a write at a place (07 R150). -/
def staleLoc (s : State) (gid : Nat) (l : Loc) : State :=
  match l with
  | .hbm pa => staleFront s gid [pa / 128]
  | _ => s

/-- An engine write (07 R148): of a transaction it is performed as issued (08 R177), and a conflict over the line ends one
of the two attempts (R178). -/
def engPut (w : Who) (tx : Bool) (s : State) (l : Loc) (bs : List Byte) : State :=
  let put (s : State) : State := writeNow (staleLoc (dropLoc s w.core l) w.gid l) w.die l bs
  match l with
  | .hbm pa =>
    put (if tx && w.it.txOpen then (txClaim s w.item (pa / 128)).2 else s)
  | _ => put s

/-! ### Transfers -/

/-- Where a transfer issued. -/
def xferWho (s : State) (x : Xfer) : Who :=
  let l := launchOf s x.launch
  let g := (grp s x.gid).getD Group.fresh
  { gid := x.gid, core := x.core, die := coreDie s.part.dies x.core, asid := x.asid, item := x.item,
    own := corePos l.img g.gidx, g := g, it := (kfind s.run.items x.item).getD Item.fresh, l := l }

/-- The element reads of a copy or a chain (15 R323, R328): an address, or none for a padded element. -/
def readVas (x : Xfer) : List (Option Nat) :=
  x.shape.elems.map fun e =>
    if x.shape.side then some ((x.src + x.shape.esize * e.i) % 2 ^ 64)
    else if e.inr then some (x.shape.recVa x.src e) else none

/-- The address that each element is written to, or none for one outside the tensor, in ascending dense index. -/
def writeAts (x : Xfer) : List (Option Nat) :=
  x.shape.elems.map fun e =>
    if x.shape.side then if e.inr then some (x.shape.recVa x.dst e) else none
    else some ((x.dst + x.shape.osize * e.i) % 2 ^ 64)

/-- The element writes: dense index and address, in ascending dense index. -/
def writeVas (x : Xfer) : List (Nat × Nat) :=
  x.shape.elems.filterMap fun e =>
    if x.shape.side then if e.inr then some (e.i, x.shape.recVa x.dst e) else none
    else some (e.i, (x.dst + x.shape.osize * e.i) % 2 ^ 64)

/-- The ranges that a transfer reads. -/
def readRanges (x : Xfer) : List (Nat × Nat) :=
  match x.kind with
  | .drain => []
  | .drainAdd => []
  | _ => (readVas x).filterMap fun v => v.map fun a => (a, x.shape.esize)

/-- The ranges that a transfer writes. -/
def writeRanges (x : Xfer) : List (Nat × Nat) := (writeVas x).map fun e => (e.2, x.shape.osize)

/-- Replaces a transfer in flight. -/
def setXfer (s : State) (x : Xfer) : State :=
  { s with run := { s.run with xfers := s.run.xfers.map fun y => if y.id = x.id then x else y } }

/-- A transfer joins its tag (09 R195): a done tag is reset to OK. -/
def joinTag (s : State) (gid tag : Nat) : State :=
  modGrp s gid fun g =>
    let t := kget ⟨0, 0⟩ g.tags tag
    { g with tags := kput ⟨0, 0⟩ g.tags tag (if t.left = 0 then ⟨1, 0⟩ else ⟨t.left + 1, t.status⟩) }

/-- A transfer leaves its tag: the tag keeps the highest status. -/
def leaveTag (s : State) (gid tag status : Nat) : State :=
  modGrp s gid fun g =>
    let t := kget ⟨0, 0⟩ g.tags tag
    { g with tags := kput ⟨0, 0⟩ g.tags tag ⟨t.left - 1, max t.status status⟩ }

/-! ### Counters and arms (09 R210 to R212, R439) -/

/-- The outcome of firing an arm: fired, waiting on a fault record, or waiting for a line or a record. -/
inductive Fired where
  | fired (s : State)
  | parked (s : State)
  | later
  deriving DecidableEq, Repr

/-- Fires one arm (09 R211, R439). An arm whose address lies in a poisoned region has fired, with nothing written or
woken and no ARMFAIL: the spec does not say (assumption 55). -/
def fireArm (s : State) (lid : Nat) (d : ArmDue) : Fired :=
  let l := launchOf s lid
  let a := l.arms.getD d.idx ⟨0, 0, 0, 0, 0⟩
  if a.kind = 0 then .fired (countdownNode s (a.arg % 2 ^ 18) false)
  else
    let acc : Acc := if a.kind = 1 then .engWrite else .engRead
    match translate s d.die l.asid a.arg acc with
    | .error (k, _) =>
      if k = walkBusy ∨ poolFull s d.die l.asid a.arg (a.kind == 1) then .later
      else
        .parked (openFault s d.die l.asid a.arg (if a.kind = 1 then 5 else 4) k false 0xFFFF (.arm lid d.idx d.die))
    | .ok t =>
      let pa := t.base + (a.arg - t.va)
      let s := noteTlb s d.die l.asid a.arg acc
      if t.host then
        .fired (if a.kind = 1 then writeNow s d.die (.host pa) (bytesLe 4 d.value) else s)
      else if poisoned s.mem pa then .fired s
      else if a.kind = 1 then
        if ownedLoc s (.hbm pa) 4 then .later else .fired (writeNow (dropFront s [pa / 128]) d.die (.hbm pa) (bytesLe 4 d.value))
      else .fired (wakeLine s (.hbm (pa / 128)))

/-- Two arms wait in one line: the same counter on the same die. -/
def sameLine (l : Launch) (d e : ArmDue) : Bool :=
  d.die == e.die && (l.arms.getD d.idx ⟨0, 0, 0, 0, 0⟩).counter == (l.arms.getD e.idx ⟨0, 0, 0, 0, 0⟩).counter

/-- Fires the arms of a line in order, until one waits. -/
def fireArms : Nat → State → Nat → ArmDue → State
  | 0, s, _, _ => s
  | n + 1, s, lid, d =>
    let l := launchOf s lid
    match l.armWait.find? (sameLine l d) with
    | none => s
    | some e =>
      if e.parked then s
      else match fireArm s lid e with
        | .later => s
        | .parked s => modLaunch s lid fun l =>
          { l with armWait := l.armWait.map fun x => if x = e then { e with parked := true } else x }
        | .fired s => fireArms n (modLaunch s lid fun l => { l with armWait := l.armWait.erase e }) lid d

/-- Every arm of a launch that can fire now fires. -/
def retryArms (s : State) (lid : Nat) : State :=
  let ds := (launchOf s lid).armWait
  ds.foldl (fun s d => fireArms (ds.length + 1) s lid d) s

/-- The arms of every launch. -/
def retryAllArms (s : State) : State := (kkeys s.run.launches).foldl retryArms s

/-- Inserts an arm by its threshold, after equal ones (09 R212). -/
def insertArm (l : Launch) (d : ArmDue) : List ArmDue → List ArmDue
  | [] => [d]
  | e :: t =>
    let th (x : ArmDue) : Nat := (l.arms.getD x.idx ⟨0, 0, 0, 0, 0⟩).thresh
    if th d < th e then d :: e :: t else e :: insertArm l d t

/-- The arms that an increment from `old` to `new` reaches, in firing order. -/
def dueArms (l : Launch) (die idx old new group : Nat) : List ArmDue :=
  ((List.range l.arms.length).filter fun i =>
    let a := l.arms.getD i ⟨0, 0, 0, 0, 0⟩
    a.counter == idx && (a.die == die || a.die == 0xFF) && decide (old < a.thresh) && decide (a.thresh ≤ new)).foldl
      (fun ds i => insertArm l ⟨i, die, new, false, group⟩ ds) []

/-- ENGINE_COUNTER_INCREMENT (95; 09 R210): the counter saturates, and the arms it reaches fire. -/
def countXfer (s : State) (lid die group : Nat) (c : Option (Nat × Nat)) : State :=
  match c with
  | none => s
  | some (idx, inc) =>
    let l := launchOf s lid
    let k := die * 4096 + idx
    let old := kget 0 l.counters k
    let new := min 0xFFFFFFFF (old + inc)
    let s := modLaunch s lid fun l =>
      { l with counters := kput 0 l.counters k new, armWait := l.armWait ++ dueArms l die idx old new group }
    retryArms s lid

/-! ### The end of a transfer -/

/-- The number in its launch of the group that issued a transfer (12 R263). -/
def xferGroup (s : State) (x : Xfer) : Nat :=
  globalGroup (launchOf s x.launch).img ((kfind s.run.items x.item).getD Item.fresh).index
    ((grp s x.gid).getD Group.fresh).gidx

/-- A transfer ends (09 R195): its tag, its counter, its lines and its requests. -/
def finishXfer (s : State) (x : Xfer) (status : Nat) : State :=
  let s := { s with run := { s.run with xfers := s.run.xfers.filter fun y => !(y.id == x.id) } }
  let s := setHost s { s.host with asks := s.host.asks.filter fun r => !(r.who == .xfer x.id) }
  let s := leaveTag s x.gid x.tag status
  let s := { s with mem := { s.mem with
    faults := s.mem.faults.map fun e => (e.1, { e.2 with agents := e.2.agents.filter fun a => !(a.1 == .xfer x.id) })
    walks := s.mem.walks.filter fun w => !(w.agent == .xfer x.id) } }
  retryAllArms (countXfer s x.launch (coreDie s.part.dies x.core) (xferGroup s x) x.count)

/-- A transfer parks on the fault record of its translation (06 R135, R136). -/
def parkXfer (s : State) (x : Xfer) (kind cause va : Nat) : State :=
  let die := coreDie s.part.dies x.core
  if poolFull s die x.asid va (writeLike kind) then s
  else openFault (setXfer s { x with parked := true }) die x.asid va kind cause false x.core (.xfer x.id)

/-- Ranges that another transfer registered before number `n` touch a place (07 R155, R156). -/
def ownedSince (s : State) (x : Xfer) (n : Nat) (p : Loc × Nat) : Bool :=
  s.run.xfers.any fun y => !(y.id == x.id) && y.owned.any fun r =>
    decide (r.2.2 < n) && decide (r.1 < locKey p.1 + p.2) && decide (locKey p.1 < r.1 + r.2.1)

/-- Under REPLAY a write of an open transaction waits for the commit of the transaction that holds its line, but not in an
attempt that the log aborts at its TXEND (12 R266); deferred addends never conflict (08 R178). -/
def writeHeld (s : State) (x : Xfer) (va n : Nat) : Bool :=
  let w := xferWho s x
  x.inTx && w.it.txOpen && !(x.kind == .drainAdd) && replaying w.l && !(doomed s x.item)
    && (placesOf s w .engWrite [(va, n)]).any fun p => match p.1 with
      | .hbm pa => (holderOf s x.item (pa / 128)).isSome
      | _ => false

/-- The number under which a transfer registered a place; one that it has not registered comes after every owner. -/
def regOf (s : State) (x : Xfer) (l : Loc) : Nat :=
  ((x.owned.find? fun r => decide (r.1 ≤ locKey l) && decide (locKey l < r.1 + r.2.1)).map (·.2.2)).getD (s.ctl.serial + 1)

/-- What stops a transfer at an element: a refused translation or place with its record's KIND, or a wait for an earlier
owner of a line (07 R155, R156) or a weight-store window (06 R122). -/
inductive Stop where
  | bad (kind : Nat) (h : Hit) (va : Nat)
  | wait
  deriving DecidableEq, Repr

/-- What stops a transfer at `n` bytes from an address. -/
def gate (s : State) (x : Xfer) (acc : Acc) (va n : Nat) : Option Stop :=
  let w := xferWho s x
  match firstBad s w acc [(va, n)] with
  | some h => if h.1 == .busy then some .wait else some (.bad (if acc = .engRead then 4 else 5) h.1 h.2)
  | none =>
    let ps := placesOf s w acc [(va, n)]
    let since (l : Loc) : Nat := if acc = .engRead then x.id else regOf s x l
    if ps.any (fun p => ownedSince s x (since p.1) p) || ps.any (fun p => inWindow s p.1)
        || (acc == .engWrite && writeHeld s x va n) then some .wait else none

/-- The bytes of an element of the source: those that the transfer itself has overwritten as they were before it (07 R157). -/
def sourceBytes (s : State) (x : Xfer) (va n : Nat) : List Byte :=
  let w := xferWho s x
  if x.old.isEmpty then engBytes s w x.inTx va n
  else (pieces va n).flatMap fun p => match resolve s w .engRead p.1 p.2 with
    | .ok l _ => verOver x.old (locKey l) (engRead s w x.inTx l p.2)
    | _ => List.replicate p.2 0

/-- The bytes at the addresses of some elements, by place, added to those that a transfer has kept already. -/
def keepOld (s : State) (x : Xfer) (vas : List Nat) : KMap Byte :=
  let w := xferWho s x
  (placesOf s w .engWrite (vas.map fun a => (a, x.shape.osize))).foldl (fun m p =>
    ((List.range p.2).zip (engRead s w x.inTx p.1 p.2)).foldl (fun m e =>
      if (kfind m (locKey p.1 + e.1)).isSome then m else kins m (locKey p.1 + e.1) e.2) m) x.old

/-- The values of the elements from a place on, up to the first that stops the transfer. -/
def readSome (s : State) (x : Xfer) : List (Option Nat) → List Nat × Option Stop
  | [] => ([], none)
  | none :: t => let r := readSome s x t; (x.shape.padVal :: r.1, r.2)
  | some a :: t =>
    match gate s x .engRead a x.shape.esize with
    | some e => ([], some e)
    | none =>
      let r := readSome s x t
      (natLe (sourceBytes s x a x.shape.esize) :: r.1, r.2)

/-- Elements written in turn by a function of address and value, up to the first that stops the transfer: how many were
done. -/
def writeSome (x : Xfer) (put : State → Nat → Nat → State) : List (Option Nat × Nat) → State → State × Nat × Option Stop
  | [], s => (s, 0, none)
  | (none, _) :: t, s => let r := writeSome x put t s; (r.1, r.2.1 + 1, r.2.2)
  | (some a, v) :: t, s =>
    match gate s x .engWrite a x.shape.osize with
    | some e => (s, 0, some e)
    | none =>
      let r := writeSome x put t (put s a v)
      (r.1, r.2.1 + 1, r.2.2)

/-- The ranges a transfer still owns once its first `n` elements have been written: a written line is released (07
R156). -/
def stillOwned (s : State) (x : Xfer) (left : List (Nat × Nat)) : List (Nat × Nat × Nat) :=
  let keys := (placesOf s (xferWho s x) .engWrite left).map fun p => locKey p.1 / 128 * 128
  x.owned.filter fun r => keys.contains r.1

/-- A transfer after it has moved `n` more elements, with its ranges still to write and what stopped it: it ends, waits,
parks on a translation fault (06 R135), or ends on poison or a host page that aborts (09 R195; 13 R280). -/
def settleXfer (s : State) (x : Xfer) (left : List (Nat × Nat)) (stop : Option Stop) : State :=
  let x := { x with owned := stillOwned s x left }
  match stop with
  | none => finishXfer s x (if x.bad.isEmpty then 0 else 3)
  | some .wait => setXfer s x
  | some (.bad kind (.xlate k _) va) => parkXfer (setXfer s x) x kind k va
  | some (.bad _ (.trap k) _) => finishXfer s x (if k = cPOISON then 3 else 2)
  | some (.bad _ _ _) => setXfer s x

/-! ### The writes of a transfer -/

/-- One element of a copy or chain written. -/
def putElem (x : Xfer) (s : State) (va v : Nat) : State :=
  let w := xferWho s x
  let r := if x.kind = .chain then chainRun x.shape (x.prog.map BitVec.toNat) v else v
  putBytes w (engPut w x.inTx) s va (bytesLe x.shape.osize r)

/-- The pages that a transfer translates through stay held. -/
def notePages (s : State) (x : Xfer) : State :=
  let die := coreDie s.part.dies x.core
  let s := (readRanges x).foldl (fun s r => noteTlb s die x.asid r.1 .engRead) s
  (writeRanges x).foldl (fun s r => noteTlb s die x.asid r.1 .engWrite) s

/-- The addresses of the elements still to write; an element read as uncorrectable is written nowhere (11 R250). -/
def atsLeft (x : Xfer) : List (Option Nat) :=
  let ats := (writeAts x).drop x.pos
  (List.range ats.length).map fun k => if x.bad.contains (x.pos + k) then none else ats.getD k none

/-- The elements of a copy or chain read, then written in ascending dense index (09 R198), from the first not yet moved to
the first that stops it; a later run goes on there (06 R137), with the bytes written over as they were, for the elements still
to read (07 R157). -/
def moveElems (s : State) (x : Xfer) : State :=
  let s := notePages s x
  let r := readSome s x ((readVas x).drop (x.pos + x.vals.length))
  let vals := x.vals ++ r.1
  let ats := atsLeft x
  let q := writeSome x (putElem x) (ats.zip vals) s
  let left := (ats.drop q.2.1).filterMap fun a => a.map fun a => (a, x.shape.osize)
  let old := if r.2.isSome then keepOld s x ((ats.take q.2.1).filterMap id) else x.old
  settleXfer q.1 { x with pos := x.pos + q.2.1, vals := vals.drop q.2.1, old := old } left (if q.2.2.isSome then q.2.2 else r.2)

/-- The tile element of a box element (18 R411). -/
def drainElem (x : Xfer) (i : Nat) : Nat :=
  let c := x.shape.coord i
  let c0 := c.getD 0 0
  let c1 := c.getD 1 0
  if c0 < 64 ∧ c1 < 64 ∧ c.getD 2 0 = 0 ∧ c.getD 3 0 = 0 ∧ c.getD 4 0 = 0 then
    (laneOf 0 x.tile (64 * c1 + c0)).toNat
  else 0

/-- The record's TYPE and ESIZE give a usable element (08 R174). -/
def drainUsable (sh : Shape) : Bool :=
  (decide (sh.type ≤ 2) && sh.esize == 4) || (sh.type == 3 && sh.esize == 2)

/-- The operation of an add-mode element: ADD, FADD, or a BF16 addend. -/
def drainOp (sh : Shape) : Nat := if sh.esize = 2 then 16 else if sh.type = 2 then 10 else 0

/-- A drain that acts inside the open transaction in which it was issued (08 R177). -/
def drainInTx (s : State) (x : Xfer) : Bool :=
  x.inTx && ((kfind s.run.items x.item).getD Item.fresh).txOpen

/-- One store-mode element. -/
def drainStore (s : State) (x : Xfer) (va v : Nat) : State :=
  let w := xferWho s x
  let bits := if x.shape.esize = 2 then (convF fp32 bf16 .rne false v).v else v
  let put : State → Loc → List Byte → State :=
    if drainInTx s x then fun s l bs => storeLoc s w false l bs else engPut w false
  putBytes w put s va (bytesLe x.shape.esize bits)

/-- The places of an element's bytes that lie in HBM, none when some byte lies elsewhere. -/
def hbmPlaces (ps : List (Loc × Nat)) : Option (List Nat) :=
  ps.foldr (fun p r => match p.1, r with
    | .hbm pa, some as => some ((List.range p.2).map (pa + ·) ++ as)
    | _, _ => none) (some [])

/-- An add-mode element deferred to the commit (08 R177); one that lies in two pages names each of its bytes. -/
def deferAdd (op n v : Nat) (ps : List (Loc × Nat)) (pas : List Nat) : VerWrite :=
  let d : Deferred := ⟨op, n, pas.headD 0, v, 0⟩
  if ps.length ≤ 1 ∨ pas = (List.range n).map (pas.headD 0 + ·) then .op d else .opAt d pas

/-- One add-mode element (08 R174), in pieces where it crosses a line: added at its home, or deferred to the commit (08
R177). -/
def drainAddAt (s : State) (x : Xfer) (va v : Nat) : State :=
  let w := xferWho s x
  let n := x.shape.esize
  let op := drainOp x.shape
  let ps := placesOf s w .engWrite [(va, n)]
  match (if drainInTx s x then hbmPlaces ps else none) with
  | some pas => modItem s x.item fun i => { i with vers := i.vers ++ [deferAdd op n v ps pas] }
  | none =>
    let old := natLe (ps.flatMap fun p => engRead s w (drainInTx s x) p.1 p.2)
    let put (s : State) (l : Loc) (bs : List Byte) : State := match l with
      | .hbm _ => engPut { w with die := 255 } (drainInTx s x) s l bs
      | .scr _ _ => if drainInTx s x then storeLoc s w false l bs else engPut w false s l bs
      | _ => engPut w false s l bs
    putBytes w put s va (bytesLe n (addendVal op n old v 0))

/-- Whether the arrivals of an add-mode drain at a place are logged (12 R263): FP32 and BF16 elements that are not
deferred to a commit. -/
def drainLogged (s : State) (x : Xfer) (va : Nat) : Bool :=
  !(drainOp x.shape == 0) && !(drainInTx s x && match resolve s (xferWho s x) .engWrite va 1 with
    | .ok (.hbm _) _ => true
    | _ => false)

/-- The log entry of one line of an add-mode drain, with its stream rule. -/
def drainEntry (s : State) (x : Xfer) (va : Nat) : Bool × LogEntry :=
  let w := xferWho s x
  ((match window va with
    | .global => false
    | _ => true), atomicEntry (va / 128 * 128) w.it.index w.g.gidx 0 w.g.arrivals true)

/-- The lines of an add-mode drain: the state, the lines done, and what stopped it. Under REPLAY a line waits for its turn
(12 R266). -/
def drainLines (x : Xfer) (es : List (Nat × Nat)) : List Nat → State → State × Nat × Option Stop
  | [], s => (s, 0, none)
  | k :: t, s =>
    let mine := es.filter fun e => e.2 / 128 == k
    let stop := mine.findSome? fun e => gate s x .engWrite e.2 x.shape.esize
    let held := drainLogged s x (k * 128)
      && turnOf (launchOf s x.launch) (drainEntry s x (k * 128)).1 (drainEntry s x (k * 128)).2 == .hold
    if stop.isSome then (s, 0, stop)
    else if held then (s, 0, some .wait)
    else
      let e := drainEntry s x (k * 128)
      let s := if drainLogged s x (k * 128) then
          modGrp (choose s x.launch e.1 e.2) x.gid fun g => { g with arrivals := g.arrivals + 1 }
        else s
      let r := drainLines x es t ((mine.filter fun e => !(x.bad.contains e.1)).foldl (fun s e => drainAddAt s x e.2 (drainElem x e.1)) s)
      (r.1, r.2.1 + 1, r.2.2)

/-- A drain's elements written, element by element in store mode and line by line in add mode (08 R174). -/
def drainElems (s : State) (x : Xfer) : State :=
  let es := writeVas x
  let s := notePages s x
  if x.kind = .drain then
    let todo := es.drop x.pos
    let q := writeSome x (drainStore · x) (todo.map fun e => (some e.2, drainElem x e.1)) s
    settleXfer q.1 { x with pos := x.pos + q.2.1 } ((todo.drop q.2.1).map fun e => (e.2, x.shape.osize)) q.2.2
  else
    let ks := (es.map fun e => e.2 / 128).eraseDups
    let q := drainLines x es (ks.drop x.pos) s
    let left := es.filter fun e => (ks.drop (x.pos + q.2.1)).contains (e.2 / 128)
    settleXfer q.1 { x with pos := x.pos + q.2.1 } (left.map fun e => (e.2, x.shape.osize)) q.2.2

/-- The ranges that a copy, a chain or a drain has still to write. -/
def leftRanges (x : Xfer) : List (Nat × Nat) :=
  match x.kind with
  | .drainAdd =>
    let ks := ((writeVas x).map fun e => e.2 / 128).eraseDups.drop x.pos
    (writeRanges x).filter fun r => ks.contains (r.1 / 128)
  | .rly => []
  | .rlystart => []
  | _ => ((writeAts x).drop x.pos).filterMap fun a => a.map fun a => (a, x.shape.osize)

/-- The lines of some ranges that a transfer registers under number `n` (07 R155): up to the first that faults in
translation; host memory is not owned. -/
def ownedLines (s : State) (w : Who) (n : Nat) (rs : List (Nat × Nat)) : List (Nat × Nat × Nat) :=
  ((placesOf s w .engWrite rs).filterMap fun p => match p.1 with
    | .host _ => none
    | l => some (locKey l / 128 * 128, 128, n)).eraseDups

/-- The lines of the ranges that a transfer has still to write and has not registered yet are registered (07 R155): those
from a faulting one on, when it resumes (06 R137). -/
def regLines (s : State) (x : Xfer) (left : List (Nat × Nat)) : State × Xfer :=
  let new := (ownedLines s (xferWho s x) (s.ctl.serial + 1) left).filter fun r => !(x.owned.any fun o => o.1 == r.1)
  if new.isEmpty then (s, x) else (bumpSerial s, { x with owned := x.owned ++ new })

/-- A copy, a chain or a drain goes on: not while it is parked or waits for leave, nor in the pause of a class change (02
R41). -/
def runXfer (s : State) (x : Xfer) : State :=
  if x.parked || !(x.leave == 0) || issueStopped s then s
  else
    let r := regLines s x (leftRanges x)
    match x.kind with
    | .drain => drainElems r.1 r.2
    | .drainAdd => drainElems r.1 r.2
    | _ => moveElems r.1 r.2

/-! ### Issue -/

/-- Reads the record at an address as a load of the group (09 R194): `blocks` blocks of 64 bytes. -/
def withRecord (c : Ctx) (s : State) (va blocks : Nat) (f : List Byte → State → Out) : Out :=
  let hs := probe s c.w .load 64 (List.range blocks) fun k => va + 64 * k
  match hitsPre c.s0 c 0 64 hs true with
  | some o => o
  | none =>
    let r := readLanes (noteAll s c.w .load hs) c.w (l1ModeOf c.g false false) 64 hs
    f (r.1.flatMap fun e => bytesLe 64 e.2) r.2

/-- ILLEGAL_OPERAND with a value in TRAPINFO (11 R240). -/
def operandInfo (c : Ctx) (n : Nat) : Tr := ⟨cOPERAND, BitVec.ofNat 64 n, none, c.dst⟩

/-- LDIM of the launch. -/
def ldimOf (l : Launch) (k : Nat) : Nat := ldim l.img l.pkt.lcount k

/-- The window check of a range (09 R194 step 3): it lies in one window, and a global page is translated as the transfer
runs. TRAPINFO holds the first byte of the failing range. -/
def windowTrap (c : Ctx) (s : State) (acc : Acc) (rs : List (Nat × Nat)) : Option Tr :=
  let lo := rs.foldl (fun a r => min a r.1) (2 ^ 64)
  (rs.findSome? fun r => match window r.1 with
    | .global => if inGlobal r.1 r.2 then none else some cSPACE
    | _ => match resolve s c.w acc r.1 r.2 with
      | .trap k => some k
      | _ => none).map fun k => ⟨k, BitVec.ofNat 64 lo, none, c.dst⟩

/-- The counter an HMOD of class COUNT names (16 R355): a trap, or counter and increment. -/
def countArg (c : Ctx) : Except Tr (Option (Nat × Nat)) :=
  match c.g.hints.hmod with
  | some (.count idx incs) =>
    let v := (rdS c.g incs).toNat
    if v = 0 ∨ 4096 < v then .error (operandInfo c v)
    else if c.w.l.ext.ncounter ≤ idx then .error (badOperand c.word c.dst)
    else .ok (some (idx, v))
  | _ => .ok none

/-- The s-register that INCS names. -/
def countReads (g : Group) : List (Bool × Nat) :=
  match g.hints.hmod with
  | some (.count _ incs) => [(true, incs)]
  | _ => []

/-- The core may take another transfer: 96 in flight (09 R195), none in SAFE (02 R45). -/
def hasRoom (s : State) (core : Nat) : Bool :=
  decide ((s.run.xfers.filter fun x => x.core == core).length < 96) && !inSafe s

/-- Chunks of 16 KiB, and what is left. -/
def chunksOf (bytes : Nat) : List Nat :=
  List.replicate (bytes / 16384) 16384 ++ (if bytes % 16384 = 0 then [] else [bytes % 16384])

/-- The requests for leave of a copy or chain (10 R226). -/
def xferWeights (x : Xfer) : List Nat :=
  let ws := ((readVas x).filter fun v => match v.map window with
    | some (.weight _) => true
    | _ => false).length
  let store := (chunksOf (ws * x.shape.esize)).map (2 * ·)
  match x.kind with
  | .cpy => store
  | .chain =>
    let ops := (chainWords (x.prog.map BitVec.toNat)).length
    ((chunksOf (x.shape.count * x.shape.esize)).map fun n => n / x.shape.esize * 16 * ops) ++ store
  | _ => []

/-- Asks the Pacer for one chunk, drawing on the group's reservation (10 R228). -/
def askChunk (r : State × Nat) (c : Ctx) (id weight : Nat) : State × Nat :=
  let d := drawReserve r.1 c.gid weight
  if d.1 = 0 then (d.2, r.2) else (askPacer d.2 ⟨c.w.die, .xfer id, d.1, c.w.l.pkt.prio⟩, r.2 + 1)

/-- The L1 lines of the issuing core that the destination covers go (07 R157). -/
def dropDst (s : State) (w : Who) (rs : List (Nat × Nat)) : State :=
  (placesOf s w .engWrite rs).foldl (fun s p => dropLoc s w.core p.1) s

/-- A transfer as its instruction describes it, before it has a name. -/
def mkXfer (c : Ctx) (kind : XKind) (tag : Nat) (sh : Shape) (src dst : Nat) (count : Option (Nat × Nat)) : Xfer :=
  { id := 0, kind := kind, gid := c.gid, item := c.g.item, launch := c.g.launch, core := c.w.core, asid := c.w.asid,
    tag := tag, shape := sh, src := src, dst := dst, prog := [], tile := [], count := count,
    inTx := c.w.it.txOpen, owned := [], status := 0, parked := false, coll := none, leave := 0, pos := 0, vals := [], bad := [], old := [] }

/-- A transfer issues (09 R194, R195; 07 R155, R157): the group's earlier writes are performed, the lines it writes are
owned, the tag is joined, leave is asked for. -/
def issueXfer (c : Ctx) (s : State) (x : Xfer) (writes : List (Nat × Nat)) (weights : List Nat) : State :=
  let id := s.ctl.serial + 1
  let s := drainGroup (bumpSerial s) c.gid
  let own := ownedLines s c.w id writes
  let s := dropAhead s c.gid
  let s := joinTag (dropDst s c.w writes) c.gid x.tag
  let r := weights.foldl (fun r w => askChunk r c id w) (s, 0)
  { r.1 with run := { r.1.run with xfers := r.1.run.xfers ++ [{ x with id := id, owned := own, leave := r.2 }] } }

/-- A transfer that completes at once with a status. -/
def atOnce (c : Ctx) (s : State) (x : Xfer) (status : Nat) : State :=
  finishXfer (joinTag s c.gid x.tag) x status

/-- The registration of a destination meets a line of its tables that an engine transfer owns, and waits for it (07 R155,
R156). -/
def regBusy (s : State) (w : Who) (rs : List (Nat × Nat)) : Bool := (firstBad s w .engWrite rs).any fun h => h.1 == .busy

/-- The checks of 09 R194 step 3 and what follows them: the destination, the source, the counter, room, the registration
of the destination. -/
def startChecks (c : Ctx) (s : State) (dst src : List (Nat × Nat)) (f : Option (Nat × Nat) → Out) : Out :=
  match windowTrap c s .engWrite dst with
  | some t => .trap t
  | none =>
    match windowTrap c s .engRead src with
    | some t => .trap t
    | none =>
      match countArg c with
      | .error t => .trap t
      | .ok n =>
        if !hasRoom s c.w.core then .wait .other
        else if regBusy s c.w dst then .wait .memory
        else f n

/-- The issue of a copy or a chain whose record has been read (15 R323, R328). -/
def startCopy (f : CF) (c : Ctx) (s : State) (kind : XKind) (sh : Shape) (prog : List W64) : Out :=
  let base := mkXfer c kind f.tag.toNat sh (rdS c.g f.srca.toNat).toNat (rdS c.g f.dsta.toNat).toNat none
  let x := { base with prog := prog }
  startChecks c s (writeRanges x) (readRanges x) fun n =>
    let x := { x with count := n }
    if sh.outOfBounds then .done (atOnce c s x 1)
    else .done (issueXfer c s x (writeRanges x) (xferWeights x))

/-- The registers of an engine instruction. -/
def cfRegs (f : CF) (g : Group) : Regs :=
  ⟨[(true, f.recr.toNat), (true, f.srca.toNat), (true, f.dsta.toNat)] ++ countReads g, [], []⟩

/-- The meaning of an engine instruction of format C. -/
def cfMeaning (i : Instr) (f : CF) (body : Ctx → State → Out) : Meaning :=
  { i := i, pol := .once, regs := cfRegs f, dst := fun _ => dstNone, pre := fun _ => none, body := body }

/-- The effect of CPY (15 R328): OSIZE is ignored. -/
def cpyRun (f : CF) (c : Ctx) (s : State) : Out :=
  withRecord c s (rdS c.g f.recr.toNat).toNat 1 fun b s =>
    match parseShape b .copy (depth c.w.l.img) (ldimOf c.w.l) with
    | .error n => .trap (operandInfo c n)
    | .ok sh => startCopy f c s .cpy { sh with osize := sh.esize } []

/-- CPY (15 R328). -/
def execCpy (f : CF) (s : State) : Host.Outcome State Fault Refusal := issue (cfMeaning (.cpy f) f (cpyRun f)) s

/-- The effect of CHAIN (15 R323): the program's words at offsets 64 to 127. -/
def chainRunAt (f : CF) (c : Ctx) (s : State) : Out :=
  withRecord c s (rdS c.g f.recr.toNat).toNat 2 fun b s =>
    match parseShape b .chain (depth c.w.l.img) (ldimOf c.w.l) with
    | .error n => .trap (operandInfo c n)
    | .ok sh =>
      let ws := (List.range 8).map fun k => recAt b (64 + 8 * k) 8
      match chainFail false 0 ws with
        | some k => .trap (operandInfo c (64 + 8 * k))
        | none => startCopy f c s .chain sh (ws.map fun w => BitVec.ofNat 64 w)

/-- CHAIN (15 R323). -/
def execChain (f : CF) (s : State) : Host.Outcome State Fault Refusal := issue (cfMeaning (.chain f) f (chainRunAt f)) s

/-! ### TDRAIN -/

/-- The issue of a drain whose checks have passed: the tile is read once it is free (08 R172), and the group goes on. -/
def startDrain (f : TD) (kind : XKind) (c : Ctx) (s : State) (sh : Shape) (n : Option (Nat × Nat)) : Out :=
  withTile c s f.acc.toNat fun s =>
    let x := mkXfer c kind f.tag.toNat sh 0 (rdS c.g f.x.toNat).toNat n
    let x := { x with tile := kget [] c.g.tile f.acc.toNat }
    if sh.outOfBounds then .done (atOnce c s x 1)
    else if drainUsable sh then .done (issueXfer c s x (writeRanges x) [])
    else .done (atOnce c s x 4)

/-- The effect of TDRAIN (18 R410, R411). -/
def drainRun (f : TD) (kind : XKind) (c : Ctx) (s : State) : Out :=
  withRecord c s (rdS c.g f.y.toNat).toNat 1 fun b s =>
    match parseShape b .copy (depth c.w.l.img) (ldimOf c.w.l) with
    | .error n => .trap (operandInfo c n)
    | .ok sh =>
      if !sh.side then .trap (operandInfo c 7)
      else
        let sh := { sh with osize := sh.esize }
        let x := mkXfer c kind 0 sh 0 (rdS c.g f.x.toNat).toNat none
        startChecks c s (writeRanges x) [] fun n => startDrain f kind c s sh n

/-- The meaning of a drain. -/
def drainMeaning (i : Instr) (f : TD) (kind : XKind) : Meaning :=
  { i := i
    pol := .once
    regs := fun g => ⟨[(true, f.x.toNat), (true, f.y.toNat)] ++ countReads g, [], []⟩
    dst := fun _ => dstNone
    pre := fun c => firstTrap [tileTrap c f.acc.toNat]
    body := drainRun f kind }

/-- TDRAIN (18 R410). -/
def execTdrain (f : TD) (s : State) : Host.Outcome State Fault Refusal :=
  issue (drainMeaning (.tdrain f) f .drain) s

/-- TDRAIN.ADD (18 R410; 08 R174). -/
def execTdrainAdd (f : TD) (s : State) : Host.Outcome State Fault Refusal :=
  issue (drainMeaning (.tdrainAdd f) f .drainAdd) s

/-! ### CPYWAIT and RLYWAIT (09 R196) -/

/-- Every tag of a mask is done. -/
def tagsDone (g : Group) (mask : Nat) : Bool :=
  (List.range 16).all fun t => !tbit mask t || (kget ⟨0, 0⟩ g.tags t).left == 0

/-- The status word of RLYWAIT. -/
def tagStatus (g : Group) (mask : Nat) : Nat :=
  let bad := (List.range 16).filter fun t => tbit mask t && !((kget ⟨0, 0⟩ g.tags t).status == 0)
  match bad with
  | [] => 0
  | t :: _ => (bad.map (2 ^ ·)).sum + 65536 * (kget ⟨0, 0⟩ g.tags t).status

/-- CPYWAIT (15 R329). -/
def execCpywait (f : WTM) (s : State) : Host.Outcome State Fault Refusal :=
  issue
    { i := .cpywait f
      pol := .once
      regs := fun _ => noRegs
      dst := fun _ => dstNone
      pre := fun c => if tagsDone c.g f.mask.toNat then none else some (.wait .tag)
      body := fun c s => .done (dropAhead s c.gid) } s

/-- RLYWAIT (17 R394). -/
def execRlywait (f : WTD) (s : State) : Host.Outcome State Fault Refusal :=
  issue
    { i := .rlywait f
      pol := .once
      regs := fun _ => ⟨[], [], [(true, f.d.toNat)]⟩
      dst := fun _ => dstS f.d.toNat
      pre := fun c => if tagsDone c.g f.mask.toNat then none else some (.wait .tag)
      body := fun c s => .done (modGrp (dropAhead s c.gid) c.gid fun g =>
        wrS g f.d.toNat (BitVec.ofNat 64 (tagStatus c.g f.mask.toNat))) } s

end Sys2Proof.Machine
end

