-- ==== Sys2Proof/Machine/Lifecycle.lean ====
section
/-! DEFINITION. How groups and work items start, end, restart and are killed (03 R65; 04 R79; 08 R185; 10 R231;
11 R242, R250, R251; 15 R333). -/

namespace Sys2Proof.Machine

/-! ### Starting a group -/

/-- A group's number in its launch (12 R263). -/
def groupNumber (l : Launch) (it : Item) (gidx : Nat) : Nat := globalGroup l.img it.index gidx

/-- A group as it starts (04 R79, R93): the entry point, the present lanes, s60, everything else unwritten. -/
def startGroup (l : Launch) (lid item gidx : Nat) : Group :=
  let m := presentLanes l.img
  { Group.fresh with
    launch := lid
    item := item
    gidx := gidx
    pc := l.img.entry
    active := m
    absent := ~~~m
    ref := m
    s := if l.pkt.args = 0 then [] else [(60, l.pkt.args)]
    abandoned := l.halted }

/-! ### The end of a group -/

/-- Every group of an instance has arrived or has gone (15 R315). -/
def allArrived (l : Launch) (lvl inst : Nat) (arrived : List Nat) : Bool :=
  let n := groupsAt l.img lvl
  (List.range n).all fun k => arrived.contains (inst * n + k) || l.gone.contains (inst * n + k)

/-- A barrier whose participants have all arrived: its phase completes and the next opens (15 R315). -/
def settleBarrier (l : Launch) (b : Barrier) : Barrier :=
  if !b.arrived.isEmpty && allArrived l b.level b.inst b.arrived then { b with phase := b.phase + 1, arrived := [] }
  else b

/-- Leaves every barrier and heat of the launch as arrived, which completes the phases that waited for it alone (15 R315,
10 R224). -/
def markGone (s : State) (g : Group) : State :=
  modLaunch s g.launch fun l =>
    let n := groupNumber l ((kfind s.run.items g.item).getD Item.fresh) g.gidx
    let l := if l.gone.contains n then l else { l with gone := l.gone ++ [n] }
    { l with barriers := l.barriers.map (settleBarrier l) }

/-- The group has no lane left (03 R65; 15 R333): it keeps its slot until GROUP_END. -/
def groupEnds (s : State) (gid : Nat) : State :=
  match grp s gid with
  | none => s
  | some g =>
    markGone (modGrp (closeBatch (loseSwaps s g) gid) gid fun g =>
      { g with stat := .ended, wait := none, hints := Hints.none, replay := none, split := none, active := 0 }) g

/-- The stack pops of an EXIT that emptied the active mask (03 R65); a TRAP entry is popped as TRET.NEXT pops it and
the exited lanes leave its mask (11 R242). Answers none when the group ends. -/
def exitUnwind (g : Group) : List Entry → Option Group
  | [] => none
  | .div pc m :: t => if m = 0 then exitUnwind g t else some { g with stack := t, active := m, pc := pc }
  | .pend pc m :: t => if m = 0 then exitUnwind g t else some { g with stack := t, active := m, pc := pc }
  | .trap e :: t =>
    let g1 := popTrap g e t e.next
    if !(g1.active == 0) || otherRuns g1 then some g1 else exitUnwind g1 t

/-- The group once the lanes of a mask have left it (03 R65): in split mode another subgroup goes on. -/
def exitLanes (g : Group) (x : Mask) : Option Group :=
  let g1 := { g with
    exited := g.exited ||| x
    stack := g.stack.map (dropLanes x)
    active := g.active &&& ~~~x }
  if !(g1.active == 0) || otherRuns g1 then some g1
  else exitUnwind g1 g1.stack

/-- What holds back the end of a group (15 R333): its batches, its loads and atomics, its transfers, and the open
transaction of its work item. -/
def mayEnd (s : State) (gid : Nat) (g : Group) : Bool :=
  let it := (kfind s.run.items g.item).getD Item.fresh
  g.stat == .ended && g.opens.isEmpty && g.batches.isEmpty && g.hostAtom.isNone && !it.txOpen && it.abort.isNone
    && !(s.run.flights.any fun f => f.gid == gid) && !(s.run.xfers.any fun x => x.gid == gid)

/-- Removes a group from the agents of every fault record (10 R231); the records stay pending. -/
def leaveRecords (s : State) (a : Agent) : State :=
  setMem s { s.mem with
    faults := s.mem.faults.map fun e => (e.1, { e.2 with agents := e.2.agents.filter fun x => !(x.1 == a) })
    walks := s.mem.walks.filter fun w => !(w.agent == a) }

/-- Removes a group's requests for leave. -/
def leaveAsks (s : State) (gid : Nat) : State :=
  setHost s { s.host with asks := s.host.asks.filter fun r => match r.who with
    | .batch g _ => !(g == gid)
    | .reserve g => !(g == gid)
    | .xfer _ => true }

/-- A logged choice of a work item, by its index: an atomic, a placement, a pre-emption, a pop, a commit, a prediction, a
conflict or a push (12 R263). -/
def entryOf (idx : Nat) (e : LogEntry) : Bool :=
  (match e.kind with
    | 1 => e.value % 2 ^ 32
    | 3 => e.value % 2 ^ 32
    | 4 => e.value % 2 ^ 32
    | 5 => e.value / 2 ^ 32
    | 6 => e.value % 2 ^ 32
    | 7 => e.value % 2 ^ 32
    | 8 => e.value % 2 ^ 32
    | 9 => e.key % 2 ^ 32
    | _ => 2 ^ 32) == idx

/-- The work items of the level-`k` instance `inst` that this package runs. -/
def itemsOf (p : Part) (im : Image) (k inst : Nat) : List Nat :=
  let n := groupsAt im k
  let first := inst * n / groupsPerItem im
  ((List.range ((inst * n + n - 1) / groupsPerItem im - first + 1)).map (first + ·)).filter (ownItem p im)

/-- The work items that can make a logged arrival at a chunk counter (KIND 2): those of its rank, where the open collective
that it names is one group of all ranks of its instance, and otherwise every item of an instance that it may name: the
entry gives neither the level nor which group of ranks (12 R263; assumption 63). -/
def relayItems (s : State) (lid : Nat) (l : Launch) (e : LogEntry) : List Nat :=
  let inst := e.value % 2 ^ 32
  let named (k : Coll) : Bool := k.launch == lid && k.inst % 2 ^ 32 == inst
    && k.ord % 2 ^ 32 == e.key / 2 ^ 20 % 2 ^ 32 && k.persistent.isSome == e.key.testBit 52
  match s.run.colls.find? fun k => named k && k.ranks.length == ldim l.img l.pkt.lcount k.level with
  | some k =>
    itemsOf s.part l.img (k.level - 1) (inst * k.ranks.length + k.ranks.getD (e.value / 2 ^ 32 % 4096) 0)
  | none => ((List.range (depth l.img + 1)).drop 2).flatMap fun k => itemsOf s.part l.img k inst

/-- A logged arrival at a chunk counter that no work item is left to make. -/
def relayLost (s : State) (lid : Nat) (l : Launch) (e : LogEntry) : Bool :=
  e.kind == 2 && (let is := relayItems s lid l e; !is.isEmpty && is.all l.endedItems.contains)

/-- A work item has ended. REPLAY gives up where the log still holds a choice that this leaves unmet (12 R268). -/
def endItem (s : State) (lid idx : Nat) : State :=
  modLaunch s lid fun l =>
    let l := { l with endedItems := l.endedItems ++ [idx] }
    if replaying l && l.replayLog.any (fun e => entryOf idx e || relayLost s lid l e) then { l with diverged := true } else l

/-- The last group of a work item has gone: the item has ended. -/
def closeItem (s : State) (it : Nat) : State :=
  match kfind s.run.items it with
  | none => s
  | some i =>
    if i.gids.isEmpty && i.saved.isNone then
      let s := endItem s i.launch i.index
      { s with run := { s.run with items := kdel s.run.items it } }
    else s

/-- A group's reads of WORK that are on their way go (10 R223). -/
def leaveWork (s : State) (gid : Nat) : State :=
  { s with run := { s.run with launches := s.run.launches.map fun e =>
    (e.1, { e.2 with workQ := e.2.workQ.filter fun r => !(r.gid == gid) }) } }

/-- Frees the slot of a group that has ended: its writes performed, its reservation returned, its registration
removed (15 R333; 17 R378). -/
def freeGroup (s : State) (gid : Nat) (g : Group) : State :=
  let s := leaveAsks (dropMon (returnReserve (drainGroup s gid) gid) gid) gid
  let s := leaveRecords (delGrp s gid) (.group gid)
  closeItem (modItem s g.item fun i => { i with gids := i.gids.filter fun k => !(k == gid) }) g.item

/-- GROUP_END (95; 15 R333). -/
def execGroupEnd (gid : Nat) (s : State) : Host.Outcome State Fault Refusal :=
  .next (match grp s gid with
    | some g => if mayEnd s gid g then freeGroup s gid g else s
    | none => s)

/-! ### Killing -/

/-- A halted group's number reaches every other group of the launch, resident, saved or still to start (11 R251). -/
def tellHalted (s : State) (lid n : Nat) : State :=
  let s := modLaunch s lid fun l => { l with halted := l.halted ++ [n] }
  { s with run := { s.run with
    groups := s.run.groups.map fun e =>
      (e.1, if e.2.launch = lid then { e.2 with abandoned := e.2.abandoned ++ [n] } else e.2)
    items := s.run.items.map fun e =>
      (e.1, if e.2.launch = lid then
        { e.2 with saved := e.2.saved.map fun gs => gs.map fun g => { g with abandoned := g.abandoned ++ [n] } }
      else e.2) } }

/-- One group ends as under KILL_GROUP (10 R231): it stops at once; its transfers run to completion. -/
def stopGroup (s : State) (gid : Nat) : State :=
  match grp s gid with
  | none => s
  | some g =>
    let n := groupNumber (launchOf s g.launch) ((kfind s.run.items g.item).getD Item.fresh) g.gidx
    let s := leaveWork (leaveAsks (leaveRecords (dropMon (loseSwaps s g) gid) (.group gid)) gid) gid
    let s := modGrp s gid fun g =>
      { g with
        stat := .ended
        wait := none
        hints := Hints.none
        replay := none
        trapDue := none
        split := none
        active := 0
        opens := []
        batches := []
        mon := .idle }
    let s := { s with run := { s.run with flights := s.run.flights.filter fun f => !(f.gid == gid) || f.host.isSome } }
    tellHalted (markGone s g) g.launch n

/-- Both versions of a work item's transaction are discarded (08 R185). -/
def dropTx (i : Item) : Item :=
  { i with txOpen := false, verScr := [], vers := [], relLines := [], abort := none, ord := false }

/-- The open transaction of a work item aborts without a rerun (10 R231): its versions are discarded once its transfers have
run to completion (08 R185). -/
def abandonTx (i : Item) : Item :=
  match i.abort with
  | some a => { i with abort := some { a with rerun := false } }
  | none => if i.txOpen then { i with abort := some ⟨i.rung, false, false, false⟩ } else i

/-- A group is killed or halted: the launch completes with KILLED, and an open transaction of its work item ends every
group of the item. -/
def killGroup (s : State) (gid : Nat) : State :=
  match grp s gid with
  | none => s
  | some g =>
    let it := (kfind s.run.items g.item).getD Item.fresh
    let s := modLaunch s g.launch fun l => { l with killed := true }
    if it.txOpen || it.abort.isSome then it.gids.foldl stopGroup (modItem s g.item abandonTx)
    else stopGroup s gid

/-- Every group of a launch ends, and waiting items are never placed (10 R231): saved items end, and every item not
yet placed counts as gone. -/
def killLaunch (s : State) (lid : Nat) : State :=
  let gs := (s.run.groups.filter fun e => e.2.launch == lid).map (·.1)
  let s := modLaunch s lid fun l => { l with killed := true, waiting := [], nextItem := itemCount l, workQ := [] }
  let s := gs.foldl (fun s gid => match grp s gid with
    | some g => stopGroup (modItem s g.item abandonTx) gid
    | none => s) s
  let saved := s.run.items.filter fun e => e.2.launch == lid && e.2.saved.isSome && e.2.gids.isEmpty
  saved.foldl (fun s e => closeItem (modItem s e.1 fun i => { dropTx i with saved := none }) e.1) s

/-! ### Restart (08 R185) -/

/-- Withdraws the arrivals of some groups from the barriers and heats of a launch, and counts them as running again. -/
def rejoin (l : Launch) (ns : List Nat) : Launch :=
  let out (xs : List Nat) : List Nat := xs.filter fun n => !(ns.contains n)
  { l with
    gone := out l.gone
    barriers := l.barriers.map fun b => { b with arrived := out b.arrived }
    heats := l.heats.map fun h => { h with arrived := out h.arrived } }

/-- The work item as its next attempt begins. -/
def nextAttempt (i : Item) (a : Abort) : Item :=
  { dropTx i with
    trip := false
    range := false
    canc := false
    clvl := 0
    desc := 0
    checked := false
    attempt := min 255 (i.attempt + 1)
    rung := a.rung
    trapped := i.trapped || a.viaTrap
    cursor := 0
    poppedPos := 0
    queues := [] }

/-- Clears what a group leaves outside itself before it restarts. -/
def clearGroup (s : State) (gid : Nat) : State :=
  let s := leaveWork (leaveRecords (leaveAsks (dropMon (returnReserve s gid) gid) gid) (.group gid)) gid
  { s with run := { s.run with flights := s.run.flights.filter fun f => !(f.gid == gid) } }

/-- The restart of a work item on the slots it holds (08 R185, steps 2 to 5); a group's counts of the order log run on
(12 R263). FPMODE and CHECKN are 0 again, as at a group's start (assumption 41). -/
def restartItem (s : State) (it : Nat) (a : Abort) : State :=
  match kfind s.run.items it with
  | none => s
  | some i =>
    let l := launchOf s i.launch
    let ns := i.gids.map fun gid => groupNumber l i ((grp s gid).getD Group.fresh).gidx
    let s := i.gids.foldl clearGroup s
    let s := modLaunch s i.launch fun l => rejoin l ns
    let s := modItem s it fun i => nextAttempt i a
    i.gids.foldl (fun s gid => modGrp s gid fun g =>
      { startGroup l i.launch it g.gidx with points := g.points, arrivals := g.arrivals }) s

/-- Step 1 of 08 R185 is over: no engine transfer of the work item runs, and no atomic awaits its reply. -/
def abortReady (s : State) (it : Nat) (i : Item) : Bool :=
  !(s.run.xfers.any fun x => x.item == it) && !(i.gids.any fun gid => ((grp s gid).bind (·.hostAtom)).isSome)

end Sys2Proof.Machine
end

