-- ==== Sys2Proof/Machine/Relay.lean ====
section
/-! DEFINITION. The relay engine: RLY, RLYSTART, the arrival of chunks, the reduce blocks, the start of a queued instance
(09 R202 to R209; 17 R392, R393), and the completion of an engine transfer (95). A rank that another package runs (10
R219) has no part here: its chunks come with their bytes, and chunks for it go out. -/

namespace Sys2Proof.Machine

/-! ### Collectives -/

def setColl (s : State) (k : Coll) : State :=
  { s with run := { s.run with colls := s.run.colls.map fun e => if e.id = k.id then k else e } }

def collOf (s : State) (id : Nat) : Option Coll := s.run.colls.find? fun k => k.id == id

/-- The part of a rank. -/
def Coll.part (k : Coll) (rank : Nat) : Option RankPart := k.parts.find? fun p => p.rank == rank

/-- The part at a position. -/
def Coll.partAt (k : Coll) (pos : Nat) : Option RankPart := k.parts.find? fun p => p.pos == pos

def Coll.n (k : Coll) : Nat := k.ranks.length

/-- The rank at a position has started the instance (09 R209). -/
def Coll.startedAt (k : Coll) (pos : Nat) : Bool := (k.partAt pos).any fun p => p.started

/-- Every rank of the group that this package runs has joined, and started the instance (09 R203, R209). -/
def Coll.joined (k : Coll) : Bool := k.here.all k.startedAt

/-- The rank at a position has joined: of a persistent instance, its LAST has reached the baton (09 R208, R209). -/
def Coll.seatedAt (k : Coll) (pos : Nat) : Bool := (k.partAt pos).isSome

/-- Every rank of the group that this package runs has joined, so that all records are known (09 R203). -/
def Coll.seated (k : Coll) : Bool := k.here.all k.seatedAt

def Coll.setPart (k : Coll) (p : RankPart) : Coll :=
  { k with parts := k.parts.map fun q => if q.rank = p.rank then p else q }

/-- Reducing operations count chunks; without ROP chunks are written directly (09 R204). -/
def reduces (sh : Shape) : Bool := !(sh.rop == 0)

/-- Bytes that one rank contributes to one destination (09 R202). -/
def sliceBytes (sh : Shape) (n : Nat) : Nat :=
  if sh.repl then sh.count * sh.esize else sh.count / n * sh.esize

/-- Chunks of one contribution to one destination. -/
def chunkCount (sh : Shape) (n : Nat) : Nat := (chunksOf (sliceBytes sh n)).length

/-- The bytes of chunk `k` of a slice (09 R204). -/
def chunkLen (sh : Shape) (n k : Nat) : Nat := min 16384 (sliceBytes sh n - 16384 * k)

/-- The bytes of chunk `k` of the contribution of a rank to the destination at position `dst`. -/
def chunkBytes (sh : Shape) (n dst k : Nat) (data : List Byte) : List Byte :=
  let size := sliceBytes sh n
  let start := (if sh.repl then 0 else dst * size) + 16384 * k
  (data.drop start).take (chunkLen sh n k)

/-- The bytes of a rank's destination (09 R202, R205): one range, and for TOPK a second for the indices. -/
def destRanges (sh : Shape) (n dst : Nat) : List (Nat × Nat) :=
  let box := sh.count * sh.esize
  if sh.rop = 6 then [(dst, sh.topk * sh.esize), (dst + roundUp (sh.topk * sh.esize) 8, 4 * sh.topk)]
  else if sh.rop = 0 then [(dst, if sh.repl then n * box else box)]
  else [(dst, if sh.repl then box else sliceBytes sh n)]

/-- The destination whose counter a chunk counts in: one for all ranks of an all-reduce or a TOPK. -/
def counterDst (sh : Shape) (dst : Nat) : Nat := if sh.repl then 0 else dst

/-- A chunk's number within its destination: a direct chunk is numbered by its source as well. -/
def chunkIdx (sh : Shape) (n k src : Nat) : Nat := if reduces sh then k else src * chunkCount sh n + k

/-- The chunk entry of a collective. -/
def Coll.chunk (k : Coll) (dst idx : Nat) : Chunk :=
  (k.chunks.find? fun c => c.dst == dst && c.idx == idx).getD ⟨dst, idx, if reduces k.shape then k.n else 1, [], []⟩

def Coll.setChunk (k : Coll) (c : Chunk) : Coll :=
  { k with chunks := k.chunks.filter (fun e => !(e.dst == c.dst && e.idx == c.idx)) ++ [c] }

/-! ### Where chunks wait (09 R206, R209) -/

/-- A destination chunk has been written to every destination that this package holds. -/
def Coll.finished (k : Coll) (c : Chunk) : Bool :=
  let e := if k.shape.rop = 6 then k.chunk 0 0 else c
  if k.shape.repl then k.here.all e.written.contains else e.written.contains c.dst

/-- The contributions that the part keeps: held ones, and those counted in a chunk that is not yet reduced. -/
def Coll.kept (k : Coll) : List (Nat × Nat × Nat) :=
  k.spilled ++ if reduces k.shape then k.chunks.flatMap fun c =>
    if k.finished c then [] else c.arrived.map fun p => (c.dst, c.idx, p)
  else []

/-- The relay slots in use (09 R206): one for each contribution that does not lie in a spill region. -/
def slotsTaken (s : State) : Nat :=
  (s.run.colls.map fun k => (k.kept.filter fun c => !(k.region.any fun e => e.1 == c)).length).sum

/-- The blocks of 16 KiB of a launch's relay spill region that hold a chunk. -/
def regionTaken (s : State) (lid : Nat) : List Nat :=
  ((s.run.colls.filter fun k => k.launch == lid).flatMap fun k => k.region.map (·.2))
    ++ (s.run.early.filter fun e => e.1 == lid).map (·.2.1)

/-- The lowest free block of a launch's relay spill region. -/
def regionFree (s : State) (lid : Nat) : Option Nat :=
  (List.range ((regionTaken s lid).length + 1)).find? fun j =>
    decide (j < 64 * (launchOf s lid).ext.relsize) && !(regionTaken s lid).contains j

/-- The address of a block of a launch's relay spill region. -/
def regionVa (s : State) (lid j : Nat) : Nat := (launchOf s lid).ext.relspill + 16384 * j

/-- Blocks whose chunk is no longer kept are free, and its bytes go. -/
def Coll.trim (k : Coll) : Coll :=
  { k with
    region := k.region.filter fun e => k.kept.contains e.1
    far := k.far.filter fun e => k.kept.contains e.1 }

/-- The bytes of a contribution's chunk: those that came from another package, or a part of what the rank here read. -/
def Coll.bytesOf (k : Coll) (dst chunk src : Nat) : List Byte :=
  match k.far.find? fun e => e.1 == (dst, chunk, src) with
  | some e => e.2
  | none => chunkBytes k.shape k.n dst chunk (((k.partAt src).map (·.data)).getD [])

/-! ### Combining (09 R204, R205) -/

/-- The format of a floating TYPE. -/
def typeFmt (t : Nat) : Option Fmt :=
  match t with
  | 2 => some fp32
  | 3 => some bf16
  | 4 => some fp16
  | _ => none

/-- One combining step on element codes. -/
def combineElem (sh : Shape) (acc x : Nat) : Nat :=
  let n := 8 * sh.esize
  match sh.rop, typeFmt sh.type with
  | 1, some f => (addV f .rne false (decodeF f acc) (decodeF f x)).v
  | 1, none => (acc + x) % 2 ^ n
  | 2, some f => (minmaxF f true acc x).v
  | 2, none =>
    if sh.type = 1 then (if sextNat n acc < sextNat n x then x else acc) else max acc x
  | 3, some f => (minmaxF f false acc x).v
  | 3, none =>
    if sh.type = 1 then (if sextNat n x < sextNat n acc then x else acc) else min acc x
  | 4, _ => Nat.land acc x
  | 5, _ => Nat.lor acc x
  | _, _ => acc

/-- The element codes of some bytes. -/
def codesOf (es : Nat) (bs : List Byte) : List Nat :=
  (List.range (bs.length / es)).map fun j => natLe ((bs.drop (j * es)).take es)

/-- The reduction of contributions in order: acc := first, then acc := OP(acc, next). -/
def reduceBytes (sh : Shape) : List (List Byte) → List Byte
  | [] => []
  | a :: t =>
    let r := t.foldl (fun acc b => (acc.zip (codesOf sh.esize b)).map fun e => combineElem sh e.1 e.2)
      (codesOf sh.esize a)
    r.flatMap (bytesLe sh.esize)

/-- Whether an element stands before another in TOPK's order (09 R205): value descending, NaN below everything. -/
def ranksBefore (sh : Shape) (a b : Nat × Nat) : Bool :=
  let n := 8 * sh.esize
  match typeFmt sh.type with
  | some f =>
    let u := decodeF f a.1
    let v := decodeF f b.1
    if u.isNan then v.isNan && decide (a.2 < b.2)
    else if v.isNan then true
    else decide (0 < cmpV u v) || (cmpV u v == 0 && decide (a.2 < b.2))
  | none =>
    let u := if sh.type = 1 then sextNat n a.1 else Int.ofNat a.1
    let v := if sh.type = 1 then sextNat n b.1 else Int.ofNat b.1
    decide (v < u) || (u == v && decide (a.2 < b.2))

/-- Inserts an element into a list in TOPK's order. -/
def insertTop (sh : Shape) (a : Nat × Nat) : List (Nat × Nat) → List (Nat × Nat)
  | [] => [a]
  | b :: t => if ranksBefore sh a b then a :: b :: t else b :: insertTop sh a t

/-- The first K elements of the group's boxes, with their global indices; `f` gives a chunk of a source. -/
def topElems (k : Coll) (f : Nat → Nat → List Byte) : List (Nat × Nat) :=
  let es := (List.range k.n).flatMap fun p =>
    let cs := codesOf k.shape.esize ((List.range (chunkCount k.shape k.n)).flatMap fun c => f c p)
    (List.range cs.length).map fun j => (cs.getD j 0, p * k.shape.count + j)
  es.foldl (fun l e => (insertTop k.shape e l).take k.shape.topk) []

/-! ### The order log (12 R263, R266) -/

/-- The log entry of an arrival at a reducing chunk counter. -/
def relayEntry (k : Coll) (dst idx src : Nat) : LogEntry :=
  let no := if k.shape.repl then idx else dst * chunkCount k.shape k.n + idx
  ⟨2, no % 2 ^ 20 + k.ord % 2 ^ 32 * 2 ^ 20 + k.persistent.isSome.toNat * 2 ^ 52, k.inst % 2 ^ 32 + src * 2 ^ 32⟩

/-- The contributions of a full chunk in logged order under REPLAY, and the launch with their entries consumed;
DIVERGED when one has no entry. -/
def replayOrder (l : Launch) (k : Coll) (c : Chunk) : List Nat × Launch :=
  let es := c.arrived.map fun p => relayEntry k c.dst c.idx p
  if es.all fun e => l.replayLog.contains e then
    let logged := l.replayLog.filter fun e => es.contains e
    (((logged.map fun e => e.value / 2 ^ 32 % 4096).eraseDups), { l with
      replayLog := es.foldl (fun r e => r.erase e) l.replayLog })
  else (c.arrived, { l with diverged := true })

/-- An arrival at a counter: logged under RECORD; at zero under REPLAY the contributions take their logged order. -/
def countChunk (s : State) (k : Coll) (dst idx src : Nat) : State :=
  let c := k.chunk dst idx
  let c := { c with left := c.left - 1, arrived := c.arrived ++ [src] }
  let l := launchOf s k.launch
  if replaying l then
    if c.left = 0 then
      let r := replayOrder l k c
      modLaunch (setColl s (k.setChunk { c with arrived := r.1 })) k.launch fun _ => r.2
    else setColl s (k.setChunk c)
  else setColl (modLaunch s k.launch fun l => appendLog l (relayEntry k dst idx src)) (k.setChunk c)

/-! ### Reads and writes -/

/-- The transfers of a rank in a collective. -/
def partXfers (s : State) (k : Coll) (rank : Nat) : List Xfer :=
  s.run.xfers.filter fun x => x.coll == some (k.id, rank)

/-- A rank's part ends with a status: all its transfers end. -/
def failPart (s : State) (k : Coll) (rank status : Nat) : State :=
  let k := (collOf s k.id).getD k
  let s := match k.part rank with
    | some p => setColl s (k.setPart { p with done := true })
    | none => s
  (partXfers s k rank).foldl (fun s x => finishXfer s x status) s

/-- The outcome of an access of the relay engine. -/
inductive RelayAcc where
  | ok (s : State)
  | stop (s : State)
  deriving DecidableEq, Repr

/-- What stops an access of a rank's transfer: it parks on a translation fault, ends on poison, or waits. -/
def relayStop (s : State) (k : Coll) (rank : Nat) (x : Xfer) : Option Stop → RelayAcc
  | none => .ok s
  | some (.bad kind (.xlate c _) va) => .stop (parkXfer s x kind c va)
  | some (.bad _ (.trap c) _) => .stop (failPart s k rank (if c = cPOISON then 3 else 2))
  | some _ => .stop s

/-- The checks of an access of a rank's transfer. -/
def relayCheck (s : State) (k : Coll) (rank : Nat) (x : Xfer) (acc : Acc) (rs : List (Nat × Nat)) : RelayAcc :=
  if x.parked then .stop s
  else relayStop (rs.foldl (fun s r => noteTlb s (xferWho s x).die x.asid r.1 acc) s) k rank x
    (rs.findSome? fun r => gate s x acc r.1 r.2)

/-- A rank's contribution has been read. -/
def Coll.hasRead (k : Coll) (p : RankPart) : Bool := p.data.length == k.shape.count * k.shape.esize

/-- A rank's contribution is read once (09 R198, R204), as new element work (02 R41), up to the first element that stops it; a
later run goes on there (06 R135, R137). -/
def readPart (s : State) (k : Coll) (p : RankPart) (x : Xfer) : RelayAcc :=
  if k.hasRead p then .ok s
  else if x.parked || issueStopped s || !(x.leave == 0) then .stop s
  else
    let s := (readRanges x).foldl (fun s r => noteTlb s (xferWho s x).die x.asid r.1 .engRead) s
    let r := readSome s x ((readVas x).drop (p.data.length / x.shape.esize))
    relayStop (setColl s (k.setPart { p with data := p.data ++ r.1.flatMap (bytesLe x.shape.esize) })) k p.rank x r.2

/-- The transfer that carries a rank's part. -/
def partXfer (s : State) (p : RankPart) : Option Xfer := s.run.xfers.find? fun x => x.id == p.xfer

/-- How many chunks a rank's destination has. -/
def destChunks (k : Coll) : Nat :=
  if k.shape.rop = 6 then 1
  else if reduces k.shape then chunkCount k.shape k.n else k.n * chunkCount k.shape k.n

/-- The destination whose chunk entries a rank's destination uses. -/
def chunkHome (k : Coll) (pos : Nat) : Nat := if reduces k.shape then counterDst k.shape pos else pos

/-- Chunk `idx` of the destination at a position, in pieces of at most a line (09 R202, R204, R205). -/
def chunkPieces (k : Coll) (x : Xfer) (idx : Nat) : List (Nat × Nat) :=
  let per := chunkCount k.shape k.n
  if k.shape.rop = 6 then (destRanges k.shape k.n x.dst).flatMap fun r => pieces r.1 r.2
  else if reduces k.shape then pieces (x.dst + 16384 * idx) (chunkLen k.shape k.n idx)
  else pieces (x.dst + idx / per * sliceBytes k.shape k.n + 16384 * (idx % per)) (chunkLen k.shape k.n (idx % per))

/-- How many pieces of a chunk have been written to the destination at a position. -/
def Coll.wrote (k : Coll) (pos idx : Nat) : Nat := ((k.progress.find? fun e => e.1 == (pos, idx)).map (·.2)).getD 0

/-- What a rank's transfer has still to write. -/
def relayLeft (k : Coll) (x : Xfer) (pos : Nat) : List (Nat × Nat) :=
  (List.range (destChunks k)).flatMap fun idx =>
    if (k.chunk (chunkHome k pos) idx).written.contains pos then [] else (chunkPieces k x idx).drop (k.wrote pos idx)

/-- The ranges that a transfer has still to write; one that joined a running instance writes nothing itself (09 R208). -/
def leftOf (s : State) (x : Xfer) : List (Nat × Nat) :=
  match x.coll with
  | none => leftRanges x
  | some (id, rank) => match (collOf s id).bind fun k => (k.part rank).map fun p => (k, p) with
    | some (k, p) => if p.xfer = x.id then relayLeft k x p.pos else []
    | none => []

/-- A transfer's lines that are written whole are no longer owned (07 R156). -/
def freeLines (s : State) (xid : Nat) : State :=
  { s with run := { s.run with xfers := s.run.xfers.map fun y =>
    if y.id = xid then { y with owned := stillOwned s y (leftOf s y) } else y } }

/-- Pieces written to a rank's destination as its engine writes (09 R207), up to the first that stops them: how many. -/
def writeLines (k : Coll) (rank : Nat) (x : Xfer) : List (Nat × List Byte) → State → RelayAcc × Nat
  | [], s => (.ok s, 0)
  | e :: t, s =>
    match relayCheck s k rank x .engWrite [(e.1, e.2.length)] with
    | .stop s => (.stop s, 0)
    | .ok s =>
      let w := xferWho s x
      let r := writeLines k rank x t (putBytes w (engPut w x.inTx) s e.1 e.2)
      (r.1, r.2 + 1)

/-- The pieces of a chunk written so far are counted, and the lines that this completes are free. -/
def noteWrote (id pos idx n : Nat) (x : Xfer) (s : State) : State :=
  match collOf s id with
  | none => s
  | some k =>
    let ps := (k.progress.filter fun e => !(e.1 == (pos, idx))) ++ [((pos, idx), k.wrote pos idx + n)]
    freeLines (setColl s { k with progress := ps }) x.id

/-- A chunk written to the destination of a rank, from the piece on at which it stopped before (06 R135, R137). -/
def writePart (s : State) (k : Coll) (p : RankPart) (x : Xfer) (idx : Nat) (bs : List (Nat × List Byte)) : RelayAcc :=
  let es := bs.flatMap fun b => (pieces b.1 b.2.length).map fun q => (q.1, (b.2.drop (q.1 - b.1)).take q.2)
  match writeLines k p.rank x (es.drop (k.wrote p.pos idx)) s with
  | (.ok s, n) => .ok (noteWrote k.id p.pos idx n x s)
  | (.stop s, n) => .stop (noteWrote k.id p.pos idx n x s)

/-- A chunk of a rank's destination has been written; with its last one the part is done (09 R207). -/
def wroteChunk (s : State) (id rank pos dst idx : Nat) : State :=
  match collOf s id with
  | none => s
  | some k =>
    let c := k.chunk dst idx
    let k := (k.setChunk { c with written := c.written ++ [pos] }).trim
    let n := (k.chunks.filter fun c => c.written.contains pos).length
    match k.part rank with
    | some p => setColl s (if destChunks k ≤ n then k.setPart { p with done := true } else k)
    | none => setColl s k

/-! ### Arrivals (95, RELAY_CHUNK_ARRIVE) -/

/-- The chunk has arrived already. -/
def Coll.has (k : Coll) (dst chunk src : Nat) : Bool :=
  let c := k.chunk dst (chunkIdx k.shape k.n chunk src)
  if reduces k.shape then c.arrived.contains src else c.written.contains dst

/-- The chunk names a contribution of the collective. -/
def Coll.names (k : Coll) (dst chunk src : Nat) : Bool :=
  decide (src < k.n) && decide (chunk < chunkCount k.shape k.n)
    && decide (dst < if reduces k.shape && k.shape.repl then 1 else k.n)

/-- Whether a chunk has a destination on this package. -/
def Coll.lands (k : Coll) (dst : Nat) : Bool := (reduces k.shape && k.shape.repl) || k.here.contains dst

/-- The chunk of a persistent instance comes to a rank whose LAST is below the baton, and is held in the spill region (09
R209). The counter of an all-reduce or a TOPK serves every rank here, so that its chunks are held until each of them has
started the instance (assumption 25). -/
def Coll.early (k : Coll) (dst : Nat) : Bool :=
  k.persistent.isSome && if reduces k.shape && k.shape.repl then !k.seated else !(k.seatedAt dst)

/-- A chunk may be counted or written: of an RLY once all ranks have joined (17 R392); without ROP once every record here is
known, since a mismatch writes nothing (09 R203), and the destination's rank runs the instance (R208). -/
def Coll.ripe (k : Coll) (dst : Nat) : Bool :=
  (k.persistent.isSome || k.joined) && (reduces k.shape || (k.seated && k.startedAt dst))

/-- The bytes of a chunk of a rank here stand ready: the rank has started and its contribution is read. An RLY moves once
all ranks have joined (17 R392). -/
def sourceReady (s : State) (k : Coll) (src : Nat) : RelayAcc :=
  if k.persistent.isNone && !k.joined then .stop s
  else match k.partAt src with
    | none => .stop s
    | some p =>
      if !p.started then .stop s
      else if k.hasRead p then .ok s
      else match partXfer s p with
        | none => .stop s
        | some x => readPart s k p x

/-- The transfer that stands for the part of a position, or for any part that the package runs. -/
def anyXfer (s : State) (k : Coll) (pos : Nat) : Option (RankPart × Xfer) :=
  ((k.partAt pos).toList ++ k.parts).findSome? fun p => (partXfer s p).map fun x => (p, x)

/-- A chunk that arrives takes a relay slot, or a block of the spill region when every slot is taken or when it is held;
without either its sender waits (09 R206). -/
def storeChunk (s : State) (k : Coll) (c : Nat × Nat × Nat) (bs : List Byte) (held : Bool) : RelayAcc :=
  if !held && decide (slotsTaken s < 2048) then .ok s
  else match regionFree s k.launch, anyXfer s k c.2.2 with
    | some j, some (p, x) =>
      let va := regionVa s k.launch j
      match relayCheck s k p.rank x .engWrite [(va, bs.length)] with
      | .stop s => .stop s
      | .ok s => match collOf s k.id with
        | none => .stop s
        | some k =>
          let w := xferWho s x
          .ok (setColl (putBytes w (engPut w false) s va bs) { k with region := k.region ++ [(c, j)] })
    | _, _ => .stop s

/-- A chunk from another package is taken off its link, once it has a slot or a block, and waits for its turn (09 R206). -/
def receiveFar (s : State) (k : Coll) (c : Nat × Nat × Nat) (data : List Byte) : RelayAcc :=
  if k.has c.1 c.2.1 c.2.2 || k.spilled.contains c then .ok s
  else if !(k.lands c.1) || data.length ≠ chunkLen k.shape k.n c.2.1 then .stop s
  else match storeChunk s k c data (k.early c.1) with
    | .stop s => .stop s
    | .ok s => match collOf s k.id with
      | none => .stop s
      | some k => .ok (setColl s { k with far := k.far ++ [(c, data)], spilled := k.spilled ++ [c] })

/-- The region's ranges that hold some contributions. -/
def regionRanges (s : State) (k : Coll) (cs : List (Nat × Nat × Nat)) : List (Nat × Nat) :=
  (k.region.filter fun e => cs.contains e.1).map fun e =>
    (regionVa s k.launch e.2, (k.bytesOf e.1.1 e.1.2.1 e.1.2.2).length)

/-- The bytes of a contribution, fetched back where they lie in the spill region (09 R206). -/
def fetchChunk (s : State) (k : Coll) (x : Xfer) (dst chunk src : Nat) : List Byte :=
  let bs := k.bytesOf dst chunk src
  match k.region.find? fun e => e.1 == (dst, chunk, src) with
  | some e => engBytes s (xferWho s x) false (regionVa s k.launch e.2) bs.length
  | none => bs

/-- A chunk without ROP is written directly, once the destination's rank has read its own contribution, which the write may
overlap (07 R157). -/
def directChunk (s : State) (k : Coll) (dst chunk src : Nat) : State :=
  match k.partAt dst with
  | none => s
  | some d => match partXfer s d with
    | none => s
    | some x => match readPart s k d x with
      | .stop s => s
      | .ok s =>
        match relayCheck s k d.rank x .engRead (regionRanges s k [(dst, chunk, src)]) with
        | .stop s => s
        | .ok s => match collOf s k.id with
          | none => s
          | some k =>
            let idx := chunkIdx k.shape k.n chunk src
            let va := x.dst + src * sliceBytes k.shape k.n + 16384 * chunk
            match writePart s k d x idx [(va, fetchChunk s k x dst chunk src)] with
            | .stop s => s
            | .ok s => wroteChunk s k.id d.rank dst dst idx

/-- A chunk whose bytes stand ready at its destination is counted, or written directly. -/
def acceptChunk (s : State) (id dst chunk src : Nat) : State :=
  match collOf s id with
  | none => s
  | some k =>
    if reduces k.shape then
      if k.spilled.contains (dst, chunk, src) || k.region.any (fun e => e.1 == (dst, chunk, src)) then
        countChunk s k dst chunk src
      else match storeChunk s k (dst, chunk, src) (k.bytesOf dst chunk src) false with
        | .stop s => s
        | .ok s => match collOf s id with
          | none => s
          | some k => countChunk s k dst chunk src
    else directChunk s k dst chunk src

/-- Held chunks of one counter are counted in their arrival order (09 R206, R209). -/
def Coll.turn (k : Coll) (dst chunk src : Nat) : Bool :=
  match k.spilled.find? fun e => e.1 == dst && e.2.1 == chunk with
  | none => true
  | some e => e.2.2 == src || !(reduces k.shape)

/-- The home of the rank at a position (10 R219). -/
def rankHome (s : State) (k : Coll) (pos : Nat) : Nat × Nat :=
  let l := launchOf s k.launch
  let own := k.inst * ldimOf l k.level + k.ranks.getD pos 0
  itemHome s.part l.img (own * groupsAt l.img (k.level - 1) / groupsPerItem l.img)

/-- The packages that a chunk from a rank here goes to: that of its destination, and of an all-reduce or a TOPK those of
every other rank. -/
def Coll.targets (s : State) (k : Coll) (dst src : Nat) : List (Nat × Nat) :=
  if !(k.here.contains src) then []
  else ((if reduces k.shape && k.shape.repl then List.range k.n else [dst]).filter fun p => !(k.here.contains p)).map
    (rankHome s k) |>.eraseDups

/-- The name of a chunk for another package. -/
def chunkName (s : State) (k : Coll) (c : Nat × Nat × Nat) : ChunkName :=
  ⟨(launchOf s k.launch).pkt.launchid, k.level, k.inst, k.ord, k.persistent, k.ranks.headD 0, c⟩

/-- The chunk goes to the other packages that need it, unless one cannot be reached (11 R256). -/
def sendChunk (s : State) (k : Coll) (dst chunk src : Nat) : State :=
  let ts := Coll.targets s k dst src
  if ts.isEmpty || k.sent.contains (dst, chunk, src)
      || ts.any (fun t => t.2 == s.part.nodeid && s.part.stride.unreachable.contains t.1) then s
  else
    let msg (t : Nat × Nat) : RelayMsg := ⟨t.1, t.2, chunkName s k (dst, chunk, src), k.bytesOf dst chunk src⟩
    let s := setColl s { k with sent := k.sent ++ [(dst, chunk, src)] }
    setPart s { s.part with relayOut := s.part.relayOut ++ ts.map msg }

/-- A chunk that has been taken is no longer held. -/
def unhold (s : State) (id : Nat) (c : Nat × Nat × Nat) : State :=
  match collOf s id with
  | some k => if k.has c.1 c.2.1 c.2.2 then setColl s { k with spilled := k.spilled.erase c }.trim else s
  | none => s

/-- A chunk whose bytes stand ready: it is sent on, and here it is held for a rank whose LAST is below the baton (09 R209),
counted, or written, once it may be and its turn has come. -/
def takeChunk (s : State) (k : Coll) (dst chunk src : Nat) : State :=
  let c := (dst, chunk, src)
  let s := sendChunk s k dst chunk src
  match collOf s k.id with
  | none => s
  | some k =>
    if !(k.lands dst) || k.has dst chunk src then s
    else if k.early dst then
      if k.spilled.contains c then s
      else match storeChunk s k c (k.bytesOf dst chunk src) true with
        | .stop s => s
        | .ok s => match collOf s k.id with
          | none => s
          | some k => setColl s { k with spilled := k.spilled ++ [c] }
    else if !(k.ripe dst) || !(k.turn dst chunk src) then s
    else unhold (acceptChunk s k.id dst chunk src) k.id c

/-- A collective whose ranks here are all done, without a transfer left or a chunk to send, is forgotten; one that
mismatched stays for the ranks still to come. -/
def closeColl (s : State) (id : Nat) : State :=
  match collOf s id with
  | none => s
  | some k =>
    let owed := (List.range k.n).any fun dst => (List.range (chunkCount k.shape k.n)).any fun c => k.here.any fun src =>
      k.names dst c src && !(Coll.targets s k dst src).isEmpty && !(k.sent.contains (dst, c, src))
    if !k.mismatch && k.joined && k.parts.all (fun p => p.done) && !owed
        && !(s.run.xfers.any fun x => x.coll.any fun e => e.1 == id) then
      { s with run := { s.run with colls := s.run.colls.filter fun e => !(e.id == id) } }
    else s

/-- The arrival of a chunk (17 R392; 09 R209). -/
def arriveAt (s : State) (id dst chunk src : Nat) (data : List Byte) : State :=
  match collOf s id with
  | none => s
  | some k =>
    if k.mismatch || !k.names dst chunk src then s
    else match (if k.here.contains src then sourceReady s k src else receiveFar s k (dst, chunk, src) data) with
      | .stop s => s
      | .ok s => match collOf s id with
        | none => s
        | some k => closeColl (takeChunk s k dst chunk src) id

/-- RELAY_CHUNK_ARRIVE (95; 09 R204, R206, R209). -/
def execRelayChunkArrive (id dst chunk : Nat) (src : ChunkOf) (s : State) : Host.Outcome State Fault Refusal :=
  .next (arriveAt s id dst chunk src.rank src.data)

/-! ### Reduce blocks (95, REDUCE_BLOCK_COMPLETE) -/

/-- The counters that a reduce block needs are at zero. -/
def Coll.full (k : Coll) (dst chunk : Nat) : Bool :=
  if k.shape.rop = 6 then (List.range (chunkCount k.shape k.n)).all fun i => (k.chunk 0 i).left == 0
  else (k.chunk (counterDst k.shape dst) chunk).left == 0

/-- The contributions that a reduce block combines, in order, as destination, chunk and source. -/
def blockParts (k : Coll) (dst chunk : Nat) : List (Nat × Nat × Nat) :=
  let cd := counterDst k.shape dst
  if k.shape.rop = 6 then
    (List.range k.n).flatMap fun p => (List.range (chunkCount k.shape k.n)).map fun c => (cd, c, p)
  else (k.chunk cd chunk).arrived.map fun p => (cd, chunk, p)

/-- The pieces of a reduce block's result: offset from the destination base, and bytes. -/
def blockResult (s : State) (k : Coll) (x : Xfer) (dst chunk : Nat) : List (Nat × List Byte) :=
  if k.shape.rop = 6 then
    let es := topElems k (fetchChunk s k x 0)
    [(0, es.flatMap fun e => bytesLe k.shape.esize e.1),
     (roundUp (k.shape.topk * k.shape.esize) 8, es.flatMap fun e => bytesLe 4 e.2)]
  else [(16384 * chunk, reduceBytes k.shape ((blockParts k dst chunk).map fun c => fetchChunk s k x c.1 c.2.1 c.2.2))]

/-- A core of an online die stands idle (09 R204): no group of it is ready (assumption 25). -/
def idleCore (s : State) : Bool :=
  let busy := (s.run.groups.filter fun e => e.2.stat == .run && e.2.wait.isNone).map fun e => e.1 / 32
  (List.range (s.part.dies.map fun d => d.sites.length).sum).any fun c =>
    (s.part.dies.getD (coreDie s.part.dies c) ⟨0, 2, [], 0, 0⟩).state == 0 && !(busy.contains c)

/-- A reduce block, dispatched to an idle core, combines a chunk and writes it to the destination at position `dst`; in
the pause of a class change none is dispatched (02 R41). -/
def reduceAt (s : State) (id dst chunk : Nat) : State :=
  match collOf s id with
  | none => s
  | some k =>
    let cd := counterDst k.shape dst
    match k.partAt dst with
    | none => s
    | some p =>
      match partXfer s p with
      | none => s
      | some x =>
        if k.mismatch || !p.started || !reduces k.shape || p.done || !(k.full dst chunk)
            || decide (destChunks k ≤ chunk) || (k.chunk cd chunk).written.contains dst
            || issueStopped s || !(idleCore s) then s
        else match relayCheck s k p.rank x .engRead (regionRanges s k (blockParts k dst chunk)) with
          | .stop s => s
          | .ok s => match writePart s k p x chunk ((blockResult s k x dst chunk).map fun e => (x.dst + e.1, e.2)) with
            | .stop s => s
            | .ok s => closeColl (wroteChunk s id p.rank dst cd chunk) id

/-- REDUCE_BLOCK_COMPLETE (95; 09 R204, R205, R207). -/
def execReduceBlockComplete (id dst chunk : Nat) (s : State) : Host.Outcome State Fault Refusal :=
  .next (reduceAt s id dst chunk)

/-! ### Persistent instances (09 R208) -/

/-- A collective is an instance of the same persistent collective, or the same level instance's RLY. -/
def sameKey (k : Coll) (lid level inst : Nat) (per : Option Nat) : Bool :=
  k.launch == lid && k.level == level && k.inst == inst && k.persistent == per

/-- The instance before `b` has completed on a rank. -/
def prevDone (s : State) (lid level inst : Nat) (per : Option Nat) (b rank : Nat) : Bool :=
  !(s.run.colls.any fun k => sameKey k lid level inst per && decide (k.ord + 1 = b)
    && k.parts.any fun p => p.rank == rank && !p.done)

/-- RELAY_INSTANCE_START (95; 09 R208): a queued instance starts when the one before it completes locally. -/
def execRelayInstanceStart (id rank : Nat) (s : State) : Host.Outcome State Fault Refusal :=
  .next (match collOf s id with
    | none => s
    | some k => match k.part rank with
      | none => s
      | some p =>
        if p.started || !prevDone s k.launch k.level k.inst k.persistent k.ord rank then s
        else setColl s (k.setPart { p with started := true }))

/-! ### Joining -/

/-- Where a group stands in the collectives of a level: the level instance, the rank, and the rank's own instance,
launch-wide. -/
structure RankAt where
  inst : Nat
  rank : Nat
  own : Nat
  deriving DecidableEq, Repr

def rankAt (w : Who) (level : Nat) : RankAt :=
  let n := groupNumber w.l w.it w.g.gidx
  ⟨instAt w.l.img level n, lidx w.l.img (level - 1) n 0, instAt w.l.img (level - 1) n⟩

/-- The positions of a group's ranks that this package runs (10 R219): that of the rank that joins among them. -/
def positionsHere (s : State) (lid level inst rank : Nat) (ranks : List Nat) : List Nat :=
  let l := launchOf s lid
  (List.range ranks.length).filter fun p =>
    let r := ranks.getD p 0
    r == rank || ownItem s.part l.img ((inst * ldimOf l level + r) * groupsAt l.img (level - 1) / groupsPerItem l.img)

/-- The RLYs that a collective is made of: the ordinal of each of its ranks at its level (09 R203). -/
def wants (l : Launch) (level inst ord : Nat) (ranks : List Nat) : List (Nat × Nat × Nat) :=
  ranks.map fun q => (level, inst * ldimOf l level + q, ord)

/-- A record that joins: its collective's level, instance, ordinal and record address, and which RLY it is of every rank that
its group belongs to. -/
structure Joining where
  level : Nat
  inst : Nat
  ord : Nat
  per : Option Nat
  names : List (Nat × Nat × Nat)
  deriving DecidableEq, Repr

/-- The records of a collective and of one that joins disagree (09 R203): in a field of collectives of one level, or in CLVL,
where one of the two is an RLY that the other waits for. -/
def clashes (l : Launch) (lid : Nat) (r : RankAt) (j : Joining) (sh : Shape) (k : Coll) : Bool :=
  let mine := groupRanks sh r.rank
  if k.level = j.level then
    sameKey k lid j.level j.inst j.per && k.ord == j.ord && !(agrees k.shape sh)
      && (k.ranks.contains r.rank || k.parts.any fun p => mine.contains p.rank)
  else k.launch == lid && j.per.isNone && k.persistent.isNone
    && ((wants l k.level k.inst k.ord k.ranks).any j.names.contains
      || k.parts.any fun p => p.names.any (wants l j.level j.inst j.ord mine).contains)

/-- A chunk that came before a rank here opened its collective names it (09 R209). -/
def chunkOf (s : State) (k : Coll) (e : Nat × Nat × ChunkName × List Byte) : Bool :=
  e.1 == k.launch && e.2.2.1 == chunkName s k e.2.2.1.chunk

/-- The chunks that came before a collective was opened wait in it (09 R209). -/
def adoptEarly (s : State) (k : Coll) : State :=
  let es := s.run.early.filter fun e => chunkOf s k e && k.names e.2.2.1.chunk.1 e.2.2.1.chunk.2.1 e.2.2.1.chunk.2.2
    && k.lands e.2.2.1.chunk.1 && e.2.2.2.length == chunkLen k.shape k.n e.2.2.1.chunk.2.1
  let s := { s with run := { s.run with early := s.run.early.filter fun e => !(chunkOf s k e) } }
  setColl s { k with
    far := es.map fun e => (e.2.2.1.chunk, e.2.2.2)
    spilled := es.map fun e => e.2.2.1.chunk
    region := es.map fun e => (e.2.2.1.chunk, e.2.1) }

/-- A rank joins a collective, or opens it (09 R203): records that disagree, or groups that overlap, are a mismatch
of every collective concerned. -/
def joinColl (s : State) (lid : Nat) (r : RankAt) (j : Joining) (sh : Shape) (xid : Nat) (started : Bool) : State × Nat :=
  let mine := groupRanks sh r.rank
  let clash := clashes (launchOf s lid) lid r j sh
  let bad := s.run.colls.any clash
  let colls := s.run.colls.map fun k => if clash k then { k with mismatch := true } else k
  let pos (ranks : List Nat) : Nat := (ranks.findIdx? (· == r.rank)).getD 0
  match colls.find? fun k => sameKey k lid j.level j.inst j.per && k.ord == j.ord && k.ranks.contains r.rank with
  | some k =>
    let p := pos k.ranks
    let k' := { k with
      parts := k.parts ++ [⟨r.rank, p, xid, [], started, false, j.names⟩]
      here := if k.here.contains p then k.here else k.here ++ [p]
      mismatch := k.mismatch || bad }
    ({ s with run := { s.run with colls := colls.map fun e => if e.id = k.id then k' else e } }, k.id)
  | none =>
    let id := s.ctl.serial + 1
    let k : Coll :=
      { id := id, launch := lid, level := j.level, inst := j.inst, ord := j.ord, persistent := j.per, ranks := mine,
        shape := sh, parts := [⟨r.rank, pos mine, xid, [], started, false, j.names⟩], chunks := [], spilled := [],
        mismatch := bad, here := positionsHere s lid j.level j.inst r.rank mine, far := [], region := [], sent := [],
        progress := [] }
    (adoptEarly (bumpSerial { s with run := { s.run with colls := colls ++ [k] } }) k, id)

/-- The requests for leave of a collective's contribution (10 R226): 4 per byte, and 2 for what it reads from the weight
store. -/
def relayWeights (x : Xfer) : List Nat :=
  let store := ((readRanges x).filter fun r => match window r.1 with
    | .weight _ => true
    | _ => false).length
  (chunksOf (x.shape.count * x.shape.esize)).map (4 * ·) ++ (chunksOf (store * x.shape.esize)).map (2 * ·)

/-- The transfer of a rank issues and joins its collective. -/
def issueRelay (c : Ctx) (s : State) (x : Xfer) (r : RankAt) (j : Joining) (started : Bool) : State :=
  let sh := x.shape
  let xid := s.ctl.serial + 1
  let s := issueXfer c s x (destRanges sh sh.ranksIn x.dst) (relayWeights x)
  let t := joinColl s c.g.launch r j sh xid started
  { t.1 with run := { t.1.run with
    xfers := t.1.run.xfers.map fun y => if y.id = xid then { y with coll := some (t.2, r.rank) } else y } }

/-- The checks that RLY and RLYSTART share: record, destination, source, counter, room. -/
def relayChecks (f : CF) (kind : XKind) (src : Nat) (c : Ctx) (s : State) (go : Xfer → State → Out) : Out :=
  withRecord c s (rdS c.g f.recr.toNat).toNat 1 fun b s =>
    match parseShape b .rly (depth c.w.l.img) (ldimOf c.w.l) with
    | .error n => .trap (operandInfo c n)
    | .ok sh0 =>
      let sh := { sh0 with osize := sh0.esize }
      let x := mkXfer c kind f.tag.toNat sh src (rdS c.g f.dsta.toNat).toNat none
      startChecks c s (destRanges sh sh.ranksIn x.dst) (readRanges x) fun n => go { x with count := n } s

/-- The key of a rank of the collectives of a level: its own instance, launch-wide. -/
def ordKey (level own : Nat) : Nat := own * 16 + level

/-- An RLY of a group counts for every rank that the group belongs to, one for each level of collectives: a rank's RLYs are
counted across all of its groups, whatever their CLVL (09 R203; assumption 46). -/
def nextNames (l : Launch) (n : Nat) : List (Nat × Nat × Nat) :=
  ((List.range (depth l.img + 1)).drop 2).map fun level =>
    let own := instAt l.img (level - 1) n
    (level, own, kget 0 l.ordinals (ordKey level own) + 1)

/-- The effect of RLY (17 R392). -/
def rlyRun (f : CF) (c : Ctx) (s : State) : Out :=
  relayChecks f .rly (rdS c.g f.srca.toNat).toNat c s fun x s =>
    if x.shape.outOfBounds then .done (atOnce c s x 1)
    else
      let r := rankAt c.w x.shape.clvl
      let names := nextNames (launchOf s c.g.launch) (groupNumber c.w.l c.w.it c.g.gidx)
      let m := kget 0 (launchOf s c.g.launch).ordinals (ordKey x.shape.clvl r.own) + 1
      let s := modLaunch s c.g.launch fun l =>
        { l with ordinals := names.foldl (fun o e => kput 0 o (ordKey e.1 e.2.1) e.2.2) l.ordinals }
      .done (issueRelay c s x r ⟨x.shape.clvl, r.inst, m, none, names⟩ true)

/-- RLY (17 R392). -/
def execRly (f : CF) (s : State) : Host.Outcome State Fault Refusal := issue (cfMeaning (.rly f) f (rlyRun f)) s

/-- LAST is kept for a record address and a rank (17 R393). -/
def lastKey (va level own : Nat) : Nat := va * 2 ^ 96 + ordKey level own

/-- A start of instance b (09 R208). -/
def startBaton (c : Ctx) (s : State) (x : Xfer) (va b : Nat) : State :=
  let level := x.shape.clvl
  let r := rankAt c.w level
  let lid := c.g.launch
  let key := lastKey va level r.own
  let last := kget 0 (launchOf s lid).lasts key
  if x.shape.outOfBounds then atOnce c s x 1
  else if b = last + 1 then
    let s := modLaunch s lid fun l => { l with lasts := kput 0 l.lasts key b }
    issueRelay c s x r ⟨level, r.inst, b, some va, []⟩ (prevDone s lid level r.inst (some va) b r.rank)
  else if last + 1 < b then atOnce c s x 6
  else match s.run.colls.find? fun k => sameKey k lid level r.inst (some va) && k.ord == b
      && k.parts.any fun p => p.rank == r.rank && !p.done with
    | some k =>
      let id := s.ctl.serial + 1
      let s := joinTag (bumpSerial s) c.gid x.tag
      { s with run := { s.run with xfers := s.run.xfers ++ [{ x with id := id, coll := some (k.id, r.rank) }] } }
    | none => atOnce c s x 7

/-- The effect of RLYSTART (17 R393): the source is BASE alone. -/
def rlystartRun (f : CF) (c : Ctx) (s : State) : Out :=
  let va := (rdS c.g f.recr.toNat).toNat
  let b := (rdS c.g f.srca.toNat).toNat
  relayChecks f .rlystart 0 c s fun x s =>
    if 2 ^ 32 ≤ b then .trap (badOperand c.word c.dst)
    else if b = 0 then .trap (operandInfo c 0)
    else .done (startBaton c s x va b)

/-- RLYSTART (17 R393). -/
def execRlystart (f : CF) (s : State) : Host.Outcome State Fault Refusal :=
  issue (cfMeaning (.rlystart f) f (rlystartRun f)) s

/-! ### Completion (95, ENGINE_TRANSFER_COMPLETE) -/

/-- A rank's transfer completes: with MISMATCH (09 R203), or when its destination is written (09 R207). -/
def runRelay (s : State) (x : Xfer) (id rank : Nat) : State :=
  match collOf s id with
  | none => finishXfer s x 0
  | some k =>
    if k.mismatch then
      finishXfer (match k.part rank with
        | some p => setColl s (k.setPart { p with done := true })
        | none => s) x 5
    else match k.part rank with
      | some p => if p.done then closeColl (finishXfer s x 0) id else s
      | none => s

/-- ENGINE_TRANSFER_COMPLETE (95; 09 R195). -/
def execEngineTransferComplete (xid : Nat) (s : State) : Host.Outcome State Fault Refusal :=
  .next (match s.run.xfers.find? fun x => x.id == xid with
    | none => s
    | some x => match x.coll with
      | some (id, rank) => runRelay s x id rank
      | none => runXfer s x)

/-- The collectives of a launch that is killed as a whole: the transfers of those that every rank here has joined run to
completion (10 R231), the others end, since no rank can join them any more (assumption 25). -/
def dropColls (s : State) (lid : Nat) : State :=
  let ks := (s.run.colls.filter fun k => k.launch == lid && !(k.here.all fun p => (k.partAt p).isSome)).map (·.id)
  let xs := s.run.xfers.filter fun x => x.coll.any fun e => ks.contains e.1
  let s := xs.foldl (fun s x => finishXfer s x 0) s
  let id := (launchOf s lid).pkt.launchid
  let s := setPart s { s.part with relayOut := s.part.relayOut.filter fun m =>
    !(m.name.launchid == id && m.node == s.part.nodeid && s.part.stride.unreachable.contains m.pkg) }
  { s with run := { s.run with colls := s.run.colls.filter fun k => !(ks.contains k.id) } }

end Sys2Proof.Machine
end

