-- ==== Sys2Proof/Machine/Arrival.lean ====
section
/-! DEFINITION. What comes back to a group: the data of a load, the reply of an atomic, the end of a walk, a monitor's
timeout (95; 04 R89; 06 R133 to R138; 17 R378). -/

namespace Sys2Proof.Machine

/-! ### Loads and atomics -/

/-- The registers of a flight written with what it brings (04 R89). -/
def returnFlight (g : Group) (f : Flight) : Group :=
  (List.range f.vals.length).foldl (fun g k =>
    let vs := f.vals.getD k []
    if f.uni then wrS g (f.reg + k) (BitVec.ofNat 64 (vs.getD 0 0))
    else wrV g (f.reg + k) f.lanes fun l => BitVec.ofNat 32 (vs.getD l 0)) g

/-- A bitmap word with the bits of some registers of its 32 set. -/
def nameBits (lo : Nat) (rs : List Nat) (w : Option W32) : Option W32 :=
  match rs.filter fun r => decide (lo ≤ r) && decide (r < lo + 32) with
  | [] => w
  | t => some (t.foldl (fun a r => a ||| BitVec.twoPow 32 (r - lo)) (w.getD 0))

/-- A group stopped at a LIVE keeps what an atomic returns to it, whether or not the LIVE names it (11 R247). -/
def keepReturn (g : Group) (f : Flight) : Group :=
  match g.stat with
  | .stopped (.live x) =>
    let rs := (List.range f.vals.length).map (· + f.reg)
    if !f.atomic then g
    else { g with stat := .stopped (.live (if f.uni then { x with s0 := nameBits 0 rs x.s0, s1 := nameBits 32 rs x.s1 }
      else { x with v0 := nameBits 0 rs x.v0, v1 := nameBits 32 rs x.v1 })) }
  | _ => g

/-- A flight that has landed. -/
def landFlight (s : State) (f : Flight) : State :=
  modGrp { s with run := { s.run with flights := s.run.flights.filter fun x => !(x.id == f.id) } } f.gid fun g =>
    keepReturn (returnFlight g f) f

/-- LOAD_DATA_RETURN (95; 04 R89): the destination of a load is written. -/
def execLoadDataReturn (n : Nat) (s : State) : Host.Outcome State Fault Refusal :=
  .next (match s.run.flights.find? fun f => f.id == n && !f.atomic with
    | some f => landFlight s f
    | none => s)

/-- The host's AtomicOps on the lanes of an atomic that the completer takes (06 R138), in ascending lane order: the
old values by lane. -/
def hostLanesRun (op bytes : Nat) (rej : Mask) : List HostLane → State → List (Nat × Nat) × State
  | [], s => ([], s)
  | h :: t, s =>
    if Mask.has rej h.lane then hostLanesRun op bytes rej t s
    else
      let old := natLe (readCells s.mem.host h.addr bytes)
      let new := atomNew op (8 * bytes) old h.x h.y
      let r := hostLanesRun op bytes rej t
        (setMem s { s.mem with host := writeCells s.mem.host h.addr (bytesLe bytes new) })
      ((h.lane, old) :: r.1, r.2)

/-- The values of a flight with the old values of its host lanes. -/
def mergeVals (f : Flight) (olds : List (Nat × Nat)) : Flight :=
  { f with
    lanes := f.lanes ||| maskOf fun l => olds.any fun e => e.1 == l
    vals := (List.range f.vals.length).map fun k => mkLanes fun l =>
      match olds.find? fun e => e.1 == l with
      | some e => e.2 / 2 ^ (32 * k) % 2 ^ 32
      | none => (f.vals.getD k []).getD l 0 }

/-- The log entries of the host lanes of an atomic that the completer takes, as they arrive there (12 R263). -/
def hostEntries (s : State) (f : Flight) (rej : Mask) : List (Bool × LogEntry) :=
  match f.host, grp s f.gid with
  | some (op, _, hs), some g =>
    let it := (kfind s.run.items g.item).getD Item.fresh
    let now := hs.filter fun h => !(Mask.has rej h.lane) && (!f.vals.isEmpty || op == 8 || op == 9)
    (List.range now.length).map fun k =>
      let h := now.getD k ⟨0, 0, 0, 0, 0⟩
      (false, atomicEntry h.va it.index g.gidx h.lane (g.arrivals + k) false)
  | _, _ => []

/-- Under REPLAY the completer's operations wait for their turn (12 R266). -/
def hostHeld (s : State) (f : Flight) (rej : Mask) : Bool :=
  (grp s f.gid).any fun g => heldByLog (launchOf s g.launch) (hostEntries s f rej)

/-- The reply of an atomic (95; 06 R138): the host's part is logged and performed where the completer takes it, D is
written, and the group goes on, or traps on the rejected lanes. -/
def atomicReplyAt (s : State) (f : Flight) (rejected : Mask) : State :=
  match f.host with
  | none => landFlight s f
  | some (op, bytes, hs) =>
    let rej := rejected &&& maskOf fun l => hs.any fun h => h.lane == l
    if hostHeld s f rej then s
    else
      let es := hostEntries s f rej
      let s := match grp s f.gid with
        | some g => modGrp (es.foldl (fun s e => choose s g.launch e.1 e.2) s) f.gid fun g =>
            { g with arrivals := g.arrivals + es.length }
        | none => s
      let r := hostLanesRun op bytes rej hs s
      modGrp (landFlight r.2 (mergeVals f r.1)) f.gid fun g => { g with hostAtom := none, hostAns := some rej }

/-- ATOMIC_REPLY (95; 04 R89; 06 R138). -/
def execAtomicReply (n : Nat) (rejected : Mask) (s : State) : Host.Outcome State Fault Refusal :=
  .next (match s.run.flights.find? fun f => f.id == n && f.atomic with
    | some f => atomicReplyAt s f rejected
    | none => s)

/-- MONWAIT_TIMEOUT (95; 17 R378, R379): the timeout of a MONWAIT that waits on an armed monitor; its coming says that
its AC cycles have passed. -/
def execMonwaitTimeout (gid : Nat) (s : State) : Host.Outcome State Fault Refusal :=
  .next (match grp s gid with
    | none => s
    | some g => match g.mon with
      | .armed _ =>
        match g.monEnd with
        | some n =>
          if g.stat == .run && g.wait == some .monwait then
            modGrp (timeAt s n) gid fun g => { g with monTimeout := true }
          else s
        | none => s
      | _ => s)

/-! ### Walks -/

/-- The access a record's KIND stands for (06 R136). -/
def accOfKind (kind : Nat) : Acc :=
  match kind with
  | 1 => .store
  | 2 => .atomic
  | 3 => .fetch
  | 4 => .engRead
  | 5 => .engWrite
  | _ => .load

/-- The die on whose behalf an agent walks; the front end stands with die 0. -/
def agentDie (s : State) : Agent → Nat
  | .group gid => coreDie s.part.dies (gid / 32)
  | .xfer x => ((s.run.xfers.find? fun y => y.id == x).map fun y => coreDie s.part.dies y.core).getD 0
  | .arm _ _ die => die
  | .save it => ((kfind s.run.items it).getD Item.fresh).die
  | _ => 0

/-- The pool of fault records an agent uses (06 R136). -/
def agentPool (s : State) : Agent → Nat
  | .launch _ => 0xFF
  | .window => 0xFF
  | a => agentDie s a

/-- The core of an agent's record. -/
def agentCore (s : State) : Agent → Nat
  | .group gid => gid / 32
  | .xfer x => ((s.run.xfers.find? fun y => y.id == x).map (·.core)).getD 0xFFFF
  | .save it => ((kfind s.run.items it).getD Item.fresh).cores.headD 0xFFFF
  | _ => 0xFFFF

/-- A transfer resumes (06 R137): the lines from the one that faulted on are registered now (07 R155). -/
def resumeXfer (s : State) (x : Xfer) : State :=
  let r := regLines s x (leftOf s x)
  setXfer r.1 { r.2 with parked := false }

/-- A transfer whose walk has ended well waits to resume while a line of its destination's tables is owned (07 R155, R156). -/
def resumeWaits (s : State) : Agent → Bool
  | .xfer x => match s.run.xfers.find? fun y => y.id == x with
    | some y => regBusy s (xferWho s y) (leftOf s y)
    | none => false
  | _ => false

/-- A group that an answer releases while its work item is to be pre-empted runs on to its next point: its time to the
fallback starts again (02 R45; 11 R248; assumption 45). -/
def askedAgain (s : State) (gid : Nat) : State :=
  match grp s gid with
  | some g => modItem s g.item fun i => if i.preempt.isSome then { i with asked := s.ctl.si } else i
  | none => s

/-- An agent whose walk has ended well goes on: a group issues its instruction again, a transfer resumes, an arm fires, a
launch or a load window reads on, a save or restore goes on (06 R137, 09 R439). -/
def releaseAgent (s : State) : Agent → State
  | .group gid => modGrp (askedAgain s gid) gid fun g =>
      if g.stat = .parkFault then { g with stat := .run, wait := none, idle := 0 } else g
  | .xfer x => match s.run.xfers.find? fun y => y.id == x with
    | some y => resumeXfer s y
    | none => s
  | .arm lid i die => retryArms (modLaunch s lid fun l =>
      { l with armWait := l.armWait.map fun d => if d.idx = i ∧ d.die = die then { d with parked := false } else d }) lid
  | .launch lid => modLaunch s lid fun l => { l with stat := match l.stat with
      | .reading _ => .reading false
      | x => x }
  | .window => setPart s { s.part with win := s.part.win.map fun w => { w with parked := false } }
  | .save it => modItem s it fun i => { i with saveParked := false }

/-- The access of a walk: spills and saves write, refills and restores read (06 R136, KIND 6). -/
def walkAcc (w : Walk) : Acc := if w.kind = 6 then (if w.wr then .engWrite else .engRead) else accOfKind w.kind

/-- A walk with its outcome: the translation is held and the agent goes on, or the fault opens or joins a record, or waits
at the walker for one (06 R135 to R137); a walk that meets a line of an engine transfer waits for it (07 R156). -/
def walkEnds (s : State) (w : Walk) : State :=
  let die := agentDie s w.agent
  let pool := agentPool s w.agent
  let done (s : State) : State := setMem s { s.mem with walks := s.mem.walks.filter fun x => !(x.id == w.id) }
  let fails (c : Nat) (hostat : Bool) : State :=
    if c = walkBusy ∨ poolFull s pool w.asid w.va w.wr then s
    else openFaultAs w.wr (done s) pool w.asid w.va w.kind c hostat (agentCore s w.agent) w.agent
  match walk s die w.asid w.va with
  | .ok t => match permFault (walkAcc w) t with
    | none => if resumeWaits s w.agent then s else releaseAgent (fillTlb (done s) t) w.agent
    | some c => fails c (t.host && w.kind == 2)
  | .error c => fails c false

/-- WALK_COMPLETE (95; 06 R133, R135, R137). -/
def execWalkComplete (n : Nat) (s : State) : Host.Outcome State Fault Refusal :=
  .next (match s.mem.walks.find? fun w => w.id == n with
    | some w => walkEnds s w
    | none => s)

end Sys2Proof.Machine
end

