-- ==== Sys2Proof/Machine/Front.lean ====
section
/-! DEFINITION. The host's side of the link (13 R270 to R276): doorbells, the mailbox and the registers of BAR0, the
aperture of BAR2, the head packet of a queue, and the completion of a management packet. -/

namespace Sys2Proof.Machine

/-- The queue errors of discarded doorbells in order (13 R274, TYPE 0x000A), as far as queue 0's ring can take them; the
others wait (R275). -/
def postDoors : Nat → State → State
  | 0, s => s
  | n + 1, s =>
    match s.host.doors with
    | [] => s
    | d :: t =>
      if !canPost s 0 then s
      else postDoors n (postEvent (setHost s { s.host with doors := t }) 0x000A d.1 (bytesLe 4 d.2.1 ++ bytesLe 1 d.2.2))

/-- A doorbell is discarded, with its queue error (13 R273, R275). -/
def queueError (s : State) (q v reason : Nat) : State :=
  let s := setHost s { s.host with doors := s.host.doors ++ [(q, v, reason)] }
  postDoors s.host.doors.length s

/-- A registered queue changed. -/
def modQueue (s : State) (q : Nat) (f : Queue → Queue) : State :=
  setHost s { s.host with queues := kmod s.host.queues q f }

/-! ### Doorbells (13 R273, R275) -/

/-- The effect of a submission doorbell. -/
def ringDoorbell (s : State) (q v : Nat) : State :=
  if 32768 ≤ q then s
  else match kfind s.host.queues q with
    | none => queueError s q v 1
    | some x =>
      let d := (v + 2 ^ 32 - x.ridx) % 2 ^ 32
      if (x.widx + 2 ^ 32 - x.ridx) % 2 ^ 32 ≤ d ∧ d ≤ 2 ^ x.size then
        modQueue s q fun y => { y with widx := v, since := if y.ridx = y.widx then s.ctl.clk else y.since }
      else queueError s q v 0

/-- SUBMISSION_DOORBELL (95; 13 R273). -/
def execSubmissionDoorbell (q : Nat) (v : W64) (s : State) : Host.Outcome State Fault Refusal :=
  .next (ringDoorbell s q (v.toNat % 2 ^ 32))

/-- The effect of a completion-head doorbell. -/
def ringHead (s : State) (q h : Nat) : State :=
  if 32768 ≤ q then s
  else match kfind s.host.queues q with
    | none => queueError s q (h % 2 ^ 32) 1
    | some x =>
      if x.head ≤ h ∧ h ≤ x.seq then flushHeld (x.held.length + 1) (modQueue s q fun y => { y with head := h }) q
      else queueError s q (h % 2 ^ 32) 2

/-- COMPLETION_HEAD_DOORBELL (95; 13 R275). -/
def execCompletionHeadDoorbell (q : Nat) (v : W64) (s : State) : Host.Outcome State Fault Refusal :=
  .next (ringHead s q v.toNat)

/-! ### Management packets (13 R278) -/

/-- A management packet image as a request: KIND, and the bytes 6 and 7 that no request uses. -/
def mgmtReqOf (queue : Option Nat) (idx : Nat) (ok : Bool) (bs : List Byte) : MgmtReq :=
  let src : Src := ⟨queue, idx, BitVec.ofNat 32 (natLe (bs.take 4)), (bs.getD 5 0).toNat⟩
  ⟨src, ok && bs.getD 4 0 == 1 && bs.getD 6 0 == 0 && bs.getD 7 0 == 0, bs.drop 8⟩

/-- The management completion record (13 R274, TYPE 0x0002). -/
def mgmtRecord (src : Src) (q status result time : Nat) : Record :=
  ⟨2, q, bytesLe 4 src.lid.toNat ++ bytesLe 1 src.req ++ bytesLe 1 status ++ bytesLe 2 0 ++ bytesLe 8 result
    ++ bytesLe 8 0 ++ bytesLe 8 time⟩

/-- A management request completes: a record on its queue's ring, or the status in MSTAT (13 R271, R274). -/
def mgmtDone (s : State) (src : Src) (status result : Nat) : State :=
  match src.queue with
  | some q =>
    let t := freshTime s
    modQueue (post t.1 q (mgmtRecord src q status result t.2)) q fun x =>
      if src.idx = (x.ridx + 2 ^ 32 - 1) % 2 ^ 32 then { x with busy := false, since := s.ctl.clk } else x
  | none => setHost s { s.host with busy := false, mstatus := status }

/-- The ring that a request's completion goes to can take one more record (13 R275). -/
def srcCan (s : State) (src : Src) : Bool :=
  src.queue.all (canPost s)

/-- The effect of a write to GO: 1 runs the mailbox packet, but not while BUSY is set (13 R271). -/
def runMailbox (s : State) (v : Nat) : State :=
  if v ≠ 1 ∨ s.host.busy then s
  else setHost s { s.host with busy := true, mgmt := s.host.mgmt ++ [mgmtReqOf none 0 true s.host.mailbox] }

/-- GO (95; 13 R271). -/
def execGo (v : W64) (s : State) : Host.Outcome State Fault Refusal := .next (runMailbox s v.toNat)

/-! ### BAR0 (13 R271) -/

/-- Bytes laid over an 8-byte register. -/
def mergeReg (old off : Nat) (data : List Byte) : Nat :=
  natLe ((List.range 8).map fun i => if off ≤ i ∧ i < off + data.length then data.getD (i - off) 0
    else (bytesLe 8 old).getD i 0)

/-- APBASE takes multiples of 64 GiB (assumption 11). -/
def writeApbase (s : State) (v : Nat) : State :=
  if v % 2 ^ 36 = 0 then setHost s { s.host with apbase := v } else s

/-- Bytes of the mailbox written. -/
def writeMailbox (s : State) (off : Nat) (data : List Byte) : State :=
  setHost s { s.host with
    mailbox := (List.range 64).map fun i =>
      if off ≤ i ∧ i < off + data.length then data.getD (i - off) 0 else s.host.mailbox.getD i 0 }

/-- A host write to BAR0 by offset; the enumeration table, MSTAT and every unlisted offset discard it (13 R271; 01
R18). -/
def barWrite (s : State) (off : Nat) (data : List Byte) : State :=
  if off < 0x40000 then if off % 8 = 0 then ringDoorbell s (off / 8) (natLe (data.take 4)) else s
  else if 0x50000 ≤ off ∧ off < 0x50040 then writeMailbox s (off - 0x50000) data
  else if off = 0x50040 then runMailbox s (natLe (data.take 8))
  else if 0x50080 ≤ off ∧ off < 0x50088 then writeApbase s (mergeReg s.host.apbase (off - 0x50080) data)
  else if 0x80000 ≤ off ∧ off < 0xC0000 then
    if off % 8 = 0 then ringHead s ((off - 0x80000) / 8) (natLe (data.take 8)) else s
  else s

/-- BAR_REGISTER_WRITE (95; 13 R271). -/
def execBarRegisterWrite (off : Nat) (data : List Byte) (s : State) : Host.Outcome State Fault Refusal :=
  .next (barWrite s off data)

/-- A register of 8 bytes at an offset, byte by byte. -/
def regByte (v k : Nat) : Byte := (bytesLe 8 v).getD k 0

/-- MSTAT (13 R271). -/
def mstatOf (s : State) : Nat := s.host.busy.toNat + 256 * s.host.mstatus

/-- A byte of BAR0 as the host reads it (13 R271; 01 R18): doorbells read zero; so do GO and every offset that the table
does not list (assumption 11). -/
def barByte (s : State) (off : Nat) : Byte :=
  if 0x40000 ≤ off ∧ off < 0x50000 then (enumRead s.part (off - 0x40000) 1).getD 0 0
  else if 0x50000 ≤ off ∧ off < 0x50040 then s.host.mailbox.getD (off - 0x50000) 0
  else if 0x50048 ≤ off ∧ off < 0x50050 then regByte (mstatOf s) (off - 0x50048)
  else if 0x50080 ≤ off ∧ off < 0x50088 then regByte s.host.apbase (off - 0x50080)
  else 0

/-- What the host gets back from a read or AtomicOp that succeeds. -/
def answerHost (s : State) (bs : List Byte) : State := setHost s { s.host with barOut := bs, barStat := 0 }

/-- What the host gets back from one that does not: 1 Unsupported Request, 2 a completer abort. -/
def abortHost (s : State) (stat : Nat) : State := setHost s { s.host with barOut := [], barStat := stat }

/-- A host read of BAR0. -/
def barRead (s : State) (off n : Nat) : State := answerHost s ((List.range n).map fun k => barByte s (off + k))

/-! ### BAR2 (13 R271; 06 R139, R140; 07 R156) -/

/-- The place and length of a host access. -/
def HostAcc.span : HostAcc → Nat × Nat
  | .read pa n => (pa, n)
  | .write pa d => (pa, d.length)
  | .atomic _ wide pa _ _ => (pa, if wide then 8 else 4)

/-- The bytes have a home and lie in no poisoned region. -/
def hostReach (s : State) (pa n : Nat) : Bool :=
  decide (pa + n ≤ hbmSize s.part.dies) && !((linesOf pa n).any fun k => poisoned s.mem (k * 128))

/-- A write of a host agent at the home of its lines: no die keeps a guest copy, and monitors fire. -/
def hostWriteHbm (s : State) (pa : Nat) (d : List Byte) : State :=
  let s := setMem (dropFront s (linesOf pa d.length)) (writeHbm s.mem pa d)
  (linesOf pa d.length).foldl (fun s k => fireLine (l2Write s 255 (k * 128)) (.hbm k)) s

/-- The new value of a host AtomicOp: ADD, EXCH, or CAS of `x` to `y` (06 R139). -/
def hostOpNew (op : HostOp) (n old x y : Nat) : Nat :=
  match op with
  | .add => (old + x) % 2 ^ n
  | .exch => x % 2 ^ n
  | .cas => if old = x % 2 ^ n then y % 2 ^ n else old

/-- One host access served at the home of its lines; a poisoned region answers with a completer abort (01 R26). -/
def serveHost (s : State) (a : HostAcc) : State :=
  let sp := a.span
  if !hostReach s sp.1 sp.2 then abortHost s 2
  else match a with
    | .read pa n => answerHost s (readHbm s.mem pa n)
    | .write pa d => hostWriteHbm s pa d
    | .atomic op wide pa x y =>
      let n := if wide then 8 else 4
      let old := readHbm s.mem pa n
      answerHost (hostWriteHbm s pa (bytesLe n (hostOpNew op (8 * n) (natLe old) x.toNat y.toNat))) old

/-- Serves the host's accesses in order, up to the first whose lines an engine transfer owns. -/
def serveStalled : Nat → State → State
  | 0, s => s
  | n + 1, s =>
    match s.host.stalled with
    | [] => s
    | a :: t =>
      if ownedBy s.run.xfers 0 a.span.1 a.span.2 then s
      else serveStalled n (serveHost (setHost s { s.host with stalled := t }) a)

/-- A host access through BAR2 arrives: behind those that wait. -/
def hostAccess (s : State) (a : HostAcc) : State :=
  let s := setHost s { s.host with stalled := s.host.stalled ++ [a] }
  serveStalled s.host.stalled.length s

/-- BAR2_ACCESS (95; 13 R271): a read of as many bytes as `data` has, or a write. -/
def execBar2Access (write : Bool) (off : Nat) (data : List Byte) (s : State) : Host.Outcome State Fault Refusal :=
  .next (if 2 ^ 36 < off + data.length then s
    else hostAccess s (if write then .write (s.host.apbase + off) data else .read (s.host.apbase + off) data.length))

/-- BAR2_ATOMIC (95; 13 R270, R271; 06 R139): an operand that is not naturally aligned has no place in the aperture, and a
128-bit one is answered with Unsupported Request. -/
def execBar2Atomic (op : HostOp) (width : HostWidth) (off : Nat) (x y : W64) (s : State) :
    Host.Outcome State Fault Refusal :=
  let go (wide : Bool) (n : Nat) : State :=
    if 2 ^ 36 < off + n ∨ off % n ≠ 0 then s else hostAccess s (.atomic op wide (s.host.apbase + off) x y)
  .next (match width with
    | .w32 => go false 4
    | .w64 => go true 8
    | .w128 => abortHost s 1)

/-! ### Head packets (10 R213; 13 R276) -/

/-- The packet at the head of a queue, when it has one. -/
def headPacket (s : State) (q : Nat) : Option (Queue × List Byte) :=
  match kfind s.host.queues q with
  | none => none
  | some x =>
    if x.ridx = x.widx then none
    else some (x, readCells s.mem.host (x.ring + x.ridx % 2 ^ x.size * 64) 64)

/-- `n` bytes of a block at an offset, as a number. -/
def fieldAt (bs : List Byte) (off n : Nat) : Nat := natLe ((bs.drop off).take n)

/-- The bytes [off, off + n) of a block are zero. -/
def zeroAt (bs : List Byte) (off n : Nat) : Bool := ((bs.drop off).take n).all fun b => b == 0

/-- A launch packet (13 R276). -/
def packetOf (bs : List Byte) : Packet where
  launchid := BitVec.ofNat 32 (fieldAt bs 0 4)
  clean := fieldAt bs 5 1 / 64 == 0 && fieldAt bs 6 1 / 128 == 0 && zeroAt bs 7 1 && zeroAt bs 40 24
  mode := fieldAt bs 5 1 % 4
  txn := tbit (fieldAt bs 5 1) 2
  det := if bits (fieldAt bs 5 1) 3 2 = 3 then 0 else bits (fieldAt bs 5 1) 3 2
  nopred := tbit (fieldAt bs 5 1) 5
  prio := fieldAt bs 6 1 % 128
  image := fieldAt bs 8 8
  lcount := fieldAt bs 16 4
  gnode := fieldAt bs 20 4 % 2 ^ 18
  npred := fieldAt bs 20 4 / 2 ^ 18
  args := BitVec.ofNat 64 (fieldAt bs 24 8)
  ext := fieldAt bs 32 8

/-- KIND of a packet. -/
def packetKind (bs : List Byte) : Nat := fieldAt bs 4 1

/-- RIDX moves past the head packet; the queue waits for the packet's completion (10 R213). -/
def passHead (s : State) (q : Nat) : State :=
  modQueue s q fun x => { x with ridx := (x.ridx + 1) % 2 ^ 32, busy := true, since := s.ctl.clk }

/-- A launch of a packet, with a fresh number. -/
def newLaunch (s : State) (q : Nat) (x : Queue) (bs : List Byte) (st : LStat) (ready : Bool) (since : Nat) :
    Nat × State :=
  let l : Launch := { Launch.fresh with
    queue := q
    pktIdx := x.ridx
    asid := x.asid
    ceil := x.ceil
    pkt := packetOf bs
    stat := st
    ready := ready
    since := since }
  (s.ctl.serial, bumpSerial { s with run := { s.run with launches := kins s.run.launches s.ctl.serial l } })

/-- The head packet of the queue names a graph node. -/
def headNode (s : State) (q : Nat) : Bool :=
  match headPacket s q with
  | some (_, bs) => packetKind bs == 0 && !((packetOf bs).gnode == 0)
  | none => false

/-- GRAPH_NODE_REGISTER (95; 10 R213, R215): the packet registers as soon as it reaches the head, and the queue moves
on. -/
def execGraphNodeRegister (q : Nat) (s : State) : Host.Outcome State Fault Refusal :=
  .next (match headPacket s q with
    | none => s
    | some (x, bs) =>
      if !headNode s q || inSafe s then s
      else
        let p := packetOf bs
        let r := newLaunch s q x bs .node false s.ctl.clk
        registerNode (passHead r.2 q) p.gnode p.npred r.1)

/-- The head packet of the queue is eligible and its KIND is neither 0 nor 1. -/
def headBad (s : State) (q : Nat) : Bool :=
  match headPacket s q with
  | some (x, bs) => !x.busy && decide (2 ≤ packetKind bs)
  | none => false

/-- PACKET_BAD_KIND (95; 13 R276): the packet completes as a management packet with BAD_REQ. -/
def execPacketBadKind (q : Nat) (s : State) : Host.Outcome State Fault Refusal :=
  .next (match headPacket s q with
    | none => s
    | some (x, bs) =>
      if !headBad s q || inSafe s || !canPost s q then s
      else mgmtDone (passHead s q) (mgmtReqOf (some q) x.ridx true bs).src 6 0)

end Sys2Proof.Machine
end

