-- ==== Sys2Proof/Machine/Control.lean ====
section
/-! DEFINITION. Branches, the reconvergence stack, EXIT, NOP, YIELD and LOOP (03 R62 to R68; 15 R317 to R322, R332;
17 R376, R383, R389, R391; 18 R423). -/

namespace Sys2Proof.Machine

/-- An address of 56 bits. -/
def pcWrap (x : Int) : Nat := wrapNat 56 x

/-- a + 4 * sext(off) for an offset of n bits. -/
def branchTo (a n off : Nat) : Nat := pcWrap (Int.ofNat a + 4 * sextNat n off)

/-- A target held in an s-register: bits [55:0], bits [1:0] read as zero (15 R321). -/
def targetOf (x : W64) : Nat := x.toNat % 2 ^ 56 / 4 * 4

/-- The active lanes where a branch condition holds: p_P(l) xor NEG (15 R317, R319). -/
def condLanes (g : Group) (p : Nat) (neg : Bool) : Mask := (if neg then ~~~(rdP g p) else rdP g p) &&& g.active

/-- The issue of an instruction that reads and writes no register. -/
def plain (i : Instr) (pol : Pol) (pre : Ctx → Option Out) (body : Ctx → State → Out) : Meaning :=
  { i := i, pol := pol, regs := fun _ => noRegs, dst := fun _ => dstNone, pre := pre, body := body }

/-! ### The stack's spill area (03 R66) -/

/-- The group's stack, its spilled slots as memory holds them. -/
def stackOf (c : Ctx) : List Entry := stackNow c.s0 c.w c.g

/-- An instruction that leaves the stack `st`: what that spills is written, and it parks on a fault record when a slot
that it spills or refills does not translate, having changed nothing (06 R135, R136, KIND 6). -/
def withSpill (c : Ctx) (s : State) (st : List Entry) (o : State → Out) : Out :=
  let a := slotsOf c.g.stack
  match spillFault c.s0 c.w c.g a (slotsOf st) with
  | none => o (spillOut s c.w c.g a st)
  | some (va, k) =>
    if k = walkBusy ∨ poolFull c.s0 c.w.die c.w.asid va (decide (a < slotsOf st)) then .wait .memory
    else .park (openFaultAs (decide (a < slotsOf st)) c.s0 c.w.die c.w.asid va 6 k false c.w.core (.group c.gid))
      c.g.active false

/-! ### BRA and BDIV -/

/-- A ninth subgroup would be needed (03 R68): DIVERGE goes to firmware, which parks the group (assumption 22), unless it aborts
an open transaction (08 R186). -/
def splitFull (c : Ctx) (s : State) (t : Mask) : State :=
  match grp s c.gid with
  | none => s
  | some g =>
    firmwareTrap s c.gid g ⟨cDIVERGE, t, g.active, true, false, c.dst, 0, c.first, c.next⟩

/-- A mixed condition in split mode splits the subgroup (03 R68). -/
def splitAt (c : Ctx) (s : State) (tab : List SplitEntry) (i : Nat) (t : Mask) (target : Nat) : Out :=
  if 8 ≤ tab.length then .hold (splitFull c c.s0 t) .other
  else
    let e := tab.getD i ⟨0, 0, 0, none⟩
    let tab' := tab.take i ++ [⟨target, t, e.parent, none⟩, ⟨c.next, c.g.active &&& ~~~t, e.parent, none⟩] ++ tab.drop (i + 1)
    .jump (modGrp s c.gid fun g => { g with split := some (tab', i), active := t }) target

/-- BRA to a target under a condition mask (15 R319). -/
def braTo (c : Ctx) (s : State) (t : Mask) (target : Nat) : Out :=
  if t = c.g.active then .jump s target
  else if t = 0 then .done s
  else match c.g.split with
    | some (tab, i) => splitAt c s tab i t target
    | none => .trap ⟨cDIVERGE, t, none, c.dst⟩

/-- BRA (15 R319). -/
def execBra (f : BF) (s : State) : Host.Outcome State Fault Refusal :=
  issue (plain (.bra f) .none (fun _ => none) fun c s =>
    braTo c s (condLanes c.g f.p.toNat f.neg) (branchTo c.pc 22 f.off.toNat)) s

/-- The top of the stack is the DIV entry of an address. -/
def topIsDiv (st : List Entry) (pc : Nat) : Bool :=
  match st with
  | .div a _ :: _ => a == pc
  | _ => false

/-- The entries a divergent BDIV pushes, top first, and the lanes and address that go on (03 R63). -/
def bdivSplit (g : Group) (t : Mask) (tpc rpc nt : Nat) : List Entry × Mask × Nat :=
  let n := g.active &&& ~~~t
  let base : List Entry := if topIsDiv g.stack rpc then [] else [.div rpc g.active]
  if tpc ≠ rpc then ((if nt ≠ rpc then [.pend nt n] else []) ++ base, t, tpc)
  else (base, n, nt)

/-- The effect of BDIV (03 R63, R66). -/
def bdivRun (f : BDF) (c : Ctx) (s : State) : Out :=
  let t := condLanes c.g f.p.toNat f.neg
  let tpc := branchTo c.pc 11 f.toff.toNat
  let rpc := branchTo c.pc 11 f.roff.toNat
  if c.g.split.isSome then braTo c s t tpc
  else if t = c.g.active then .jump s tpc
  else if t = 0 then .done s
  else
    let r := bdivSplit { c.g with stack := stackOf c } t tpc rpc c.next
    if !r.1.isEmpty && decide (stackMax c.w.l.img < slotsOf c.g.stack + r.1.length + 4) then
      .trap ⟨cSTACK, BitVec.ofNat 64 (slotsOf c.g.stack), none, c.dst⟩
    else withSpill c s (r.1 ++ stackOf c) fun s =>
      .jump (modGrp s c.gid fun g => { g with stack := r.1 ++ stackOf c, active := r.2.1 }) r.2.2

/-- BDIV (15 R317). -/
def execBdiv (f : BDF) (s : State) : Host.Outcome State Fault Refusal :=
  issue (plain (.bdiv f) .none (fun _ => none) (bdivRun f)) s

/-! ### RCV -/

/-- The entry below the top is for an address. -/
def belowIs (t : List Entry) (a : Nat) : Bool :=
  match t with
  | .div p _ :: _ => p == a
  | .pend p _ :: _ => p == a
  | _ => false

/-- The pops of RCV at `a` (03 R64): the stack, the lanes and the address that go on. -/
def rcvPops (a nt : Nat) : List Entry → Mask → List Entry × Mask × Nat
  | [], m => ([], m, nt)
  | .pend p k :: t, m =>
    if belowIs t a then (if k = 0 then rcvPops a nt t m else (t, k, p)) else (.pend p k :: t, m, nt)
  | .div p k :: t, m => if p = a then rcvPops a nt t k else (.div p k :: t, m, nt)
  | .trap e :: t, m => (.trap e :: t, m, nt)

/-- RCV (17 R389). -/
def execRcv (s : State) : Host.Outcome State Fault Refusal :=
  issue (plain .rcv .none (fun _ => none) fun c s =>
    if c.g.split.isSome then .done s
    else
      let r := rcvPops c.pc c.next (stackOf c) c.g.active
      withSpill c s r.1 fun s => .jump (modGrp s c.gid fun g => { g with stack := r.1, active := r.2.1 }) r.2.2) s

/-! ### Calls, indirect branches, LOOP -/

/-- CALL (15 R322). -/
def execCall (f : JF) (s : State) : Host.Outcome State Fault Refusal :=
  issue
    { i := .call f
      pol := .once
      regs := fun _ => ⟨[], [], [(true, 62)]⟩
      dst := fun _ => dstS 62
      pre := fun _ => none
      body := fun c s =>
        .jump (modGrp s c.gid fun g => wrS g 62 (BitVec.ofNat 64 (c.pc + 4))) (branchTo c.pc 26 f.off.toNat) } s

/-- CALLX (15 R322): S is read before the link is written. -/
def execCallx (f : KF) (s : State) : Host.Outcome State Fault Refusal :=
  issue
    { i := .callx f
      pol := .once
      regs := fun _ => ⟨[(true, f.s.toNat)], [], [(true, 62)]⟩
      dst := fun _ => dstS 62
      pre := fun _ => none
      body := fun c s =>
        .jump (modGrp s c.gid fun g => wrS g 62 (BitVec.ofNat 64 (c.pc + 4))) (targetOf (rdS c.g f.s.toNat)) } s

/-- A jump to an s-register. -/
def indirect (i : Instr) (r : Nat) : Meaning :=
  { i := i
    pol := .once
    regs := fun _ => ⟨[(true, r)], [], []⟩
    dst := fun _ => dstNone
    pre := fun _ => none
    body := fun c s => .jump s (targetOf (rdS c.g r)) }

/-- RET (17 R391). -/
def execRet (f : KF) (s : State) : Host.Outcome State Fault Refusal := issue (indirect (.ret f) f.s.toNat) s
/-- BRX (15 R321). -/
def execBrx (f : KF) (s : State) : Host.Outcome State Fault Refusal := issue (indirect (.brx f) f.s.toNat) s

/-- LOOP (17 R376). -/
def execLoop (f : LPF) (s : State) : Host.Outcome State Fault Refusal :=
  issue
    { i := .loop f
      pol := .once
      regs := fun _ => ⟨[(true, f.s.toNat)], [], [(true, f.s.toNat)]⟩
      dst := fun _ => dstS f.s.toNat
      pre := fun c => firstTrap [regTrap c (!(f.s == 63))]
      body := fun c s =>
        let n := rdS c.g f.s.toNat - 1
        .jump (modGrp s c.gid fun g => wrS g f.s.toNat n)
          (if n = 0 then c.next else branchTo c.pc 20 f.off.toNat) } s

/-! ### EXIT, NOP, YIELD -/

/-- The effect of EXIT on its executing lanes (15 R332; 11 R242). -/
def exitRun (c : Ctx) (s : State) : Out :=
  if c.x = 0 then .done s
  else match exitLanes { c.g with stack := stackOf c } c.x with
    | none => withSpill c s [] fun s =>
      .jump (groupEnds (modGrp s c.gid fun g => { g with exited := g.exited ||| c.x, stack := [] }) c.gid) c.next
    | some g1 => withSpill c s g1.stack fun s =>
      .jump (setGrp s c.gid g1) (if g1.active &&& ~~~(c.g.active &&& ~~~c.x) = 0 then c.next else g1.pc)

/-- EXIT (15 R332). -/
def execExit (s : State) : Host.Outcome State Fault Refusal :=
  issue (plain .exit .lanes (fun _ => none) exitRun) s

/-- NOP (17 R383). -/
def execNop (s : State) : Host.Outcome State Fault Refusal :=
  issue (plain .nop .lanes (fun _ => none) fun _ s => .done s) s

/-- YIELD (18 R423): a pre-emption point when some lane executes it. -/
def execYield (s : State) : Host.Outcome State Fault Refusal :=
  issue (plain .yield .lanes (fun _ => none) fun c s =>
    .done (if c.x = 0 then s else if pointDue c then stopAfter s c .yield else countPoint s c)) s

end Sys2Proof.Machine
end

