-- ==== Sys2Proof/Machine/Histogram.lean ====
section
/-! DEFINITION. The error histograms (11 R258): counting an error in a bucket and the event at its threshold. -/

namespace Sys2Proof.Machine

/-- The next error in a bucket reaches the threshold, and posts an event. -/
def countPosts (s : State) (hist unit bucket : Nat) : Bool :=
  (s.part.hists[hist]?).any fun h =>
    let old := kget 0 h.counts (unit % 65536 * 65536 + bucket % 65536)
    decide (old < 65535) && old + 1 == h.thresh

/-- The unit that counts waits for the ring of queue 0 to take its event (13 R275). -/
def countWaits (s : State) (hist unit bucket : Nat) : Bool := countPosts s hist unit bucket && !canPost s 0

/-- One more error in a bucket: the count saturates at 16 bits; reaching the threshold posts the event (13 R274,
type 9). A threshold of 0 posts nothing (assumption 9). -/
def countError (s : State) (hist unit bucket : Nat) : State :=
  match s.part.hists[hist]? with
  | none => s
  | some h =>
    let k := unit % 65536 * 65536 + bucket % 65536
    let old := kget 0 h.counts k
    if 65535 ≤ old then s
    else
      let h' := { h with counts := kput 0 h.counts k (old + 1) }
      let s := { s with part := { s.part with hists := s.part.hists.set hist h' } }
      if old + 1 = h.thresh then
        postEvent s 9 0 (bytesLe 1 hist ++ bytesLe 1 0 ++ bytesLe 2 unit ++ bytesLe 2 bucket ++ bytesLe 2 (old + 1))
      else s

/-- Writes every histogram to the signed store (11 R258). -/
def writeHists (s : State) : State :=
  { s with part := { s.part with hists := s.part.hists.map fun h => { h with written := h.counts } } }

end Sys2Proof.Machine
end

