-- ==== Sys2Proof/Machine/SysReg.lean ====
section
/-! DEFINITION. State registers, software traps and returns from traps (04 R92, R93; 11 R239 to R243, R253 to R255;
15 R324; 18 R400, R402 to R404, R414, R416). -/

namespace Sys2Proof.Machine

/-! ### Values of the state registers (04 R93) -/

/-- The class V registers (04 R93). -/
def isClassV (idx : Nat) : Bool := [0x000, 0x020, 0x041, 0x042, 0x04D].contains idx

/-- The class S registers. -/
def isClassS (idx : Nat) : Bool :=
  decide (1 ≤ idx ∧ idx ≤ 0x1F) || decide (0x21 ≤ idx ∧ idx ≤ 0x28) ||
    [0x040, 0x048, 0x049, 0x04A, 0x04B, 0x04C, 0x04E, 0x04F, 0x050, 0x051, 0x052, 0x053, 0x060, 0x061, 0x062, 0x070,
      0x071, 0x080, 0x081, 0x082, 0x090, 0x091, 0x0A0, 0x0B0].contains idx

/-- A class V register of a lane. -/
def regV (c : Ctx) (idx l : Nat) : Nat :=
  match idx with
  | 0x000 => lidx c.w.l.img 0 (groupNumber c.w.l c.w.it c.g.gidx) l
  | 0x020 => l
  | 0x041 => (kget 0 c.g.fpflags l).toNat
  | 0x042 => (kget 0 c.g.satf l).toNat
  | _ => (kget 0 c.g.trapres l).toNat

/-- DEADREAD (04 R86). -/
def deadreadOf (g : Group) : Nat := g.seen.toNat + 2 * g.firstreg + 128 * g.dfile.toNat + 256 * g.trapen.toNat

/-- FOOTPRINT (04 R85). Instructions read their operands as they issue, so no superseded version is held. -/
def footprintOf (g : Group) : Nat :=
  liveCount g false + 2 ^ 16 * liveCount g false + 2 ^ 24 * liveCount g true + 2 ^ 32 * liveCount g true
    + 2 ^ 40 * g.bound.length

/-- TXSTAT (08 R179). -/
def txstatOf (i : Item) : Nat :=
  i.txOpen.toNat + 2 * i.trip.toNat + 4 * i.range.toNat + 8 * i.canc.toNat + 16 * i.ord.toNat + 256 * i.attempt
    + 65536 * i.clvl

/-- TBAND (02 R30). -/
def tbandOf (y : Cryo) : Nat := y.band + 4 * y.ramp.toNat + 8 * y.sensflt.toNat + 16 * (y.temp / 100 % 4096)

/-- TIMCLASS (02 R35). -/
def timclassOf (y : Cryo) : Nat := y.cls + 4 * y.change.isSome.toNat + 16 * y.state + 256 * y.chg

/-- The longest time to the next window, and to the end of the open one, in 10 ns (06 R122): 125 ms and 40 µs in class 0,
250 µs and 64 µs in classes 1 and 2. -/
def windowSpacing (long : Bool) : Nat := if long then 25000 else 12500000
def windowLength (w : WsWin) : Nat := if w.long then 6400 else 4000

/-- The cadence in force is that of classes 1 and 2: from the decision to leave class 0 on (06 R438). -/
def longCadence (c : Cryo) : Bool := !(c.cls == 0) || c.change.any fun k => !(k.target == 0)

/-- The time from the end of the open window to the next one (06 R122): none where the cadence of classes 1 and 2 begins with
that end (R438). -/
def windowGap (w : WsWin) (long : Bool) : Nat := if long && !w.long then 0 else windowSpacing long - windowLength w

/-- WSWIN (06 R123): the time to the next window, or with one open the time until it ends, comes from the die's window timer, a
free value within its bounds (assumption 15); the other of the two follows from it (R122). -/
def wswinOf (w : WsWin) (long : Bool) (timer : Nat) : Nat :=
  match w.openBg with
  | some b =>
    let rem := timer % (windowLength w + 1)
    rem + windowGap w long + 2 ^ 32 * w.next + 2 ^ 36 + 2 ^ 40 * b + 2 ^ 48 * rem
  | none => timer % (windowSpacing long + 1) + 2 ^ 32 * w.next

/-- DETMODE (12 R259). -/
def detmodeOf (l : Launch) : Nat := l.pkt.det + 4 * l.logfull.toNat + 8 * l.diverged.toNat

/-- HEATNO (12 R260): the heat of the lowest level named by a HEAT of the thread's instance. -/
def heatnoOf (l : Launch) (n : Nat) : Nat :=
  let hs := l.heats.filter fun h => instAt l.img h.level n == h.inst
  match hs with
  | [] => 0
  | h :: t => (t.foldl (fun a x => if x.level < a.level then x else a) h).count

/-- PACERQ (10 R228). -/
def pacerqOf (q : PacerQ) : Nat :=
  q.units + 2 ^ 16 * q.pend.isSome.toNat + 2 ^ 17 * q.held.isSome.toNat + 2 ^ 32 * (q.held.getD 0 / 65536 % 65536)

/-- A class S register as it stands (04 R93; 18 R403). -/
def regS (c : Ctx) (idx : Nat) : Nat :=
  let l := c.w.l
  let n := groupNumber l c.w.it c.g.gidx
  if idx ≤ 0x0F then lidx l.img idx n 0
  else if idx ≤ 0x1F then ldim l.img l.pkt.lcount (idx - 0x10)
  else match idx with
  | 0x021 => c.gid % 32
  | 0x022 => c.w.core
  | 0x023 => if hasCluster l.img then c.w.it.cores.headD 0 else 0xFFFFFFFF
  | 0x024 => c.w.die
  | 0x025 => c.s0.part.pkgid
  | 0x026 => c.s0.part.nodeid
  | 0x027 => l.pkt.launchid.toNat
  | 0x028 => depth l.img
  | 0x040 => c.g.fpmode.toNat
  | 0x048 => c.g.trapvec
  | 0x049 => c.g.trapcause
  | 0x04A => c.g.trappc
  | 0x04B => c.g.traplanes.toNat
  | 0x04C => c.g.trapdst
  | 0x04E => c.g.trapinfo.toNat
  | 0x04F => c.g.gdone.toNat
  | 0x050 => slotsOf c.g.stack
  | 0x051 => c.g.sig.toNat
  | 0x052 => footprintOf c.g
  | 0x053 => deadreadOf c.g
  | 0x060 => c.w.it.rung + 4 * c.w.it.pred
  | 0x061 => txstatOf c.w.it
  | 0x062 => c.w.it.index
  | 0x071 => l.pkt.prio
  | 0x080 => tbandOf c.s0.part.cryo
  | 0x081 => timclassOf c.s0.part.cryo
  | 0x082 => wswinOf (c.s0.part.ws.getD c.w.die WsWin.idle) (longCadence c.s0.part.cryo) (Config.freeWindow c.s0.ctl.nonce)
  | 0x090 => detmodeOf l
  | 0x091 => heatnoOf l n
  | 0x0A0 => pacerqOf c.g.pq
  | 0x0B0 => c.g.checkn
  | _ => 0

/-- The reads that RECORD keeps (12 R265). -/
def isRecorded (idx : Nat) : Bool :=
  decide (0x21 ≤ idx ∧ idx ≤ 0x24) || [0x052, 0x061, 0x080, 0x081, 0x082, 0x0A0].contains idx

/-! ### SRD -/

/-- The index is one user code may name (18 R402). -/
def idxTrap (c : Ctx) (idx : Nat) : Option Tr :=
  if isClassV idx || isClassS idx then none else some (badOperand c.word c.dst)

/-- A read of WORK goes to the distributor (10 R223; 95): the destination is written when it is served. -/
def askWork (c : Ctx) (s : State) (d : Nat) : State :=
  modLaunch s c.g.launch fun l => { l with workQ := l.workQ ++ [⟨c.gid, d⟩] }

/-- The effect of SRD. -/
def srdRun (f : SF) (c : Ctx) (s : State) : Out :=
  let idx := f.idx.toNat
  if isClassV idx then
    .done (modGrp s c.gid fun g => wrV g f.d.toNat c.x fun l => BitVec.ofNat 32 (regV c idx l))
  else if idx = 0x070 then .done (askWork c s f.d.toNat)
  else
    let s := if idx = 0x082 then bumpNonce s else s
    let v := regS c idx
    let r := if isRecorded idx then recRead s c.g.launch c.w.it.index c.g.gidx idx v else (v, s)
    .done (modGrp r.2 c.gid fun g => wrS g f.d.toNat (BitVec.ofNat 64 r.1))

/-- SRD (18 R402, R403). -/
def execSrd (f : SF) (s : State) : Host.Outcome State Fault Refusal :=
  issue
    { i := .srd f
      pol := if isClassS f.idx.toNat then .once else .lanes
      regs := fun _ => ⟨[], [], [(isClassS f.idx.toNat, f.d.toNat)]⟩
      dst := fun _ => if isClassS f.idx.toNat then dstS f.d.toNat else dstV f.d.toNat
      pre := fun c => firstTrap [idxTrap c f.idx.toNat]
      body := srdRun f } s

/-! ### SWR -/

/-- A write of a lane's class V register (18 R404). -/
def setV (g : Group) (idx l : Nat) (x : W32) : Group :=
  match idx with
  | 0x041 =>
    let old := kget 0 g.fpflags l
    { g with fpflags := kput 0 g.fpflags l (old &&& ~~~(x.setWidth 5)) }
  | 0x042 =>
    let old := kget 0 g.satf l
    { g with satf := kput 0 g.satf l (old &&& ~~~(x.setWidth 2)) }
  | 0x04D => { g with trapres := kput 0 g.trapres l x }
  | _ => g

/-- A write of a class S register (18 R404). PACERQ is served before the group goes on (PACERQ_WRITE, 95). -/
def setS (g : Group) (idx : Nat) (x : W64) : Group :=
  match idx with
  | 0x040 => { g with fpmode := x.setWidth 9 }
  | 0x048 => { g with trapvec := x.toNat % 2 ^ 56 / 4 * 4 }
  | 0x053 => { g with seen := g.seen && !(tbit x.toNat 0), trapen := tbit x.toNat 8 }
  | 0x0A0 => { g with pq := { g.pq with write := some (x.toNat % 65536) } }
  | 0x0B0 => { g with checkn := min 16 (x.toNat % 32) }
  | _ => g

/-- The effect of SWR. -/
def swrRun (f : SF) (c : Ctx) (s : State) : Out :=
  let idx := f.idx.toNat
  if isClassV idx then
    .done (modGrp s c.gid fun g => (Mask.list c.x).foldl (fun g l => setV g idx l (rdVl c.g f.d.toNat l)) g)
  else .done (modGrp s c.gid fun g => setS g idx (rdS c.g f.d.toNat))

/-- SWR (18 R402, R404). -/
def execSwr (f : SF) (s : State) : Host.Outcome State Fault Refusal :=
  issue
    { i := .swr f
      pol := if isClassS f.idx.toNat then .once else .lanes
      regs := fun _ => ⟨[(isClassS f.idx.toNat, f.d.toNat)], [], []⟩
      dst := fun _ => dstNone
      pre := fun c => firstTrap [idxTrap c f.idx.toNat]
      body := swrRun f } s

/-! ### WORK_READ and PACERQ_WRITE (95) -/

/-- First iteration of work item w under SPLIT (10 R222). -/
def splitStart (l : Launch) (w : Nat) : Nat := w * (l.ext.ntiles * l.ext.iters) / itemCount l

/-- The work items whose ranges meet the iterations [a, b) with at least one iteration, up to w. -/
def segmentsBefore (l : Launch) (a w : Nat) : Nat :=
  ((List.range w).filter fun v => decide (splitStart l v < splitStart l (v + 1)) && decide (a < splitStart l (v + 1))).length

/-- A WORK value (10 R223). -/
def workValue (tile seg nsegm1 kbegin kcount : Nat) : Nat :=
  tile + 2 ^ 22 * seg + 2 ^ 28 * nsegm1 + 2 ^ 36 * kbegin + 2 ^ 50 * kcount

def workDone : Nat := 2 ^ 34

/-- The segment that iteration g of work item w begins, and the iterations in it (10 R222, R223). -/
def splitSegment (l : Launch) (w g : Nat) : Nat × Nat :=
  let it := l.ext.iters
  let tile := g / it
  let stop := min (splitStart l (w + 1)) ((tile + 1) * it)
  let first := tile * it
  let seg := segmentsBefore l first w
  let all := ((List.range (itemCount l)).filter fun v =>
    decide (max first (splitStart l v) < min ((tile + 1) * it) (splitStart l (v + 1)))).length
  (workValue tile seg (all - 1) (g % it) (stop - g), stop - g)

/-- The log entry of a POOL pop (12 R263, KIND 5). -/
def poolEntry (tile item : Nat) : LogEntry := ⟨5, 0, tile + item % 2 ^ 32 * 2 ^ 32⟩

/-- The next tile of a pop under POOL: one that the restarted attempt receives again, the logged one under REPLAY, or
the launch's counter, and a pop that the log does not hold diverges (12 R266, R268); none when the pop must wait for its
turn. -/
def poolPop (s : State) (l : Launch) (lid : Nat) (itk : Nat) (i : Item) : Option (Nat × State) :=
  if i.poppedPos < i.popped.length then
    some (workValue (i.popped.getD i.poppedPos 0) 0 0 0 l.ext.iters,
      modItem s itk fun i => { i with poppedPos := i.poppedPos + 1 })
  else
    let take (s : State) (tile : Nat) : Nat × State :=
      (workValue tile 0 0 0 l.ext.iters, modLaunch (modItem s itk fun i =>
        { i with popped := i.popped ++ [tile], poppedPos := i.poppedPos + 1 }) lid fun l =>
        { l with pool := max l.pool (tile + 1) })
    match (if replaying l then l.replayLog.find? fun e => e.kind == 5 else none) with
    | some e =>
      if e.value / 2 ^ 32 = i.index % 2 ^ 32 then some (take (choose s lid false e) (e.value % 2 ^ 22)) else none
    | none =>
      if l.pool < l.ext.ntiles then some (take (choose s lid false (poolEntry l.pool i.index)) l.pool)
      else some (workDone, s)

/-- The value of a read of WORK by a work item. -/
def workServe (s : State) (lid itk : Nat) (i : Item) : Option (Nat × State) :=
  let l := launchOf s lid
  match l.ext.dkind with
  | 1 =>
    let g := splitStart l i.index + i.cursor
    if g < splitStart l (i.index + 1) then
      let r := splitSegment l i.index g
      some (r.1, modItem s itk fun i => { i with cursor := i.cursor + r.2 })
    else some (workDone, s)
  | 2 => poolPop s l lid itk i
  | _ => some (workDone, s)

/-- Serves the first request of the launch that may be served, in issue order. -/
def serveWork (s : State) (lid : Nat) : List WorkReq → List WorkReq → State
  | _, [] => s
  | before, r :: t =>
    match grp s r.gid with
    | none => modLaunch s lid fun l => { l with workQ := before ++ t }
    | some g =>
      match workServe s lid g.item ((kfind s.run.items g.item).getD Item.fresh) with
      | none => serveWork s lid (before ++ [r]) t
      | some (v, s') =>
        modGrp (modLaunch s' lid fun l => { l with workQ := before ++ t }) r.gid fun g =>
          wrS g r.d (BitVec.ofNat 64 v)

/-- WORK_READ (95; 10 R223). -/
def execWorkRead (lid : Nat) (s : State) : Host.Outcome State Fault Refusal :=
  .next (match kfind s.run.launches lid with
    | none => s
    | some l => serveWork s lid [] l.workQ)

/-- A write to PACERQ served (10 R228): UNITS 0 returns the reservation; another value replaces what is held or asked
for. -/
def pacerqServe (s : State) (gid : Nat) (g : Group) (units : Nat) : State :=
  let s := returnReserve s gid
  let s := modGrp s gid fun g => { g with pq := { g.pq with units := units, write := none } }
  if units = 0 then s
  else
    let s := modGrp s gid fun g => { g with pq := { g.pq with pend := some (units * 65536) } }
    askPacer s ⟨coreDie s.part.dies (gid / 32), .reserve gid, units * 65536, (launchOf s g.launch).pkt.prio⟩

/-- PACERQ_WRITE (95; 10 R228). -/
def execPacerqWrite (gid : Nat) (s : State) : Host.Outcome State Fault Refusal :=
  .next (match grp s gid with
    | some g => match g.pq.write with
      | some u => pacerqServe s gid g u
      | none => s
    | none => s)

/-- PACERQ_RESERVATION_EXPIRY (95; 10 R228): a held reservation unused for 2^16 AC cycles is returned; its coming says
that so many have passed. -/
def execPacerqReservationExpiry (gid : Nat) (s : State) : Host.Outcome State Fault Refusal :=
  .next (match grp s gid with
    | some g => if g.pq.held.isSome then returnReserve (timeAt s (g.pq.since + 2 ^ 16)) gid else s
    | none => s)

/-! ### TRAP, TRET, CLK, SIGCHK -/

/-- TRAP (18 R414): a completing trap in the executing lanes. -/
def execTrap (f : TRAPF) (s : State) : Host.Outcome State Fault Refusal :=
  issue (plain (.trap f) .lanes (fun _ => none) fun c s =>
    if c.x = 0 then .done s
    else .late s ⟨if f.code = 0xFFF then cBREAK else cSOFT, f.code.setWidth 64, some c.x, c.dst⟩) s

/-- The TRAP entry on top of the stack. -/
def topTrap (g : Group) : Option (TrapEntry × List Entry) :=
  match g.stack with
  | .trap e :: t => some (e, t)
  | _ => none

/-- TRET outside a handler (11 R241). -/
def tretPre (c : Ctx) : Option Out :=
  match topTrap c.g with
  | none => some (.trap (illegal c.word c.dst))
  | some _ => none

/-- The register a TRET.FIX writes (11 R239, R241). -/
def fixRegs (g : Group) : Regs :=
  match topTrap g with
  | some (e, _) =>
    if e.dst < 128 then ⟨[], [], [(e.dst / 64 == 1, e.dst % 64)]⟩ else noRegs
  | none => noRegs

/-- TRAPRES into the register that TRAPDST names (11 R241). -/
def fixWrite (g : Group) (e : TrapEntry) : Group :=
  let res (l : Nat) : W32 := kget 0 g.trapres l
  if e.dst < 64 then wrV g e.dst e.lanes res
  else if e.dst < 128 then wrS g (e.dst - 64) ((res (Mask.lowest e.lanes)).setWidth 64)
  else if e.dst < 192 then wrP g (e.dst - 128) e.lanes fun l => (res l).getLsbD 0
  else g

/-- TRET.RETRY (11 R241): the instruction again with its hints; after a partial effect only the lanes left. -/
def execTretRetry (s : State) : Host.Outcome State Fault Refusal :=
  issue (plain .tretRetry .none tretPre fun c s =>
    match topTrap { c.g with stack := stackOf c } with
    | none => .done s
    | some (e, t) =>
      withSpill c s t fun s =>
        .ret (modGrp s c.gid fun g => popTrap g e t e.pc) e.pc (if e.gather then some e.lanes else none)) s

/-- TRET.NEXT (11 R241). -/
def execTretNext (s : State) : Host.Outcome State Fault Refusal :=
  issue (plain .tretNext .none tretPre fun c s =>
    match topTrap { c.g with stack := stackOf c } with
    | none => .done s
    | some (e, t) => withSpill c s t fun s => .jump (modGrp s c.gid fun g => popTrap g e t e.next) e.next) s

/-- TRET.FIX (11 R241). -/
def execTretFix (s : State) : Host.Outcome State Fault Refusal :=
  issue
    { i := .tretFix
      pol := .none
      regs := fixRegs
      dst := fun _ => dstNone
      pre := fun c => match topTrap c.g with
        | none => some (.trap (illegal c.word c.dst))
        | some (e, _) => if 192 ≤ e.dst then some (.trap (badOperand c.word c.dst)) else none
      body := fun c s =>
        match topTrap { c.g with stack := stackOf c } with
        | none => .done s
        | some (e, t) => withSpill c s t fun s =>
          .jump (modGrp s c.gid fun g => popTrap (fixWrite g e) e t e.next) e.next } s

/-- CLK (15 R324): the AC cycle count, which has advanced by a free number of cycles (assumption 2). -/
def execClk (f : CLKF) (s : State) : Host.Outcome State Fault Refusal :=
  issue
    { i := .clk f
      pol := .once
      regs := fun _ => ⟨[], [], [(true, f.d.toNat)]⟩
      dst := fun _ => dstS f.d.toNat
      pre := fun _ => none
      body := fun c s =>
        let n := s.ctl.clk + Config.freeCycles s.ctl.nonce
        let s1 := bumpNonce (timeAt s n)
        let r := recRead s1 c.g.launch c.w.it.index c.g.gidx 0xF00 (n % 2 ^ 64)
        .done (modGrp r.2 c.gid fun g => wrS g f.d.toNat (BitVec.ofNat 64 r.1)) } s

/-- The core site that a mismatch counts against. -/
def siteUnit (c : Ctx) : Nat := c.w.die * 144 + coreSite c.s0.part.dies c.w.core

/-- A mismatch of a subgroup in split mode counts against its lanes (11 R255, R258). -/
def countMismatch (c : Ctx) (s : State) : State :=
  if c.g.split.isNone then s else (Mask.list c.g.active).foldl (fun s l => countError s 0 (siteUnit c) l) s

/-- The events of a mismatch cannot be posted yet (13 R275). -/
def mismatchWaits (c : Ctx) : Bool :=
  c.g.split.isSome
    && !canPosts c.s0 0 ((Mask.list c.g.active).filter fun l => countPosts c.s0 0 (siteUnit c) l).length

/-- SIGCHK (18 R400). -/
def execSigchk (f : SIGF) (s : State) : Host.Outcome State Fault Refusal :=
  issue (plain (.sigchk f) .none (fun _ => none) fun c s =>
    let s1 := modGrp s c.gid fun g => { g with sig := 0 }
    if c.g.sig = f.exp then .done s1
    else if mismatchWaits c then .wait .other
    else .late (countMismatch c s1)
      ⟨cSIG, BitVec.ofNat 64 (c.g.sig.toNat + f.exp.toNat * 2 ^ 32), none, c.dst⟩) s

end Sys2Proof.Machine
end

