-- ==== Sys2Proof/Machine/Bind.lean ====
section
/-! DEFINITION. LAUNCH (95): the choice of a packet (10 R213, R214), the blocks that it names (13 R276, R277; 09 R211;
14 R303 to R305), and the checks of the launch and its tree (03 R47 to R53). -/

namespace Sys2Proof.Machine

/-- Why the reading of a launch stops: a launch fault with its code and level, or a translation fault with its cause and
address (with `walkBusy` in place of a cause: a line that an engine transfer owns). -/
inductive BindStop where
  | fault (code k : Nat)
  | park (cause va : Nat)
  deriving DecidableEq, Repr

/-- LF_RESOURCE at k = 0. -/
def lfResource : BindStop := .fault 7 0

/-! ### Reading (13 R276) -/

/-- A byte of HBM as the front end reads it: from its read buffers where they hold the line (07 R150), and otherwise at the
home, which waits for a line that an engine transfer owns (R156). -/
def frontByte (s : State) (a va : Nat) : Except BindStop Byte :=
  match kfind s.host.febuf (a / 128) with
  | some e => .ok (e.1.getD (a % 128) 0)
  | none => if ownedLoc s (.hbm a) 1 then .error (.park walkBusy va) else .ok ((readHbm s.mem a 1).getD 0 0)

/-- One byte read as a load of the front end, which stands with die 0; poison and a host page that the completer aborts
leave a block unreadable (assumption 26). -/
def feByte (s : State) (asid va : Nat) : Except BindStop Byte :=
  if !inGlobal va 1 then .error lfResource
  else match translate s 0 asid va .load with
    | .error (c, _) => .error (.park c va)
    | .ok t =>
      let a := t.base + (va - t.va)
      if t.host then
        if s.mem.aborts.contains (a / 4096) then .error lfResource else .ok (kget 0 s.mem.host a)
      else if poisoned s.mem a then .error lfResource
      else frontByte s a va

/-- Bytes of a block, in ascending order. -/
def feRead (s : State) (asid : Nat) : Nat → Nat → Except BindStop (List Byte)
  | _, 0 => .ok []
  | va, n + 1 =>
    match feByte s asid va with
    | .error e => .error e
    | .ok b => match feRead s asid (va + 1) n with
      | .error e => .error e
      | .ok t => .ok (b :: t)

/-- A list of records of `size` bytes. -/
def chunksOfBytes (size : Nat) (bs : List Byte) (n : Nat) : List (List Byte) :=
  (List.range n).map fun i => (bs.drop (i * size)).take size

/-- The first of some checks that fails. -/
def firstStop : List (Option BindStop) → Except BindStop Unit
  | [] => .ok ()
  | some e :: _ => .error e
  | none :: t => firstStop t

/-- LF_RESOURCE at k = 0 unless a condition holds. -/
def need (b : Bool) : Except BindStop Unit := if b then .ok () else .error lfResource

/-- The level-use list of a header and what else of it no State field keeps. -/
structure Header where
  img : Image
  lvluse : Nat
  base : Nat
  sectoff : Nat
  nsect : Nat
  depth : Nat
  treeoff : Nat
  nqueue : Nat
  queueoff : Nat
  deriving DecidableEq, Repr

/-! ### Extension block and successor list (13 R277) -/

/-- The extension block; OLOGSIZE and RBUFSIZE in bytes, RELSIZE and RESVSIZE in MiB. -/
def extOf (bs : List Byte) : Ext where
  succ := fieldAt bs 0 8
  nsucc := fieldAt bs 8 1
  dkind := fieldAt bs 9 1
  iters := fieldAt bs 10 2
  ntiles := fieldAt bs 12 4
  armtab := fieldAt bs 16 8
  narm := fieldAt bs 24 4
  ncounter := fieldAt bs 28 4
  relspill := fieldAt bs 32 8
  relsize := fieldAt bs 40 4
  olog := fieldAt bs 48 8
  ologsize := fieldAt bs 56 4 * 1024
  rbuf := fieldAt bs 64 8
  rbufsize := fieldAt bs 72 4 * 1024
  resv := fieldAt bs 80 8
  resvsize := fieldAt bs 88 4

/-- A region that is used lies in the global window. -/
def regionOk (base n : Nat) : Bool := n == 0 || inGlobal base n

/-- The limits of the successor list's place. -/
def succPlaceOk (e : Ext) : Bool :=
  decide (e.nsucc ≤ 64) && e.succ % 4 == 0 && regionOk e.succ (4 * e.nsucc)

/-- The limits of the extension block (13 R277; 10 R222). -/
def extOk (bs : List Byte) (e : Ext) : Bool :=
  zeroAt bs 44 4 && zeroAt bs 60 4 && zeroAt bs 76 4 && zeroAt bs 92 36
    && succPlaceOk e && decide (e.ncounter ≤ 4096)
    && decide (e.dkind ≤ 2)
    && (e.dkind == 0 || (decide (1 ≤ e.ntiles) && decide (e.ntiles ≤ 2 ^ 22) && decide (1 ≤ e.iters)
      && decide (e.iters ≤ 16383)))
    && e.armtab % 16 == 0 && regionOk e.armtab (16 * e.narm)
    && regionOk e.relspill (e.relsize * 2 ^ 20) && regionOk e.olog e.ologsize && regionOk e.rbuf e.rbufsize
    && regionOk e.resv (e.resvsize * 2 ^ 20)

/-- Entries of a successor list: identifiers from 1, nothing above bit 17. -/
def succOk (ns : List Nat) : Bool := ns.all fun n => decide (1 ≤ n) && decide (n < 2 ^ 18)

/-- The extension block of a packet, all zero when EXT is 0. -/
def readExt (s : State) (l : Launch) : Except BindStop (List Byte) :=
  if l.pkt.ext = 0 then .ok (List.replicate 128 0) else feRead s l.asid l.pkt.ext 128

/-- The successor list of an extension block. -/
def readSuccs (s : State) (l : Launch) (e : Ext) : Except BindStop (List Nat) :=
  match feRead s l.asid e.succ (4 * e.nsucc) with
  | .error x => .error x
  | .ok bs =>
    let ns := (chunksOfBytes 4 bs e.nsucc).map natLe
    if succOk ns then .ok ns else .error lfResource

/-- EXT of a packet may be read at all. -/
def extPlaceOk (l : Launch) : Bool := l.pkt.ext % 64 == 0 && (l.pkt.ext == 0 || inGlobal l.pkt.ext 128)

/-- The successors of a packet that completes without having been read (10 R215): none when its extension block or its
list cannot be read or breaks its limits. -/
def succsUnread (s : State) (l : Launch) : List Nat :=
  if !extPlaceOk l || (kfind s.mem.asids l.asid).isNone then []
  else match readExt s l with
    | .error _ => []
    | .ok bs =>
      if !succPlaceOk (extOf bs) then []
      else match readSuccs s l (extOf bs) with
        | .error _ => []
        | .ok ns => ns

/-! ### The arm table (09 R211) -/

def armOf (bs : List Byte) : Arm :=
  ⟨fieldAt bs 0 4, fieldAt bs 4 2, fieldAt bs 6 1, fieldAt bs 7 1, fieldAt bs 8 8⟩

/-- The limits of an arm-table entry (09 R211; 10 R215: node 0 breaks them). -/
def armOk (s : State) (e : Ext) (a : Arm) : Bool :=
  decide (1 ≤ a.thresh) && decide (a.counter < e.ncounter) && (a.die == 255 || decide (a.die < s.part.dies.length))
    && match a.kind with
      | 0 => !(a.arg % 2 ^ 18 == 0)
      | 1 => a.arg % 4 == 0 && inGlobal a.arg 4
      | 2 => inGlobal a.arg 1
      | _ => false

def readArms (s : State) (l : Launch) (e : Ext) : Except BindStop (List Arm) :=
  match feRead s l.asid e.armtab (16 * e.narm) with
  | .error x => .error x
  | .ok bs =>
    let as := (chunksOfBytes 16 bs e.narm).map armOf
    if as.all (armOk s e) then .ok as else .error lfResource

/-! ### The image (14 R303 to R305) -/

/-- The header's fields; levels, queues and the rectangle come with the records. -/
def headerOf (base : Nat) (bs : List Byte) : Header where
  img := {
    imageid := fieldAt bs 8 4
    entry := fieldAt bs 0x18 8
    levels := []
    vfoot := fieldAt bs 0x30 1
    sfoot := fieldAt bs 0x31 1
    afoot := fieldAt bs 0x32 1
    spill := fieldAt bs 0x34 2
    scratch := fieldAt bs 0x38 4
    baruse := fieldAt bs 0x3C 2
    queues := []
    rectW := 0
    rectH := 0 }
  lvluse := if tbit (fieldAt bs 0x0C 4) 0 then fieldAt bs 0x36 2 else 0
  base := base
  sectoff := fieldAt bs 0x20 4
  nsect := fieldAt bs 0x24 2
  depth := fieldAt bs 0x26 1
  treeoff := fieldAt bs 0x28 4
  nqueue := fieldAt bs 0x27 1
  queueoff := fieldAt bs 0x2C 4

/-- The header's limits besides DEPTH (14 R303). -/
def headerOk (bs : List Byte) (h : Header) : Bool :=
  fieldAt bs 0 4 == 0x4E42494D && fieldAt bs 4 2 == 1 && fieldAt bs 6 2 == 128 && decide (fieldAt bs 0x0C 4 < 4)
    && fieldAt bs 0x10 8 == h.base && decide (1 ≤ h.nsect) && decide (h.nsect ≤ 16) && decide (h.nqueue ≤ 8)
    && decide (1 ≤ h.img.vfoot) && decide (h.img.vfoot ≤ 192) && decide (1 ≤ h.img.sfoot)
    && decide (h.img.sfoot ≤ 128) && decide (h.img.afoot ≤ 4) && zeroAt bs 0x33 1 && decide (h.img.spill ≤ 4096)
    && h.lvluse % 2 == 0 && decide (h.lvluse < 2 ^ 13)
    && h.img.scratch % 128 == 0 && decide (h.img.scratch ≤ 0x80000) && zeroAt bs 0x3E 66

/-- A section record: KIND, FILEOFF, VA, SIZE (14 R305). -/
def sectionOk (h : Header) (bs : List Byte) : Bool :=
  decide (fieldAt bs 0 4 ≤ 3) && zeroAt bs 24 8
    && (fieldAt bs 0 4 == 3 || fieldAt bs 8 8 == h.base + fieldAt bs 4 4)
    && (!(fieldAt bs 0 4 == 0) || (fieldAt bs 4 4 % 4 == 0 && fieldAt bs 16 8 % 4 == 0))

/-- An address lies in a code section. -/
def inCode (va : Nat) (bs : List Byte) : Bool :=
  fieldAt bs 0 4 == 0 && decide (fieldAt bs 8 8 ≤ va) && decide (va < fieldAt bs 8 8 + fieldAt bs 16 8)

def levelOf (bs : List Byte) : Level := ⟨fieldAt bs 0 1, fieldAt bs 1 1, fieldAt bs 2 1, fieldAt bs 4 4⟩

/-- The position of the lowest CLUSTER-bound level, counted from 0. -/
def lowCluster (ls : List Level) : Option Nat := ls.findIdx? fun l => l.bind == 3

/-- The limits of the tree records (14 R304). -/
def treeRecsOk (recs : List (List Byte)) : Bool :=
  let ls := recs.map levelOf
  recs.all (fun bs => zeroAt bs 3 1) && (List.range ls.length).all fun k =>
    let l := ls.getD k ⟨0, 0, 0, 0⟩
    (l.w == 0) == (l.h == 0) && (l.w == 0 || lowCluster ls == some k)

def qbindOf (bs : List Byte) : QBind := ⟨fieldAt bs 0 1, fieldAt bs 1 1, fieldAt bs 2 1, fieldAt bs 3 1⟩

/-- The highest CLUSTER-bound level, 0 when there is none. -/
def clusterLevel (im : Image) : Nat :=
  (List.range (depth im + 1)).foldl (fun a k => if k ≠ 0 ∧ bindAt im k = 3 then k else a) 0

/-- The rectangle of the tree (03 R52): the one given, or the first default whose area holds c(k) of the highest
CLUSTER-bound level, 4 × 4 when none does. -/
def rectOf (im : Image) : Nat × Nat :=
  match lowCluster im.levels with
  | none => (0, 0)
  | some k =>
    let l := im.levels.getD k ⟨0, 0, 0, 0⟩
    if l.w ≠ 0 then (l.w, l.h)
    else (([(1, 1), (2, 1), (2, 2), (4, 2), (4, 4)] : List (Nat × Nat)).find? fun r =>
      decide (coresAt im (clusterLevel im) ≤ r.1 * r.2)).getD (4, 4)

/-- Whether the tree gives its rectangle. -/
def rectGiven (im : Image) : Bool :=
  match lowCluster im.levels with
  | none => false
  | some k => !((im.levels.getD k ⟨0, 0, 0, 0⟩).w == 0)

/-- The image of a launch (14 R303 to R305), in the order of 03 R53. -/
def readImage (s : State) (l : Launch) : Except BindStop Header := do
  let hb ← feRead s l.asid l.pkt.image 128
  let h := headerOf l.pkt.image hb
  if h.depth = 0 ∨ 12 < h.depth then .error (.fault 1 0)
  need (headerOk hb h)
  let sb ← feRead s l.asid (h.base + h.sectoff) (32 * h.nsect)
  let secs := chunksOfBytes 32 sb h.nsect
  need (secs.all (sectionOk h) && secs.any (inCode h.img.entry))
  let tb ← feRead s l.asid (h.base + h.treeoff) (8 * h.depth)
  let recs := chunksOfBytes 8 tb h.depth
  need (treeRecsOk recs)
  let qb ← feRead s l.asid (h.base + h.queueoff) (4 * h.nqueue)
  let qs := (chunksOfBytes 4 qb h.nqueue).map qbindOf
  need (qs.all fun q => decide (q.q < 8))
  let im := { h.img with levels := recs.map levelOf, queues := qs }
  let r := rectOf im
  .ok { h with img := { im with rectW := r.1, rectH := r.2 } }

/-! ### Windows of live cores (03 R52, 10 R217) -/

/-- The sites of the W × H window whose lowest site is given, row by row; none when it leaves the 12 × 12 grid. -/
def windowSites (w h site : Nat) : Option (List Nat) :=
  if 12 < site % 12 + w ∨ 12 < site / 12 + h then none
  else some (((List.range h).map fun y => (List.range w).map fun x => site + 12 * y + x).flatten)

/-- The windows that the search of 10 R217 finds on a die with every live core free, each disjoint from those taken. -/
def windowsOn (sites : List Nat) (w h : Nat) : List (List Nat) :=
  sites.foldl (fun acc st => match windowSites w h st with
    | none => acc
    | some cs =>
      if cs.all (fun c => sites.contains c && !(acc.any fun x => x.contains c)) then acc ++ [cs] else acc) []

/-- The online dies. -/
def onlineDies (s : State) : List Die := s.part.dies.filter fun d => d.state == 0

/-! ### The tree checks (03 R52, R53) -/

/-- The levels from 1 upward. -/
def levelNums (im : Image) : List Nat := (List.range (depth im)).map (· + 1)

/-- The first level where a check fails. -/
def firstLevel (im : Image) (bad : Nat → Bool) (code : Nat) : Option BindStop :=
  ((levelNums im).find? bad).map fun k => .fault code k

/-- LF_ORDER (03 R48, R53). -/
def orderBad (im : Image) (k : Nat) : Bool :=
  let b := bindAt im k
  !((b == 1) == (k == 1)) || b == 0 || decide (7 < b) || decide (b < bindAt im (k - 1))

/-- LF_FANOUT (03 R52). -/
def fanoutBad (s : State) (im : Image) (k : Nat) : Bool :=
  let ds := onlineDies s
  let big := (ds.map fun d => d.sites.length).foldl max 0
  let tot := (ds.map fun d => d.sites.length).sum
  fanAt im k == 0 ||
    match bindAt im k with
    | 1 => decide (64 < fanAt im k)
    | 2 => decide (groupCap im < groupsAt im k)
    | 3 => decide (im.rectW * im.rectH < coresAt im k)
    | 4 => decide (big < coresAt im k)
    | 5 => highBelow im 4 k == 0 && decide (tot < coresAt im k)
    | _ => false

/-- LF_FANOUT with its level, the first that fails; where no default rectangle holds the cores of the highest CLUSTER-bound
level, that level. -/
def fanoutStop (s : State) (im : Image) : Option BindStop :=
  match firstLevel im (fanoutBad s im) 3 with
  | some (.fault c k) =>
    some (.fault c (if bindAt im k = 3 ∧ fanAt im k ≠ 0 ∧ !rectGiven im ∧ 16 < coresAt im (clusterLevel im) then clusterLevel im
      else k))
  | x => x

/-- LF_SHAPE (03 R52). -/
def shapeBad (s : State) (im : Image) (k : Nat) : Bool :=
  let c := clusterLevel im
  let tooBig := decide (4 < im.rectW) || decide (4 < im.rectH)
  let holds (n : Nat) : Bool := (onlineDies s).any fun d => decide (n ≤ (windowsOn d.sites im.rectW im.rectH).length)
  match bindAt im k with
  | 3 => tooBig || !holds 1
  | 4 => !(c == 0) && decide (c < k) && !holds (fanProd im c (k - c))
  | _ => false

/-- The packages that this package's Stride link reaches, itself among them (assumption 10). -/
def packagesReached (s : State) : Nat :=
  1 + ((s.part.stride.routes.filter fun u => u.up && !(u.origin == s.part.pkgid)).map (·.origin)).eraseDups.length

/-- The packages that Ultra Ethernet reaches, this one among them, and the nodes: what the network reaches the spec does
not say (assumption 10). -/
def podPackages (s : State) : Nat := 1 + Config.freeReach (2 * s.ctl.nonce)
def podNodes (s : State) : Nat := 1 + Config.freeReach (2 * s.ctl.nonce + 1)

/-- LF_SPAN (03 R52). -/
def spanBad (s : State) (im : Image) (k : Nat) : Bool :=
  let u := packageUnit im
  let packages := fanProd im u (k - u)
  match bindAt im k with
  | 5 =>
    let d := highBelow im 4 k
    !(d == 0) && decide ((onlineDies s).length < fanProd im d (k - d))
  | 6 => decide (packagesReached s < packages)
  | 7 =>
    let n := highBelow im 6 k
    decide (podPackages s < packages) || (!(n == 0) && decide (podNodes s < fanProd im n (k - n)))
  | _ => false

/-- LF_LEVEL (03 R53, R58, R70): the lowest index above the depth that the level-use list or the queue table names. -/
def levelStop (im : Image) (lvluse : Nat) : Option BindStop :=
  let used := (List.range 13).filter fun k => decide (1 ≤ k) && tbit lvluse k
  let named := (used ++ im.queues.map (·.level)).filter fun k => decide (depth im < k)
  match named with
  | [] => none
  | k :: t => some (.fault 6 (t.foldl min k))

/-- A queue binding keeps the limits of 03 R70. -/
def bindOk (im : Image) (q : QBind) : Bool :=
  decide (1 ≤ q.level) && decide (q.level < coreLevel im) && decide (q.prod < fanAt im (q.level + 1))
    && decide (q.cons < fanAt im (q.level + 1))

/-- Engine counters that the bound launches leave free (03 R53, 09 R210; 01 R9: 4,096 to a die). -/
def countersFree (s : State) (lid : Nat) : Nat :=
  4096 - ((s.run.launches.filter fun e => !(e.1 == lid) && e.2.stat == .bound).map fun e => e.2.ext.ncounter).sum

/-- The most segments of a tile under SPLIT (10 R222). -/
def tooManySegments (l : Launch) : Bool :=
  l.ext.dkind == 1 && decide (64 < l.ext.iters) && decide (64 < itemCount l) && (List.range l.ext.ntiles).any fun t =>
    let a := t * l.ext.iters
    let b := a + l.ext.iters
    let n := ((List.range (itemCount l)).filter fun v =>
      decide (max a (splitStart l v) < min b (splitStart l (v + 1)))).length
    decide (64 < n)

/-- LF_RESOURCE of a launch that is otherwise sound (03 R53): counters, queue bindings, spill areas of one work item
(slots of 16 bytes), segments. -/
def resourceBad (s : State) (lid : Nat) (l : Launch) : Bool :=
  decide (countersFree s lid < l.ext.ncounter) || !(l.img.queues.all (bindOk l.img))
    || decide (l.ext.resvsize * 2 ^ 20 < groupsPerItem l.img * l.img.spill * 16)
    || tooManySegments l

/-- The tree checks in code order, within a code from level 1 upward (03 R53). -/
def treeCheck (s : State) (lid : Nat) (l : Launch) (lvluse : Nat) : Except BindStop Unit :=
  firstStop [
    firstLevel l.img (orderBad l.img) 2,
    fanoutStop s l.img,
    firstLevel l.img (shapeBad s l.img) 4,
    firstLevel l.img (spanBad s l.img) 5,
    levelStop l.img lvluse,
    if resourceBad s lid l then some lfResource else none]

/-! ### Record and replay at the start of a launch (12 R259, R262 to R266) -/

/-- A RECORD launch whose regions are absent or shorter than 4 KiB runs with LOGFULL set. -/
def logStartsFull (l : Launch) : Bool :=
  l.pkt.det == 1 && (decide (l.ext.ologsize < 4096) || decide (l.ext.rbufsize < 4096))

def logEntryOf (bs : List Byte) : LogEntry := ⟨fieldAt bs 0 1, fieldAt bs 1 7, fieldAt bs 8 8⟩
def recEntryOf (bs : List Byte) : Nat × Nat × Nat × Nat :=
  (fieldAt bs 0 4, fieldAt bs 4 2, fieldAt bs 6 2, fieldAt bs 8 8)

/-- The header of the order log matches the launch (12 R266). -/
def replayMatches (l : Launch) (bs : List Byte) : Bool :=
  fieldAt bs 0 4 == 0x474F4C4F && fieldAt bs 4 2 == 1 && !(tbit (fieldAt bs 6 2) 0)
    && fieldAt bs 8 4 == l.img.imageid && fieldAt bs 12 4 == l.pkt.lcount

/-- The lists that REPLAY forces, read from the regions; DIVERGED when the header does not match (12 R266). -/
def readReplay (s : State) (l : Launch) : Except BindStop Launch :=
  if l.pkt.det ≠ 2 then .ok l
  else if l.ext.ologsize < 64 then .ok { l with diverged := true }
  else do
    let hb ← feRead s l.asid l.ext.olog 64
    if !replayMatches l hb then .ok { l with diverged := true }
    else
      let n := min (fieldAt hb 24 8) ((l.ext.ologsize - 64) / 16)
      let m := min (fieldAt hb 32 8) (l.ext.rbufsize / 16)
      let eb ← feRead s l.asid (l.ext.olog + 64) (16 * n)
      let rb ← feRead s l.asid l.ext.rbuf (16 * m)
      .ok { l with
        replayLog := (chunksOfBytes 16 eb n).map logEntryOf
        replayRec := (chunksOfBytes 16 rb m).map recEntryOf }

/-! ### Binding -/

/-- The checks before any read (13 R276, R280; 01 R14). -/
def packetStop (s : State) (l : Launch) : Option BindStop :=
  if !s.part.inv.valid then some (.fault 5 0)
  else if !l.pkt.clean || l.pkt.mode == 3 || !(l.pkt.image % 4096 == 0) || !inGlobal l.pkt.image 128 || !extPlaceOk l
  then some lfResource
  else if (kfind s.mem.asids l.asid).isNone then some lfResource
  else none

/-- The launch as far as its blocks could be read, and why the reading stopped (13 R276; 03 R53). A launch of no
instances stops with status OK, which is fault code 0 (R49). -/
def readLaunch (s : State) (lid : Nat) (l : Launch) : Launch × Option BindStop :=
  match packetStop s l with
  | some e => (l, some e)
  | none =>
  match readExt s l with
  | .error e => (l, some e)
  | .ok eb =>
  let e := extOf eb
  let l := { l with ext := e }
  if !extOk eb e then (l, some lfResource)
  else match readSuccs s l e with
  | .error x => (l, some x)
  | .ok ns =>
  let l := { l with succs := ns }
  if l.pkt.lcount = 0 then (l, some (.fault 0 0))
  else match readArms s l e with
  | .error x => (l, some x)
  | .ok as =>
  let l := { l with arms := as }
  match readImage s l with
  | .error x => (l, some x)
  | .ok h =>
  let l := { l with img := h.img }
  match treeCheck s lid l h.lvluse with
  | .error x => (l, some x)
  | .ok _ =>
  match readReplay s l with
  | .error x => (l, some x)
  | .ok l => ({ l with logfull := logStartsFull l }, none)

/-- A launch reads its blocks: it binds, ends with a launch fault, or parks on a fault record of the front end (KIND 7). -/
def bindLaunch (s : State) (lid : Nat) (l : Launch) : State :=
  let r := readLaunch s lid l
  let put (s : State) (st : LStat) : State := modLaunch s lid fun _ => { r.1 with stat := st }
  match r.2 with
  | none => put s .bound
  | some (.fault c k) => endLaunch (put s .finished) lid c k
  | some (.park c va) =>
    if c = walkBusy ∨ poolFull s 0xFF l.asid va false then s
    else openFault (modLaunch s lid fun x => { x with stat := .reading true, succs := r.1.succs }) 0xFF l.asid va 7 c
      false 0xFFFF (.launch lid)

/-- The reading of a launch waits: for a line that an engine transfer owns, or for a fault record. -/
def bindWaits (s : State) (lid : Nat) (l : Launch) : Bool :=
  match (readLaunch s lid l).2 with
  | some (.park c va) => c == walkBusy || poolFull s 0xFF l.asid va false
  | _ => false

/-! ### The choice (10 R213, R214) -/

/-- EPRIO of a candidate that waits since a cycle. -/
def eprio (s : State) (prio ceil since : Nat) : Nat := max prio (min ceil (prio + (s.ctl.clk - since) / 2 ^ 16))

/-- How closely a queue follows the one chosen last. -/
def follows (s : State) (q : Nat) : Nat := (q + 32768 - (s.host.lastQueue + 1) % 32768) % 32768

/-- A candidate: its EPRIO, how closely its queue follows, and the queue of a head packet or the launch of a node. -/
structure Cand where
  ep : Nat
  dist : Nat
  queue : Option Nat
  lid : Nat
  deriving DecidableEq, Repr

/-- The first of two candidates in the order of 10 R214. -/
def Cand.before (a b : Cand) : Bool := decide (b.ep < a.ep) || (a.ep == b.ep && decide (a.dist < b.dist))

/-- The best of some candidates. -/
def bestCand : List Cand → Option Cand
  | [] => none
  | c :: t => some (t.foldl (fun a b => if b.before a then b else a) c)

/-- The eligible head packets. -/
def headCands (s : State) : List Cand :=
  s.host.queues.filterMap fun e =>
    match headPacket s e.1 with
    | none => none
    | some (x, bs) =>
      if x.busy || decide (2 ≤ packetKind bs) || headNode s e.1 then none
      else
        let prio := if packetKind bs = 0 then (packetOf bs).prio else 0
        some ⟨eprio s prio x.ceil x.since, follows s e.1, some e.1, 0⟩

/-- The launches of ready graph nodes. -/
def nodeCands (s : State) : List Cand :=
  s.run.launches.filterMap fun e =>
    if e.2.stat == .node && e.2.ready then
      some ⟨eprio s e.2.pkt.prio e.2.ceil e.2.since, follows s e.2.queue, none, e.1⟩
    else none

/-- A head packet is taken: a management packet goes to the management controller, a launch reads its blocks. -/
def takeHead (s : State) (q : Nat) : State :=
  match headPacket s q with
  | none => s
  | some (x, bs) =>
    if packetKind bs = 1 then
      let s := passHead s q
      setHost s { s.host with mgmt := s.host.mgmt ++ [mgmtReqOf (some q) x.ridx x.mgmt bs] }
    else
      let r := newLaunch s q x bs (.reading false) true x.since
      bindLaunch (passHead r.2 q) r.1 ((kfind r.2.run.launches r.1).getD Launch.fresh)

/-- Launches may be chosen: not in SAFE, and not before the cryogenic state is chosen (02 R32, R45). -/
def mayChoose (s : State) : Bool := s.part.cryo.started && !inSafe s

/-- The queue chosen last (10 R214). -/
def noteChoice (s : State) (q : Nat) : State := setHost s { s.host with lastQueue := q }

/-- The choice: the candidate of highest EPRIO starts to bind. -/
def chooseLaunch (s : State) : State :=
  if !mayChoose s then s
  else match bestCand (headCands s ++ nodeCands s) with
    | none => s
    | some c => match c.queue with
      | some q => takeHead (noteChoice s q) q
      | none =>
        let l := launchOf s c.lid
        let s := chooseNode (noteChoice s l.queue) l.pkt.gnode
        bindLaunch (modLaunch s c.lid fun l => { l with stat := .reading false }) c.lid l

/-- LAUNCH (95; 13 R276): a launch whose fault record was answered reads on; otherwise a packet is chosen. -/
def execLaunch (s : State) : Host.Outcome State Fault Refusal :=
  .next (match s.run.launches.find? fun e => e.2.stat == .reading false && !bindWaits s e.1 e.2 with
    | some e => bindLaunch s e.1 e.2
    | none => chooseLaunch s)

end Sys2Proof.Machine
end

