-- ==== Sys2Proof/Machine/Fetch.lean ====
section
/-! DEFINITION. Instruction fetch (07 R162; 06 R115, R135): through the group's translation and the core's instruction
cache, which is emptied only when a work item starts; the words of a hint sequence (04 R91). -/

namespace Sys2Proof.Machine

/-- The key of an instruction-cache line of HBM or of host memory. -/
def icKey (core : Nat) (host : Bool) (a : Nat) : Nat := (2 * core + host.toNat) * 2 ^ 50 + a / 128

/-- The bytes of an instruction-cache line: those it was filled with, or memory's (07 R162). -/
def icacheLine (s : State) (core : Nat) (host : Bool) (a : Nat) : List Byte :=
  (kfind s.mem.icache (icKey core host a)).getD
    (if host then readCells s.mem.host (a / 128 * 128) 128 else readHbm s.mem (a / 128 * 128) 128)

/-- Fills the line. -/
def fillIcache (s : State) (core : Nat) (host : Bool) (a : Nat) : State :=
  setMem s { s.mem with icache := kins s.mem.icache (icKey core host a) (icacheLine s core host a) }

/-- Empties the instruction cache of a core (07 R162). -/
def flushIcache (s : State) (core : Nat) : State :=
  setMem s { s.mem with icache := s.mem.icache.filter fun e => !(e.1 / 2 ^ 51 == core) }

/-- A fill of the line of a place waits for an engine transfer that owns it (07 R156). -/
def icacheWaits (s : State) (core pa : Nat) : Bool :=
  (kfind s.mem.icache (icKey core false pa)).isNone && ownedLoc s (.hbm (pa / 128 * 128)) 128

/-- A word at an address, or the outcome of the checks that fails. -/
def fetchWord (s : State) (w : Who) (pc : Nat) : Except Hit W32 :=
  match resolve s w .fetch pc 4 with
  | .ok (.hbm pa) _ =>
    if icacheWaits s w.core pa then .error .busy
    else .ok (BitVec.ofNat 32 (natLe (((icacheLine s w.core false pa).drop (pa % 128)).take 4)))
  | .ok (.host a) _ => .ok (BitVec.ofNat 32 (natLe (((icacheLine s w.core true a).drop (a % 128)).take 4)))
  | .ok _ _ => .error (.trap cSPACE)
  | h => .error h

/-- The state after the fetch of a word: the line filled, the page held. -/
def noteFetch (s : State) (w : Who) (pc : Nat) : State :=
  match resolve s w .fetch pc 4 with
  | .ok (.hbm pa) _ => fillIcache (noteTlb s w.die w.asid pc .fetch) w.core false pa
  | .ok (.host a) _ => fillIcache (noteTlb s w.die w.asid pc .fetch) w.core true a
  | _ => s

/-- Consecutive words, or the first check that fails with its address. -/
def fetchWords (s : State) (w : Who) : Nat → Nat → Except (Hit × Nat) (List W32)
  | 0, _ => .ok []
  | n + 1, pc =>
    match fetchWord s w pc with
    | .error h => .error (h, pc)
    | .ok x => match fetchWords s w n (pc + 4) with
      | .error e => .error e
      | .ok xs => .ok (x :: xs)

/-- The words that an instruction takes, as its first word says (14 R301): one, but for a LIVE. -/
def wordsNeeded (x : W32) : Nat :=
  let n := x.toNat
  if n / 2 ^ 24 = 0xFF then
    1 + (tbit n 0).toNat + (tbit n 1).toNat + (tbit n 2).toNat + (tbit n 3).toNat
      + (if bits n 8 3 ≤ 4 then bits n 8 3 else 0)
  else 1

/-- What a fetch finds. -/
inductive Fetched where
  | instr (i : Instr)
  | illegal (w : W32)
  | fault (h : Hit) (va : Nat)
  deriving DecidableEq, Repr

/-- The words from an address one by one after those of `got`, until they make an instruction or are refused: a LIVE takes as
many as its first word says (14 R301). With what is found stands how many words were fetched. -/
def fetchFrom (s : State) (w : Who) : Nat → List W32 → Nat → Fetched × Nat
  | 0, got, _ => (.illegal (got.headD 0), got.length)
  | n + 1, got, pc =>
    match fetchWord s w pc with
    | .error h => (.fault h pc, got.length)
    | .ok x =>
      let ws := got ++ [x]
      match decodeWords ws with
      | .ok (i, _) => (.instr i, ws.length)
      | .error e => if e = .short then fetchFrom s w n ws (pc + 4) else (.illegal (ws.headD 0), ws.length)

/-- The most words that an instruction takes: a LIVE with four register words and four ranges (14 R301). -/
def wordsMost : Nat := 9

/-- The instruction at an address. -/
def fetchAt (s : State) (w : Who) (pc : Nat) : Fetched := (fetchFrom s w wordsMost [] pc).1

/-- The state after the fetch of an instruction. -/
def noteFetchAt (s : State) (w : Who) (pc : Nat) : State :=
  (List.range (fetchFrom s w wordsMost [] pc).2).foldl (fun s k => noteFetch s w (pc + 4 * k)) s

/-- A hint word: MAJ 0x3F and a KIND below 3 (04 R90). -/
def isHintWord (x : W32) : Bool := x.toNat / 2 ^ 26 == 0x3F && decide (bits x.toNat 24 2 < 3)

/-- The address after the instruction that a hint sequence attaches to, looked for in `n` words from `pc` (04 R91). -/
def sequenceEnd (s : State) (w : Who) : Nat → Nat → Nat
  | 0, pc => pc
  | n + 1, pc =>
    match fetchWord s w pc with
    | .error _ => pcAfter pc 4
    | .ok x => if isHintWord x then sequenceEnd s w n (pcAfter pc 4) else pcAfter pc (4 * wordsNeeded x)

/-- A trap or a park of a group at its fetch (06 R135, KIND 3): TRET.NEXT goes on one word later (assumption 24). -/
def fetchFault (s : State) (gid : Nat) (g : Group) (h : Hit) (va : Nat) : State :=
  let w := who s gid g
  let first := g.hints.first.getD g.pc
  match h with
  | .xlate k _ =>
    if poolFull s w.die w.asid va false then
      modGrp s gid fun g => { g with wait := some .memory }
    else
      modGrp (openFault s w.die w.asid va 3 k false w.core (.group gid)) gid fun g =>
        { g with
          stat := .parkFault
          wait := none
          pc := first
          hints := Hints.none
          parkNext := pcAfter g.pc 4
          parkLanes := g.active
          parkDst := dstNone
          parkBit := false
          gdone := 0 }
  | .trap k =>
    takeTrap s gid g ⟨k, BitVec.ofNat 64 va, g.active, true, false, dstNone, 0, first, pcAfter g.pc 4⟩
  | .busy => modGrp s gid fun g => { g with wait := some .memory }
  | .ok _ _ => s

end Sys2Proof.Machine
end

