-- ==== Sys2Proof/Machine/Tx.lean ====
section
/-! DEFINITION. Speculative transactions: TXBEGIN, TXEND, TXABORT, the commit and the abort (08 R175 to R187; 18 R417
to R419), the history table (08 R190 to R192) and the telemetry record (05 R114). -/

namespace Sys2Proof.Machine

/-! ### The descriptor (08 R176) -/

/-- `n` bytes at an offset of a 64-byte block, as a number. -/
def descAt (d off n : Nat) : Nat := bits d (8 * off) (8 * n)

/-- The first failing field of a descriptor: none, a byte offset, or the level of the LEVEL trap. -/
def descFail (w : Who) (d : Nat) : Option (Nat × Nat) :=
  let bad (o : Nat) : Option (Nat × Nat) := some (cOPERAND, o)
  let cl := descAt d 12 1
  let zeros := (List.range 45).find? fun k => !(descAt d (19 + k) 1 == 0)
  if descAt d 0 4 ≠ w.it.index % 2 ^ 32 then bad 0
  else if descAt d 4 4 % 128 ≠ 0 then bad 4
  else if descAt d 8 4 % 128 ≠ 0 ∨ 0x40000 < descAt d 8 4 ∨ w.l.img.scratch < descAt d 4 4 + descAt d 8 4 then bad 8
  else if cl = 0 ∨ 14 ≤ cl then bad 12
  else if cl ≤ 12 ∧ depth w.l.img < cl then some (cLEVEL, cl)
  else if 4 ≤ descAt d 13 1 ∨ (tbit (descAt d 13 1) 0 = true ∧ w.l.pkt.mode ≠ 1) then bad 13
  else if sextNat 8 (descAt d 15 1) < sextNat 8 (descAt d 14 1) then bad 15
  else zeros.bind fun k => bad (19 + k)

/-- A cancellation threshold with its default (08 R176). -/
def thetaOf (x dflt : Nat) : Nat := if x = 0 then dflt else x

/-- The transaction is checked (05 R113). -/
def isChecked (c : Ctx) (d : Nat) : Bool :=
  decide (c.w.it.rung ≤ 2) &&
    ((!(c.g.checkn == 0) && c.w.it.index % 2 ^ (c.g.checkn - 1) == 0) || tbit (descAt d 13 1) 1)

/-- The work item with its transaction opened (18 R417). -/
def openTx (c : Ctx) (va d : Nat) (i : Item) : Item :=
  let lo := sextNat 8 (descAt d 14 1)
  let hi := sextNat 8 (descAt d 15 1)
  let dflt := lo == 0 && hi == 0
  { i with
    txOpen := true
    ord := tbit (descAt d 13 1) 0
    clvl := descAt d 12 1
    desc := va
    scrOff := descAt d 4 4
    scrLen := descAt d 8 4
    headLo := if dflt then -126 else lo
    headHi := if dflt then 127 else hi
    thetas := [thetaOf (descAt d 16 1) 3, thetaOf (descAt d 17 1) 5, thetaOf (descAt d 18 1) 8]
    checked := isChecked c d
    nonfin := false
    elems := 0
    maxAbs := 0
    maxRel := 0 }

/-- The first checks of TXBEGIN (18 R417). -/
def txbeginPre (f : TXB) (c : Ctx) : Option Out :=
  let va := (rdS c.g f.s1.toNat).toNat
  firstTrap [
    if !c.w.l.pkt.txn || c.w.it.committed || c.g.txBegun then some (illegal c.word c.dst) else none,
    if va % 64 = 0 then none else some ⟨cALIGN, BitVec.ofNat 64 va, none, c.dst⟩]

/-- The load of the descriptor and what follows (18 R417). -/
def txbeginRun (f : TXB) (c : Ctx) (s : State) : Out :=
  let va := (rdS c.g f.s1.toNat).toNat
  let hs := probe s c.w .load 64 [0] fun _ => va
  match hitsPre c.s0 c 0 64 hs true with
  | some x => x
  | none =>
    let r := readLanes (noteAll s c.w .load hs) c.w (l1ModeOf c.g false false) 64 hs
    let d := (r.1.head?.map (·.2)).getD 0
    let mark (s : State) : State := modGrp s c.gid fun g => { g with txBegun := true }
    if c.w.it.txOpen then
      if va = c.w.it.desc then .done (mark r.2) else .trap (badOperand c.word c.dst)
    else match descFail c.w d with
      | some (k, n) => .trap ⟨k, BitVec.ofNat 64 n, none, c.dst⟩
      | none => .done (modItem (mark r.2) c.g.item (openTx c va d))

/-- TXBEGIN (18 R417). -/
def execTxbegin (f : TXB) (s : State) : Host.Outcome State Fault Refusal :=
  issue
    { i := .txbegin f
      pol := .once
      regs := fun _ => ⟨[(true, f.s1.toNat)], [], []⟩
      dst := fun _ => dstNone
      pre := txbeginPre f
      body := txbeginRun f } s

/-- The effect of TXEND (18 R418): it closes the batch and waits; once the commit is made it completes. -/
def txendRun (c : Ctx) (s : State) : Out :=
  if c.w.it.txOpen then
    .hold (modGrp (closeBatch c.s0 c.gid) c.gid fun g => { g with txEnded := true }) .other
  else .done (modGrp s c.gid fun g => { g with txEnded := false })

/-- TXEND (18 R418). -/
def execTxend (s : State) : Host.Outcome State Fault Refusal :=
  issue
    { i := .txend
      pol := .once
      regs := fun _ => noRegs
      dst := fun _ => dstNone
      pre := fun c => firstTrap [
        if c.w.it.txOpen || c.g.txEnded then none else some (illegal c.word c.dst)]
      body := txendRun } s

/-- TXABORT (18 R419; 08 R187): a false start at once; the work item restarts when TX_COMMIT finds its transfers
done. -/
def execTxabort (s : State) : Host.Outcome State Fault Refusal :=
  issue
    { i := .txabort
      pol := .once
      regs := fun _ => noRegs
      dst := fun _ => dstNone
      pre := fun c => firstTrap [
        if !c.w.it.txOpen || c.w.it.rung == 3 then some (illegal c.word c.dst) else none]
      body := fun c s => .done (markAbort s c.g.item ⟨c.w.it.rung + 1, false, true, true⟩) } s

/-! ### The history table (08 R190 to R192) -/

/-- The key of a tile: entry index and tag. -/
def histKey (l : Launch) (tile : Nat) : Nat × Nat :=
  let h := Nat.xor (l.img.imageid % 2 ^ 32) (tile * 0x9E3779B9 % 2 ^ 32)
  (h / 2 ^ 20, h % 2 ^ 20)

/-- The table is read and updated for a launch: not under NOPREDICT (13 R276), nor while REPLAY forces (12 R266). -/
def histUsed (l : Launch) : Bool := l.pkt.txn && !l.pkt.nopred && !replaying l

/-- The entry after a commit at rung c of a tile predicted at p (08 R192). -/
def histNext (tag p c : Nat) (old : Option HistEnt) : HistEnt :=
  match old with
  | none => ⟨tag, c, 0, 0, 0⟩
  | some e =>
    if e.tag = tag then
      if c = p ∧ c = e.lrung then { e with clean := min 8 (e.clean + 1), conf := min 3 (e.conf + 1), age := 0 }
      else { e with lrung := c, clean := 0, conf := if p < c then e.conf - 1 else e.conf, age := 0 }
    else if e.conf = 0 then ⟨tag, c, 0, 0, 0⟩
    else if 14 ≤ e.age then { e with conf := e.conf - 1, age := 0 }
    else { e with age := e.age + 1 }

/-- HISTORY_UPDATE (95; 08 R192): once, at the commit; not after an abort by a trap or TXABORT. -/
def histUpdate (s : State) (i : Item) : State :=
  let l := launchOf s i.launch
  if !histUsed l || i.trapped then s
  else
    let k := histKey l i.index
    setHost s { s.host with
      history := kins s.host.history k.1 (histNext k.2 i.pred i.rung (kfind s.host.history k.1)) }

/-! ### Telemetry (05 R114) -/

/-- TELEMETRY_RECORD (95; 05 R114): slot n modulo the slot count, then the count. That the ring lies in the host's memory is
the model's choice (assumption 62). -/
def telemetryRecord (s : State) (i : Item) (aborted : Bool) : State :=
  if !i.checked || s.host.telSlots == 0 then s
  else
    let l := launchOf s i.launch
    let t := freshTime s
    let s := t.1
    let n := s.host.telCount
    let rec32 := bytesLe 4 l.pkt.launchid.toNat ++ bytesLe 4 i.index ++ bytesLe 1 i.rung
      ++ bytesLe 1 (aborted.toNat + 2 * i.nonfin.toNat) ++ bytesLe 2 0 ++ bytesLe 4 i.elems
      ++ bytesLe 4 i.maxAbs.toNat ++ bytesLe 4 i.maxRel.toNat ++ bytesLe 8 t.2
    let at0 := s.host.telBase + 8 + 32 * (n % s.host.telSlots)
    let m := writeCells (writeCells s.mem.host at0 rec32) s.host.telBase (bytesLe 8 (n + 1))
    setHost (setMem s { s.mem with host := m }) { s.host with telCount := n + 1 }

/-! ### Commit and abort (08 R183 to R185, 07 R161) -/

/-- The ranges that a versioned write covers. -/
def VerWrite.spans : VerWrite → List (Nat × Nat)
  | .bytes pa data => [(pa, data.length)]
  | .op d => [(d.pa, d.bytes)]
  | .opAt _ pas => pas.map fun a => (a, 1)

/-- A buffered write and a versioned one touch a common byte. -/
def VerWrite.meets (w : PortWrite) (v : VerWrite) : Bool :=
  v.spans.any fun r => decide (w.addr < r.1 + r.2) && decide (r.1 < w.addr + w.data.length)

/-- The bytes that a commit writes to HBM: the transaction's writes and deferred operations in program order over what
the homes hold (08 R177). -/
def commitCells (s : State) (i : Item) : KMap Byte := verMap (fun a => (readHbm s.mem a 1).getD 0 0) i.vers

/-- The release half of a commit at its level (07 R150, R161): the groups' earlier writes, and every write in the ports
of the item's cores that the commit overlaps, which it follows (07 R148). -/
def commitRelease (s : State) (i : Item) : State :=
  let s := if i.clvl = 13 then i.gids.foldl drainGroup s
    else if aboveCore (launchOf s i.launch).img i.clvl then i.gids.foldl (fun s g => drainTo s false g) s
    else s
  drainWhere s fun w => !w.host && i.cores.contains w.core && i.vers.any (VerWrite.meets w)

/-- The writes of a commit, at one instant (07 R161): versions and deferred operations, the release order of their
lines (R153), and the monitors. Lines written leave the L1s of the item's cores. -/
def commitWrites (s : State) (it : Nat) (i : Item) : State :=
  let s := commitRelease s i
  let m := commitCells s i
  let s := setMem s (m.foldl (fun mem e => writeHbm mem e.1 [e.2]) s.mem)
  let hl := (m.map fun e => e.1 / 128).eraseDups
  let s := hl.foldl (fun s k => fireLine (l2Write s i.die (k * 128)) (.hbm k)) s
  let s := i.cores.foldl (fun s k => dropL1 s k hl) s
  let s := if i.clvl = 13 then dropFront s hl else i.gids.foldl (fun s g => staleFront s g hl) s
  let s := i.relLines.foldl (fun s r => noteRelease s r.1 (r.2 * 128)) s
  let sl := (i.verScr.map fun e => e.1 / 128).eraseDups
  let s := modItem s it fun i => { i with scr := i.verScr.foldl (fun m e => kput 0 m e.1 e.2) i.scr }
  sl.foldl (fun s k => fireLine s (.scr it k)) s

/-- Under ORDERED a commit synchronises with the next (07 R161): an acquire of the item's groups at the commit level. -/
def commitAcquire (s : State) (i : Item) : State :=
  let s := i.gids.foldl (fun s g => dropAhead (seeWrites s (g / 32) g) g) s
  if aboveCore (launchOf s i.launch).img i.clvl then i.cores.foldl flashL1 s else s

/-- A line that the commit writes is owned by an engine transfer: the write waits for it (07 R156). -/
def commitWaits (s : State) (i : Item) : Bool := i.vers.any fun v => v.spans.any fun r => ownedLoc s (.hbm r.1) r.2

/-- Every group of the work item has executed TXEND or ended (08 R183). -/
def allEnded (s : State) (i : Item) : Bool :=
  i.gids.all fun gid => match grp s gid with
    | some g => (g.stat == .ended || g.txEnded) && g.opens.isEmpty && g.batches.isEmpty
    | none => true

/-- Every drain issued inside the transaction has completed. -/
def drainsDone (s : State) (it : Nat) : Bool := !(s.run.xfers.any fun x => x.item == it && x.inTx && (x.kind == .drain || x.kind == .drainAdd))

/-- ORDERED (08 R184): every lower work item of the launch has committed or ended. -/
def orderReady (s : State) (i : Item) : Bool :=
  let l := launchOf s i.launch
  !i.ord || (List.range i.index).all fun n =>
    l.endedItems.contains n ||
      s.run.items.any fun e => e.2.launch == i.launch && e.2.index == n && e.2.committed

/-- The log entry of an unordered commit (12 R263, KIND 6). -/
def commitEntry (i : Item) : LogEntry := ⟨6, 0, i.index % 2 ^ 32⟩

/-- The commit (08 R183): OPEN clears, the groups go on after their TXEND. -/
def commitItem (s : State) (it : Nat) (i : Item) : State :=
  let s := commitWrites s it i
  let s := if i.ord then commitAcquire s i else choose s i.launch false (commitEntry i)
  let s := modItem (histUpdate (telemetryRecord s i false) i) it fun i =>
    { i with txOpen := false, verScr := [], vers := [], relLines := [], committed := true, ord := false, clvl := 0 }
  s

/-- A false start at TXEND, or a conflict that the log demands there (08 R183, 12 R266). -/
def endAbort (s : State) (it : Nat) (i : Item) (a : Abort) : State :=
  let s := markAbort (telemetryRecord s i true) it a
  if abortReady s it i then restartItem s it a else s

/-- Step 1 of 08 R185 is over: the work item restarts, or without a rerun its versions are discarded and its groups, which
have all been stopped, end (10 R231). -/
def abortEnds (s : State) (it : Nat) (a : Abort) : State :=
  if a.rerun then restartItem s it a else modItem s it dropTx

/-- The decision of TX_COMMIT when no abort is under way. -/
def decideTx (s : State) (it : Nat) (i : Item) : State :=
  let l := launchOf s i.launch
  if !(i.txOpen && allEnded s i && drainsDone s it) || commitWaits s i then s
  else if replaying l && l.replayLog.contains (conflictEntry i) then endAbort s it i ⟨i.rung, true, false, true⟩
  else if i.trip && decide (i.rung ≤ 2) then endAbort s it i ⟨i.rung + 1, false, false, true⟩
  else if !orderReady s i then s
  else if !i.ord && turnOf l false (commitEntry i) == .hold then s
  else commitItem s it i

/-- TX_COMMIT (95): an abort under way restarts or ends its work item once step 1 of 08 R185 is over; otherwise the
transaction commits or aborts when its groups, batches and drains are done. A saved attempt waits (R188). -/
def execTxCommit (it : Nat) (s : State) : Host.Outcome State Fault Refusal :=
  .next (match kfind s.run.items it with
    | none => s
    | some i => if i.saved.isSome then s else match i.abort with
      | some a => if abortReady s it i then abortEnds s it a else s
      | none => decideTx s it i)

end Sys2Proof.Machine
end

