-- ==== Sys2Proof/Machine/Place.lean ====
section
/-! DEFINITION. Placement (10 R217 to R221): room on a core, the search for a place, gangs, the first rung (08 R191),
and the requests for a pre-emption (10 R220, R221; 11 R244). -/

namespace Sys2Proof.Machine

/-! ### Room (10 R217) -/

/-- Groups of a work item on the core at a position of its window. -/
def groupsOn (im : Image) (p : Nat) : Nat :=
  ((List.range (groupsPerItem im)).filter fun k => corePos im k == p).length

/-- Set bits of a number below 2^n. -/
def bitsSet (n x : Nat) : Nat := ((List.range n).filter fun k => tbit x k).length

/-- What of a core is in use, or is needed. -/
structure Need where
  slots : Nat
  rows : Nat
  sregs : Nat
  tiles : Nat
  scratch : Nat
  bars : Nat
  queues : Nat
  deriving DecidableEq, Repr

def Need.zero : Need := ⟨0, 0, 0, 0, 0, 0, 0⟩

def Need.add (a b : Need) : Need :=
  ⟨a.slots + b.slots, a.rows + b.rows, a.sregs + b.sregs, a.tiles + b.tiles, a.scratch + b.scratch, a.bars + b.bars,
    a.queues + b.queues⟩

/-- The footprint of n groups (03 R51). -/
def groupNeed (im : Image) (n : Nat) : Need := ⟨n, n * im.vfoot, n * im.sfoot, n * im.afoot, 0, 0, 0⟩

/-- What a work item holds of a core besides its groups: its scratchpad, and where it has groups its barrier units and
queues. -/
def itemNeed (im : Image) (n : Nat) : Need :=
  ⟨0, 0, 0, 0, im.scratch, if n = 0 then 0 else bitsSet 16 im.baruse, if n = 0 then 0 else im.queues.length⟩

/-- A core holds it all (01 R9). -/
def Need.fits (a : Need) : Bool :=
  decide (a.slots ≤ 32) && decide (a.rows ≤ 1536) && decide (a.sregs ≤ 2048) && decide (a.tiles ≤ 32)
    && decide (a.scratch ≤ 0x80000) && decide (a.bars ≤ 16) && decide (a.queues ≤ 8)

/-- The resident work items that hold a share of a core, each with its launch's image and its groups there. -/
def itemsOn (s : State) (core : Nat) : List (Image × Nat) :=
  s.run.items.filterMap fun e => match e.2.cores.findIdx? (· == core) with
    | some p => let im := (launchOf s e.2.launch).img
      some (im, groupsOn im p)
    | none => none

/-- The groups in the slots of a core. -/
def slotsOn (s : State) (core : Nat) : List (Nat × Group) := s.run.groups.filter fun e => e.1 / 32 == core

/-- What of a core is in use. -/
def usedOn (s : State) (core : Nat) : Need :=
  let a := (slotsOn s core).foldl (fun n e => n.add (groupNeed (launchOf s e.2.launch).img 1)) Need.zero
  (itemsOn s core).foldl (fun n e => n.add (itemNeed e.1 e.2)) a

/-- A core has room for a share of n groups, beside the shares already set aside for the gang (`tent`: core and
groups); a work item that uses a queue holds each core where it has groups alone (03 R70; assumption 58: a core of its
window that receives none of its groups may be shared). -/
def roomOn (s : State) (im : Image) (tent : List (Nat × Nat)) (core n : Nat) : Bool :=
  let mine := tent.filter fun t => t.1 == core
  let need := (n :: mine.map (·.2)).foldl (fun a k => (a.add (groupNeed im k)).add (itemNeed im k)) (usedOn s core)
  let held := (itemsOn s core).any (fun e => !e.1.queues.isEmpty && !(e.2 == 0))
    || (!im.queues.isEmpty && mine.any fun t => !(t.2 == 0))
  let alone := im.queues.isEmpty || n == 0
    || ((slotsOn s core).isEmpty && (itemsOn s core).isEmpty && mine.isEmpty)
  need.fits && !held && alone

/-! ### The search (10 R217) -/

/-- A load window has stopped placement on a die (06 R121). -/
def windowStops (s : State) (d : Nat) : Bool :=
  match s.part.win with
  | some w => decide (1 ≤ w.phase) && tbit w.dies d
  | none => false

/-- The online dies in the order of the search, from the die after the last one used. -/
def dieOrder (s : State) (last : Nat) : List Nat :=
  let on := (List.range s.part.dies.length).filter fun d =>
    (s.part.dies.getD d ⟨0, 1, [], 0, 0⟩).state == 0 && !windowStops s d
  (on.filter fun d => decide (last < d)) ++ on.filter fun d => decide (d ≤ last)

/-- The cores of a die in ascending site order. -/
def coresOf (s : State) (d : Nat) : List Nat :=
  (List.range ((s.part.dies.getD d ⟨0, 1, [], 0, 0⟩).sites.length)).map (· + core0 s.part.dies d)

/-- The place of one item: its cores by position, with the groups of each. -/
abbrev Spot := List (Nat × Nat)

/-- A window of a die from its lowest core: every core live, with room, and not yet taken for the gang. -/
def windowSpot (s : State) (im : Image) (tent : List (Nat × Nat)) (d core : Nat) : Option Spot :=
  match windowSites im.rectW im.rectH (coreSite s.part.dies core) with
  | none => none
  | some sites =>
    let cs := sites.map (coreAtSite s.part.dies d)
    if cs.any Option.isNone then none
    else
      let spot := (List.range cs.length).map fun p => ((cs.getD p none).getD 0, groupsOn im p)
      if spot.all fun x => !(tent.any fun t => t.1 == x.1) && roomOn s im tent x.1 x.2 then some spot else none

/-- A core holds groups of the launch. -/
def holdsLaunch (s : State) (lid : Nat) (tent : List (Nat × Nat)) (core : Nat) : Bool :=
  (slotsOn s core).any (fun e => e.2.launch == lid) || tent.any fun t => t.1 == core

/-- The first place of an item on some dies in order. -/
def findSpot (s : State) (lid : Nat) (l : Launch) (tent : List (Nat × Nat)) (ds : List Nat) : Option (Nat × Spot) :=
  let im := l.img
  let single (p : Nat → Bool) : Option (Nat × Spot) := ds.findSome? fun d =>
    ((coresOf s d).find? fun c => p c && roomOn s im tent c (groupsPerItem im)).map fun c =>
      (d, [(c, groupsPerItem im)])
  match bindAt im (itemLevel im) with
  | 3 => ds.findSome? fun d => ((coresOf s d).findSome? (windowSpot s im tent d)).map fun x => (d, x)
  | 1 => match single (holdsLaunch s lid tent) with
    | some x => some x
    | none => single fun _ => true
  | _ => single fun _ => true

/-- The places of several items on some dies, each search from the die after the last (R217): items with their places,
what is set aside, and the last die. -/
def findSpots (s : State) (lid : Nat) (l : Launch) (allowed : Nat → Bool) :
    List Nat → List (Nat × Nat) → Nat → Option (List (Nat × Nat × Spot) × List (Nat × Nat) × Nat)
  | [], tent, last => some ([], tent, last)
  | i :: t, tent, last =>
    match findSpot s lid l tent ((dieOrder s last).filter allowed) with
    | none => none
    | some (d, sp) =>
      match findSpots s lid l allowed t (tent ++ sp) d with
      | none => none
      | some (r, tent', last') => some ((i, d, sp) :: r, tent', last')

/-- The die instances of a PACKAGE gang, each on a die of its own (10 R218): that of its members that are resident
already, where it has any (`seat`), and otherwise one that no other instance has (`used`). -/
def findDies (s : State) (lid : Nat) (l : Launch) (seat : List Nat → Option Nat) :
    List (List Nat) → List Nat → List (Nat × Nat) → Nat → Option (List (Nat × Nat × Spot) × Nat)
  | [], _, _, last => some ([], last)
  | ms :: t, used, tent, last =>
    let may (d : Nat) : Bool := match seat ms with
      | some e => d == e
      | none => !(used.contains d)
    match (dieOrder s last).findSome? fun d =>
        if may d then (findSpots s lid l (· == d) ms tent last).map fun r => (d, r) else none with
    | none => none
    | some (d, r, tent', _) =>
      match findDies s lid l seat t (used ++ [d]) tent' d with
      | none => none
      | some (r', last') => some (r ++ r', last')

/-- Items of one instance of the highest DIE-bound level. -/
def itemsPerDie (im : Image) : Nat :=
  let d := highBelow im 4 (depth im + 1)
  fanProd im (itemLevel im) (d - itemLevel im)

/-- Indexes grouped by die instance, in order. -/
def byDie (n : Nat) (ms : List Nat) : List (List Nat) :=
  ((ms.map fun i => i / n).eraseDups).map fun k => ms.filter fun i => i / n == k

/-- The resident members of the gang that starts at an index, each with its index and its die. -/
def gangSeats (s : State) (lid : Nat) (l : Launch) (g0 : Nat) : List (Nat × Nat) :=
  (s.run.items.filter fun e =>
    e.2.launch == lid && e.2.saved.isNone && e.2.index / itemsPerGang l.img * itemsPerGang l.img == g0).map fun e =>
      (e.2.index, e.2.die)

/-! ### The reserved memory (03 R66; 11 R245; 13 R277; assumption 33) -/

/-- The `n` lowest numbers that a list lacks. -/
def freeNums (used : List Nat) (n : Nat) : List Nat :=
  ((List.range (used.length + n)).filter fun k => !(used.contains k)).take n

/-- One above the greatest of some numbers. -/
def extent (ks : List Nat) : Nat := ks.foldl (fun a k => max a (k + 1)) 0

/-- The spill areas of the resident work items of a launch. -/
def areasOf (s : State) (lid : Nat) : List Nat :=
  (s.run.items.filter fun e => e.2.launch == lid && e.2.saved.isNone).map (·.2.area)

/-- The save images that a launch's reserved memory holds. -/
def imagesOf (s : State) (lid : Nat) : List Nat :=
  (s.run.items.filter fun e => e.2.launch == lid && e.2.saved.isSome).map (·.2.area)

/-- The bytes of a work item's save image (assumption 20): scratchpads, the registers, tiles and stacks of every group
and 4 KiB for each group's other state. -/
def imageBytes (im : Image) : Nat :=
  (if hasCluster im then im.rectW * im.rectH else 1) * im.scratch
    + groupsPerItem im * (256 * im.vfoot + 8 * im.sfoot + 16384 * im.afoot + 16 * (32 + im.spill) + 4096)

/-- The address of a save image: the images lie one below another from the end of the reserved memory. -/
def imageVa (l : Launch) (k : Nat) : Nat := l.ext.resv + l.ext.resvsize * 2 ^ 20 - (k + 1) * imageBytes l.img

/-- The reserved memory holds `na` more spill areas and `ni` more save images, beside those it holds and the images of
the requests that are pending. -/
def reservedHolds (s : State) (lid : Nat) (l : Launch) (na ni : Nat) : Bool :=
  let areas := areasOf s lid
  let images := imagesOf s lid
  let asked := (s.run.items.filter fun e => e.2.launch == lid && e.2.preempt.isSome).length
  decide (extent (areas ++ freeNums areas na) * areaBytes l.img
    + extent (images ++ freeNums images (asked + ni)) * imageBytes l.img ≤ l.ext.resvsize * 2 ^ 20)

/-- The place of a unit of items, a gang as a whole and beside its members that are resident (10 R218), with room for
its spill areas (R217). -/
def findUnit (s : State) (lid : Nat) (l : Launch) (ms : List Nat) : Option (List (Nat × Nat × Spot) × Nat) :=
  let im := l.img
  let n := itemsPerGang im
  let seats := gangSeats s lid l (ms.headD 0 / n * n)
  let free := (findSpots s lid l (fun _ => true) ms [] l.lastDie).map fun r => (r.1, r.2.2)
  if !reservedHolds s lid l ms.length 0 then none
  else match bindAt im (gangLevel im) with
  | 4 => (dieOrder s l.lastDie).findSome? fun d =>
    if seats.all fun x => x.2 == d then (findSpots s lid l (· == d) ms [] l.lastDie).map fun r => (r.1, r.2.2) else none
  | 5 => if highBelow im 4 (depth im + 1) = 0 then free
    else
      let k := itemsPerDie im
      findDies s lid l (fun xs => (seats.find? fun x => x.1 / k == xs.headD 0 / k).map (·.2)) (byDie k ms)
        (seats.map (·.2)) [] l.lastDie
  | _ => free

/-! ### Which items come next (10 R218, R219, R221; 12 R266) -/

/-- The first index from `i` on that belongs to this package. -/
def ownFrom (p : Part) (im : Image) : Nat → Nat → Nat
  | 0, i => i
  | n + 1, i => if ownItem p im i then i else ownFrom p im n (i + 1)

/-- The first item not yet placed, when there is one. -/
def freshItem (s : State) (l : Launch) : Option Nat :=
  let i := ownFrom s.part l.img (itemCount l - l.nextItem) l.nextItem
  if i < itemCount l then some i else none

/-- Some item of the launch waits for residency. -/
def hasWaiting (s : State) (l : Launch) : Bool := !l.waiting.isEmpty || (freshItem s l).isSome

/-- The saved work item of an index. -/
def savedItem (s : State) (lid idx : Nat) : Option (Nat × Item) :=
  s.run.items.find? fun e => e.2.launch == lid && e.2.index == idx && e.2.saved.isSome

/-- The members of the unit that starts at an index: the saved items of the gang, or the whole fresh gang. -/
def unitOf (s : State) (l : Launch) (g0 : Nat) : List Nat :=
  let n := itemsPerGang l.img
  if freshItem s l = some g0 then (List.range n).map (· + g0)
  else l.waiting.filter fun i => i / n * n == g0

/-- The place of a number in a rising list. -/
def insNat (x : Nat) : List Nat → List Nat
  | [] => [x]
  | y :: t => if x ≤ y then x :: y :: t else y :: insNat x t

/-- The first PLACE entry that REPLAY still has to force. -/
def placeLogged (l : Launch) : Option LogEntry :=
  if replaying l then l.replayLog.find? fun e => e.kind == 3 else none

/-- A unit of saved items may come back: no restore of it is parked (10 R214), and no member of its gang is about to be
saved (03 R50). -/
def unitReady (s : State) (lid : Nat) (l : Launch) (g0 : Nat) : Bool :=
  let n := itemsPerGang l.img
  s.run.items.all fun e =>
    !(e.2.launch == lid && e.2.index / n * n == g0 && (if e.2.saved.isSome then e.2.saveParked else e.2.preempt.isSome))

/-- The first indexes of the units of a launch that wait for residency and may have it, in rising order. Of the items
not yet placed the first alone, which needs as much room as any other. -/
def waitingUnits (s : State) (lid : Nat) (l : Launch) : List Nat :=
  let n := itemsPerGang l.img
  let saved := ((l.waiting.map fun i => i / n * n).eraseDups).filter (unitReady s lid l)
  match freshItem s l with
    | some g => insNat g saved
    | none => saved

/-- A unit was among the waiting items when a swap was decided (10 R221): the saved ones, and those not yet placed. -/
def waitedAt (l : Launch) (x : List Nat × Nat) (g0 : Nat) : Bool :=
  let n := itemsPerGang l.img
  (x.1.any fun i => i / n * n == g0) || decide (x.2 ≤ g0)

/-- The units of a launch that may take room, in order (10 R218, R221): under REPLAY the logged one, once the logged
number of items has ended (12 R266). FREE lets a later one take room that an earlier cannot use. -/
def nextUnits (s : State) (lid : Nat) (l : Launch) : List Nat :=
  let all := waitingUnits s lid l
  match placeLogged l with
  | some e =>
    let g := e.value % 2 ^ 32 / itemsPerGang l.img * itemsPerGang l.img
    if decide (e.value / 2 ^ 32 ≤ l.endedItems.length) && all.contains g then [g] else []
  | none =>
    match l.pkt.mode with
    | 0 => all
    | 1 => all.take 1
    | _ =>
      let mine := match l.swaps with
        | [] => []
        | x :: _ => all.filter (waitedAt l x)
      (if mine.isEmpty then all else mine).take 1

/-- Launches with waiting items in the order of 10 R214. -/
def insCand (c : Cand) : List Cand → List Cand
  | [] => [c]
  | x :: t => if x.before c then x :: insCand c t else c :: x :: t

def placeCands (s : State) : List Cand :=
  (s.run.launches.filterMap fun e =>
    if e.2.stat == .bound && hasWaiting s e.2 then
      some ⟨eprio s e.2.pkt.prio e.2.ceil e.2.since, follows s e.2.queue, some e.2.queue, e.1⟩
    else none).foldr insCand []

/-! ### The first rung (08 R191) -/

/-- The log entry of a prediction (12 R263, KIND 7). -/
def predictEntry (idx rung : Nat) : LogEntry := ⟨7, 0, idx % 2 ^ 32 + rung * 2 ^ 32⟩

/-- The prediction of the table and the table after it. -/
def tablePredict (s : State) (l : Launch) (idx : Nat) : Nat × State :=
  let k := histKey l idx
  match kfind s.host.history k.1 with
  | none => (0, s)
  | some e =>
    if e.tag ≠ k.2 then (0, s)
    else if e.clean = 8 ∧ 0 < e.lrung then
      (e.lrung - 1, setHost s { s.host with history := kins s.host.history k.1 { e with clean := 0 } })
    else (e.lrung, s)

/-- RUNG_PREDICTION (95; 08 R191; 12 R266): the rung a work item starts at. A launch that is not transactional stands at
rung 3. -/
def predictRung (s : State) (lid : Nat) (l : Launch) (idx : Nat) : Nat × State :=
  if !l.pkt.txn then (3, s)
  else if l.pkt.nopred then (0, s)
  else
    match (if replaying l then l.replayLog.find? fun e => e.kind == 7 && e.value % 2 ^ 32 == idx % 2 ^ 32 else none) with
    | some e => (bits e.value 32 2, choose s lid false e)
    | none =>
      let r := tablePredict s l idx
      (r.1, choose r.2 lid false (predictEntry idx r.1))

/-! ### Making an item resident -/

/-- The lowest free slot of a core. -/
def freeSlot (s : State) (core : Nat) : Nat :=
  ((List.range 32).find? fun k => (grp s (core * 32 + k)).isNone).getD 0

/-- The core of a group of an item on a place. -/
def coreOn (im : Image) (sp : Spot) (gidx : Nat) : Nat := (sp.getD (corePos im gidx) (0, 0)).1

/-- The log entry of a placement (12 R263, KIND 3). -/
def placeEntry (l : Launch) (idx : Nat) : LogEntry := ⟨3, 0, idx % 2 ^ 32 + l.endedItems.length * 2 ^ 32⟩

/-- A placement is logged, or takes the entry that REPLAY has for it (12 R266). -/
def choosePlace (s : State) (lid idx : Nat) : State :=
  let l := launchOf s lid
  choose s lid false (match placeLogged l with
    | some e => if e.value % 2 ^ 32 = idx % 2 ^ 32 then e else placeEntry l idx
    | none => placeEntry l idx)

/-- The spill area that a launch's next resident item has. -/
def nextArea (s : State) (lid : Nat) : Nat := (freeNums (areasOf s lid) 1).headD 0

/-- Puts a group in the lowest free slot of its core. -/
def seatGroup (im : Image) (it : Nat) (sp : Spot) (s : State) (g : Group) : State :=
  let c := coreOn im sp g.gidx
  let gid := c * 32 + freeSlot s c
  modItem (setGrp s gid g) it fun i => { i with gids := i.gids ++ [gid] }

/-- Empties the instruction caches of the cores (07 R162), and for a graph node their L1s (07 R158). -/
def freshenCores (s : State) (node : Bool) (cs : List Nat) : State :=
  cs.foldl (fun s c => if node then flashL1 (flushIcache s c) c else flushIcache s c) s

/-- A work item starts (10 R217; 04 R79). -/
def startItem (s : State) (lid idx die : Nat) (sp : Spot) : State :=
  let l := launchOf s lid
  let s := choosePlace s lid idx
  let r := predictRung s lid (launchOf s lid) idx
  let it := r.2.ctl.serial
  let i : Item := { Item.fresh with
    launch := lid
    index := idx
    die := die
    cores := sp.map (·.1)
    placed := s.ctl.clk
    rung := r.1
    pred := r.1
    area := nextArea s lid }
  let s := bumpSerial { r.2 with run := { r.2.run with items := kins r.2.run.items it i } }
  let s := freshenCores s (!(l.pkt.gnode == 0)) (sp.map (·.1))
  (List.range (groupsPerItem l.img)).foldl (fun s k => seatGroup l.img it sp s (startGroup l lid it k)) s

/-- After a placement: the last die and queue, and the swap whose room it took (10 R214, R217, R221). -/
def notePlaced (s : State) (lid last next : Nat) : State :=
  let s := modLaunch s lid fun l => { l with lastDie := last, nextItem := next, swaps := l.swaps.tail }
  setHost s { s.host with lastQueue := (launchOf s lid).queue }

/-- A fresh unit becomes resident. -/
def startUnit (s : State) (lid : Nat) (l : Launch) (ms : List Nat) (r : List (Nat × Nat × Spot) × Nat) : State :=
  let s := r.1.foldl (fun s x => startItem s lid x.1 x.2.1 x.2.2) s
  notePlaced s lid r.2 (max l.nextItem (ms.foldl max 0 + 1))

/-! ### Asking for a pre-emption (10 R220, R221; 11 R244; 13 R277) -/

/-- A group is parked. -/
def isParked (g : Group) : Bool :=
  match g.stat with
  | .parkFault => true
  | .parkTrap _ => true
  | .parkDog => true
  | _ => false

/-- Some group of the work item is parked. -/
def itemParked (s : State) (i : Item) : Bool :=
  i.gids.any fun gid => match grp s gid with
    | some g => isParked g
    | none => false

/-- A request may be made of a resident work item; cause 0 is SAFE, 1 a slice, 2 a priority. -/
def mayAsk (s : State) (i : Item) (cause : Nat) : Bool :=
  i.saved.isNone && i.preempt.isNone && !i.gids.isEmpty && !replaying (launchOf s i.launch)
    && (cause == 0 || !itemParked s i)

/-- The resident members of an item's gang, the item among them. -/
def gangOf (s : State) (it : Nat) (i : Item) : List Nat :=
  let n := itemsPerGang (launchOf s i.launch).img
  if n ≤ 1 then [it]
  else (s.run.items.filter fun e => e.2.launch == i.launch && e.2.index / n == i.index / n && e.2.saved.isNone).map (·.1)

/-- A request of one work item: the batches of its groups have leave at once (11 R246), and the items that wait now are
those that a swap makes room for (10 R221). Leave is given to the batches of a parked group too, also when SAFE asks (02
R45; assumption 45). -/
def askItem (cause : Nat) (s : State) (it : Nat) : State :=
  match kfind s.run.items it with
  | none => s
  | some i =>
    let l := launchOf s i.launch
    i.gids.foldl grantAll (modItem s it fun i =>
      { i with preempt := some cause, asked := s.ctl.si, waiters := (l.waiting, l.nextItem) })

/-- The request, made of some items together when it may be made of each and the reserved memory can hold the images of
all (13 R277). -/
def askTogether (s : State) (ms : List Nat) (lid cause : Nat) : State :=
  if (ms.all fun k => (kfind s.run.items k).any fun i => mayAsk s i cause)
      && reservedHolds s lid (launchOf s lid) 0 ms.length then ms.foldl (askItem cause) s
  else s

/-- The request of SAFE, made of each item alone (02 R45). -/
def askPreempt (s : State) (it cause : Nat) : State :=
  match kfind s.run.items it with
  | none => s
  | some i => askTogether s [it] i.launch cause

/-- A gang is pre-empted and swapped as one unit (03 R50, R75). -/
def askGang (s : State) (it : Nat) (i : Item) (cause : Nat) : State := askTogether s (gangOf s it i) i.launch cause

/-- A priority may pre-empt an item, with its gang. -/
def mayTake (s : State) (it : Nat) (i : Item) : Bool :=
  let ms := gangOf s it i
  (ms.all fun k => (kfind s.run.items k).any fun i => mayAsk s i 2)
    && reservedHolds s i.launch (launchOf s i.launch) 0 ms.length

/-- The next victim of a blocked candidate: of the resident launches at least 16 below it the lowest, and of those the
item placed last. -/
def victimOf (s : State) (prio : Nat) : Option (Nat × Item) :=
  let rs := s.run.items.filter fun e => mayTake s e.1 e.2 && decide ((launchOf s e.2.launch).pkt.prio + 16 ≤ prio)
  let low := rs.foldl (fun a e => min a (launchOf s e.2.launch).pkt.prio) 128
  (rs.filter fun e => (launchOf s e.2.launch).pkt.prio == low).foldl (fun a e => match a with
    | none => some e
    | some b => if e.2.placed < b.2.placed then a else some e) none

/-- PRIORITY_PREEMPTION (95; 10 R220): one victim at a time, until the candidate fits. -/
def preemptFor (s : State) (l : Launch) : State :=
  if s.run.items.any fun e => e.2.preempt == some 2 then s
  else match victimOf s l.pkt.prio with
    | some e => askGang s e.1 e.2 2
    | none => s

/-! ### WORK_ITEM_PLACE -/

/-- Items may be placed: not in SAFE, not before the cryogenic state is chosen (02 R32, R45). -/
def mayPlace (s : State) : Bool := mayChoose s

/-- A logged placement that can no longer be made (12 R268). -/
def placeLost (l : Launch) : Bool :=
  match placeLogged l with
  | some e => l.endedItems.contains (e.value % 2 ^ 32)
  | none => false

/-- The members of a unit are saved items. -/
def isSavedUnit (s : State) (lid : Nat) (ms : List Nat) : Bool := ms.any fun i => (savedItem s lid i).isSome

/-- The first unit of a launch that has room, with its place. -/
def launchFit (s : State) (lid : Nat) (l : Launch) : Option (List Nat × List (Nat × Nat × Spot) × Nat) :=
  (nextUnits s lid l).findSome? fun g => (findUnit s lid l (unitOf s l g)).map fun r => (unitOf s l g, r)

/-- Room is being made by priority: a request for it is pending, or what it made leave waits (10 R220). -/
def makingRoom (s : State) : Bool :=
  s.run.items.any fun e => if e.2.saved.isSome then e.2.out == some 2 else e.2.preempt == some 2

/-- Some unit of a launch waits for room. -/
def wantsRoom (s : State) (lid : Nat) (l : Launch) : Bool := !(nextUnits s lid l).isEmpty

/-- While a candidate of PRIO `bar` is blocked and room is made for it, what it may pre-empt takes none (10 R220;
assumption 43). -/
def givesWay (s : State) (bar : Nat) (l : Launch) : Bool := decide (l.pkt.prio + 16 ≤ bar) && makingRoom s

/-- The first candidate, in order, that has a unit with room (10 R214): its launch, its unit and its place; `bar` is the
greatest PRIO of those before it that are blocked. -/
def fitFrom (s : State) (bar : Nat) : List Cand → Option (Nat × List Nat × List (Nat × Nat × Spot) × Nat)
  | [] => none
  | c :: t =>
    let l := launchOf s c.lid
    if givesWay s bar l then fitFrom s bar t
    else match launchFit s c.lid l with
      | some r => some (c.lid, r)
      | none => fitFrom s (if wantsRoom s c.lid l then max bar l.pkt.prio else bar) t

def firstFit (s : State) (cs : List Cand) : Option (Nat × List Nat × List (Nat × Nat × Spot) × Nat) := fitFrom s 0 cs

/-- The candidates ahead of the one that fits are blocked for room and may pre-empt (10 R220). -/
def blockedFrom (s : State) (bar : Nat) : List Cand → List Cand
  | [] => []
  | c :: t =>
    let l := launchOf s c.lid
    if givesWay s bar l then blockedFrom s bar t
    else match launchFit s c.lid l with
      | some _ => []
      | none => if wantsRoom s c.lid l then c :: blockedFrom s (max bar l.pkt.prio) t else blockedFrom s bar t

def blockedCands (s : State) (cs : List Cand) : List Cand := blockedFrom s 0 cs

/-- REPLAY gives up the placements that it cannot make (12 R268). -/
def divergeLost (s : State) : State :=
  { s with run := { s.run with
    launches := s.run.launches.map fun e => (e.1, if placeLost e.2 then { e.2 with diverged := true } else e.2) } }

/-- WORK_ITEM_PLACE (95; 10 R217 to R221). -/
def execWorkItemPlace (s : State) : Host.Outcome State Fault Refusal :=
  .next (if !mayPlace s then s
    else
      let s := divergeLost s
      let cs := placeCands s
      let s1 := (blockedCands s cs).foldl (fun s c => preemptFor s (launchOf s c.lid)) s
      match firstFit s cs with
      | some (lid, ms, r) => if isSavedUnit s lid ms then s1 else startUnit s1 lid (launchOf s1 lid) ms r
      | none => s1)

/-- Another item of the launch than an item and its gang waits for residency. -/
def othersWait (s : State) (i : Item) : Bool :=
  let l := launchOf s i.launch
  let n := itemsPerGang l.img
  (l.waiting.any fun k => !(k / n == i.index / n)) || (freshItem s l).isSome

/-- QUANTUM_SLICE_EXPIRY (95; 10 R221): the slice is over and an item of the launch waits. -/
def execQuantumSliceExpiry (it : Nat) (s : State) : Host.Outcome State Fault Refusal :=
  .next (match kfind s.run.items it with
    | none => s
    | some i =>
      if (launchOf s i.launch).pkt.mode == 2 && i.saved.isNone && decide (i.placed + 2 ^ 20 ≤ s.ctl.clk)
          && othersWait s i then askGang s it i 1
      else s)

end Sys2Proof.Machine
end

