-- ==== Sys2Proof/Machine/Save.lean ====
section
/-! DEFINITION. Pre-emption of a work item: the fallback, the save, the withdrawal of a request, the restore (11 R244 to
R249), the hang watchdog (10 R229, R230) and the completion of a launch (10 R216). -/

namespace Sys2Proof.Machine

/-! ### Withdrawal and fallback -/

/-- A stopped group goes on where it stopped. -/
def unstop (g : Group) : Group :=
  match g.stat with
  | .stopped _ => { g with stat := .run, wait := none, idle := 0 }
  | _ => g

/-- The request is withdrawn: the groups that stopped for it go on (11 R244). -/
def withdraw (s : State) (it : Nat) : State :=
  match kfind s.run.items it with
  | none => s
  | some i => i.gids.foldl (fun s gid => modGrp s gid unstop) (modItem s it fun i => { i with preempt := none })

/-- A read of WORK of the group is on its way. -/
def readsWork (s : State) (gid : Nat) (g : Group) : Bool :=
  (launchOf s g.launch).workQ.any fun r => r.gid == gid

/-- 50 µs after the request, in SI time (11 R248; 02 R37). -/
def fallbackDue (s : State) (i : Item) : Bool := i.preempt.isSome && decide (i.asked + 50 * siUnits ≤ s.ctl.si)

/-- The group stops at its next instruction boundary (11 R248): before the hints of the next instruction. -/
def stopBoundary (s : State) (gid : Nat) : State :=
  modGrp (closeAtPoint s gid) gid fun g =>
    { g with stat := .stopped .boundary, pc := g.hints.first.getD g.pc, hints := Hints.none }

/-- The group stops at its next boundary: its request is 50 µs old, or REPLAY has reached the point that the log names,
which alone stops it then (12 R266). -/
def boundaryDue (s : State) (g : Group) (i : Item) : Bool :=
  if replaying (launchOf s g.launch) then swapHeld s g else fallbackDue s i

/-- PREEMPT_FALLBACK (95; 11 R248): the group of an item whose request is 50 µs old. -/
def execPreemptFallback (gid : Nat) (s : State) : Host.Outcome State Fault Refusal :=
  .next (match grp s gid with
    | none => s
    | some g =>
      let i := (kfind s.run.items g.item).getD Item.fresh
      if g.stat == .run && boundaryDue s g i && !readsWork s gid g then stopBoundary s gid else s)

/-! ### The save (11 R245, R246) -/

/-- The group has stopped, or has ended and holds its slot. -/
def atRest (g : Group) : Bool :=
  match g.stat with
  | .stopped _ => true
  | .ended => true
  | _ => false

/-- The group stopped at a point or boundary. -/
def isStopped (g : Group) : Bool :=
  match g.stat with
  | .stopped _ => true
  | _ => false

/-- Nothing of the work item is under way: every group at rest, batches finished, loads, atomics and transfers over. -/
def saveReady (s : State) (it : Nat) (i : Item) : Bool :=
  (i.gids.any fun gid => match grp s gid with
    | some g => isStopped g
    | none => false)
    && (i.gids.all fun gid => match grp s gid with
      | some g => atRest g && g.opens.isEmpty && g.batches.isEmpty && g.hostAtom.isNone
      | none => true)
    && !(s.run.flights.any fun f => i.gids.contains f.gid) && !(s.run.xfers.any fun x => x.item == it)
    && i.abort.isNone

/-- Whether a LIVE names register r of a file. -/
def liveNames (f : LiveF) (u : Bool) (r : Nat) : Bool :=
  let w := if u then (if r < 32 then f.s0 else f.s1) else (if r < 32 then f.v0 else f.v1)
  match w with
  | some x => x.toNat.testBit (r % 32)
  | none => false

/-- The entries of a map that an image holds. -/
def keepKeys {α : Type} (m : KMap α) (p : Nat → Bool) : KMap α := m.filter fun e => p e.1

/-- A group as its image holds it (11 R245): at LIVE the registers and tiles it names, otherwise every live name. A name
the image does not hold is unwritten after the restore. -/
def imageOf (g : Group) : Group :=
  let g := { g with vkilled := [], skilled := [] }
  match g.stat with
  | .stopped (.live f) =>
    { g with
      v := keepKeys g.v (liveNames f false)
      s := keepKeys g.s (liveNames f true)
      vlive := keepKeys g.vlive (liveNames f false)
      slive := keepKeys g.slive (liveNames f true)
      tile := keepKeys g.tile fun a => f.acc.toNat.testBit a
      bound := keepKeys g.bound fun a => f.acc.toNat.testBit a }
  | _ => g

/-- A scratchpad offset lies in a range that a LIVE names, in units of 128 bytes (14 R301). -/
def liveRange (f : LiveF) (o : Nat) : Bool :=
  f.ranges.any fun r => decide (r.1.toNat * 128 ≤ o) && decide (o < (r.1.toNat + r.2.toNat + 1) * 128)

/-- The scratchpad bytes that the image holds (11 R245). -/
def imageScr (i : Item) (gs : List Group) : KMap Byte :=
  let other := gs.any fun g => match g.stat with
    | .stopped (.live _) => false
    | .ended => false
    | _ => true
  if other then i.scr
  else keepKeys i.scr fun a =>
    let o := a % 2 ^ 19
    (i.txOpen && decide (i.scrOff ≤ o) && decide (o < i.scrOff + i.scrLen))
      || gs.any fun g => match g.stat with
        | .stopped (.live f) => liveRange f o
        | _ => false

/-- The first of some bytes of the reserved memory, page by page, that does not translate, with the CAUSE (11 R248), or that
lie in a line that an engine transfer owns, with `walkBusy` (07 R156). -/
def pageFault (s : State) (l : Launch) (die : Nat) (acc : Acc) (va n : Nat) : Option (Nat × Nat) :=
  (List.range ((va % 4096 + n + 4095) / 4096)).findSome? fun k =>
    let a := if k = 0 then va else va / 4096 * 4096 + 4096 * k
    if !inGlobal a 1 then none
    else match translate s die l.asid a acc with
      | .ok t =>
        if !t.host && ownedLoc s (.hbm (t.base + (a - t.va))) (min (va + n) (a / 4096 * 4096 + 4096) - a) then some (a, walkBusy)
        else none
      | .error (c, _) => some (a, c)

/-- The image that the next saved item of a launch takes. -/
def nextImage (s : State) (lid : Nat) : Nat := (freeNums (imagesOf s lid) 1).headD 0

/-- What save traffic touches: the next image. -/
def saveFault (s : State) (l : Launch) (lid die : Nat) : Option (Nat × Nat) :=
  pageFault s l die .engWrite (imageVa l (nextImage s lid)) (imageBytes l.img)

/-- What restore traffic touches: the item's image, and the spill area that it comes to (03 R66); with whether it
writes. -/
def loadFault (s : State) (l : Launch) (lid die : Nat) (i : Item) : Option (Bool × Nat × Nat) :=
  match pageFault s l die .engRead (imageVa l i.area) (imageBytes l.img) with
  | some x => some (false, x)
  | none =>
    if ((i.saved.getD []).any fun g => decide (32 < slotsOf g.stack)) then
      (pageFault s l die .engWrite (l.ext.resv + nextArea s lid * areaBytes l.img) (areaBytes l.img)).map fun x => (true, x)
    else none

/-- Save or restore traffic parks on a fault record (11 R248; 06 R136, KIND 6); it waits for a line of its tables that an
engine transfer owns, and for a record. -/
def parkSave (s : State) (it : Nat) (wr : Bool) (die core asid va cause : Nat) : State :=
  if cause = walkBusy ∨ poolFull s die asid va wr then s
  else modItem (openFaultAs wr s die asid va 6 cause false core (.save it)) it fun i => { i with saveParked := true }

/-- The slots of the groups are freed; reservations, registrations and requests go with them (10 R228; 17 R378). -/
def vacate (s : State) (gid : Nat) : State :=
  delGrp (leaveAsks (dropMon (returnReserve (drainGroup s gid) gid) gid) gid) gid

/-- Every slot of a group's stack as it stands, the spilled ones read from its area (11 R245). -/
def stackRead (s : State) (gid : Nat) (g : Group) : Group := { g with stack := stackNow s (who s gid g) g }

/-- The pre-emption is logged for each group that stopped, or takes the entry that REPLAY has for it (12 R263, R266). -/
def logSwaps (s : State) (i : Item) (gs : List Group) : State :=
  (gs.filter isStopped).foldl (fun s g => choose s i.launch false (swapLog i.index g.gidx g.points)) s

/-- The save engine writes an image to the reserved memory; what its bytes are the spec does not say (11 R245;
assumption 20). -/
def writeImage (s : State) (l : Launch) (die k : Nat) : State :=
  bumpNonce (storeVas s die l.asid (imageVa l k) ((List.range (imageBytes l.img)).map (Config.freeByte s.ctl.nonce)))

/-- The image is complete: the item leaves its cores and waits as a candidate of its launch (10 R220; 11 R245). -/
def saveItem (s : State) (it : Nat) (i : Item) : State :=
  let s := i.gids.foldl (fun s gid => returnReserve (drainGroup s gid) gid) s
  let gs := i.gids.filterMap fun gid => (grp s gid).map (stackRead s gid)
  let k := nextImage s i.launch
  let s := writeImage (logSwaps s i gs) (launchOf s i.launch) i.die k
  let s := i.gids.foldl vacate s
  let s := modItem s it fun x =>
    { x with
      saved := some (gs.map imageOf)
      scr := imageScr i gs
      gids := []
      cores := []
      out := i.preempt
      area := k
      preempt := none }
  modLaunch s i.launch fun l => { l with waiting := insNat i.index l.waiting }

/-- The first of some items whose save traffic does not translate parks. -/
def saveParks (s : State) : List Nat → Option State
  | [] => none
  | it :: t =>
    match kfind s.run.items it with
    | none => saveParks s t
    | some i =>
      let l := launchOf s i.launch
      match saveFault s l i.launch i.die with
      | some (va, c) => some (parkSave s it true i.die (i.cores.headD 0xFFFF) l.asid va c)
      | none => saveParks s t

/-- The save of some items together. -/
def saveAll (s : State) (ms : List Nat) : State :=
  match saveParks s ms with
  | some s' => s'
  | none => ms.foldl (fun s it => match kfind s.run.items it with
      | some i => saveItem s it i
      | none => s) s

/-- No group of the work item has a read of WORK on its way. -/
def workIdle (s : State) (i : Item) : Bool :=
  !(i.gids.any fun gid => (grp s gid).any fun g => readsWork s gid g)

/-- An item is ready for its save. -/
def savesNow (s : State) (it : Nat) (i : Item) : Bool := saveReady s it i && workIdle s i

/-- The save of one item alone: for SAFE, whose parked items wait stopped (02 R45). -/
def saveAlone (s : State) (it : Nat) (i : Item) : State :=
  if itemParked s i || !savesNow s it i then s else saveAll s [it]

/-- The longest beginning of a list in which nothing stands twice. -/
def onceFrom {α : Type} [BEq α] (seen : List α) : List α → List α
  | [] => []
  | a :: t => if seen.contains a then [] else a :: onceFrom (a :: seen) t

/-- The items of a gang that REPLAY saves together: those that the next pre-emptions of the log name before one of their
groups is named again (10 R221; 12 R266). -/
def loggedUnit (s : State) (l : Launch) (ms : List Nat) : List Nat :=
  let index (k : Nat) : Nat := ((kfind s.run.items k).getD Item.fresh).index % 2 ^ 32
  let es := onceFrom [] ((l.replayLog.filter fun e => e.kind == 4
    && ms.any fun k => index k == e.value % 2 ^ 32).map fun e => e.value % 2 ^ 41)
  ms.filter fun k => es.any fun v => v % 2 ^ 32 == index k

/-- The save where REPLAY has stopped groups: with the items of the gang that the log swaps with it, once all of them are
ready (03 R50; 10 R218; 12 R266). A reserved memory that cannot hold the images of a logged pre-emption ends the forcing
(12 R268; 13 R277). -/
def saveLogged (s : State) (it : Nat) (i : Item) : State :=
  let l := launchOf s i.launch
  let ms := loggedUnit s l (gangOf s it i)
  if !(ms.contains it) || !(ms.all fun k => (kfind s.run.items k).any fun j =>
      !(itemParked s j) && !j.saveParked && savesNow s k j) then s
  else if !reservedHolds s i.launch l 0 ms.length then
    modLaunch (ms.foldl withdraw s) i.launch fun l => { l with diverged := true }
  else saveAll s ms

/-- The save of a gang that was asked together, or the withdrawal of its request because a group of it is parked (11
R244). What waited when a swap was decided takes the room (10 R221). -/
def saveGang (s : State) (it : Nat) (i : Item) : State :=
  let ms := gangOf s it i
  let is := ms.filterMap (kfind s.run.items)
  if is.any (itemParked s) then ms.foldl withdraw s
  else if is.any (·.saveParked) || !(ms.all fun k => (kfind s.run.items k).any (savesNow s k)) then s
  else match saveParks s ms with
    | some s' => s'
    | none =>
      let t := saveAll s ms
      if i.preempt = some 1 then modLaunch t i.launch fun l => { l with swaps := l.swaps ++ [i.waiters] } else t

/-- SAVE_COMPLETE (95; 11 R244 to R246); the save engine acts in the pause of a class change too (assumption 61). -/
def execSaveComplete (it : Nat) (s : State) : Host.Outcome State Fault Refusal :=
  .next (match kfind s.run.items it with
    | none => s
    | some i =>
      if i.saved.isSome || i.saveParked then s
      else if replaying (launchOf s i.launch) then saveLogged s it i
      else if i.preempt == some 0 then saveAlone s it i
      else if i.preempt.isSome then saveGang s it i
      else s)

/-! ### The restore (11 R249) -/

/-- A group as it resumes: after its LIVE or YIELD, in its barrier or heat, and after a MONWAIT as if woken. -/
def resumeGroup (g : Group) : Group :=
  unstop { g with
    wait := none
    mon := match g.mon with
      | .armed l => .fired l 1
      | x => x }

/-- A saved item becomes resident again on its place: its L1s are emptied, its spilled slots go to its new spill area, and
its groups take slots (11 R249). -/
def restoreItem (s : State) (lid it : Nat) (i : Item) (die : Nat) (sp : Spot) : State :=
  let l := launchOf s lid
  let s := choosePlace s lid i.index
  let cs := sp.map (·.1)
  let area := nextArea s lid
  let s := modItem s it fun x =>
    { x with die := die, cores := cs, placed := s.ctl.clk, saved := none, out := none, area := area }
  let s := cs.foldl flashL1 s
  let s := ((i.saved.getD []).map resumeGroup).foldl (seatGroup l.img it sp) s
  let gids := ((kfind s.run.items it).getD Item.fresh).gids
  let s := gids.foldl (fun s gid => match grp s gid with
    | some g => spillOut s (who s gid g) g 0 g.stack
    | none => s) s
  modLaunch s lid fun l => { l with waiting := l.waiting.filter fun k => !(k == i.index) }

/-- The unit of saved items becomes resident. -/
def restoreUnit (s : State) (lid : Nat) (l : Launch) (r : List (Nat × Nat × Spot) × Nat) : State :=
  let s := r.1.foldl (fun s x => match savedItem s lid x.1 with
    | some (it, i) => restoreItem s lid it i x.2.1 x.2.2
    | none => s) s
  notePlaced s lid r.2 l.nextItem

/-- The first item of a unit whose restore traffic does not translate: it parks. -/
def restoreFault (s : State) (lid : Nat) (l : Launch) (r : List (Nat × Nat × Spot)) : Option State :=
  r.findSome? fun x => match savedItem s lid x.1 with
    | none => none
    | some (it, i) => match loadFault s l lid x.2.1 i with
      | some (wr, va, c) => some (parkSave s it wr x.2.1 ((x.2.2.headD (0xFFFF, 0)).1) l.asid va c)
      | none => none

/-- WORK_ITEM_RESTORE (95; 11 R249): the item is in the unit that takes the room. -/
def execWorkItemRestore (it : Nat) (s : State) : Host.Outcome State Fault Refusal :=
  .next (match kfind s.run.items it with
    | none => s
    | some i =>
      if i.saved.isNone || !mayPlace s then s
      else match firstFit s (placeCands s) with
        | none => s
        | some (lid, ms, r) =>
          if lid ≠ i.launch ∨ !ms.contains i.index then s
          else match restoreFault s lid (launchOf s lid) r.1 with
            | some s' => s'
            | none => restoreUnit s lid (launchOf s lid) r)

/-! ### The hang watchdog (10 R229, R230) -/

/-- WAIT of the parking event; none for the waits that do not count. -/
def waitCode : Wait → Option Nat
  | .queue => some 0
  | .barrier => some 1
  | .memory => some 2
  | .tag => some 3
  | .batch => some 4
  | .renaming => some 5
  | .monwait => some 6
  | .other => some 7
  | .pacer => none
  | .window => none
  | .forced => none

/-- What keeps a batch that has not entered: leave (10 R226), or a weight-store window (06 R122). -/
def batchWait (s : State) (w : Who) (b : Batch) : Option Wait :=
  if !b.granted then some .pacer
  else if b.entered.isNone && b.tm.any (fun t => (bLoc w t.b).any fun l => spanWindow s l (bBytes t.word.toNat t.shape))
  then some .window
  else none

/-- What keeps a transfer: leave, its turn in the log (12 R266), or a weight-store window. -/
def xferWait (s : State) (x : Xfer) : Option Wait :=
  let w := xferWho s x
  if !(x.leave == 0) then some .pacer
  else if (leftRanges x).any (fun r => writeHeld s x r.1 r.2) then some .forced
  else match x.kind with
    | .drainAdd =>
      let ks := ((writeVas x).map fun e => e.2 / 128).eraseDups
      (ks[x.pos]?).bind fun k =>
        let e := drainEntry s x (k * 128)
        if drainLogged s x (k * 128) && turnOf (launchOf s x.launch) e.1 e.2 == .hold then some .forced else none
    | .drain => none
    | _ => (((readVas x)[x.pos + x.vals.length]?).bind id).bind fun a =>
      if (placesOf s w .engRead [(a, x.shape.esize)]).any fun p => inWindow s p.1 then some .window else none

/-- The commit of a work item waits for nothing but its turn in the log (12 R266). -/
def commitForced (s : State) (i : Item) : Bool :=
  i.txOpen && allEnded s i && !i.ord && turnOf (launchOf s i.launch) false (commitEntry i) == .hold

/-- A read of WORK of the group waits for its turn in the log (12 R266). -/
def popForced (s : State) (gid : Nat) (g : Group) : Bool :=
  readsWork s gid g && (workServe s g.launch g.item ((kfind s.run.items g.item).getD Item.fresh)).isNone

/-- What a group waits for, with what stands behind it: leave, a window and a forced turn are not counted (10 R229; 12
R266). -/
def waitNow (s : State) (gid : Nat) (g : Group) : Option Wait :=
  let w := who s gid g
  let mine := s.run.xfers.filter fun x => x.gid == gid
  match g.wait with
  | some .batch => some ((g.batches.head?.bind (batchWait s w)).getD .batch)
  | some .tag => some ((mine.findSome? (xferWait s)).getD .tag)
  | some .memory =>
    some (if s.run.flights.any fun f => f.gid == gid && f.host.isSome && hostHeld s f 0 then .forced else .memory)
  | some .other =>
    if g.txEnded then
      some (((g.batches.head?.bind (batchWait s w)).or ((mine.filter (·.inTx)).findSome? (xferWait s))).getD
        (if commitForced s w.it then .forced else .other))
    else some (if popForced s gid g then .forced else .other)
  | x => x

/-- The group has been continuously not ready for WDOG; time counts in units of 100 µs (assumption 2). -/
def dogDue (s : State) (gid : Nat) (g : Group) : Option Nat :=
  if g.stat == .run && !inSafe s && decide (10 * s.host.wdogMs ≤ g.idle) then (waitNow s gid g).bind waitCode else none

/-- WATCHDOG_PARK (95; 10 R229, R230); the parking waits while the ring's buffer is full (13 R275). -/
def execWatchdogPark (gid : Nat) (s : State) : Host.Outcome State Fault Refusal :=
  .next (match grp s gid with
    | none => s
    | some g => match dogDue s gid g with
      | none => s
      | some code =>
        if !canPost s 0 then s
        else postEvent (modGrp s gid fun g => { g with stat := .parkDog }) 5 0
          (bytesLe 4 (launchIdOf s g) ++ bytesLe 2 (gid / 32) ++ bytesLe 1 (gid % 32) ++ bytesLe 1 code
            ++ bytesLe 8 g.pc))

/-! ### Completion of a launch (10 R216) -/

/-- The header of the order log (12 R262). -/
def logHeader (s : State) (l : Launch) : List Byte :=
  bytesLe 4 0x474F4C4F ++ bytesLe 2 1 ++ bytesLe 2 l.logfull.toNat ++ bytesLe 4 l.img.imageid
    ++ bytesLe 4 l.pkt.lcount ++ bytesLe 2 s.part.inv.grade ++ bytesLe 6 0 ++ bytesLe 8 l.olog.length
    ++ bytesLe 8 l.rlog.length ++ bytesLe 24 0

def logBytes (es : List LogEntry) : List Byte :=
  (es.map fun e => bytesLe 1 e.kind ++ bytesLe 7 e.key ++ bytesLe 8 e.value).flatten

def recBytes (es : List (Nat × Nat × Nat × Nat)) : List Byte :=
  (es.map fun e => bytesLe 4 e.1 ++ bytesLe 2 e.2.1 ++ bytesLe 2 e.2.2.1 ++ bytesLe 8 e.2.2.2).flatten

/-- The order log and the record buffer of a RECORD launch that ran, in their regions (12 R262 to R265); a launch that
did not bind writes nothing (03 R53). -/
def writeLogs (s : State) (l : Launch) : State :=
  if l.pkt.det ≠ 1 ∨ l.stat ≠ .bound ∨ l.ext.ologsize < 64 then s
  else
    let s := storeVas s 255 l.asid (l.ext.olog + 64) (logBytes l.olog)
    let s := storeVas s 255 l.asid l.ext.rbuf (recBytes l.rlog)
    storeVas s 255 l.asid l.ext.olog (logHeader s l)

/-- A line of the order log or of the record buffer is owned by an engine transfer, and the writes wait for it (07 R156). -/
def logsWait (s : State) (l : Launch) : Bool :=
  decide (l.pkt.det = 1 ∧ l.stat = .bound ∧ 64 ≤ l.ext.ologsize)
    && [(l.ext.olog, 64 + 16 * l.olog.length), (l.ext.rbuf, 16 * l.rlog.length)].any fun r =>
      match pageFault s l 255 .engWrite r.1 r.2 with
      | some (_, c) => c == walkBusy
      | none => false

/-- Nothing of the launch is left to run. -/
def launchDone (s : State) (lid : Nat) (l : Launch) : Bool :=
  match l.stat with
  | .finished => true
  | .bound =>
    !(s.run.items.any fun e => e.2.launch == lid) && !hasWaiting s l
      && !(s.run.xfers.any fun x => x.launch == lid) && l.armWait.isEmpty
      && !(s.run.groups.any fun e => e.2.launch == lid)
  | _ => false

/-- The completion status of a launch. -/
def finalStatus (l : Launch) : Nat :=
  match l.stat with
  | .bound => if l.killed then 8 else 0
  | _ => l.status

/-- The launch completion record (13 R274, TYPE 0x0001). -/
def launchRecord (l : Launch) (time : Nat) : Record :=
  ⟨1, l.queue, bytesLe 4 l.pkt.launchid.toNat ++ bytesLe 1 (finalStatus l) ++ bytesLe 1 l.faultK
    ++ bytesLe 1 (l.extra.toNat + 2 * l.logfull.toNat + 4 * l.armfail.toNat) ++ bytesLe 1 0 ++ bytesLe 8 l.pktIdx
    ++ bytesLe 8 0 ++ bytesLe 8 time⟩

/-- The successors that a completing packet counts down (10 R215). -/
def succsOf (s : State) (l : Launch) : List Nat :=
  if l.succs.isEmpty && !(finalStatus l == 0) && !(finalStatus l == 8) then succsUnread s l else l.succs

/-- The queue goes on when the completed packet was its last (10 R213). -/
def freeQueue (s : State) (l : Launch) : State :=
  modQueue s l.queue fun x =>
    if l.pktIdx = (x.ridx + 2 ^ 32 - 1) % 2 ^ 32 then { x with busy := false, since := s.ctl.clk } else x

/-- A record waits in the buffer of a ring (13 R275). -/
def recordHeld (s : State) (qi : Nat) (r : Record) : Bool := (kfind s.host.queues qi).any fun q => q.held.contains r

/-- After its record is posted: the queue goes on, the launch is gone, and its successors are counted down (10 R215,
R216). -/
def closeLaunch (s : State) (lid : Nat) (l : Launch) : State :=
  let ns := succsOf s l
  let fail := !(finalStatus l == 0)
  let s := freeQueue s l
  let s := { s with run := { s.run with
    launches := kdel s.run.launches lid
    colls := s.run.colls.filter fun k => !(k.launch == lid)
    early := s.run.early.filter fun e => !(e.1 == lid) } }
  ns.foldl (fun s n => countdownNode s n fail) s

/-- The completion: logs written, the record posted, then the rest; a record that waits for a full ring keeps the launch
(10 R216; 13 R275). -/
def completeLaunch (s : State) (lid : Nat) (l : Launch) : State :=
  let t := freshTime (writeLogs s l)
  let r := launchRecord l t.2
  let s := post t.1 l.queue r
  if recordHeld s l.queue r then modLaunch s lid fun l => { l with record := some r } else closeLaunch s lid l

/-- LAUNCH_COMPLETE (95; 10 R216); nothing is posted while the ring's buffer is full (13 R275). -/
def execLaunchComplete (lid : Nat) (s : State) : Host.Outcome State Fault Refusal :=
  .next (match kfind s.run.launches lid with
    | none => s
    | some l => match l.record with
      | some r => if recordHeld s l.queue r then s else closeLaunch s lid l
      | none => if launchDone s lid l && canPost s l.queue && !logsWait s l then completeLaunch s lid l else s)

end Sys2Proof.Machine
end

