-- ==== Sys2Proof/Machine/Answer.lean ====
section
/-! DEFINITION. The answers of the host: to fault records (06 R137; 09 R439; 11 R248) and to parked groups (10 R231; 11
R239, R255). -/

namespace Sys2Proof.Machine

/-! ### FAULT_ANSWER (06 R137) -/

/-- Takes a record away. -/
def dropRecord (s : State) (id : Nat) : State := setMem s { s.mem with faults := kdel s.mem.faults id }

/-- An agent of a resolved record walks again for its own access; a group leaves every other record it attached to. -/
def rewalk (asid : Nat) (wr : Bool) (s : State) (a : Agent × Nat × Nat) : State :=
  let s := match a.1 with
    | .group _ => leaveRecords s a.1
    | _ => s
  bumpSerial (setMem s { s.mem with walks := s.mem.walks ++ [⟨s.ctl.serial, asid, a.2.1, a.2.2, wr, a.1⟩] })

/-- The record is resolved. -/
def resolveRecord (s : State) (id : Nat) (r : FaultRec) : State :=
  (r.agents.eraseDups).foldl (rewalk r.asid r.wr) (dropRecord s id)

/-- FAULT_ANSWER_RESOLVE (95; 06 R137). -/
def execFaultAnswerResolve (src : Src) (recid : Nat) (s : State) : Host.Outcome State Fault Refusal :=
  .next (match kfind s.mem.faults recid with
    | none => mgmtDone s src 5 recid
    | some r => mgmtDone (resolveRecord s recid r) src 0 recid)

/-- The trap of a declined group (06 R137): restarting, with the group's own faulting address. A trap whose own delivery
was declined its stack slots stays undelivered (03 R66). -/
def declineGroup (s : State) (gid va cause : Nat) : State :=
  match grp s gid with
  | none => s
  | some g =>
    if g.stat ≠ .parkFault then s
    else
      let s := askedAgain s gid
      let g := { g with stat := .run }
      match g.trapDue with
      | some t => undelivered (leaveRecords s (.group gid)) gid g t
      | none => takeTrap (leaveRecords s (.group gid)) gid g
        { cause := if cause ≤ 1 then cXLATE else cPERM
          info := BitVec.ofNat 64 va
          lanes := g.parkLanes
          restarting := true
          gather := g.parkBit
          dst := g.parkDst
          gdone := g.gdone
          pc := g.pc
          next := g.parkNext }

/-- The launch ends as under KILL_LAUNCH (10 R231), with its collectives (assumption 25). -/
def killAll (s : State) (lid : Nat) : State := dropColls (killLaunch s lid) lid

/-- A declined save or restore ends the launch, and the event of 11 R252 says so (R248). -/
def declineSave (s : State) (it va : Nat) : State :=
  match kfind s.run.items it with
  | none => s
  | some i =>
    let l := launchOf s i.launch
    let g := (i.gids.head?.bind (grp s)).getD Group.fresh
    let gid := i.gids.headD 0
    let s := modItem s it fun i => { i with saveParked := false }
    killAll (postHalt s l.pkt.launchid.toNat (gid / 32) (gid % 32) 2 g.pc cXLATE va) i.launch

/-- A load window whose source is declined completes with XLATE (06 R121), and the next one begins. -/
def declineWindow (s : State) : State :=
  match s.part.win with
  | none => s
  | some w => mgmtDone (setPart s { s.part with win := s.part.winQ.head?, winQ := s.part.winQ.tail }) w.src 7 0

/-- An agent of a declined record. -/
def declineAgent (cause : Nat) (s : State) (a : Agent × Nat × Nat) : State :=
  match a.1 with
  | .group gid => declineGroup s gid a.2.1 cause
  | .xfer x => match s.run.xfers.find? fun y => y.id == x with
    | some y => match y.coll with
      | some (k, rank) => match s.run.colls.find? fun c => c.id == k with
        | some c => failPart s c rank 2
        | none => finishXfer s y 2
      | none => finishXfer s y 2
    | none => s
  | .arm lid i die => retryArms (modLaunch s lid fun l =>
      { l with armfail := true, armWait := l.armWait.filter fun d => !(d.idx == i && d.die == die) }) lid
  | .launch lid => endLaunch s lid 8 0
  | .window => declineWindow s
  | .save it => declineSave s it a.2.1

/-- FAULT_ANSWER_DECLINE (95; 06 R137). -/
def execFaultAnswerDecline (src : Src) (recid : Nat) (s : State) : Host.Outcome State Fault Refusal :=
  .next (match kfind s.mem.faults recid with
    | none => mgmtDone s src 5 recid
    | some r => mgmtDone ((r.agents.eraseDups).foldl (declineAgent r.cause) (dropRecord s recid)) src 0 recid)

/-! ### PARK_ANSWER (10 R231) -/

/-- The group that an answer names: none for a core or slot the part does not have. -/
def answered (s : State) (core slot : Nat) : Option (Option Group) :=
  if coreCount s.part.dies ≤ core ∨ 32 ≤ slot then none else some (grp s (core * 32 + slot))

/-- The answer of one kind: BAD_REQ, BAD_STATE for a group that is not parked, or its effect. -/
def answerPark (s : State) (src : Src) (core slot : Nat) (f : Nat → Group → Option State) : State :=
  match answered s core slot with
  | none => mgmtDone s src 6 0
  | some none => mgmtDone s src 5 0
  | some (some g) =>
    if !isParked g then mgmtDone s src 5 0
    else match f (core * 32 + slot) g with
      | none => mgmtDone s src 5 0
      | some s' => mgmtDone s' src 0 0

/-- RESUME: a watchdog parking waits on, an undelivered trap is passed; a translation fault has its own answer. -/
def resumePark (s : State) (gid : Nat) (g : Group) : Option State :=
  match g.stat with
  | .parkFault => none
  | _ => some (modGrp (askedAgain s gid) gid fun g => { g with stat := .run, idle := 0 })

/-- RESUME (95; 10 R231). -/
def execResume (src : Src) (core slot : Nat) (s : State) : Host.Outcome State Fault Refusal :=
  .next (answerPark s src core slot (resumePark s))

/-- KILL_GROUP (95; 10 R231). -/
def execKillGroup (src : Src) (core slot : Nat) (s : State) : Host.Outcome State Fault Refusal :=
  .next (answerPark s src core slot fun gid _ => some (killGroup s gid))

/-- KILL_LAUNCH (95; 10 R231). -/
def execKillLaunch (src : Src) (core slot : Nat) (s : State) : Host.Outcome State Fault Refusal :=
  .next (answerPark s src core slot fun _ g => some (killAll s g.launch))

/-! ### RESUME_SPLIT (03 R68, 11 R255) -/

/-- The subgroups of the waiting paths of a stack down to its first TRAP entry: the lanes of each PEND at its path, and
the lanes of each DIV that no path above holds at the reconvergence address (assumption 22). -/
def pathsOf (seen : Mask) : List Entry → List SplitEntry × List Entry
  | [] => ([], [])
  | .trap e :: t => ([], .trap e :: t)
  | .div pc m :: t =>
    let own := m &&& ~~~seen
    let r := pathsOf (seen ||| m) t
    (if own = 0 then r.1 else ⟨pc, own, 0, none⟩ :: r.1, r.2)
  | .pend pc m :: t =>
    let own := m &&& ~~~seen
    let r := pathsOf (seen ||| m) t
    (if own = 0 then r.1 else ⟨pc, own, 0, none⟩ :: r.1, r.2)

/-- The group resumes in split mode: its active subgroup first, then the waiting paths. The spec gives these subgroups no
parent: they all carry the parent identifier 0, so that those of one PC fuse (assumption 22). -/
def splitGroup (g : Group) : Group :=
  let r := pathsOf g.active g.stack
  { g with
    stat := .run
    idle := 0
    stack := r.2
    split := some (⟨g.pc, g.active, 0, none⟩ :: r.1, 0) }

/-- The group goes on in split mode, unless that needs a ninth subgroup: then DIVERGE goes to firmware, which parks
the group (03 R68; assumption 22). -/
def resumeInSplit (s : State) (gid : Nat) (g : Group) : State :=
  let h := splitGroup g
  if (h.split.map (·.1.length)).getD 0 ≤ 8 then setGrp (askedAgain s gid) gid h
  else firmwareTrap s gid g ⟨cDIVERGE, g.active.setWidth 64, g.active, true, false, dstNone, 0, g.pc, g.pc⟩

/-- RESUME_SPLIT (95; 10 R231; 11 R255): only for a parked SIG_MISMATCH. -/
def execResumeSplit (src : Src) (core slot : Nat) (s : State) : Host.Outcome State Fault Refusal :=
  .next (answerPark s src core slot fun gid g =>
    if g.stat = .parkTrap cSIG then some (resumeInSplit s gid g) else none)

end Sys2Proof.Machine
end

