-- ==== Sys2Proof/Machine/Barrier.lean ====
section
/-! DEFINITION. BAR, BARA, BARW (15 R314 to R316; 11 R251) and HEAT (10 R224; 16 R348, R349). -/

namespace Sys2Proof.Machine

/-! ### Participants -/

/-- The group's number in its launch. -/
def selfNumber (c : Ctx) : Nat := groupNumber c.w.l c.w.it c.g.gidx

/-- The launch-wide index of the group's level-L instance. -/
def instOf (c : Ctx) (lvl : Nat) : Nat := instAt c.w.l.img lvl (selfNumber c)

/-- The barrier (ID, instance of level), phase 0 before its first use. -/
def barrierOf (l : Launch) (id lvl inst : Nat) : Barrier :=
  (l.barriers.find? fun b => b.id == id && b.level == lvl && b.inst == inst).getD ⟨id, lvl, inst, 0, []⟩

/-- Puts a barrier back. -/
def putBarrier (l : Launch) (b : Barrier) : Launch :=
  let rest := l.barriers.filter fun x => !(x.id == b.id && x.level == b.level && x.inst == b.inst)
  { l with barriers := rest ++ [b] }

/-- The barrier as it stands now, with a phase that a group's end has completed. -/
def openBarrier (l : Launch) (id lvl inst : Nat) : Barrier := settleBarrier l (barrierOf l id lvl inst)

/-! ### Checks -/

/-- LVL of BAR and HEAT (03 R57, R58): 0 and 13 are refused as well. -/
def barLevelTrap (c : Ctx) (lvl : Nat) : Option Tr :=
  if lvl = 0 ∨ lvl = 13 then some (badOperand c.word c.dst) else levelTrap c lvl false

/-- The executing lanes are every lane neither exited nor absent (15 R314). -/
def fullTrap (c : Ctx) : Option Tr :=
  if c.x = ~~~(c.g.exited ||| c.g.absent) then none else some ⟨cDIVERGE, c.x, none, c.dst⟩

/-- The checks of 15 R314, in order. -/
def barPre (lvl id : Nat) (c : Ctx) : Option Out :=
  firstTrap [
    barLevelTrap c lvl,
    if tbit c.w.l.img.baruse id then none else some (badOperand c.word c.dst),
    match kfind c.w.l.barBind id with
      | some k => if k = lvl then none else some ⟨cOPERAND, BitVec.ofNat 64 k, none, c.dst⟩
      | none => none,
    fullTrap c]

/-! ### Arrival and departure -/

/-- The group's outstanding arrival at a barrier: its phase, and 1 when a BAR or BARW waits in it. -/
def arrivalOf (g : Group) (key : Nat) : Option (Nat × Nat) := kfind g.barArr key

/-- One key per barrier of a group. -/
def barKey (id lvl : Nat) : Nat := id * 16 + lvl

/-- Arrival (15 R315, 07 R159): a release at L; the group's lanes arrive together. -/
def arrive (c : Ctx) (s : State) (id lvl kind : Nat) : State :=
  let inst := instOf c lvl
  let s := releaseAt s c.w lvl
  let b := openBarrier (launchOf s c.g.launch) id lvl inst
  let s := modGrp s c.gid fun g => { g with barArr := kins g.barArr (barKey id lvl) (b.phase, kind) }
  modLaunch s c.g.launch fun l =>
    let l := { l with barBind := kins l.barBind id lvl }
    putBarrier l (settleBarrier l { b with arrived := b.arrived ++ [selfNumber c] })

/-- The phase of the group's arrival has completed. -/
def phaseOver (c : Ctx) (s : State) (id lvl phase : Nat) : Bool :=
  decide (phase < (openBarrier (launchOf s c.g.launch) id lvl (instOf c lvl)).phase)

/-- The halted groups that a BAR at a level tells of (11 R251). -/
def abandonedAt (c : Ctx) (lvl : Nat) : List Nat :=
  c.g.abandoned.filter fun n => instAt c.w.l.img lvl n == instOf c lvl

/-- Departure: an acquire at L (07 R159), PD in every executing lane, the status no longer pending (15 R316). -/
def leaveBar (c : Ctx) (s : State) (id lvl pd : Nat) : Out :=
  let s := acquireAt (atPoint s c) c.w lvl
  let gone := abandonedAt c lvl
  .done (modGrp s c.gid fun g =>
    wrP { g with
      barArr := kdel g.barArr (barKey id lvl)
      abandoned := g.abandoned.filter fun n => !(gone.contains n) } pd c.x fun _ => !gone.isEmpty)

/-- Waits in a barrier: a pre-emption point (11 R244). -/
def waitBar (c : Ctx) (s : State) : Out := waitPoint s c .barrier .barrier

/-- Arrives in the open phase, and leaves when that completes it. -/
def arriveAndWait (c : Ctx) (id lvl pd : Nat) : Out :=
  let s := arrive c c.s0 id lvl 1
  match (grp s c.gid).bind fun g => arrivalOf g (barKey id lvl) with
  | some (n, _) => if phaseOver c s id lvl n then leaveBar c s id lvl pd else waitBar c s
  | none => .done s

/-- The effect of BAR (15 R316). -/
def barRun (f : YF) (c : Ctx) (_ : State) : Out :=
  let id := f.id.toNat
  let lvl := f.lvl.toNat
  match arrivalOf c.g (barKey id lvl) with
  | some (n, 1) => if phaseOver c c.s0 id lvl n then leaveBar c c.s0 id lvl f.pd.toNat else waitBar c c.s0
  | some (n, _) =>
    if phaseOver c c.s0 id lvl n then arriveAndWait c id lvl f.pd.toNat else waitBar c c.s0
  | none => arriveAndWait c id lvl f.pd.toNat

/-- The effect of BARW (15 R316): an arrival in the open phase is waited for, and the group leaves with it. -/
def barwRun (f : YF) (c : Ctx) (s : State) : Out :=
  let id := f.id.toNat
  let lvl := f.lvl.toNat
  match arrivalOf c.g (barKey id lvl) with
  | some (n, 0) =>
    if phaseOver c c.s0 id lvl n then arriveAndWait c id lvl f.pd.toNat
    else waitBar c (modGrp c.s0 c.gid fun g => { g with barArr := kins g.barArr (barKey id lvl) (n, 1) })
  | _ => barRun f c s

/-- The effect of BARA (15 R316): arrives and goes on. -/
def baraRun (f : YA) (c : Ctx) (s : State) : Out :=
  let id := f.id.toNat
  let lvl := f.lvl.toNat
  match arrivalOf c.g (barKey id lvl) with
  | some (n, _) => if phaseOver c c.s0 id lvl n then .done (arrive c s id lvl 0) else .wait .barrier
  | none => .done (arrive c s id lvl 0)

/-- BAR (15 R314 to R316). -/
def execBar (f : YF) (s : State) : Host.Outcome State Fault Refusal :=
  issue
    { i := .bar f
      pol := .lanes
      regs := fun _ => noRegs
      dst := fun _ => dstP f.pd.toNat
      pre := barPre f.lvl.toNat f.id.toNat
      body := barRun f } s

/-- BARA (15 R316). -/
def execBara (f : YA) (s : State) : Host.Outcome State Fault Refusal :=
  issue
    { i := .bara f
      pol := .lanes
      regs := fun _ => noRegs
      dst := fun _ => dstNone
      pre := barPre f.lvl.toNat f.id.toNat
      body := baraRun f } s

/-- BARW (15 R316). -/
def execBarw (f : YF) (s : State) : Host.Outcome State Fault Refusal :=
  issue
    { i := .barw f
      pol := .lanes
      regs := fun _ => noRegs
      dst := fun _ => dstP f.pd.toNat
      pre := barPre f.lvl.toNat f.id.toNat
      body := barwRun f } s

/-! ### HEAT -/

/-- The heat of a level instance, count 0 before its first HEAT. -/
def heatOf (l : Launch) (lvl inst : Nat) : Heat :=
  (l.heats.find? fun h => h.level == lvl && h.inst == inst).getD ⟨lvl, inst, 0, []⟩

def putHeat (l : Launch) (h : Heat) : Launch :=
  let rest := l.heats.filter fun x => !(x.level == h.level && x.inst == h.inst)
  { l with heats := rest ++ [h] }

/-- The checks of 16 R348, in order, at issue; a HEAT that has arrived waits and is not checked again (R349). -/
def heatPre (f : YH) (c : Ctx) : Option Out :=
  if c.g.heatArr.isSome then none
  else firstTrap [
    if f.lvl = 15 then some (illegal c.word c.dst) else none,
    if c.w.it.txOpen then some (illegal c.word c.dst) else none,
    barLevelTrap c f.lvl.toNat,
    fullTrap c]

/-- The effect of HEAT (16 R349): arrives once, waits for the boundary, and leaves with an acquire. -/
def heatRun (f : YH) (c : Ctx) (s : State) : Out :=
  let lvl := f.lvl.toNat
  let inst := instOf c lvl
  let h := heatOf c.w.l lvl inst
  match c.g.heatArr with
  | some (_, n) =>
    if h.count = n then waitPoint c.s0 c .barrier .heat
    else .done (modGrp (acquireAt (atPoint s c) c.w lvl) c.gid fun g => { g with heatArr := none })
  | none =>
    let s1 := releaseAt c.s0 c.w lvl
    let s2 := modLaunch s1 c.g.launch fun l => putHeat l { h with arrived := h.arrived ++ [selfNumber c] }
    waitPoint (modGrp s2 c.gid fun g => { g with heatArr := some (lvl, h.count) }) c .barrier .heat

/-- HEAT (16 R348, R349). -/
def execHeat (f : YH) (s : State) : Host.Outcome State Fault Refusal :=
  issue
    { i := .heat f
      pol := .lanes
      regs := fun _ => noRegs
      dst := fun _ => dstNone
      pre := heatPre f
      body := heatRun f } s

/-- The groups of an instance. -/
def instGroups (s : State) (lid lvl inst : Nat) : List (Nat × Group) :=
  let l := launchOf s lid
  s.run.groups.filter fun e => e.2.launch == lid &&
    instAt l.img lvl (groupNumber l ((kfind s.run.items e.2.item).getD Item.fresh) e.2.gidx) == inst

/-- A group of the launch, by its number, is a participant of the instance. -/
def isMember (l : Launch) (lvl inst n : Nat) : Bool := instAt l.img lvl n == inst

/-- The communication step of an instance has ended (10 R224): no transfer of a participant runs, and no arm that one
reached waits. -/
def commOver (s : State) (lid lvl inst : Nat) : Bool :=
  let l := launchOf s lid
  !(l.armWait.any fun d => isMember l lvl inst d.group)
    && !(s.run.xfers.any fun x => x.launch == lid && isMember l lvl inst (xferGroup s x))

/-- The boundary (07 R160): the writes of the participants performed at the level, their L1s emptied, the count
advanced. -/
def heatBoundaryAt (s : State) (lid lvl inst : Nat) : State :=
  let gs := instGroups s lid lvl inst
  let s := gs.foldl (fun s e => flashL1 (dropAhead (releaseAt s (who s e.1 e.2) lvl) e.1) (e.1 / 32)) s
  modLaunch s lid fun l =>
    let h := heatOf l lvl inst
    putHeat l { h with count := (h.count + 1) % 2 ^ 32, arrived := [] }

/-- HEAT_BOUNDARY (95; 10 R224; 16 R349). -/
def execHeatBoundary (lid lvl inst : Nat) (s : State) : Host.Outcome State Fault Refusal :=
  .next (match kfind s.run.launches lid with
    | none => s
    | some l =>
      let h := heatOf l lvl inst
      if !h.arrived.isEmpty && allArrived l lvl inst h.arrived && commOver s lid lvl inst then
        heatBoundaryAt s lid lvl inst
      else s)

end Sys2Proof.Machine
end

