-- ==== Sys2Proof/Machine/Grant.lean ====
section
/-! DEFINITION. PACER_GRANT and PACER_RECOMPUTE (95; 10 R226 to R228; 02 R45, R46). -/

namespace Sys2Proof.Machine

/-- The leave reaches who asked. -/
def giveLeave (s : State) (r : PacerReq) : State :=
  match r.who with
  | .batch gid num => grantBatch s gid num
  | .reserve gid => modGrp s gid fun g => { g with pq := { g.pq with held := some r.weight, pend := none, since := s.ctl.clk } }
  | .xfer x => { s with run := { s.run with
      xfers := s.run.xfers.map fun y => if y.id = x then { y with leave := y.leave - 1 } else y } }

/-- Removes the first request that equals one. -/
def dropAsk (s : State) (r : PacerReq) : State := setHost s { s.host with asks := s.host.asks.erase r }

/-- The account of a die serves its next request, when it covers it and the di/dt limit allows (10 R226, R227). The
chunks of transfers already issued are granted in SAFE at once (02 R45). -/
def grantNext (s : State) (die : Nat) : State :=
  match nextAsk s die with
  | none => s
  | some r =>
    if inSafe s || (covers s die r.weight && didtAllows s die r.weight) then
      giveLeave (debit (dropAsk s r) die r.weight) r
    else s

/-- PACER_GRANT (95; 10 R226). -/
def execPacerGrant (die : Nat) (s : State) : Host.Outcome State Fault Refusal := .next (grantNext s die)

/-- The dissipation of a grade in watts (00 R3). -/
def dissipation (grade : Nat) : Nat :=
  match grade with
  | 1104 => 3400
  | 1008 => 3200
  | _ => 2600

/-- F after a recomputation: 1 at the default cap in class 0 (10 R227), otherwise what the measured power gives, which
the spec does not (assumption 16). -/
def nextF (s : State) : Nat :=
  if s.host.capW = dissipation s.part.inv.grade ∧ s.part.cryo.cls = 0 then 65536
  else (Config.freeF s.ctl.nonce).toNat

/-- PACER_RECOMPUTE (95; 10 R226). -/
def execPacerRecompute (s : State) : Host.Outcome State Fault Refusal :=
  .next (bumpNonce (setHost s { s.host with f := nextF s }))

end Sys2Proof.Machine
end

