-- ==== Sys2Proof/Machine/Evacuate.lean ====
section
/-! DEFINITION. Dies going offline, their evacuation, and die links (01 R22 to R26). -/

namespace Sys2Proof.Machine

/-- A die of the part. -/
def dieAt (s : State) (d : Nat) : Die := s.part.dies.getD d ⟨0, 2, [], 0, 0⟩

/-- The inventory-change event of a die or a link (13 R274), after GEN has advanced (01 R19, R22). -/
def noteInv (s : State) (die link : Nat) : State := postInv (setPart s { s.part with gen := (s.part.gen + 1) % 2 ^ 32 }) die link

/-- A die changes its state. -/
def setDieState (s : State) (d st : Nat) : State :=
  noteInv (setPart s { s.part with dies := setNth s.part.dies d { dieAt s d with state := st } }) d 0xFF

/-- The first logical stack of a die. -/
def stack0 (s : State) (d : Nat) : Nat := ((s.part.dies.take d).map (·.nstk)).sum

/-- The stacks of a die take a state (01 R20). -/
def setStacks (s : State) (d st : Nat) : State :=
  (List.range (dieAt s d).nstk).foldl
    (fun s k => setPart s { s.part with stackState := kput 0 s.part.stackState (stack0 s d + k) st }) s

/-! ### Regions and frames (01 R23, R25; 06 R119) -/

/-- The die on which a 2 MiB frame of HBM lies. -/
def frameDie (s : State) (f : Nat) : Option Nat :=
  (List.range s.part.dies.length).find? fun d =>
    decide (dieBase s.part.dies d ≤ f * 2 ^ 21) && decide (f * 2 ^ 21 < dieBase s.part.dies (d + 1))

/-- The region that a frame holds: the one moved there, or its own unless it has moved away. -/
def regionAt (s : State) (f : Nat) : Option Nat :=
  match s.mem.remap.find? fun e => e.2 == f with
  | some e => some e.1
  | none => if (kfind s.mem.remap f).isSome then none else some f

/-- The frames of a list of bytes of memory, each once. -/
def framesOf (m : List Host.Cell) : List Nat :=
  (m.foldl (fun a c => match a with
    | [] => [c.1 / 2 ^ 21]
    | f :: _ => if f = c.1 / 2 ^ 21 then a else c.1 / 2 ^ 21 :: a) []).reverse

/-- The regions homed on a die that are in use: those that hold a byte that differs from unwritten memory
(assumption 28). -/
def usedRegions (s : State) (d : Nat) : List Nat :=
  ((framesOf s.mem.hbm).filter fun f => frameDie s f == some d).filterMap (regionAt s)

/-- Every region homed on a die. -/
def homedRegions (s : State) (d : Nat) : List Nat :=
  let b := dieBase s.part.dies d / 2 ^ 21
  ((List.range ((dieAt s d).home / 2 ^ 21)).map (· + b)).filterMap (regionAt s)

/-- The pool's frames on online dies. -/
def freeFrames (s : State) : List Nat :=
  s.part.pool.filter fun f => match frameDie s f with
    | some d => (dieAt s d).state == 0
    | none => false

/-- Frames that running evacuations still need. -/
def framesDue (s : State) : Nat := (s.part.off.map fun o => o.regions.length).sum

/-- Frames that a new evacuation of a die may use: those that running evacuations still need are not free (assumption
28). -/
def framesLeft (s : State) (d : Nat) : Nat :=
  ((freeFrames s).filter fun f => !(frameDie s f == some d)).length - framesDue s

/-- Work items are resident on a die. -/
def dieBusy (s : State) (d : Nat) : Bool :=
  s.run.items.any fun e => e.2.cores.any fun c => coreDie s.part.dies c == d

/-- A request runs on a die. -/
def offRuns (s : State) (d : Nat) : Bool := s.part.off.any fun o => o.die == d

/-- The evacuation of a die begins. -/
def startOff (s : State) (src : Src) (d : Nat) (forced : Bool) (rs : List Nat) : State :=
  let s := if (dieAt s d).state = 1 then s else setDieState s d 1
  let s := setPart s { s.part with off := s.part.off ++ [⟨d, forced, src, rs⟩] }
  if rs.isEmpty then setStacks s d 1 else s

/-- A normal request (01 R23). -/
def normalOff (s : State) (src : Src) (d : Nat) : State :=
  let rs := usedRegions s d
  if (dieAt s d).state = 0 ∧ (onlineDies s).length = 1 then mgmtDone s src 2 0
  else if framesLeft s d < rs.length then
    mgmtDone (if (dieAt s d).state = 0 then setDieState s d 1 else s) src 1 0
  else startOff s src d false rs

/-- A forced request from DRAINING: regions for which a frame is left move, the rest are poisoned. -/
def forcedOff (s : State) (src : Src) (d : Nat) : State :=
  let rs := (usedRegions s d).take (framesLeft s d)
  let lost := (homedRegions s d).filter fun r => !(rs.contains r)
  startOff (setMem s { s.mem with poison := s.mem.poison ++ lost }) src d true rs

/-- The checks of every request that names a die; `f` is the request itself. -/
def onDie (s : State) (src : Src) (d : Nat) (f : State) : State :=
  if s.part.dies.length ≤ d then mgmtDone s src 6 0
  else if (dieAt s d).state = 2 then mgmtDone s src 4 0
  else if offRuns s d then mgmtDone s src 3 0
  else f

/-- OFFLINE (95; 01 R23). -/
def execOffline (src : Src) (d : Nat) (s : State) : Host.Outcome State Fault Refusal :=
  .next (onDie s src d (normalOff s src d))

/-- OFFLINE_FORCED (95; 01 R23): from ONLINE it is a normal request. -/
def execOfflineForced (src : Src) (d : Nat) (s : State) : Host.Outcome State Fault Refusal :=
  .next (onDie s src d
    (if (dieAt s d).state = 0 then normalOff s src d
    else if dieBusy s d then mgmtDone s src 3 0
    else forcedOff s src d))

/-- RESTORE (95; 01 R23). -/
def execRestore (src : Src) (d : Nat) (s : State) : Host.Outcome State Fault Refusal :=
  .next (onDie s src d
    (if (dieAt s d).state = 1 then mgmtDone (setDieState s d 0) src 0 0 else mgmtDone s src 5 0))

/-! ### The moves -/

/-- The bytes of a frame moved to another frame (01 R25). -/
def moveFrame (m : List Host.Cell) (old new : Nat) : List Host.Cell :=
  let rest := m.filter fun c => !(c.1 / 2 ^ 21 == old) && !(c.1 / 2 ^ 21 == new)
  (m.filter fun c => c.1 / 2 ^ 21 == old).foldl (fun m c => kput 0 m (new * 2 ^ 21 + c.1 % 2 ^ 21) c.2) rest

/-- A region moves to a frame: the remap table names it, and physical addresses stay (01 R25; 06 R119). -/
def moveRegion (s : State) (r f : Nat) : State :=
  let old := kget r s.mem.remap r
  setMem s { s.mem with
    hbm := moveFrame s.mem.hbm old f
    remap := if f = r then kdel s.mem.remap r else kins s.mem.remap r f }

/-- A region leaves the list of its evacuation. -/
def regionDone (s : State) (o : Offlining) (r : Nat) : State :=
  let rs := o.regions.filter fun k => !(k == r)
  let s := setPart s { s.part with
    off := s.part.off.map fun x => if x.die = o.die then { x with regions := rs } else x }
  if rs.isEmpty then setStacks s o.die 1 else s

/-- REGION_MOVE_COMPLETE (95; 01 R23, R25): the whole region at one instant. -/
def execRegionMoveComplete (r : Nat) (s : State) : Host.Outcome State Fault Refusal :=
  .next (match s.part.off.find? fun o => o.regions.contains r with
    | none => s
    | some o => match freeFrames s with
      | [] => s
      | f :: _ =>
        let s := moveRegion s r f
        regionDone (setPart s { s.part with pool := s.part.pool.filter fun k => !(k == f) }) o r)

/-- Every region of the die has moved and the die is idle. -/
def offReady (s : State) (o : Offlining) : Bool :=
  o.regions.isEmpty && !dieBusy s o.die && !(s.run.xfers.any fun x => coreDie s.part.dies x.core == o.die)

/-- The die is offline: it holds no translation, its stacks are offline, and the request completes. -/
def finishOff (s : State) (o : Offlining) : State :=
  let s := setPart s { s.part with off := s.part.off.filter fun x => !(x.die == o.die) }
  let s := setMem s { s.mem with tlb := s.mem.tlb.filter fun t => !(t.die == o.die) }
  mgmtDone (setDieState (setStacks s o.die 2) o.die 2) o.src 0 0

/-- DIE_OFFLINE_COMPLETE (95; 01 R23), once the rings can take its records (13 R275). -/
def execDieOfflineComplete (s : State) : Host.Outcome State Fault Refusal :=
  .next (match s.part.off.find? fun o => offReady s o && srcCan s o.src && canPosts s 0 2 with
    | some o => finishOff s o
    | none => s)

/-- DIE_LINK_DOWN (95; 01 R22); it waits while queue 0's ring cannot take its event (13 R275). -/
def execDieLinkDown (k : Nat) (s : State) : Host.Outcome State Fault Refusal :=
  .next (match s.part.links[k]? with
    | none => s
    | some l =>
      if l.down || !canPost s 0 then s
      else noteInv (setPart s { s.part with links := setNth s.part.links k { l with down := true } }) 0xFF k)

end Sys2Proof.Machine
end

