-- ==== Sys2Proof/Machine/Stride.lean ====
section
/-! DEFINITION. The Stride link (11 R256, R257; 13 R281): ports, link-state updates, acknowledgement and resending,
and the reception of a flit. -/

namespace Sys2Proof.Machine

/-- The ports of the link (13 R281). -/
def stridePorts : Nat := 24

def setStride (s : State) (x : Stride) : State := setPart s { s.part with stride := x }

/-- Ports that are up. -/
def upPorts (x : Stride) : List Nat := (List.range stridePorts).filter fun p => !(x.downPorts.contains p)

/-- A Stride link event (13 R274, type 8). -/
def postStride (s : State) (port kind pkg : Nat) : State :=
  postEvent s 8 0 (bytesLe 1 port ++ bytesLe 1 kind ++ bytesLe 1 pkg)

/-- A flit of 64 bytes (13 R281). -/
def mkFlit (dst src vc round kind seq : Nat) (payload : List Byte) : List Byte :=
  let hdr := dst % 128 + src % 128 * 2 ^ 7 + vc % 4 * 2 ^ 14 + round % 32 * 2 ^ 16 + kind % 8 * 2 ^ 21
    + seq % 2 ^ 24 * 2 ^ 24 + payload.length % 64 * 2 ^ 48
  let body := bytesLe 8 hdr ++ (List.range 52).map fun i => payload.getD i 0
  body ++ bytesLe 4 (crc32 body)

def flitHead (f : List Byte) : Nat := natLe (f.take 8)
def flitDst (f : List Byte) : Nat := bits (flitHead f) 0 7
def flitSrc (f : List Byte) : Nat := bits (flitHead f) 7 7
def flitVc (f : List Byte) : Nat := bits (flitHead f) 14 2
def flitRound (f : List Byte) : Nat := bits (flitHead f) 16 5
def flitKind (f : List Byte) : Nat := bits (flitHead f) 21 3
def flitSeq (f : List Byte) : Nat := bits (flitHead f) 24 24

/-- A flit is whole: 64 bytes whose last four are the CRC-32 of the others. -/
def flitGood (f : List Byte) : Bool := decide (f.length = 64) && decide (natLe (f.drop 60) = crc32 (f.take 60))

/-- The route table takes an update, one entry for each port of each package, and is computed again (11 R256). -/
def noteRoute (x : Stride) (u : LinkUpdate) : Stride :=
  { x with
    routes := x.routes.filter (fun v => !(v.origin == u.origin && v.port == u.port)) ++ [u]
    epoch := x.epoch + 1 }

/-- The flit of a link-state update: it names the origin, the port, the sequence number and the port's state
(assumption 10 fixes the payload's layout). -/
def updateFlit (pkg : Nat) (u : LinkUpdate) : List Byte :=
  mkFlit 0 pkg 3 0 3 u.seq (bytesLe 1 u.origin ++ bytesLe 1 u.port ++ bytesLe 4 u.seq ++ bytesLe 1 u.up.toNat)

/-- An update goes out over every up port. -/
def flood (pkg : Nat) (x : Stride) (u : LinkUpdate) : Stride :=
  { x with outbox := x.outbox ++ (upPorts x).map fun p => (p, updateFlit pkg u) }

/-- The up ports on a minimal route to a destination, by the table computed last (13 R281; assumption 10). -/
def routePorts (x : Stride) (dst : Nat) : List Nat := (upPorts x).filter (Config.freeRoute x.epoch dst)

/-- The port that a packet takes: the first of its routes, and in compatibility mode each of them in turn (11 R257). -/
def routePort (p : Part) (dst : Nat) : Option Nat :=
  let ps := routePorts p.stride dst
  if p.compat then ps[p.stride.spray % ps.length]? else ps.head?

/-- A packet goes out on its route; without one it stays unsent, and is resent like one that was lost (11 R256). -/
def sendFlit (s : State) (f : List Byte) : State :=
  let x := s.part.stride
  match routePort s.part (flitDst f) with
  | some p => setStride s { x with outbox := x.outbox ++ [(p, f)], spray := x.spray + 1 }
  | none => s

/-- A packet of this package: it has the next sequence number to its destination, and is kept until its
acknowledgement (11 R256). -/
def sendPacket (s : State) (dst vc kind : Nat) (payload : List Byte) : State :=
  let x := s.part.stride
  let n := kget 0 x.nextSeq dst
  let f := mkFlit dst s.part.pkgid vc 0 kind n payload
  sendFlit (setStride s { x with
    nextSeq := kput 0 x.nextSeq dst ((n + 1) % 2 ^ 24)
    unacked := x.unacked ++ [⟨n, dst, 0, f⟩] }) f

/-- The bytes of a relay chunk on the link: what names it, its length, its data (assumption 10). -/
def relayBytes (m : RelayMsg) : List Byte :=
  let k := m.name
  bytesLe 4 k.launchid.toNat ++ bytesLe 1 k.level ++ bytesLe 1 k.persistent.isSome.toNat ++ bytesLe 4 k.inst
    ++ bytesLe 8 k.ord ++ bytesLe 8 (k.persistent.getD 0) ++ bytesLe 2 k.chunk.1 ++ bytesLe 4 k.chunk.2.1
    ++ bytesLe 2 k.chunk.2.2 ++ bytesLe 2 k.first ++ bytesLe 4 m.data.length ++ m.data

/-- A relay chunk goes to its package: on the Stride link of the node as flits of KIND 2 (13 R281), to another node as an
RMA write of Ultra Ethernet (R282). -/
def sendRelay (s : State) (m : RelayMsg) : State :=
  if m.node = s.part.nodeid then
    let bs := relayBytes m
    (List.range ((bs.length + 51) / 52)).foldl (fun s k => sendPacket s m.pkg 2 2 ((bs.drop (52 * k)).take 52)) s
  else setPart s { s.part with ueOut := s.part.ueOut ++ [m] }

/-- A chunk may go: its destination is reachable (11 R256). -/
def relayGoes (s : State) (m : RelayMsg) : Bool :=
  !(m.node == s.part.nodeid) || !(s.part.stride.unreachable.contains m.pkg)

/-- The first relay chunk that may go. -/
def relayNext (s : State) : State :=
  match s.part.relayOut.find? (relayGoes s) with
  | some m => sendRelay (setPart s { s.part with relayOut := s.part.relayOut.erase m }) m
  | none => s

/-- The flit of a packet in another round, its CRC computed again. -/
def reround (f : List Byte) (round : Nat) : List Byte :=
  mkFlit (flitDst f) (flitSrc f) (flitVc f) round (flitKind f) (flitSeq f) ((f.drop 8).take (bits (flitHead f) 48 6))

/-- The packet goes out again in a round. -/
def resend (s : State) (p : StridePkt) (round : Nat) : State :=
  let f := reround p.flit round
  let x := s.part.stride
  sendFlit (setStride s { x with
    unacked := x.unacked.map fun q => if q.seq = p.seq ∧ q.dst = p.dst then { q with round := round, flit := f } else q
  }) f

/-- A route returned: the packets held for destinations given up go out again (11 R256). -/
def routesBack (s : State) : State :=
  let gone := s.part.stride.unreachable
  let s := setStride s { s.part.stride with unreachable := [] }
  (s.part.stride.unacked.filter fun p => gone.contains p.dst).foldl (fun s p => resend s p 0) s

/-- The part's own port changed: a new update is flooded and the routes are computed again. -/
def ownUpdate (s : State) (port : Nat) (up : Bool) : State :=
  let x := s.part.stride
  let u : LinkUpdate := ⟨s.part.pkgid, port, x.mySeq + 1, up⟩
  let y := noteRoute { x with
    mySeq := x.mySeq + 1
    downPorts := if up then x.downPorts.filter (fun p => !(p == port)) else x.downPorts ++ [port] } u
  setStride s (flood s.part.pkgid y u)

/-- STRIDE_PORT_DOWN (95; 11 R256); it waits while queue 0's ring cannot take its event (13 R275). -/
def execStridePortDown (port : Nat) (s : State) : Host.Outcome State Fault Refusal :=
  .next (if stridePorts ≤ port ∨ s.part.stride.downPorts.contains port ∨ !canPost s 0 then s
    else postStride (ownUpdate s port false) port 0 0xFF)

/-- STRIDE_PORT_UP (95; 11 R256, R257): a link whose other end runs another mode stays down. -/
def execStridePortUp (p : PortUp) (s : State) : Host.Outcome State Fault Refusal :=
  .next (
    let t := setStride s { s.part.stride with modes := kput 0 s.part.stride.modes p.port p.compat.toNat }
    if !(s.part.stride.downPorts.contains p.port && p.compat == s.part.compat) then t
    else if !canPost s 0 then s
    else postStride (routesBack (ownUpdate t p.port true)) p.port 2 0xFF)

/-- The mode of this end changes (11 R257): the links whose other end runs another mode go down. -/
def modeChange (s : State) : State :=
  let bad := (upPorts s.part.stride).filter fun p => !(kget 0 s.part.stride.modes p == s.part.compat.toNat)
  bad.foldl (fun s p => postStride (ownUpdate s p false) p 0 0xFF) s

/-- The update is the first with its number from its origin, or its number exceeds the last one seen. -/
def newUpdate (s : State) (u : LinkUpdate) : Bool :=
  !(u.origin == s.part.pkgid) &&
    match kfind s.part.stride.seen u.origin with
    | some n => decide (n < u.seq)
    | none => true

/-- LINK_STATE_UPDATE (95; 11 R256): a new update is forwarded once and the routes are computed again. -/
def execLinkStateUpdate (u : LinkUpdate) (s : State) : Host.Outcome State Fault Refusal :=
  .next (if newUpdate s u then
      let x := s.part.stride
      let s := setStride s (flood s.part.pkgid (noteRoute { x with seen := kins x.seen u.origin u.seq } u) u)
      if u.up then routesBack s else s
    else s)

/-- A packet whose sixteen rounds, 0 to 15, ended without an acknowledgement: its destination is unreachable. The event
names a port of the route, or 0xFF where there is none (assumption 10). -/
def giveUp (s : State) (p : StridePkt) : State :=
  let x := s.part.stride
  if x.unreachable.contains p.dst || !canPost s 0 then s
  else postStride (setStride s { x with unreachable := x.unreachable ++ [p.dst] }) ((routePort s.part p.dst).getD 0xFF) 1 p.dst

/-- STRIDE_RESEND_TIMEOUT (95; 11 R256): 50 µs passed without an acknowledgement of the oldest packet of a number that is
still to be resent. -/
def execStrideResendTimeout (seq : Nat) (s : State) : Host.Outcome State Fault Refusal :=
  .next (match s.part.stride.unacked.find? fun p => p.seq == seq && !(s.part.stride.unreachable.contains p.dst) with
    | none => s
    | some p => if p.round < 15 then resend s p (p.round + 1) else giveUp s p)

/-! ### Reception -/

/-- Delivers the flits of a source that came before their turn, as far as they follow. -/
def drainEarly (src : Nat) : Nat → Stride → Stride
  | 0, x => x
  | n + 1, x =>
    match x.early.find? fun f => flitSrc f == src && flitSeq f == kget 0 x.expect src with
    | none => x
    | some f => drainEarly src n { x with
        inbox := x.inbox ++ [f]
        early := x.early.erase f
        expect := kput 0 x.expect src ((kget 0 x.expect src + 1) % 2 ^ 24) }

/-- The flits that the reorder buffer of a pair holds (11 R257: 64 KiB). -/
def reorderMax : Nat := 1024

/-- How far ahead of its turn a flit comes. -/
def flitAhead (x : Stride) (f : List Byte) : Nat := (flitSeq f + 2 ^ 24 - kget 0 x.expect (flitSrc f)) % 2 ^ 24

/-- The reorder buffer of a flit's source has no room for it. -/
def reorderFull (x : Stride) (f : List Byte) : Bool :=
  !(flitAhead x f == 0) && decide (flitAhead x f < 2 ^ 23)
    && decide (reorderMax ≤ (x.early.filter fun e => flitSrc e == flitSrc f).length)

/-- Exactly once and in order for each source (11 R256): the next flit is delivered with those that follow it, one
ahead of its turn is kept, a duplicate is discarded. -/
def deliverFlit (x : Stride) (f : List Byte) : Stride :=
  if 2 ^ 23 ≤ flitAhead x f ∨ x.early.any (fun e => flitSrc e == flitSrc f && flitSeq e == flitSeq f) then x
  else
    let y := { x with early := x.early ++ [f] }
    drainEarly (flitSrc f) y.early.length y

/-- The acknowledgement of a flit. -/
def ackOf (pkg : Nat) (f : List Byte) : List Byte := mkFlit (flitSrc f) pkg (flitVc f) (flitRound f) 4 (flitSeq f) []

/-- A good flit (13 R281); one for which the reorder buffer has no room is not acknowledged, and comes again. What a
link-state flit says comes as LINK_STATE_UPDATE. -/
def takeFlit (s : State) (f : List Byte) : State :=
  let x := s.part.stride
  if 5 ≤ flitKind f then s
  else if flitKind f = 3 then setStride s { x with inbox := x.inbox ++ [f] }
  else if !(flitDst f == s.part.pkgid) then sendFlit s f
  else if flitKind f = 4 then
    setStride s { x with unacked := x.unacked.filter fun p => !(p.seq == flitSeq f && p.dst == flitSrc f) }
  else if reorderFull x f then s
  else sendFlit (setStride s (deliverFlit x f)) (ackOf s.part.pkgid f)

/-- STRIDE_FLIT_RECEIVE (95; 13 R281): a flit whose CRC fails is retried from the sender's replay buffer. -/
def execStrideFlitReceive (port : Nat) (flit : List Byte) (s : State) : Host.Outcome State Fault Refusal :=
  .next (if stridePorts ≤ port ∨ s.part.stride.downPorts.contains port then s
    else if !flitGood flit then setStride s { s.part.stride with retried := s.part.stride.retried + 1 }
    else takeFlit s flit)

end Sys2Proof.Machine
end

