-- ==== Sys2Proof/Machine/Manage.lean ====
section
/-! DEFINITION. The management requests (13 R272, R278, R279): queues, address spaces, invalidation (06 R134), the load
window (06 R121), COLD (02 R30, R33), PACER, WDOG and the registrations. -/

namespace Sys2Proof.Machine

/-! ### Queues (13 R272, R279) -/

/-- The queue holds unread packets, or a launch of it has not completed. -/
def queueInUse (s : State) (q : Nat) : Bool :=
  (match kfind s.host.queues q with
    | some x => !(x.ridx == x.widx)
    | none => false)
    || s.run.launches.any fun e => e.2.queue == q

/-- The limits of a registration. -/
def queueRegOk (r : QueueReg) : Bool :=
  decide (r.queue < 32768) && decide (4 ≤ r.size) && decide (r.size ≤ 16) && decide (4 ≤ r.csize)
    && decide (r.csize ≤ 16) && decide (r.ceil ≤ 127) && decide (r.asid ≤ 255) && r.ring % 4096 == 0

/-- A queue as registered. -/
def newQueue (s : State) (r : QueueReg) : Queue :=
  ⟨r.size, r.csize, r.ceil, r.asid, r.mgmt, r.ring, r.cring, 0, 0, false, s.ctl.clk, 0, 0, []⟩

/-- REG_QUEUE (95; 13 R272, R279). -/
def execRegQueue (src : Src) (r : QueueReg) (s : State) : Host.Outcome State Fault Refusal :=
  .next (if !queueRegOk r then mgmtDone s src 6 0
    else if queueInUse s r.queue then mgmtDone s src 3 0
    else mgmtDone (setHost s { s.host with queues := kins s.host.queues r.queue (newQueue s r) }) src 0 0)

/-- QUEUE_UNREGISTER (95; 13 R278, R279). -/
def execQueueUnregister (src : Src) (q : Nat) (s : State) : Host.Outcome State Fault Refusal :=
  .next (if 32768 ≤ q then mgmtDone s src 6 0
    else if queueInUse s q then mgmtDone s src 3 0
    else mgmtDone (setHost s { s.host with queues := kdel s.host.queues q }) src 0 0)

/-! ### Address spaces (06 R130, R134; 13 R279, R280) -/

/-- The ASID is live and a launch uses it: its release or replacement is BUSY (13 R279). -/
def asidInUse (s : State) (asid : Nat) : Bool :=
  (kfind s.mem.asids asid).isSome && s.run.launches.any fun e => e.2.asid == asid

/-- REG_ASID (95; 06 R130; 13 R279). -/
def execRegAsid (src : Src) (asid root : Nat) (s : State) : Host.Outcome State Fault Refusal :=
  .next (if 255 < asid ∨ root % 2 ^ 15 ≠ 0 ∨ hbmSize s.part.dies < root + 2 ^ 15 then mgmtDone s src 6 0
    else if asidInUse s asid then mgmtDone s src 3 0
    else mgmtDone (setMem s { s.mem with asids := kins s.mem.asids asid root }) src 0 0)

/-- Removes every translation of an ASID. -/
def dropAsid (s : State) (asid : Nat) : State :=
  setMem s { s.mem with tlb := s.mem.tlb.filter fun t => !(t.asid == asid) }

/-- ASID_RELEASE (95; 06 R134; 13 R279). -/
def execAsidRelease (src : Src) (asid : Nat) (s : State) : Host.Outcome State Fault Refusal :=
  .next (if 255 < asid then mgmtDone s src 6 0
    else if asidInUse s asid then mgmtDone s src 3 0
    else
      let s := dropAsid s asid
      mgmtDone (setMem s { s.mem with asids := kdel s.mem.asids asid }) src 0 0)

/-- A translation overlaps a range; a length of 0 is the whole ASID (13 R278). -/
def inRange (va len a n : Nat) : Bool := len == 0 || (decide (va < a + n) && decide (a < va + len))

/-- INVALIDATE (95; 06 R134): the translations go at once; the completion follows with INVALIDATE_COMPLETE. -/
def execInvalidate (src : Src) (asid va len : Nat) (s : State) : Host.Outcome State Fault Refusal :=
  .next (if 255 < asid then mgmtDone s src 6 0
    else if (kfind s.mem.asids asid).isNone then mgmtDone s src 0 0
    else bumpSerial (setMem s { s.mem with
      tlb := s.mem.tlb.filter fun t => !(t.asid == asid && inRange va len t.va t.size)
      invals := s.mem.invals ++ [⟨s.ctl.serial, asid, va, len, src⟩] }))

/-- What an invalidation waits for (06 R134): walks of the range, AtomicOps on their way to host pages, and a load window
that has translated it (R121). -/
def invalWaits (s : State) (i : Inval) : Bool :=
  (s.run.flights.any fun f => match f.host, grp s f.gid with
    | some (_, n, hs), some g => (launchOf s g.launch).asid == i.asid && hs.any fun h => inRange i.va i.len h.va n
    | _, _ => false)
  || (s.mem.walks.any fun w => w.asid == i.asid && inRange i.va i.len (w.va / 4096 * 4096) 4096)
    || match s.part.win with
      | some w => decide (1 ≤ w.phase) && decide (w.phase ≤ 1) && w.asid == i.asid && inRange i.va i.len w.va w.len
      | none => false

/-- A buffered write of a group of an ASID. -/
def writeOfAsid (s : State) (asid : Nat) (w : PortWrite) : Bool :=
  match grp s w.gid with
  | some g => (launchOf s g.launch).asid == asid
  | none => true

/-- INVALIDATE_COMPLETE (95; 06 R134): every access already translated has reached its home. -/
def execInvalidateComplete (n : Nat) (s : State) : Host.Outcome State Fault Refusal :=
  .next (match s.mem.invals.find? fun i => i.id == n with
    | none => s
    | some i =>
      if invalWaits s i || !srcCan s i.src then s
      else
        let s := drainWhere s (writeOfAsid s i.asid)
        mgmtDone (setMem s { s.mem with invals := s.mem.invals.filter fun x => !(x.id == n) }) i.src 0 0)

/-! ### The load window (06 R121; 13 R279) -/

/-- The ASID of a load window: its queue's, or for the mailbox queue 0's. -/
def windowAsid (s : State) (src : Src) : Option Nat := (kfind s.host.queues (src.queue.getD 0)).map (·.asid)

/-- The place of one 4 KiB page of the source: an HBM address, or 2^62 and a host address. -/
def windowPage (s : State) (asid va : Nat) : Except BindStop Nat :=
  if !inGlobal va 1 then .error lfResource
  else match translate s 0 asid va .load with
    | .error (c, _) => .error (.park c va)
    | .ok t => .ok ((if t.host then 2 ^ 62 else 0) + t.base + (va - t.va))

/-- Translates the pages of the source from the first not yet translated (step 1). -/
def windowPages (s : State) (asid base : Nat) : Nat → List Nat → Except BindStop (List Nat)
  | 0, ps => .ok ps
  | n + 1, ps =>
    match windowPage s asid (base + 4096 * ps.length) with
    | .error e => .error e
    | .ok p => windowPages s asid base n (ps ++ [p])

/-- The pages that the source touches. -/
def windowCount (w : LoadWin) : Nat := if w.len = 0 then 0 else (w.va + w.len - 1) / 4096 - w.va / 4096 + 1

/-- The window at its turn, and the one behind it. -/
def nextWindow (s : State) : State := setPart s { s.part with win := s.part.winQ.head?, winQ := s.part.winQ.tail }

/-- Step 1 of a window: it translates on, stops placement when every page is translated, parks on a front-end record, or
ends; while no record is free it waits (06 R136). -/
def windowStep (s : State) (w : LoadWin) : State :=
  match windowPages s w.asid (w.va / 4096 * 4096) (windowCount w) [] with
  | .ok ps => setPart s { s.part with win := some { w with pages := ps, phase := 1 } }
  | .error (.park c va) =>
    let wait := setPart s { s.part with win := some w }
    if c = walkBusy ∨ poolFull s 0xFF w.asid va false then wait
    else openFault (setPart s { s.part with win := some { w with parked := true } }) 0xFF w.asid va 7 c false 0xFFFF
      .window
  | .error (.fault _ _) => mgmtDone (nextWindow s) w.src 6 0

/-- The checks of a window (06 R121; 13 R278 to R280): none, or its status. -/
def windowStatus (s : State) (src : Src) (dies off len : Nat) : Option Nat :=
  match windowAsid s src with
  | none => some 6
  | some asid =>
    if 2 ^ s.part.dies.length ≤ dies ∨ 2 ^ 30 < off + len ∨ (kfind s.mem.asids asid).isNone then some 6
    else if (List.range s.part.dies.length).any fun d => tbit dies d && (dieAt s d).state == 2 then some 4
    else none

/-- LOAD_WINDOW (95; 06 R121). -/
def execLoadWindow (src : Src) (dies va off len : Nat) (s : State) : Host.Outcome State Fault Refusal :=
  .next (match windowStatus s src dies off len with
    | some st => mgmtDone s src st 0
    | none =>
      let w : LoadWin := ⟨src, dies, va, off, len, (windowAsid s src).getD 0, 0, false, []⟩
      if s.part.win.isSome then setPart s { s.part with winQ := s.part.winQ ++ [w] }
      else windowStep s w)

/-- The place of one byte of the source through the translations of step 1: an HBM address, or 2^62 and a host address. -/
def windowPlace (w : LoadWin) (i : Nat) : Nat :=
  let a := w.va + i
  w.pages.getD (a / 4096 - w.va / 4096) 0 + a % 4096

/-- One byte of the source. A poisoned region is read as it stands (assumption 8). -/
def windowByte (s : State) (w : LoadWin) (i : Nat) : Byte :=
  let p := windowPlace w i
  (readNow s (if 2 ^ 62 ≤ p then .host (p - 2 ^ 62) else .hbm p) 1).getD 0 0

/-- The copy waits for a line of its source that an engine transfer owns (07 R156). -/
def windowHeld (s : State) (w : LoadWin) : Bool :=
  (List.range w.len).any fun i => let p := windowPlace w i
    !decide (2 ^ 62 ≤ p) && ownedLoc s (.hbm p) 1

/-- A host page of the source answers with a completer abort (13 R280). -/
def windowAborts (s : State) (w : LoadWin) : Bool :=
  w.pages.any fun p => decide (2 ^ 62 ≤ p) && s.mem.aborts.contains ((p - 2 ^ 62) / 4096)

/-- The copy into the weight stores of the named dies (step 3); a completer abort ends the window with XLATE, and nothing
is written (13 R280). A source in a poisoned region is copied as its bytes stand, with OK: no status is given for it
(assumption 8). -/
def windowCopy (s : State) (w : LoadWin) : State :=
  if windowAborts s w then mgmtDone (nextWindow s) w.src 7 0
  else
    let bs := (List.range w.len).map (windowByte s w)
    let ds := (List.range s.part.dies.length).filter fun d => tbit w.dies d
    let ws := ds.foldl (fun m d => writeCells m (d * 2 ^ 30 + w.off) bs) s.mem.ws
    setPart (setMem s { s.mem with ws := ws }) { s.part with win := some { w with phase := 2 } }

/-- Some named die still holds a resident work item. -/
def windowBusy (s : State) (w : LoadWin) : Bool :=
  (List.range s.part.dies.length).any fun d => tbit w.dies d && dieBusy s d

/-- LOAD_WINDOW_COPY (95; 06 R121, steps 2 and 3): once no work item is resident on the named dies; a window whose
fault record was answered first translates on. The copy goes on in the pause of a class change, which 02 R41 gives for
transfers and blocks (assumption 61). -/
def execLoadWindowCopy (s : State) : Host.Outcome State Fault Refusal :=
  .next (match s.part.win with
    | none => s
    | some w =>
      if w.parked || !srcCan s w.src then s
      else if w.phase = 0 then windowStep s w
      else if w.phase = 1 ∧ !windowBusy s w ∧ !windowHeld s w then windowCopy s w
      else s)

/-- LOAD_WINDOW_CLOSE (95; 06 R121, step 4). -/
def execLoadWindowClose (s : State) : Host.Outcome State Fault Refusal :=
  .next (match s.part.win with
    | some w => if w.phase = 2 ∧ srcCan s w.src then mgmtDone (nextWindow s) w.src 0 0 else s
    | none => s)

/-! ### COLD (02 R30, R33) -/

/-- The states from which the table has a row for a request. -/
def coldRow (r : ColdReq) (st : Nat) : Bool :=
  match r with
  | .warmup => st == 2 || st == 3 || st == 4
  | .cancel => st == 5
  | .safeExit => st == 6

/-- A request waits for the next sample, or completes with BAD_STATE where no row names it. -/
def askCold (s : State) (src : Src) (r : ColdReq) : State :=
  if s.part.cryo.started && coldRow r s.part.cryo.state then
    setPart s { s.part with cryo := { s.part.cryo with reqs := s.part.cryo.reqs ++ [(r, src)] } }
  else mgmtDone s src 5 0

/-- WARM_UP (95; 02 R33). -/
def execWarmUp (src : Src) (s : State) : Host.Outcome State Fault Refusal := .next (askCold s src .warmup)

/-- CANCEL (95; 02 R33). -/
def execCancel (src : Src) (s : State) : Host.Outcome State Fault Refusal := .next (askCold s src .cancel)

/-- SAFE_EXIT (95; 02 R33). -/
def execSafeExit (src : Src) (s : State) : Host.Outcome State Fault Refusal := .next (askCold s src .safeExit)

/-- RAMP_CLEAR (95; 02 R30, R33). -/
def execRampClear (src : Src) (s : State) : Host.Outcome State Fault Refusal :=
  .next (mgmtDone (setPart s { s.part with cryo := { s.part.cryo with ramp := false } }) src 0 0)

/-! ### Settings -/

/-- A setting within its limits takes effect; another completes with BAD_REQ. -/
def setting (s : State) (src : Src) (ok : Bool) (f : State) : State :=
  if ok then mgmtDone f src 0 0 else mgmtDone s src 6 0

/-- PACER_CAP (95; 10 R227). -/
def execPacerCap (src : Src) (v : Nat) (s : State) : Host.Outcome State Fault Refusal :=
  .next (setting s src (decide (500 ≤ v) && decide (v ≤ dissipation s.part.inv.grade)) (setHost s { s.host with capW := v }))

/-- PACER_DIDT (95; 10 R227). -/
def execPacerDidt (src : Src) (v : Nat) (s : State) : Host.Outcome State Fault Refusal :=
  .next (setting s src (decide (1 ≤ v) && decide (v ≤ 100)) (setHost s { s.host with didt := v }))

/-- PACER_ORDER (95; 10 R227). -/
def execPacerOrder (src : Src) (v : Nat) (s : State) : Host.Outcome State Fault Refusal :=
  .next (setting s src (decide (v ≤ 1)) (setHost s { s.host with order := v }))

/-- WDOG (95; 10 R229). -/
def execWdog (src : Src) (ms : Nat) (s : State) : Host.Outcome State Fault Refusal :=
  .next (setting s src (decide (1 ≤ ms) && decide (ms ≤ 60000)) (setHost s { s.host with wdogMs := ms }))

/-- HISTORY_CLEAR (95; 08 R190). -/
def execHistoryClear (src : Src) (s : State) : Host.Outcome State Fault Refusal :=
  .next (mgmtDone (setHost s { s.host with history := [] }) src 0 0)

/-- TELEMETRY (95; 05 R114). That a new registration starts n at 0 and leaves the count's bytes as they stand is the model's
choice (assumption 62). -/
def execTelemetry (src : Src) (base slots : Nat) (s : State) : Host.Outcome State Fault Refusal :=
  .next (setting s src (base % 64 == 0)
    (setHost s { s.host with telBase := base, telSlots := slots, telCount := 0 }))

/-- The frames of a list in HBM. -/
def frameList (s : State) (list n : Nat) : List Nat :=
  (List.range n).map fun i => natLe (readHbm s.mem (list + 8 * i) 8)

/-- The list can be read, and every frame is a 2 MiB frame with a home. -/
def framePoolOk (s : State) (list n : Nat) : Bool :=
  decide (list + 8 * n ≤ hbmSize s.part.dies) && !((linesOf list (8 * n)).any fun k => poisoned s.mem (k * 128))
    && (frameList s list n).all fun p => p % 2 ^ 21 == 0 && decide (p + 2 ^ 21 ≤ hbmSize s.part.dies)

/-- An engine transfer owns a line of the list: its read waits (07 R156). -/
def framesOwned (s : State) (list n : Nat) : Bool := ownedLoc s (.hbm list) (8 * n)

/-- FRAME_POOL (95; 01 R23): the list replaces the pool. A list that cannot be read, in a poisoned region too, is BAD_REQ
(assumption 28). -/
def execFramePool (src : Src) (list n : Nat) (s : State) : Host.Outcome State Fault Refusal :=
  .next (if framesOwned s list n then s
    else setting s src (framePoolOk s list n)
    (setPart s { s.part with pool := (frameList s list n).map (· / 2 ^ 21) }))

/-- COUNTDOWN (95; 10 R215): node 0 is no node. -/
def execCountdown (src : Src) (node : Nat) (s : State) : Host.Outcome State Fault Refusal :=
  .next (setting s src (decide (node < 2 ^ 18)) (if node = 0 then s else countdownNode s node false))

/-- ERR_THRESH (95; 11 R258). -/
def execErrThresh (src : Src) (hist thresh : Nat) (s : State) : Host.Outcome State Fault Refusal :=
  .next (setting s src (decide (hist < 6)) (setPart s { s.part with
    hists := setNth s.part.hists hist { s.part.hists.getD hist ⟨[], 0, []⟩ with thresh := thresh } }))

/-- A launch spans packages (10 R219). -/
def spansPackages (l : Launch) : Bool := l.stat == .bound && decide (6 ≤ bindAt l.img (depth l.img))

/-- NODECFG (95; 11 R257; 13 R279). -/
def execNodecfg (src : Src) (pkg node : Nat) (compat : Bool) (s : State) : Host.Outcome State Fault Refusal :=
  .next (if 127 < pkg ∨ 511 < node then mgmtDone s src 6 0
    else if s.run.launches.any fun e => spansPackages e.2 then mgmtDone s src 3 0
    else mgmtDone (modeChange (setPart s { s.part with pkgid := pkg, nodeid := node, compat := compat })) src 0 0)

/-- MGMT_BAD_REQ (95; 13 R274, R279): RESULT is the RECID for FAULT_ANSWER. -/
def execMgmtBadReq (r : BadReq) (s : State) : Host.Outcome State Fault Refusal :=
  .next (mgmtDone s r.src 6 (if r.src.req = 7 then r.recid else 0))

/-! ### The packet's request (13 R278) -/

/-- The bytes 8 to 63 that a request lists; every other is zero. -/
def listedBytes (req : Nat) : List Nat :=
  let r (a n : Nat) : List Nat := (List.range n).map (· + a)
  match req with
  | 1 => r 8 2
  | 2 => r 8 1
  | 3 => r 8 2 ++ r 16 16
  | 4 => r 8 7 ++ r 16 16
  | 5 => r 8 1 ++ r 16 8
  | 6 => r 8 1 ++ r 16 16
  | 7 => r 8 5
  | 8 => r 8 4
  | 9 => r 8 1
  | 10 => r 8 1 ++ r 12 4
  | 11 => r 12 4
  | 13 => r 16 12
  | 14 => r 16 12
  | 15 => r 8 4
  | 16 => r 8 1 ++ r 12 2
  | 17 => r 8 1 ++ r 10 3
  | _ => []

/-- The bytes that must be zero are zero. -/
def mgmtClean (m : MgmtReq) : Bool :=
  (List.range 56).all fun i => (listedBytes m.src.req).contains (i + 8) || m.args.getD i 0 == 0

/-- An argument of a request at a byte of its packet. -/
def MgmtReq.arg (m : MgmtReq) (off n : Nat) : Nat := fieldAt m.args (off - 8) n

/-- A FRAME_POOL whose list an engine transfer owns in part (07 R156). -/
def listOwned (s : State) (m : MgmtReq) : Bool := m.src.req == 14 && framesOwned s (m.arg 16 8) (m.arg 24 4)

/-- Runs a management packet: the request its REQ names with its arguments, or BAD_REQ. -/
def runMgmt (m : MgmtReq) (s : State) : Host.Outcome State Fault Refusal :=
  let q := m.src
  let a := m.arg
  if !m.ok || !mgmtClean m then execMgmtBadReq ⟨q, a 8 4⟩ s
  else match q.req with
    | 1 => if tbit (a 9 1) 0 then execOfflineForced q (a 8 1) s else execOffline q (a 8 1) s
    | 2 => execRestore q (a 8 1) s
    | 3 => execLoadWindow q (a 8 2) (a 16 8) (a 24 4) (a 28 4) s
    | 4 => if tbit (a 14 1) 1 then
        execRegQueue q ⟨a 8 2, a 10 1, a 11 1, a 12 1, a 13 1, tbit (a 14 1) 0, a 16 8, a 24 8⟩ s
      else execQueueUnregister q (a 8 2) s
    | 5 => if a 16 8 = 0 then execAsidRelease q (a 8 1) s else execRegAsid q (a 8 1) (a 16 8) s
    | 6 => execInvalidate q (a 8 1) (a 16 8) (a 24 8) s
    | 7 => match a 12 1 with
      | 0 => execFaultAnswerResolve q (a 8 4) s
      | 1 => execFaultAnswerDecline q (a 8 4) s
      | _ => execMgmtBadReq ⟨q, a 8 4⟩ s
    | 8 => match a 11 1 with
      | 0 => execResume q (a 8 2) (a 10 1) s
      | 1 => execKillGroup q (a 8 2) (a 10 1) s
      | 2 => execKillLaunch q (a 8 2) (a 10 1) s
      | 3 => execResumeSplit q (a 8 2) (a 10 1) s
      | _ => execMgmtBadReq ⟨q, a 8 4⟩ s
    | 9 => match a 8 1 with
      | 0 => execWarmUp q s
      | 1 => execCancel q s
      | 2 => execSafeExit q s
      | 3 => execRampClear q s
      | _ => execMgmtBadReq ⟨q, a 8 4⟩ s
    | 10 => match a 8 1 with
      | 0 => execPacerCap q (a 12 4) s
      | 1 => execPacerDidt q (a 12 4) s
      | 2 => execPacerOrder q (a 12 4) s
      | _ => execMgmtBadReq ⟨q, a 8 4⟩ s
    | 11 => execWdog q (a 12 4) s
    | 12 => execHistoryClear q s
    | 13 => execTelemetry q (a 16 8) (a 24 4) s
    | 14 => execFramePool q (a 16 8) (a 24 4) s
    | 15 => execCountdown q (a 8 4) s
    | 16 => execErrThresh q (a 8 1) (a 12 2) s
    | 17 => execNodecfg q (a 8 1) (a 10 2) (tbit (a 12 1) 0) s
    | _ => execMgmtBadReq ⟨q, a 8 4⟩ s

end Sys2Proof.Machine
end

