-- ==== Sys2Proof/Machine/Cold.lean ====
section
/-! DEFINITION. Cold operation (02 R27 to R46): the samples, the state machine, class changes, retraining, and the
weight-store windows (06 R122, R438). -/

namespace Sys2Proof.Machine

/-- Sets the cryogenic machine. -/
def setCryo (s : State) (c : Cryo) : State := setPart s { s.part with cryo := c }

/-! ### Samples (02 R27 to R29) -/

/-- Positions whose sensors are read: dies that are not offline, and 8 for the front-end die. -/
def sensedPos (s : State) : List Nat := (s.part.dies.filter fun d => !(d.state == 2)).map (·.pos) ++ [8]

/-- Sensors of a position. -/
def sensorsAt (pos : Nat) : Nat := if pos = 8 then 2 else 4

/-- The readings of sensors that the part has and reads. -/
def validReadings (s : State) (rs : List Reading) : List Reading :=
  rs.filter fun r => (sensedPos s).contains r.pos && decide (r.idx < sensorsAt r.pos)

/-- The part temperature of a sample in millikelvin. -/
def partTemp (rs : List Reading) : Option Nat :=
  match rs.map (·.temp) with
  | [] => none
  | t :: ts => some (ts.foldl max t)

/-- The band of a temperature (02 R28). -/
def bandOf (t : Nat) : Nat :=
  if t < 65000 ∨ 330000 < t then 3 else if t ≤ 95000 then 0 else if t ≤ 160000 then 1 else 2

/-- Two readings of one die differ by more than 10 K; the lower-numbered sensor is named. -/
def sensorClash (rs : List Reading) : Option (Nat × Nat) :=
  rs.findSome? fun a =>
    if rs.any fun b => a.pos == b.pos && decide (a.idx < b.idx) && (decide (a.temp + 10000 < b.temp)
        || decide (b.temp + 10000 < a.temp)) then some (a.pos, a.idx) else none

/-- Every sensor of the front-end die and of every populated die has returned a reading (02 R32). -/
def fullSample (s : State) (rs : List Reading) : Bool :=
  (sensedPos s).all fun p => (List.range (sensorsAt p)).all fun i => rs.any fun r => r.pos == p && r.idx == i

/-- Samples in 60 s. -/
def minuteSamples : Nat := 600000

/-- The ramp rate in mK/min at a temperature (02 R29). -/
def rampOf (c : Cryo) (t : Nat) : Int :=
  if c.hist.isEmpty then 0
  else Int.ofNat t - Int.ofNat ((c.hist.drop (minuteSamples - 1)).headD c.first)

/-- A ramp magnitude above a limit in K/min. -/
def rampAbove (r : Int) (k : Nat) : Bool := decide (Int.ofNat (k * 1000) < r) || decide (r < -Int.ofNat (k * 1000))

/-! ### States and classes (02 R31 to R40) -/

/-- The timing class of a state (02 R31). -/
def classOf (st : Nat) : Nat :=
  match st with
  | 2 => 1
  | 3 => 0
  | 4 => 1
  | _ => 2

/-- The state that a band gives at reset (02 R32). -/
def resetState (band : Nat) : Nat :=
  match band with
  | 0 => 2
  | 1 => 1
  | 2 => 0
  | _ => 6

/-- Pseudo-channels of a stack, retrained one at a time (02 R34; assumption 7). -/
def pseudoChannels : Nat := 64

/-- Every controller retrains its stacks (02 R34): the pseudo-channels of each logical stack. -/
def retrainAll (s : State) : KMap Nat :=
  (List.range (stackDies s.part.dies).length).map fun k => (k, pseudoChannels)

/-- CHG after one more change (02 R35). -/
def nextChg (n : Nat) : Nat := (n + 1) % 2 ^ 24

/-- A sensor fault (02 R29, R44): SENSFLT set, and its event; a fault that comes while SENSFLT is set posts none
(assumption 7). -/
def sensorFault (s : State) (pos idx : Nat) : State :=
  let c := s.part.cryo
  let s := setCryo s { c with sensflt := true }
  if c.sensflt then s else postCryo s 3 c.state c.state c.cls c.cls (pos + 256 * idx)

/-- SAFE_ENTRY (95; 02 R45): every resident work item is to be pre-empted, one that was asked before for SAFE from now on,
and reservations are returned (10 R228). -/
def enterSafe (s : State) : State :=
  let s := s.run.groups.foldl (fun s e => match e.2.pq.held with
    | some h => modGrp (credit s (coreDie s.part.dies (e.1 / 32)) h) e.1 fun g => { g with pq := { g.pq with held := none } }
    | none => s) s
  s.run.items.foldl (fun s e =>
    if e.2.preempt.isSome then modItem s e.1 fun i => { i with preempt := some 0 } else askPreempt s e.1 0) s

/-- The end of SAFE (02 R45): groups that stopped and were not saved go on, also those of an item without a parked group
whose save is not complete (assumption 45). -/
def leaveSafe (s : State) : State :=
  s.run.items.foldl (fun s e => if e.2.preempt = some 0 then withdraw s e.1 else s) s

/-- A window of a die's weight store opens on the bank group that follows the last (06 R122). -/
def openWindow (long : Bool) (w : WsWin) : WsWin := ⟨(w.next + 1) % 16, some w.next, long, false⟩

/-- The decision to leave class 0 starts the new cadence: a window at once, or at the end of the one open (06 R438; 02
R38). -/
def windowsFaster (s : State) : State :=
  setPart s { s.part with ws := s.part.ws.map fun w => if w.openBg.isSome then { w with again := true } else openWindow true w }

/-- A class change begins (02 R38, R39): STEP; refresh resumes on the way to a slower class. -/
def beginChange (c : Cryo) (new : Nat) : Cryo :=
  if classOf new = c.cls then c
  else { c with change := some ⟨classOf new, false⟩, refreshOn := c.refreshOn || decide (c.cls < classOf new) }

/-- The condition of the state's row with a hold, at a sample. -/
def heldRow (c : Cryo) (ramp : Int) : Bool :=
  let cold := decide (c.temp < 92100)
  match c.state with
  | 0 => decide (c.band ≤ 1)
  | 1 => c.band == 2
  | 2 => cold && decide (-1000 < ramp) && decide (ramp < 1000) && c.retrain.isEmpty
  | 4 => cold
  | 5 => c.band == 2
  | _ => false

/-- A hold counts from the sample that entered the state, where that meets its condition (02 R32); in SETTLE not before
the recalibration ends. -/
def holdStart (c : Cryo) : Nat := if c.state ≠ 2 ∧ heldRow c 0 then 1 else 0

/-- A state change (02 R33 to R35, R38, R44); `now` says that a sample decides it, and not the end of another change. -/
def goState (s : State) (new : Nat) (now : Bool) : State :=
  let c := s.part.cryo
  let d := { beginChange c new with
    state := new
    chg := nextChg c.chg
    retrain := if new = 2 then retrainAll s else [] }
  let s := setCryo s { d with hold := if now then holdStart d else 0 }
  let s := if c.cls = 0 ∧ classOf new ≠ 0 then windowsFaster s else s
  let s := postCryo s 0 c.state new c.cls c.cls 0
  let s := if new = 5 ∨ new = 6 then writeHists s else s
  if new = 6 then enterSafe s else if c.state = 6 then leaveSafe s else s

/-- The request that a transition answers completes with OK once it has been made (02 R33). -/
def requestMade (s : State) (req : Option (ColdReq × Src)) : State :=
  match req with
  | some q => mgmtDone s q.2 0 0
  | none => s

/-- The table holds a row for a request from a state (02 R33). -/
def hasRow (st : Nat) : ColdReq → Bool
  | .warmup => st == 2 || st == 3 || st == 4
  | .cancel => st == 5
  | .safeExit => st == 6

/-- A decision: a change of state, or while STEP is set one that waits for its end (02 R40). -/
def decide40 (s : State) (new : Nat) (req : Option (ColdReq × Src)) : State :=
  let c := s.part.cryo
  if c.change.isSome then
    if (c.waiting.getLast?.map (·.1)) == some new && req.isNone then s
    else setCryo s { c with waiting := c.waiting ++ [(new, req)] }
  else requestMade (goState s new true) req

/-- The state is chosen at reset or by a sensor fault (02 R32); an entry to SAFE writes the histograms (11 R258). -/
def chooseState (s : State) (new : Nat) : State :=
  let s := setCryo s { s.part.cryo with
    started := true
    state := new
    cls := classOf new
    refreshOn := !(classOf new == 0)
    retrain := if new = 2 then retrainAll s else [] }
  let s := setCryo s { s.part.cryo with hold := if s.part.cryo.hist.isEmpty then 0 else holdStart s.part.cryo }
  if new = 6 then writeHists s else s

/-- Records a sample's temperature: BAND, TEMP, and the samples of the last 60 s. The first sample recorded is what the
ramp rate refers to in its first 60 s: the first full one, or after a SAFE chosen without one the first that comes
(assumption 7). -/
def noteTemp (c : Cryo) (t : Nat) : Cryo :=
  { c with
    band := bandOf t
    temp := t
    first := if c.hist.isEmpty then t else c.first
    hist := (t :: c.hist).take minuteSamples }

/-- FIRST_FULL_SAMPLE (95; 02 R32). -/
def execFirstFullSample (rs : List Reading) (s : State) : Host.Outcome State Fault Refusal :=
  .next (
    let rs := validReadings s rs
    if s.part.cryo.started || !fullSample s rs then s
    else match partTemp rs with
      | none => s
      | some t =>
        let s := setCryo s (noteTemp s.part.cryo t)
        match sensorClash rs with
        | some (p, i) => sensorFault (chooseState s 6) p i
        | none => chooseState s (resetState (bandOf t)))

/-- SENSOR_TIMEOUT (95; 02 R29, R32): a sensor silent for 1 ms is a sensor fault, until it returns a reading. -/
def execSensorTimeout (pos idx : Nat) (s : State) : Host.Outcome State Fault Refusal :=
  .next (if !((sensedPos s).contains pos && decide (idx < sensorsAt pos)) then s
    else
      let c := s.part.cryo
      let s := setCryo s { c with silent := if c.silent.contains (pos, idx) then c.silent else c.silent ++ [(pos, idx)] }
      let s := if s.part.cryo.started then s else chooseState s 6
      let s := sensorFault s pos idx
      if s.part.cryo.state = 6 then s else decide40 s 6 none)

/-! ### The table of 02 R33 -/

/-- A row without a hold and without a request. -/
def plainRow (st band : Nat) : Option Nat :=
  match st with
  | 1 => if band = 0 then some 2 else none
  | 2 => if 1 ≤ band then some 4 else none
  | 3 => if 1 ≤ band then some 4 else none
  | 4 => if band = 2 then some 5 else none
  | _ => none

/-- Where the state's row with a hold leads, and its hold in samples. -/
def heldTarget (st : Nat) : Option (Nat × Nat) :=
  match st with
  | 0 => some (1, 600000)
  | 1 => some (0, 600000)
  | 2 => some (3, 3000000)
  | 4 => some (2, 600000)
  | 5 => some (0, 600000)
  | _ => none

/-- The target of a request at a sample, when its row and its conditions hold. -/
def requestTarget (c : Cryo) (ramp : Int) (fault : Bool) : ColdReq → Option Nat
  | .warmup => if (c.state = 2 ∨ c.state = 3) ∧ c.band = 0 ∨ c.state = 4 then some 5 else none
  | .cancel => if c.state = 5 ∧ c.band ≤ 1 then some 1 else none
  | .safeExit =>
    if c.state = 6 ∧ c.band ≤ 2 ∧ !fault ∧ !rampAbove ramp 20 then some (resetState c.band) else none

/-- Requests that the sample turns away, or that another transition overtakes. -/
def refuseCold (s : State) (rs : List (ColdReq × Src)) : State := rs.foldl (fun s r => mgmtDone s r.2 5 0) s

/-- The first request whose row applies, and the others, which the transition overtakes: also a second one of the same kind,
whose row no longer holds once the first has been met (assumption 7). -/
def pickCold (c : Cryo) (ramp : Int) (fault : Bool) :
    List (ColdReq × Src) → Option (ColdReq × Src × Nat) × List (ColdReq × Src)
  | [] => (none, [])
  | r :: t =>
    match requestTarget c ramp fault r.1 with
    | some n => (some (r.1, r.2, n), t)
    | none => let x := pickCold c ramp fault t
      (x.1, r :: x.2)

/-- The decision of a sample (02 R33): SAFE first, then a request, then the rows without a hold. -/
def decideSample (s : State) (ramp : Int) (fault : Bool) : State :=
  let c := s.part.cryo
  let s := setCryo s { c with reqs := [], hold := if heldRow c ramp then c.hold + 1 else 0 }
  if c.state ≠ 6 ∧ (c.band = 3 ∨ rampAbove ramp 30 ∨ fault) then decide40 (refuseCold s c.reqs) 6 none
  else
    let p := pickCold c ramp fault c.reqs
    match p.1 with
    | some (r, src, n) =>
      let s := if r = .safeExit then setCryo s { s.part.cryo with sensflt := false } else s
      refuseCold (decide40 s n (some (r, src))) p.2
    | none =>
      let s := refuseCold s p.2
      match plainRow c.state c.band with
      | some n => decide40 s n none
      | none => s

/-- RAMP_BREACH (95; 02 R29, R30): RAMP at every sample of a breach, the event at its onset. -/
def noteRamp (s : State) (ramp : Int) : State :=
  let c := s.part.cryo
  let fast := rampAbove ramp 20
  let s := setCryo s { c with breach := fast, ramp := c.ramp || fast }
  if fast && !c.breach then postCryo s 2 c.state c.state c.cls c.cls 0 else s

/-- Watchdog time of a group over one sample of 100 µs (10 R229): Pacer leave, weight-store windows, forced waits and
class-change pauses do not count. -/
def tickDog (s : State) (gid : Nat) (g : Group) : Group :=
  match g.stat, g.wait with
  | .run, some _ =>
    if issueStopped s || inSafe s || ((waitNow s gid g).bind waitCode).isNone then g else { g with idle := g.idle + 1 }
  | .run, none => { g with idle := 0 }
  | _, _ => g

/-- SENSOR_SAMPLE (95; 02 R29 to R33): 100 µs after the last one. The sensors that have returned no reading, for less than 1
ms, are left out of the part temperature, and where none has the temperature stays as it was (assumption 7). -/
def execSensorSample (rs : List Reading) (s : State) : Host.Outcome State Fault Refusal :=
  .next (if !s.part.cryo.started then s
    else
      let rs := validReadings s rs
      let s := { s with run := { s.run with groups := s.run.groups.map fun e => (e.1, tickDog s e.1 e.2) } }
      let still := s.part.cryo.silent.filter fun x => (sensedPos s).contains x.1 && !(rs.any fun r => (r.pos, r.idx) == x)
      let s := setCryo s { s.part.cryo with silent := still }
      let quiet := !s.part.cryo.silent.isEmpty
      let t := (partTemp rs).getD s.part.cryo.temp
      let ramp := rampOf s.part.cryo t
      let s := noteRamp (setCryo s (noteTemp s.part.cryo t)) ramp
      match sensorClash rs with
      | some (p, i) => decideSample (sensorFault s p i) ramp true
      | none => decideSample s ramp quiet)

/-- COLD_HOLD_EXPIRY (95; 02 R33): the held row's condition has held for its time. -/
def execColdHoldExpiry (s : State) : Host.Outcome State Fault Refusal :=
  .next (let c := s.part.cryo
    match heldTarget c.state with
    | some (n, k) => if c.started && decide (k < c.hold) && c.change.isNone then goState s n true else s
    | none => s)

/-! ### Class changes (02 R38 to R41) -/

/-- CLASS_CHANGE_ISSUE_STOP (95; 02 R38): every core stops issuing at its next instruction boundary. -/
def execClassChangeIssueStop (s : State) : Host.Outcome State Fault Refusal :=
  .next (match s.part.cryo.change with
    | some k => setCryo s { s.part.cryo with change := some { k with stopped := true } }
    | none => s)

/-- One decision that waited (02 R40): a request that the table holds no row for from the state reached meanwhile is turned
away, and without a request SAFE is not left (R33). -/
def runDecision (s : State) (x : Nat × Option (ColdReq × Src)) : State :=
  let st := s.part.cryo.state
  match x.2 with
  | some q => if hasRow st q.1 then requestMade (goState s x.1 false) x.2 else refuseCold s [q]
  | none => if x.1 = st ∨ st = 6 then s else goState s x.1 false

/-- The decisions that waited run now, in order, up to the first that changes the class again (02 R40). -/
def runWaiting : List (Nat × Option (ColdReq × Src)) → State → State
  | [], s => setCryo s { s.part.cryo with waiting := [] }
  | x :: t, s =>
    if s.part.cryo.change.isSome then setCryo s { s.part.cryo with waiting := x :: t }
    else runWaiting t (runDecision s x)

/-- The class changes (02 R38, R39): CLASS, CHG, STEP clear, the event; the refresh of the new class. -/
def endChange (s : State) (k : ClassChange) : State :=
  let c := s.part.cryo
  let s := setCryo s { c with cls := k.target, chg := nextChg c.chg, change := none, refreshOn := !(k.target == 0) }
  runWaiting c.waiting (postCryo s 1 c.state c.state c.cls k.target 0)

/-- CLASS_CHANGE_ISSUE_RESUME (95; 02 R38, R39). -/
def execClassChangeIssueResume (s : State) : Host.Outcome State Fault Refusal :=
  .next (match s.part.cryo.change with
    | some k => if k.stopped then endChange s k else s
    | none => s)

/-- PSEUDO_CHANNEL_RETRAIN_DONE (95; 02 R34): recalibration is done when no stack has a pseudo-channel left. The controllers
retrain beside each other, so which stack's it is stays open (a free choice among the stacks left, assumption 18). -/
def execPseudoChannelRetrainDone (s : State) : Host.Outcome State Fault Refusal :=
  let r := s.part.cryo.retrain
  .next (match r[Config.freeChoice s.ctl.nonce % r.length]? with
    | some e => bumpNonce (setCryo s { s.part.cryo with retrain := kput 0 r e.1 (e.2 - 1) })
    | none => s)

/-! ### Weight-store windows (06 R122, R438) and the retention patrol (02 R36) -/

/-- WS_WINDOW_BEGIN (95; 06 R122): the next bank group in ascending order. -/
def execWsWindowBegin (d : Nat) (s : State) : Host.Outcome State Fault Refusal :=
  .next (match s.part.ws[d]? with
    | none => s
    | some w =>
      if w.openBg.isSome then s
      else setPart s { s.part with ws := setNth s.part.ws d (openWindow (longCadence s.part.cryo) w) })

/-- WS_WINDOW_END (95; 06 R122, R438): the first window of a new cadence begins at the end of the one that was open. -/
def execWsWindowEnd (d : Nat) (s : State) : Host.Outcome State Fault Refusal :=
  .next (match s.part.ws[d]? with
    | none => s
    | some w => setPart s { s.part with
        ws := setNth s.part.ws d (if w.again then openWindow true w else { w with openBg := none }) })

/-- RETENTION_PATROL (95; 02 R36; 11 R258): while refresh is off, a corrected row counts in the HBM histogram, at a
pseudo-channel that the spec does not name. -/
def execRetentionPatrol (stack : Nat) (corrected : Bool) (s : State) : Host.Outcome State Fault Refusal :=
  let b := Config.freeChoice s.ctl.nonce % pseudoChannels
  .next (if s.part.cryo.refreshOn || !corrected || countWaits s 5 stack b then s else bumpNonce (countError s 5 stack b))

end Sys2Proof.Machine
end

