-- ==== Sys2Proof/Machine/CrossLane.lean ====
section
/-! DEFINITION. The cross-lane instructions (03 R76; 15 R327; 17 R390; 18 R397, R399, R421). -/

namespace Sys2Proof.Machine

/-- A cross-lane instruction on v-registers: its operands, whether A may be a queue, whether it does nothing when no
lane executes, and the value each executing lane receives, if any. -/
structure Cross where
  d : Nat
  a : Nat
  ka : Bool
  b : Option ((Bool × Nat) × Bool)
  ma : Bool
  idle : Bool
  f : Ctx → (Nat → W32) → Nat → Option W32

/-- The instruction runs with no lane and then does nothing but its kills. -/
def Cross.off (k : Cross) (g : Group) : Bool := k.idle && execLanes g .lanes == 0

def Cross.regs (k : Cross) (g : Group) : Regs :=
  let m := marks g
  let a := if m.2.1 then [] else [(false, k.a)]
  let b := match k.b with
    | some (r, _) => [r]
    | none => []
  let kb := match k.b with
    | some (r, true) => [r]
    | _ => []
  let kills := (if k.ka then a else []) ++ kb
  if k.off g then ⟨[], kills, []⟩
  else ⟨a ++ b, kills, if m.1 then [] else [(false, k.d)]⟩

def Cross.dstOf (k : Cross) (g : Group) : Nat := if (marks g).1 then dstNone else dstV k.d

def Cross.check (k : Cross) (c : Ctx) : Option Out :=
  let m := marks c.g
  if (m.2.1 && !k.ma) || m.2.2 then some (.trap (badOperand c.word c.dst))
  else if k.off c.g then none
  else queuePre c m k.d k.a 63 true k.ma false

def Cross.run (k : Cross) (c : Ctx) (s : State) : Out :=
  if k.off c.g then .done s
  else
    let m := marks c.g
    let av (l : Nat) : W32 := if m.2.1 then laneOf 0 (queueHead c.w k.a) l else rdVl c.g k.a l
    let r (l : Nat) : Option W32 := if Mask.has c.x l then k.f c av l else none
    let old (l : Nat) : W32 := if m.1 then 0 else rdVl c.g k.d l
    let vals := mkLanes fun l => (r l).getD (old l)
    let s1 := if m.1 || k.d == 63 then s else modGrp s c.gid fun g => { g with v := kins g.v k.d vals }
    let pops := if m.2.1 then [k.a] else []
    let push := if m.1 then some (k.d, vals) else none
    .done (if m.1 || m.2.1 then queueEffects s1 c.w pops push else s1)

def Cross.meaning (i : Instr) (k : Cross) : Meaning :=
  { i := i, pol := .lanes, regs := k.regs, dst := k.dstOf, pre := k.check, body := k.run }

/-- A source lane (18 R399): an exited or absent lane reads as zero. -/
def srcLane (c : Ctx) (av : Nat → W32) (l : Nat) : W32 :=
  if Mask.has (c.g.exited ||| c.g.absent) l then 0 else av l

/-- SHFL (18 R399): the source lane is B[5:0]. -/
def execShfl (f : RRV) (s : State) : Host.Outcome State Fault Refusal :=
  issue (Cross.meaning (.shfl f)
    { d := f.d.toNat, a := f.a.toNat, ka := f.ka, b := some ((false, f.b.toNat), f.kb), ma := false, idle := false,
      f := fun c av l => some (srcLane c av ((rdVl c.g f.b.toNat l).toNat % 64)) }) s

/-- SLUP (18 R399): the source lane is l - k, when there is one. -/
def execSlup (f : RRV) (s : State) : Host.Outcome State Fault Refusal :=
  issue (Cross.meaning (.slup f)
    { d := f.d.toNat, a := f.a.toNat, ka := f.ka, b := some ((true, f.b.toNat), f.kb), ma := false, idle := false,
      f := fun c av l =>
        let k := (rdS c.g f.b.toNat).toNat
        if k ≤ l then some (srcLane c av (l - k)) else none }) s

/-- SLDN (18 R399): the source lane is l + k, when there is one. -/
def execSldn (f : RRV) (s : State) : Host.Outcome State Fault Refusal :=
  issue (Cross.meaning (.sldn f)
    { d := f.d.toNat, a := f.a.toNat, ka := f.ka, b := some ((true, f.b.toNat), f.kb), ma := false, idle := false,
      f := fun c av l =>
        let k := (rdS c.g f.b.toNat).toNat
        if l + k ≤ 63 then some (srcLane c av (l + k)) else none }) s

/-- The place of a lane among the lanes of a mask, if it is one of them. -/
def rankIn (m : Mask) (l : Nat) : Option Nat := (Mask.list m).findIdx? (· == l)

/-- The executing lanes in which the selecting predicate holds (15 R327). -/
def selected (c : Ctx) (p : Nat) : Mask := c.x &&& rdP c.g p

/-- CMPRS (15 R327): the j-th executing lane receives A of the j-th selected lane. -/
def execCmprs (f : CPX) (s : State) : Host.Outcome State Fault Refusal :=
  issue (Cross.meaning (.cmprs f)
    { d := f.d.toNat, a := f.a.toNat, ka := f.ka, b := none, ma := true, idle := false,
      f := fun c av l =>
        match rankIn c.x l with
        | none => none
        | some j => ((Mask.list (selected c f.p.toNat))[j]?).map av }) s

/-- EXPND (15 R327): the j-th selected lane receives A of the j-th executing lane. -/
def execExpnd (f : CPX) (s : State) : Host.Outcome State Fault Refusal :=
  issue (Cross.meaning (.expnd f)
    { d := f.d.toNat, a := f.a.toNat, ka := f.ka, b := none, ma := true, idle := false,
      f := fun c av l =>
        match rankIn (selected c f.p.toNat) l with
        | none => none
        | some j => ((Mask.list c.x)[j]?).map av }) s

/-! ### REDUX and SCAN -/

/-- The operators of REDUX and SCAN (17 R390, 18 R397). -/
inductive RedOp where
  | add | min | max | and | or
  deriving DecidableEq, Repr

def redOp (o : RedOp) (a b : W32) : W32 :=
  match o with
  | .add => a + b
  | .min => if a.toInt ≤ b.toInt then a else b
  | .max => if a.toInt ≤ b.toInt then b else a
  | .and => a &&& b
  | .or => a ||| b

/-- The values of a list combined. -/
def redList (o : RedOp) : List W32 → W32
  | [] => 0
  | x :: t => t.foldl (redOp o) x

/-- REDUX (17 R390): the executing lanes combined, in every executing lane. -/
def crossRedux (o : RedOp) (f : RDX) : Cross :=
  { d := f.d.toNat, a := f.a.toNat, ka := f.ka, b := none, ma := true, idle := true,
    f := fun c av _ => some (redList o ((Mask.list c.x).map av)) }

/-- SCAN (18 R397): the inclusive prefix over the executing lanes. -/
def crossScan (o : RedOp) (f : RDX) : Cross :=
  { d := f.d.toNat, a := f.a.toNat, ka := f.ka, b := none, ma := true, idle := true,
    f := fun c av l => some (redList o (((Mask.list c.x).filter fun k => decide (k ≤ l)).map av)) }

/-- REDUX.ADD (17 R390). -/
def execReduxAdd (f : RDX) (s : State) : Host.Outcome State Fault Refusal :=
  issue (Cross.meaning (.reduxAdd f) (crossRedux .add f)) s
/-- REDUX.MIN (17 R390). -/
def execReduxMin (f : RDX) (s : State) : Host.Outcome State Fault Refusal :=
  issue (Cross.meaning (.reduxMin f) (crossRedux .min f)) s
/-- REDUX.MAX (17 R390). -/
def execReduxMax (f : RDX) (s : State) : Host.Outcome State Fault Refusal :=
  issue (Cross.meaning (.reduxMax f) (crossRedux .max f)) s
/-- REDUX.AND (17 R390). -/
def execReduxAnd (f : RDX) (s : State) : Host.Outcome State Fault Refusal :=
  issue (Cross.meaning (.reduxAnd f) (crossRedux .and f)) s
/-- REDUX.OR (17 R390). -/
def execReduxOr (f : RDX) (s : State) : Host.Outcome State Fault Refusal :=
  issue (Cross.meaning (.reduxOr f) (crossRedux .or f)) s
/-- SCAN.ADD (18 R397). -/
def execScanAdd (f : RDX) (s : State) : Host.Outcome State Fault Refusal :=
  issue (Cross.meaning (.scanAdd f) (crossScan .add f)) s
/-- SCAN.MAX (18 R397). -/
def execScanMax (f : RDX) (s : State) : Host.Outcome State Fault Refusal :=
  issue (Cross.meaning (.scanMax f) (crossScan .max f)) s

/-! ### VOTE (18 R421) -/

/-- An HMOD of class QUEUE is refused, whatever it marks (17 R387, 18 R421). -/
def noQueue (c : Ctx) : Option Out :=
  match c.g.hints.hmod with
  | some (.queue _ _ _) => some (.trap (badOperand c.word c.dst))
  | _ => none

/-- The counted lanes (18 R421). -/
def counted (c : Ctx) (b : Nat) : Mask := c.x &&& rdS c.g b

def voteRegs (b : Nat) (kb : Bool) (d : List (Bool × Nat)) (g : Group) : Regs :=
  if execLanes g .lanes = 0 then ⟨[], if kb then [(true, b)] else [], []⟩
  else ⟨[(true, b)], if kb then [(true, b)] else [], d⟩

/-- A VOTE that writes a predicate. -/
def votePred (i : Instr) (f : VOTEP) (r : Mask → Mask → Bool) : Meaning :=
  { i := i
    pol := .lanes
    regs := voteRegs f.b.toNat f.kb []
    dst := fun _ => dstP f.pd.toNat
    pre := noQueue
    body := fun c s =>
      let n := counted c f.b.toNat
      .done (modGrp s c.gid fun g => wrP g f.pd.toNat c.x fun _ => r n (n &&& rdP c.g f.pa.toNat)) }

/-- VOTE.ALL (18 R421): pA holds in every counted lane. -/
def execVoteAll (f : VOTEP) (s : State) : Host.Outcome State Fault Refusal :=
  issue (votePred (.voteAll f) f fun n t => n == t) s

/-- VOTE.ANY (18 R421): pA holds in some counted lane. -/
def execVoteAny (f : VOTEP) (s : State) : Host.Outcome State Fault Refusal :=
  issue (votePred (.voteAny f) f fun _ t => !(t == 0)) s

/-- VOTE.BAL (18 R421): the counted lanes in which pA holds, into an s-register. -/
def execVoteBal (f : VOTEB) (s : State) : Host.Outcome State Fault Refusal :=
  issue
    { i := .voteBal f
      pol := .lanes
      regs := voteRegs f.b.toNat f.kb [(true, f.d.toNat)]
      dst := fun _ => dstS f.d.toNat
      pre := noQueue
      body := fun c s =>
        if c.x = 0 then .done s
        else .done (modGrp s c.gid fun g => wrS g f.d.toNat (counted c f.b.toNat &&& rdP c.g f.pa.toNat)) } s

/-! ### Predicates (17 R386, R387) -/

/-- A predicate function written in each executing lane. -/
def predMeaning (i : Instr) (pd : Nat) (rs : Regs) (f : Ctx → Nat → Bool) : Meaning :=
  { i := i
    pol := .lanes
    regs := fun _ => rs
    dst := fun _ => dstP pd
    pre := noQueue
    body := fun c s => .done (modGrp s c.gid fun g => wrP g pd c.x (f c)) }

/-- PAND (17 R387). -/
def execPand (f : PRR) (s : State) : Host.Outcome State Fault Refusal :=
  issue (predMeaning (.pand f) f.pd.toNat noRegs fun c l =>
    Mask.has (rdP c.g f.pa.toNat) l && Mask.has (rdP c.g f.pb.toNat) l) s

/-- POR (17 R387). -/
def execPor (f : PRR) (s : State) : Host.Outcome State Fault Refusal :=
  issue (predMeaning (.por f) f.pd.toNat noRegs fun c l =>
    Mask.has (rdP c.g f.pa.toNat) l || Mask.has (rdP c.g f.pb.toNat) l) s

/-- PXOR (17 R387). -/
def execPxor (f : PRR) (s : State) : Host.Outcome State Fault Refusal :=
  issue (predMeaning (.pxor f) f.pd.toNat noRegs fun c l =>
    Mask.has (rdP c.g f.pa.toNat) l != Mask.has (rdP c.g f.pb.toNat) l) s

/-- PNOT (17 R387). -/
def execPnot (f : PUN) (s : State) : Host.Outcome State Fault Refusal :=
  issue (predMeaning (.pnot f) f.pd.toNat noRegs fun c l => !(Mask.has (rdP c.g f.pa.toNat) l)) s

/-- PTOS (17 R387): the executing lanes where pA holds, written once; 0 when no lane executes. -/
def execPtos (f : PTOSF) (s : State) : Host.Outcome State Fault Refusal :=
  issue
    { i := .ptos f
      pol := .lanes
      regs := fun _ => ⟨[], [], [(true, f.d.toNat)]⟩
      dst := fun _ => dstS f.d.toNat
      pre := noQueue
      body := fun c s => .done (modGrp s c.gid fun g => wrS g f.d.toNat (c.x &&& rdP c.g f.pa.toNat)) } s

/-- PSET (17 R387): bit l of sA in each executing lane. -/
def execPset (f : PSETF) (s : State) : Host.Outcome State Fault Refusal :=
  issue (predMeaning (.pset f) f.pd.toNat ⟨[(true, f.a.toNat)], [], []⟩ fun c l =>
    Mask.has (rdS c.g f.a.toNat) l) s

end Sys2Proof.Machine
end

