-- ==== Sys2Proof/Machine/Hint.lean ====
section
/-! DEFINITION. The hint instructions and LIVE (04 R90, R91; 14 R299 to R301; 16 R350 to R357; 17 R375), and the trap of
a word that is no instruction (14 R298). -/

namespace Sys2Proof.Machine

/-- The context of a hint word or of a word that is no instruction. -/
def bareCtx (i : Instr) (word : W32) (s : State) (gid : Nat) (g : Group) (next : Nat) : Ctx :=
  { i := i, word := word, w := who s gid g, x := g.active, s0 := s, replay := g.replay.isSome, next := next,
    dst := dstNone }

/-- How many words a hint sequence is followed for: every word of the address space. -/
def sequenceMax : Nat := 2 ^ 54

/-- A hint joins the sequence (04 R90): it takes its issue slot, keeps a pending replay, and PC moves on. -/
def addHint (s : State) (gid : Nat) (f : Hints → Hints) : State :=
  modGrp s gid fun g =>
    { g with hints := { f g.hints with first := some (g.hints.first.getD g.pc) }, pc := pcAfter g.pc 4, wait := none,
             issued := s.ctl.clk }

/-- The issue of a hint: a second one of its kind traps (04 R90), with TRAPPC at the first hint of the sequence (R91). -/
def hintAt (i : Instr) (taken : Hints → Bool) (f : Hints → Hints) (s : State) (gid : Nat) (g : Group) : State :=
  if g.stat ≠ .run then s
  else match heldBack s gid g noRegs with
    | some w => modGrp s gid fun g => { g with wait := some w }
    | none =>
      if taken g.hints then
        let c := bareCtx i (wordOf i) s gid g (sequenceEnd s (who s gid g) sequenceMax (pcAfter g.pc 4))
        settle c (.trap (illegal (wordOf i) dstNone))
      else addHint s gid f

/-- One hint of the current group. -/
def hint (i : Instr) (taken : Hints → Bool) (f : Hints → Hints) (s : State) : Host.Outcome State Fault Refusal :=
  match grp s s.ctl.cur with
  | none => .fault .noGroup
  | some g => .next (hintAt i taken f s s.ctl.cur g)

/-- HIMM (16 R350). -/
def execHimm (f : HI) (s : State) : Host.Outcome State Fault Refusal :=
  hint (.himm f) (fun h => h.himm.isSome) (fun h => { h with himm := some f.y }) s
/-- HSCHED (16 R357): PIPE and DELAY change timing only. -/
def execHsched (f : HS) (s : State) : Host.Outcome State Fault Refusal :=
  hint (.hsched f) (fun h => h.hsched.isSome) (fun h => { h with hsched := some f }) s
/-- HMOD, class CACHE (16 R352). -/
def execHmodCache (f : HC) (s : State) : Host.Outcome State Fault Refusal :=
  hint (.hmodCache f) (fun h => h.hmod.isSome) (fun h => { h with hmod := some (.cache f.policy.toNat) }) s
/-- HMOD, class ROUND (16 R353). -/
def execHmodRound (f : HR) (s : State) : Host.Outcome State Fault Refusal :=
  hint (.hmodRound f) (fun h => h.hmod.isSome) (fun h => { h with hmod := some (.round f.rm.toNat) }) s
/-- HMOD, class QUEUE (16 R354). -/
def execHmodQueue (f : HQ) (s : State) : Host.Outcome State Fault Refusal :=
  hint (.hmodQueue f) (fun h => h.hmod.isSome) (fun h => { h with hmod := some (.queue f.qd f.qa f.qb) }) s
/-- HMOD, class COUNT (16 R355). -/
def execHmodCount (f : HK) (s : State) : Host.Outcome State Fault Refusal :=
  hint (.hmodCount f) (fun h => h.hmod.isSome) (fun h => { h with hmod := some (.count f.idx.toNat f.incs.toNat) }) s
/-- HMOD, class SCOPE (16 R356). -/
def execHmodScope (f : HL) (s : State) : Host.Outcome State Fault Refusal :=
  hint (.hmodScope f) (fun h => h.hmod.isSome) (fun h => { h with hmod := some (.scope f.rlvl.toNat) }) s

/-! ### LIVE -/

/-- Pending hints of the current group. -/
def hintsPending (s : State) : Bool :=
  match grp s s.ctl.cur with
  | some g => g.hints.first.isSome
  | none => false

/-- The current group without its pending hints, while it may issue. -/
def dropHints (s : State) : State :=
  modGrp s s.ctl.cur fun g => if g.stat == .run then { g with hints := Hints.none } else g

/-- LIVE (17 R375): a pre-emption point; a hint before it traps with ILLEGAL, TRAPPC at the LIVE (04 R91). -/
def execLive (f : LiveF) (s : State) : Host.Outcome State Fault Refusal :=
  let bad := hintsPending s
  issue (plain (.live f) .none
    (fun c => if bad then some (.trap (illegal c.word c.dst)) else none)
    fun c s => .done (if pointDue c then stopAfter s c (.live f) else countPoint s c))
    (if bad then dropHints s else s)

/-! ### A word that is no instruction -/

/-- The address after a word that is no instruction: for a hint word, after the instruction that its sequence attaches
to (04 R91), for a LIVE after its words (14 R301). -/
def illegalNext (s : State) (gid : Nat) (g : Group) (x : W32) : Nat :=
  if isHintWord x then sequenceEnd s (who s gid g) sequenceMax (pcAfter g.pc 4)
  else pcAfter g.pc (4 * wordsNeeded x)

/-- The first hint of the sequence, but for an ill-formed LIVE, which attaches to nothing (04 R91). -/
def illegalGroup (g : Group) (x : W32) : Group :=
  if x.toNat / 2 ^ 24 = 0xFF then { g with hints := Hints.none } else g

/-- The trap of a word that is no instruction. -/
def illegalAt (x : W32) (s : State) (gid : Nat) (g : Group) : State :=
  if g.stat ≠ .run then s
  else match heldBack s gid g noRegs with
    | some w => modGrp s gid fun g => { g with wait := some w }
    | none =>
      let g1 := illegalGroup g x
      let s1 := setGrp s gid g1
      settle (bareCtx .nop x s1 gid g1 (illegalNext s gid g x)) (.trap (illegal x dstNone))

/-- ILLEGAL_ENCODING (95; 14 R298): a word that no instruction has traps with ILLEGAL. -/
def execIllegalEncoding (x : W32) (s : State) : Host.Outcome State Fault Refusal :=
  match grp s s.ctl.cur with
  | none => .fault .noGroup
  | some g => .next (illegalAt x s s.ctl.cur g)

end Sys2Proof.Machine
end

