-- ==== Sys2Proof/Machine/LoadStore.lean ====
section
/-! DEFINITION. Loads, stores, acquire reads, release writes and prefetch (17 R367 to R373, R388; 18 R405 to R408). -/

namespace Sys2Proof.Machine

/-! ### LD, LDB, LDW and uniform LD -/

/-- The operands of a load. -/
structure LoadOp where
  d : Nat
  s : Nat
  v : Nat
  w : Nat
  na : Bool
  lh : Nat
  u : Bool
  bypass : Bool
  acc : Acc
  deriving DecidableEq, Repr

/-- A vector load with an index register is a gather (11 R236). -/
def LoadOp.gather (o : LoadOp) : Bool := !(o.v == 63)

def LoadOp.regs (o : LoadOp) (_ : Group) : Regs :=
  ⟨(true, o.s) :: (if o.gather then [(false, o.v)] else []), [], regRun o.u o.d (regsM o.u o.w)⟩

def LoadOp.dstOf (o : LoadOp) (_ : Group) : Nat := if o.u then dstS o.d else dstV o.d

/-- The operand limits (17 R367, 11 R237). -/
def LoadOp.pre (o : LoadOp) (c : Ctx) : Option Out :=
  firstTrap [regTrap c (dataRegOk o.u o.w o.d),
    regTrap c (!(o.gather && decide (o.d ≤ o.v) && decide (o.v < o.d + regsM o.u o.w)))]

/-- The flight of a load that read some lanes. -/
def LoadOp.flight (o : LoadOp) (c : Ctx) (vs : List (Nat × Nat)) : Flight :=
  { id := 0, gid := c.gid, uni := o.u, atomic := false, reg := o.d,
    lanes := maskOf fun l => vs.any fun e => e.1 == l, vals := loadVals o.u o.w vs, left := o.lh + 1, host := none,
    pc := c.pc, acq := none }

/-- The load of lanes that all read one address, or a uniform load: it faults as a whole (17 R369). -/
def LoadOp.single (o : LoadOp) (c : Ctx) (s : State) : Out :=
  let n := bytesM o.w
  let hs := probe s c.w o.acc n [Mask.lowest c.x] (laneAddr c.g o.s 63)
  let md := l1ModeOf c.g o.bypass o.na
  match hitsPreOn c.s0 c 0 n hs (hs.filter fun h => !h.inL1 s c.w md) true with
  | some x => x
  | none =>
    let r := readLanes (noteAll s c.w o.acc hs) c.w md n hs
    let v := (r.1.head?.map (·.2)).getD 0
    .done (launchFlight r.2 (o.flight c ((Mask.list c.x).map fun l => (l, v))))

/-- A gather (11 R236): every lane whose checks pass is performed; a translation fault parks the group, another fault
traps it, and a replay executes the lanes left. -/
def LoadOp.gatherRun (o : LoadOp) (c : Ctx) (s : State) : Out :=
  let n := bytesM o.w
  let hs := probe s c.w o.acc n (Mask.list c.x) (laneAddr c.g o.s o.v)
  let md := l1ModeOf c.g o.bypass o.na
  if hs.any fun h => h.hit == .busy then .wait .memory
  else match blockedBy s (hs.filter fun h => !h.inL1 s c.w md) n with
  | some w => .wait w
  | none =>
    let ok := hs.filter fun h => h.loc?.isSome
    let r := readLanes (noteAll s c.w o.acc ok) c.w md n ok
    let s1 := if ok.isEmpty then r.2 else launchFlight r.2 (o.flight c r.1)
    let left := c.x &&& ~~~(hitMask ok)
    let xs := hs.filter LaneHit.isXlate
    if !xs.isEmpty then parkHits s1 c 0 xs left true
    else
      match lanesTrap hs c.dst with
      | some t =>
        if ok.isEmpty then .part c.s0 { t with lanes := some left } c.replay
        else .part s1 { t with lanes := some left } true
      | none => .done s1

def LoadOp.run (o : LoadOp) (c : Ctx) (s : State) : Out :=
  if c.x = 0 then .done s
  else if o.gather then o.gatherRun c s
  else o.single c s

def LoadOp.meaning (i : Instr) (o : LoadOp) : Meaning :=
  { i := i, pol := if o.u then .once else .lanes, regs := o.regs, dst := o.dstOf, pre := o.pre, body := o.run }

/-- LD, uniform (17 R368). -/
def execLdUniform (f : MLU) (s : State) : Host.Outcome State Fault Refusal :=
  issue (LoadOp.meaning (.ldUniform f)
    ⟨f.d.toNat, f.s.toNat, 63, f.w.toNat, f.na, f.lh.toNat, true, false, .load⟩) s

/-- LD (17 R368). -/
def execLd (f : ML) (s : State) : Host.Outcome State Fault Refusal :=
  issue (LoadOp.meaning (.ld f)
    ⟨f.d.toNat, f.s.toNat, f.v.toNat, f.w.toNat, f.na, f.lh.toNat, false, false, .load⟩) s

/-- LDB (17 R368, R370): neither reads nor fills the L1. -/
def execLdb (f : ML) (s : State) : Host.Outcome State Fault Refusal :=
  issue (LoadOp.meaning (.ldb f)
    ⟨f.d.toNat, f.s.toNat, f.v.toNat, f.w.toNat, f.na, f.lh.toNat, false, true, .load⟩) s

/-- LDW (17 R373): from the weight store of the issuing core's die. -/
def execLdw (f : ML) (s : State) : Host.Outcome State Fault Refusal :=
  issue (LoadOp.meaning (.ldw f)
    ⟨f.d.toNat, f.s.toNat, f.v.toNat, f.w.toNat, f.na, f.lh.toNat, false, false, .ldw⟩) s

/-! ### ST and uniform ST -/

/-- The operands of a store. -/
structure StoreOp where
  d : Nat
  s : Nat
  v : Nat
  w : Nat
  u : Bool
  deriving DecidableEq, Repr

/-- W codes 1 and 3 act as 0 and 2 in a store (18 R405). -/
def storeWidth (w : Nat) : Nat :=
  match w with
  | 1 => 0
  | 3 => 2
  | n => n

def StoreOp.regs (o : StoreOp) (_ : Group) : Regs :=
  ⟨(true, o.s) :: (if o.v = 63 then [] else [(false, o.v)]) ++ regRun o.u o.d (regsM o.u o.w), [], []⟩

def StoreOp.pre (o : StoreOp) (c : Ctx) : Option Out := firstTrap [regTrap c (dataRegOk o.u o.w o.d)]

/-- The lanes that store: all executing lanes, or, with one address for all, the highest (07 R144). -/
def StoreOp.lanes (o : StoreOp) (c : Ctx) : List Nat :=
  if o.v = 63 then [((Mask.list c.x).getLast?).getD 0] else Mask.list c.x

/-- The checks of a store's lanes. -/
def StoreOp.hits (o : StoreOp) (c : Ctx) (s : State) : List LaneHit :=
  probe s c.w .store (bytesM (storeWidth o.w)) (o.lanes c) (laneAddr c.g o.s o.v)

/-- The effect of a store (18 R406, R407): no lane is performed unless all pass. -/
def StoreOp.run (o : StoreOp) (c : Ctx) (s : State) : Out :=
  if c.x = 0 then .done s
  else
    let n := bytesM (storeWidth o.w)
    let hs := o.hits c s
    match hitsPre c.s0 c 1 n hs (o.v == 63) with
    | some x => x
    | none =>
      if conflictHeld c.s0 c.w hs then .wait .forced
      else
        .done (storeLanes (noteAll s c.w .store hs) c.w (relOrder s c.gid) n
          (fun l => storeData c.g o.u o.w o.d l) hs)

def StoreOp.meaning (i : Instr) (o : StoreOp) : Meaning :=
  { i := i, pol := if o.u then .once else .lanes, regs := o.regs, dst := fun _ => dstNone, pre := o.pre, body := o.run }

/-- ST, uniform (18 R405). -/
def execStUniform (f : MSU) (s : State) : Host.Outcome State Fault Refusal :=
  issue (StoreOp.meaning (.stUniform f) ⟨f.d.toNat, f.s.toNat, 63, f.w.toNat, true⟩) s

/-- ST (18 R405). -/
def execSt (f : MS) (s : State) : Host.Outcome State Fault Refusal :=
  issue (StoreOp.meaning (.st f) ⟨f.d.toNat, f.s.toNat, f.v.toNat, f.w.toNat, false⟩) s

/-! ### LDA and STRL -/

/-- The bytes of a width code of format O. -/
def bytesO (w : Nat) : Nat := if w = 0 then 4 else 8

/-- The registers of a datum of format O. -/
def regsO (u : Bool) (w : Nat) : Nat := if u || w == 0 then 1 else 2

/-- A vector b64 datum takes an even pair, v0 to v60 (17 R371, 18 R408). -/
def regOkO (u : Bool) (w r : Nat) : Bool := u || w == 0 || (r % 2 == 0 && decide (r ≤ 60))

/-- The acquire of LDA (17 R372, 07 R153): with REMOTE the L1 is emptied and the line promoted first. -/
def remoteFirst (s : State) (w : Who) (lvl : Nat) (l : Loc) : State :=
  if lvl = 14 then
    match l with
    | .hbm pa => promoteLine (flashL1 s w.core) w.core (pa / 128)
    | _ => flashL1 s w.core
  else s

def ldaPre (f : OF) (c : Ctx) : Option Out :=
  firstTrap [regTrap c (regOkO f.u f.w.toNat f.d.toNat), levelTrap c f.lvl.toNat true,
    scopeTrap c false f.lvl.toNat]

/-- The effect of LDA: one access for the group. -/
def ldaRun (f : OF) (c : Ctx) (s : State) : Out :=
  if c.x = 0 then .done s
  else
    let n := bytesO f.w.toNat
    let lvl := f.lvl.toNat
    let hs := probe s c.w .load n [Mask.lowest c.x] (laneAddr c.g f.s.toNat 63)
    match hitsPre c.s0 c 0 n hs true with
    | some x => x
    | none =>
      let s1 := noteAll s c.w .load hs
      let s2 := match hs.head?.bind LaneHit.loc? with
        | some l => remoteFirst s1 c.w lvl l
        | none => s1
      let md0 := l1ModeOf c.g false false
      let md := if lvl = 14 then { md0 with hit := false, fill := false } else md0
      let w := if lvl = 14 then { c.w with g := { c.g with ahead := [] } } else c.w
      let r := readLanes s2 w md n hs
      let v := (r.1.head?.map (·.2)).getD 0
      let vs := (Mask.list c.x).map fun l => (l, v)
      let s3 := forgetReads (acquireAt r.2 c.w lvl) c.gid
      .done (launchFlight s3
        { id := 0, gid := c.gid, uni := f.u, atomic := false, reg := f.d.toNat, lanes := c.x,
          vals := loadVals f.u (if f.w.toNat = 0 then 4 else 5) vs, left := f.lh.toNat + 1, host := none, pc := c.pc,
          acq := none })

/-- LDA (17 R371, R372). -/
def execLda (f : OF) (s : State) : Host.Outcome State Fault Refusal :=
  issue
    { i := .lda f
      pol := if f.u then .once else .lanes
      regs := fun _ => ⟨[(true, f.s.toNat)], [], regRun f.u f.d.toNat (regsO f.u f.w.toNat)⟩
      dst := fun _ => if f.u then dstS f.d.toNat else dstV f.d.toNat
      pre := ldaPre f
      body := ldaRun f } s

def strlPre (f : OF) (c : Ctx) : Option Out :=
  firstTrap [regTrap c (regOkO f.u f.w.toNat f.d.toNat), levelTrap c f.lvl.toNat false,
    scopeTrap c false f.lvl.toNat]

/-- The effect of STRL (18 R408): the wait of the release, then the write of the highest executing lane. -/
def strlRun (f : OF) (c : Ctx) (s : State) : Out :=
  if c.x = 0 then .done s
  else
    let n := bytesO f.w.toNat
    let top := ((Mask.list c.x).getLast?).getD 0
    let hs := probe s c.w .store n [top] (laneAddr c.g f.s.toNat 63)
    match hitsPre c.s0 c 1 n hs true with
    | some x => x
    | none =>
      if conflictHeld c.s0 c.w hs then .wait .forced
      else
        let s1 := releaseAt (noteAll s c.w .store hs) c.w f.lvl.toNat
        let w := if f.w.toNat = 0 then 4 else 5
        .done (storeLanes s1 c.w true n (fun l => storeData c.g f.u w f.d.toNat l % 2 ^ (8 * n)) hs)

/-- STRL (18 R408). -/
def execStrl (f : OF) (s : State) : Host.Outcome State Fault Refusal :=
  issue
    { i := .strl f
      pol := if f.u then .once else .lanes
      regs := fun _ => ⟨(true, f.s.toNat) :: regRun f.u f.d.toNat (regsO f.u f.w.toNat), [], []⟩
      dst := fun _ => dstNone
      pre := strlPre f
      body := strlRun f } s

/-! ### PREF -/

/-- The place that a lane prefetches (17 R388): a fault of any kind, an address outside the global window, a host page or
a poisoned region drops it. -/
def prefLoc (s : State) (c : Ctx) (n va : Nat) : Option (Nat × Bool) :=
  match window va, check s c.w .load va n with
  | .global, .ok (.hbm pa) nc => some (pa, nc)
  | _, _ => none

/-- The prefetch of one lane. -/
def prefLane (s : State) (c : Ctx) (n va : Nat) : State :=
  match prefLoc s c n va with
  | some (pa, nc) => touchLoad (noteTlb s c.w.die c.w.asid va .load) c.w ⟨!nc, !nc, true⟩ (.hbm pa) nc
  | none => s

/-- The effect of PREF: a fill waits for a line that an engine transfer owns (07 R156). -/
def prefRun (f : MP) (c : Ctx) (s : State) : Out :=
  let n := bytesM f.w.toNat
  let vas := (Mask.list c.x).map (laneAddr c.g f.s.toNat f.v.toNat)
  let owned (va : Nat) : Bool := match prefLoc s c n va with
    | some (pa, nc) => !l1Hit s c.w ⟨!nc, !nc, true⟩ (.hbm pa) && ownedLoc s (.hbm (pa / 128 * 128)) 128
    | none => false
  if vas.any owned then .wait .memory else .done (vas.foldl (fun s va => prefLane s c n va) s)

/-- PREF (17 R388): no register and no value changes. -/
def execPref (f : MP) (s : State) : Host.Outcome State Fault Refusal :=
  issue
    { i := .pref f
      pol := .lanes
      regs := fun _ => ⟨(true, f.s.toNat) :: (if f.v.toNat = 63 then [] else [(false, f.v.toNat)]), [], []⟩
      dst := fun _ => dstNone
      pre := fun _ => none
      body := prefRun f } s

end Sys2Proof.Machine
end

