-- ==== Sys2Proof/Machine/Package.lean ====
section
/-! DEFINITION. Part reset, errors and their histograms, the inventory and firmware services, and attestation (95; 01
R14, R15, R23; 11 R250, R258; 13 R283, R284). -/

namespace Sys2Proof.Machine

/-! ### Part reset -/

/-- A histogram after a part reset: the counts last written to the signed store (11 R258). -/
def resetHist (h : Hist) : Hist := { h with counts := h.written, thresh := 0 }

/-- The firmware in effect after a part reset: the staged image when its signature verifies and its security version is
not below the minimum held in the signed store (13 R283). -/
def bootFw (p : Part) : Nat :=
  match p.fwStaged with
  | some fw => if fw.signed && decide (p.fwMin ≤ fw.version) then fw.version else p.fwVersion
  | none => p.fwVersion

/-- The state a part reset leaves (01 R14, R23; 13 R283): the part is built again from the record in the signed store;
queues, launches, caches, translations, remap and poison go; HBM, host memory and the weight store keep their bytes
(assumption 29). -/
def resetPart (s : State) : State :=
  let mem : Mem := { Mem.reset with hbm := s.mem.hbm, host := s.mem.host, ws := s.mem.ws }
  let part := Part.ofInv s.part.store (bootFw s.part) s.part.fwMin (s.part.hists.map resetHist)
  let host : HostIf := { HostIf.reset with capW := dissipation s.part.store.grade }
  { ctl := { s.ctl with cur := 0, rr := 0, clk := 0, acct := 0, si := 0 }, mem := mem, run := Run.reset, part := part, host := host }

/-- PART_RESET (95; 01 R14). -/
def execPartReset (s : State) : Host.Outcome State Fault Refusal := .next (resetPart s)

/-- RE_HARVEST_SERVICE (95; 01 R15): the record goes to the signed store when its sequence number exceeds that of the
record there; the part reads it at the next part reset (R14). -/
def execReHarvestService (r : InvRecord) (s : State) : Host.Outcome State Fault Refusal :=
  .next (if s.part.store.seq < r.seq then setPart s { s.part with store := r } else s)

/-- FIRMWARE_UPDATE (95; 13 R283): the image is staged. -/
def execFirmwareUpdate (fw : Firmware) (s : State) : Host.Outcome State Fault Refusal :=
  .next (setPart s { s.part with fwStaged := some fw })

/-! ### Errors (11 R250, R258) -/

/-- How many buckets a unit of a histogram has. -/
def histBuckets (hist : Nat) : Nat :=
  match hist with
  | 0 => 64
  | 1 => 8
  | 2 => 16
  | 3 => 16
  | 4 => 256
  | 5 => 64
  | _ => 0

/-- ERROR_DETECTED (95; 11 R258); one whose event cannot be posted yet is counted later (13 R275). -/
def execErrorDetected (hist unit bucket : Nat) (s : State) : Host.Outcome State Fault Refusal :=
  .next (if bucket < histBuckets hist ∧ !countWaits s hist unit bucket then countError s hist unit bucket else s)

/-- The group consumes uncorrectable data (11 R250, R252): it halts at its instruction, also one that waits, is parked or
has ended while a batch of its reads operands. -/
def haltGroup (s : State) (gid unit : Nat) : State :=
  match grp s gid with
  | none => s
  | some g =>
    if 7 ≤ unit ∨ !canPost s 0 then s
    else
      let l := (kfind s.run.launches g.launch).getD Launch.fresh
      postHalt (killGroup s gid) l.pkt.launchid.toNat (gid / 32) (gid % 32) 1 g.pc 0x30 unit

/-- The dense index of the element that an add-mode drain adds next (08 R174). -/
def nextAdd (x : Xfer) : Option Nat :=
  let es := writeVas x
  ((((es.map fun e => e.2 / 128).eraseDups)[x.pos]?).bind fun k => es.find? fun e =>
    e.2 / 128 == k && !(x.bad.contains e.1)).map (·.1)

/-- An engine transfer reads uncorrectable data (11 R250): the element it comes to next stays unwritten, and the transfer
completes with POISONED; a relay transfer ends with it (assumption 25). An add-mode drain reads the bytes at the home (08
R174); a store-mode drain reads no memory. -/
def spoilXfer (s : State) (x : Xfer) : State :=
  match x.kind, x.coll with
  | .cpy, _ => setXfer s { x with bad := x.bad ++ [x.pos + x.vals.length] }
  | .chain, _ => setXfer s { x with bad := x.bad ++ [x.pos + x.vals.length] }
  | .drainAdd, _ => setXfer s { x with bad := x.bad ++ (nextAdd x).toList }
  | _, some (k, rank) => match s.run.colls.find? fun c => c.id == k with
    | some c => failPart s c rank 3
    | none => s
  | _, none => s

/-- The host's read that is served next meets uncorrectable data: a completer abort (11 R250). -/
def spoilRead (s : State) : State :=
  match s.host.stalled with
  | .read _ _ :: t => abortHost (setHost s { s.host with stalled := t }) 2
  | _ => abortHost s 2

/-- UNCORRECTABLE_ERROR (95; 11 R250). -/
def execUncorrectableError (c : Consumer) (unit : Nat) (s : State) : Host.Outcome State Fault Refusal :=
  .next (match c with
    | .group gid => haltGroup s gid unit
    | .xfer n => match s.run.xfers.find? fun x => x.id == n with
      | some x => spoilXfer s x
      | none => s
    | .hostRead => spoilRead s)

/-- HISTOGRAM_WRITE (95; 11 R258). -/
def execHistogramWrite (s : State) : Host.Outcome State Fault Refusal := .next (writeHists s)

/-! ### Ultra Ethernet (13 R282) -/

/-- The options the port supports: every delivery but UUD, every semantic but atomics, no TSS. -/
def ueAccepts (p : UePacket) : Bool := decide (p.delivery < 3) && decide (p.semantic < 4) && !p.tss

/-- The collective that a chunk names (assumption 10). -/
def relayColl (s : State) (n : ChunkName) : Option Coll := s.run.colls.find? fun k => chunkName s k n.chunk == n

/-- The launch that a chunk names, while it runs. -/
def relayLaunch (s : State) (n : ChunkName) : Option (Nat × Launch) :=
  s.run.launches.find? fun e => e.2.pkt.launchid == n.launchid && e.2.stat == .bound

/-- A chunk of a collective that no rank here has opened is held in a block of its launch's relay spill region (09 R206,
R209): none while no block is free, or its lines cannot be written yet. -/
def holdEarly (s : State) (n : ChunkName) (data : List Byte) : Option State :=
  match relayLaunch s n with
  | none => none
  | some (lid, l) => match regionFree s lid with
    | none => none
    | some j =>
      if (pageFault s l 255 .engWrite (regionVa s lid j) data.length).isSome then none
      else
        let s := storeVas s 255 l.asid (regionVa s lid j) data
        some { s with run := { s.run with early := s.run.early ++ [(lid, j, n, data)] } }

/-- The collective has taken a chunk, or has no use for it: it mismatched, or the chunk is none of its own. -/
def chunkTaken (s : State) (id : Nat) (n : ChunkName) (len : Nat) : Bool :=
  match collOf s id with
  | none => true
  | some k =>
    let c := n.chunk
    k.mismatch || !(k.names c.1 c.2.1 c.2.2) || !(k.lands c.1) || k.has c.1 c.2.1 c.2.2 || k.spilled.contains c
      || !(len == chunkLen k.shape k.n c.2.1)

/-- A relay chunk from another package arrives: none where the part has no room for it, and its sender waits (09 R206). -/
def takeNamed (s : State) (n : ChunkName) (data : List Byte) : Option State :=
  match relayColl s n with
  | none => holdEarly s n data
  | some k =>
    let t := arriveAt s k.id n.chunk.1 n.chunk.2.1 n.chunk.2.2 data
    if chunkTaken t k.id n data.length then some t else none

/-- The longest relay chunk that an RMA write carries (13 R282). -/
def ueChunk : Nat := 16384

/-- What an accepted packet does (13 R282; assumption 10): a send is received, an RMA write writes memory and an RMA read
is answered, each at a physical address of HBM. -/
def ueTake (p : UePacket) (s : State) : State :=
  match p.semantic with
  | 2 => if hostReach s p.addr p.data.length then hostWriteHbm s p.addr p.data else s
  | 3 => if hostReach s p.addr p.data.length then
      setPart s { s.part with ueAnswers := s.part.ueAnswers ++ [readHbm s.mem p.addr p.data.length] } else s
  | _ => setPart s { s.part with ueInbox := s.part.ueInbox ++ [p] }

/-- An accepted packet arrives. A relay chunk, an RMA write over ROD of at most 16 KiB, arrives at its collective; one
that the part has no room for is not taken yet, and the link keeps it (09 R206; assumption 25). A longer one, or one over
another delivery, is no chunk of the relay and has no effect. -/
def ueArrive (p : UePacket) (s : State) : Option State :=
  match p.semantic, p.relay with
  | 2, some n => if p.delivery = 1 ∧ p.data.length ≤ ueChunk then takeNamed s n p.data else some s
  | _, _ => some (ueTake p s)

/-- ULTRA_ETHERNET_PACKET (95; 13 R282): a packet outside the supported options is dropped and counted. -/
def execUltraEthernetPacket (p : UePacket) (s : State) : Host.Outcome State Fault Refusal :=
  if ueAccepts p then .next ((ueArrive p (setPart s { s.part with ueAccepted := s.part.ueAccepted + 1 })).getD s)
  else .next (setPart s { s.part with ueDropped := s.part.ueDropped + 1 })

/-! ### Relay chunks from the Stride link (13 R281; 09 R204) -/

/-- The payload bytes that a flit uses. -/
def flitPayload (f : List Byte) : List Byte := (f.drop 8).take (bits (flitHead f) 48 6)

/-- The flits of relay chunks that a package has sent, in order. -/
def relayFlits (x : Stride) (src : Nat) : List (List Byte) := x.inbox.filter fun f => flitKind f == 2 && flitSrc f == src

/-- The name of the chunk whose bytes are on the link (assumption 10). -/
def flitName (b : List Byte) : ChunkName :=
  { launchid := BitVec.ofNat 32 (fieldAt b 0 4)
    level := fieldAt b 4 1
    inst := fieldAt b 6 4
    ord := fieldAt b 10 8
    persistent := if fieldAt b 5 1 = 1 then some (fieldAt b 18 8) else none
    first := fieldAt b 34 2
    chunk := (fieldAt b 26 2, fieldAt b 28 4, fieldAt b 32 2) }

/-- The oldest relay chunk of a package arrives once all its flits are there; while the part has no room for it, the chunk
stays on the link (09 R206). -/
def relayTake (src : Nat) (s : State) : Host.Outcome State Fault Refusal :=
  let fs := relayFlits s.part.stride src
  let n := (40 + fieldAt (flitPayload (fs.headD [])) 36 4 + 51) / 52
  if fs.isEmpty || decide (fs.length < n) then .next s
  else
    let bs := ((fs.take n).map flitPayload).flatten
    let rest := (fs.take n).foldl (fun (b : List (List Byte)) f => b.erase f) s.part.stride.inbox
    .next ((takeNamed (setStride s { s.part.stride with inbox := rest }) (flitName bs) (bs.drop 40)).getD s)

/-! ### Attestation (13 R284) -/

/-- Free bytes of a response: their number and values are not in the spec (assumption 17). -/
def freeBytes (nonce : Nat) : List Byte :=
  (List.range (Config.freeSpdm nonce 0).toNat).map fun i => Config.freeSpdm nonce (i + 1)

/-- A response of the responder: its code, the bytes the spec gives, then free bytes. -/
def spdmAnswer (s : State) (code : Byte) (known : List Byte) : State :=
  bumpNonce (setPart s { s.part with spdm := s.part.spdm ++ [(code, known ++ freeBytes s.ctl.nonce)] })

/-- GET_VERSION (95; 13 R284), answered with VERSION: SPDM 1.3. -/
def execGetVersion (s : State) : Host.Outcome State Fault Refusal := .next (spdmAnswer s 0x04 (bytesLe 2 0x1300))

/-- GET_CAPABILITIES (95; 13 R284), answered with CAPABILITIES. -/
def execGetCapabilities (s : State) : Host.Outcome State Fault Refusal := .next (spdmAnswer s 0x61 [])

/-- The algorithms of a quote (13 R284; assumption 17): no base asymmetric algorithm, the base hash SHA-256, and one
extended asymmetric algorithm, SLH-DSA-SHA2-128f, whose code the spec does not give. -/
def spdmAlgorithms : List Byte := bytesLe 4 0 ++ bytesLe 4 1 ++ bytesLe 1 1

/-- NEGOTIATE_ALGORITHMS (95; 13 R284), answered with ALGORITHMS. -/
def execNegotiateAlgorithms (s : State) : Host.Outcome State Fault Refusal := .next (spdmAnswer s 0x63 spdmAlgorithms)

/-- GET_DIGESTS (95; 13 R284), answered with DIGESTS. -/
def execGetDigests (s : State) : Host.Outcome State Fault Refusal := .next (spdmAnswer s 0x01 [])

/-- GET_CERTIFICATE (95; 13 R284), answered with CERTIFICATE; the chain's bytes are not in the spec. -/
def execGetCertificate (_slot _offset _len : Nat) (s : State) : Host.Outcome State Fault Refusal :=
  .next (spdmAnswer s 0x02 [])

/-- CHALLENGE (95; 13 R284), answered with CHALLENGE_AUTH. -/
def execChallenge (_slot : Nat) (s : State) : Host.Outcome State Fault Refusal := .next (spdmAnswer s 0x03 [])

/-- SHA-256 of what was measured; the bytes of the ROM, of the firmware and of microcode are not in the spec (assumption
17). -/
def measuredHash (m : Measured) : List Byte := (List.range 32).map (Config.freeHash m.kind m.id)

/-- The value of a measurement register: zeros, extended with each measurement in turn (13 R283). -/
def measureValue (ms : List Measured) : List Byte :=
  ms.foldl (fun r m => sha256 (r ++ measuredHash m)) (List.replicate 32 0)

/-- The measurements of an index (assumption 17): 0 asks for their number, 1 to 16 for one register, 255 for all. -/
def measuresAt (p : Part) (index : Nat) : List Byte :=
  if index = 0 then bytesLe 1 16
  else if index = 255 then (p.measures.map measureValue).flatten
  else if index ≤ 16 then measureValue (p.measures.getD (index - 1) []) else []

/-- GET_MEASUREMENTS (95; 13 R283, R284), answered with MEASUREMENTS. -/
def execGetMeasurements (index : Nat) (s : State) : Host.Outcome State Fault Refusal :=
  .next (spdmAnswer s 0x60 (measuresAt s.part index))

/-- Any other SPDM request (95; 13 R284), answered with ERROR UnsupportedRequest, which names the request. -/
def execSpdmUnsupportedRequest (code : Byte) (s : State) : Host.Outcome State Fault Refusal :=
  .next (setPart s { s.part with spdm := s.part.spdm ++ [(0x7F, [0x07, code])] })

end Sys2Proof.Machine
end

