-- ==== Sys2Proof/Machine/Packed.lean ====
section
/-! DEFINITION. The packed INT16 instructions and the rounding shifts (17 R385, 18 R401; 05 R102). -/

namespace Sys2Proof.Machine

/-- Half h of a register as a signed 16-bit number. -/
def int16 (x h : Nat) : Int := sextNat 16 (bits x (16 * h) 16)

/-- Sat16 and Sat32 (05 R103). -/
def clampTo (n : Nat) (t : Int) : Int :=
  if t < -(Int.ofNat (2 ^ (n - 1))) then -(Int.ofNat (2 ^ (n - 1)))
  else if Int.ofNat (2 ^ (n - 1)) ≤ t then Int.ofNat (2 ^ (n - 1)) - 1
  else t

/-- Two halves that wrap. -/
def wrap2 (f : Nat → Int) : LaneOut := ⟨wrapNat 16 (f 0) + wrapNat 16 (f 1) * 2 ^ 16, 0, 0, none⟩

/-- Two halves that saturate; a clamp sets SATF.H. -/
def sat2 (f : Nat → Int) : LaneOut :=
  let r (h : Nat) : Int := clampTo 16 (f h)
  ⟨wrapNat 16 (r 0) + wrapNat 16 (r 1) * 2 ^ 16, 0,
    if r 0 = f 0 ∧ r 1 = f 1 then 0 else 1, none⟩

/-- The rounding shift of SRAR (18 R401): halves round up. -/
def srarZ (a k : Nat) : Int :=
  if k = 0 then sextNat 32 a else (sextNat 32 a + Int.ofNat (2 ^ (k - 1))) / Int.ofNat (2 ^ k)

/-- PADD2 (17 R385): a + b in each half, wrapping. -/
def padd2Op (_ : Nat) (_ : Fp) (x : LaneIn) : LaneOut :=
  wrap2 fun h => int16 x.a h + int16 x.b h

/-- PADD2 (17 R385): the instruction. -/
def execPadd2 (f : RRV) (s : State) : Host.Outcome State Fault Refusal :=
  issue ((aluRRV f false).meaning (.padd2 f) padd2Op) s

/-- PADD2.S (17 R385): a + b in each half, saturating. -/
def padd2SOp (_ : Nat) (_ : Fp) (x : LaneIn) : LaneOut :=
  sat2 fun h => int16 x.a h + int16 x.b h

/-- PADD2.S (17 R385): the instruction. -/
def execPadd2S (f : RRV) (s : State) : Host.Outcome State Fault Refusal :=
  issue ((aluRRV f false).meaning (.padd2S f) padd2SOp) s

/-- PSUB2 (17 R385): a - b in each half, wrapping. -/
def psub2Op (_ : Nat) (_ : Fp) (x : LaneIn) : LaneOut :=
  wrap2 fun h => int16 x.a h - int16 x.b h

/-- PSUB2 (17 R385): the instruction. -/
def execPsub2 (f : RRV) (s : State) : Host.Outcome State Fault Refusal :=
  issue ((aluRRV f false).meaning (.psub2 f) psub2Op) s

/-- PSUB2.S (17 R385): a - b in each half, saturating. -/
def psub2SOp (_ : Nat) (_ : Fp) (x : LaneIn) : LaneOut :=
  sat2 fun h => int16 x.a h - int16 x.b h

/-- PSUB2.S (17 R385): the instruction. -/
def execPsub2S (f : RRV) (s : State) : Host.Outcome State Fault Refusal :=
  issue ((aluRRV f false).meaning (.psub2S f) psub2SOp) s

/-- PMUL2 (17 R385): the low half of a * b in each half. -/
def pmul2Op (_ : Nat) (_ : Fp) (x : LaneIn) : LaneOut :=
  wrap2 fun h => int16 x.a h * int16 x.b h

/-- PMUL2 (17 R385): the instruction. -/
def execPmul2 (f : RRV) (s : State) : Host.Outcome State Fault Refusal :=
  issue ((aluRRV f false).meaning (.pmul2 f) pmul2Op) s

/-- PMAC2 (17 R385): D plus both products, saturated once; a clamp sets SATF.W. -/
def pmac2Op (_ : Nat) (_ : Fp) (x : LaneIn) : LaneOut :=
  let t := sextNat 32 x.d + int16 x.a 0 * int16 x.b 0 + int16 x.a 1 * int16 x.b 1
  ⟨wrapNat 32 (clampTo 32 t), 0, if clampTo 32 t = t then 0 else 2, none⟩

/-- PMAC2 (17 R385): the instruction. -/
def execPmac2 (f : RRV) (s : State) : Host.Outcome State Fault Refusal :=
  issue ((aluRRV f true).meaning (.pmac2 f) pmac2Op) s

/-- SRAR (18 R401): A shifted right with rounding. -/
def srarOp (_ : Nat) (_ : Fp) (x : LaneIn) : LaneOut :=
  ⟨wrapNat 32 (srarZ x.a (x.b % 32)), 0, 0, none⟩

/-- SRAR (18 R401): the instruction. -/
def execSrar (f : RRV) (s : State) : Host.Outcome State Fault Refusal :=
  issue ((aluRRV f false).meaning (.srar f) srarOp) s

/-- SRAR.H (18 R401): SRAR saturated to 16 bits, zeros above; a clamp sets SATF.H. -/
def srarHOp (_ : Nat) (_ : Fp) (x : LaneIn) : LaneOut :=
  let t := srarZ x.a (x.b % 32)
  ⟨wrapNat 16 (clampTo 16 t), 0, if clampTo 16 t = t then 0 else 1, none⟩

/-- SRAR.H (18 R401): the instruction. -/
def execSrarH (f : RRV) (s : State) : Host.Outcome State Fault Refusal :=
  issue ((aluRRV f false).meaning (.srarH f) srarHOp) s

end Sys2Proof.Machine
end

