-- ==== Sys2Proof/Machine/Dispatch.lean ====
section
/-! DEFINITION. Which meaning each instruction has: one arm per constructor. -/

namespace Sys2Proof.Machine

def exec (i : Instr) (s : State) : Host.Outcome State Fault Refusal :=
  match i with
  | .iadd f => Sys2Proof.Machine.execIadd f s
  | .isub f => Sys2Proof.Machine.execIsub f s
  | .imul f => Sys2Proof.Machine.execImul f s
  | .imulh f => Sys2Proof.Machine.execImulh f s
  | .imulhU f => Sys2Proof.Machine.execImulhU f s
  | .imin f => Sys2Proof.Machine.execImin f s
  | .iminU f => Sys2Proof.Machine.execIminU f s
  | .imax f => Sys2Proof.Machine.execImax f s
  | .imaxU f => Sys2Proof.Machine.execImaxU f s
  | .iabs f => Sys2Proof.Machine.execIabs f s
  | .ineg f => Sys2Proof.Machine.execIneg f s
  | .and f => Sys2Proof.Machine.execAnd f s
  | .or f => Sys2Proof.Machine.execOr f s
  | .xor f => Sys2Proof.Machine.execXor f s
  | .andn f => Sys2Proof.Machine.execAndn f s
  | .not f => Sys2Proof.Machine.execNot f s
  | .shl f => Sys2Proof.Machine.execShl f s
  | .shr f => Sys2Proof.Machine.execShr f s
  | .sar f => Sys2Proof.Machine.execSar f s
  | .rol f => Sys2Proof.Machine.execRol f s
  | .clz f => Sys2Proof.Machine.execClz f s
  | .popc f => Sys2Proof.Machine.execPopc f s
  | .brev f => Sys2Proof.Machine.execBrev f s
  | .mov f => Sys2Proof.Machine.execMov f s
  | .iaddc f => Sys2Proof.Machine.execIaddc f s
  | .iaddi f => Sys2Proof.Machine.execIaddi f s
  | .andi f => Sys2Proof.Machine.execAndi f s
  | .ori f => Sys2Proof.Machine.execOri f s
  | .xori f => Sys2Proof.Machine.execXori f s
  | .shli f => Sys2Proof.Machine.execShli f s
  | .shri f => Sys2Proof.Machine.execShri f s
  | .sari f => Sys2Proof.Machine.execSari f s
  | .movi f => Sys2Proof.Machine.execMovi f s
  | .imad f => Sys2Proof.Machine.execImad f s
  | .icmp f => Sys2Proof.Machine.execIcmp f s
  | .bfeU f => Sys2Proof.Machine.execBfeU f s
  | .bfeS f => Sys2Proof.Machine.execBfeS f s
  | .bfi f => Sys2Proof.Machine.execBfi f s
  | .lea f => Sys2Proof.Machine.execLea f s
  | .sel f => Sys2Proof.Machine.execSel f s
  | .fadd f => Sys2Proof.Machine.execFadd f s
  | .fsub f => Sys2Proof.Machine.execFsub f s
  | .fmul f => Sys2Proof.Machine.execFmul f s
  | .fmin f => Sys2Proof.Machine.execFmin f s
  | .fmax f => Sys2Proof.Machine.execFmax f s
  | .fabs f => Sys2Proof.Machine.execFabs f s
  | .fneg f => Sys2Proof.Machine.execFneg f s
  | .frndNe f => Sys2Proof.Machine.execFrndNe f s
  | .frndZ f => Sys2Proof.Machine.execFrndZ f s
  | .frndDn f => Sys2Proof.Machine.execFrndDn f s
  | .frndUp f => Sys2Proof.Machine.execFrndUp f s
  | .fclass f => Sys2Proof.Machine.execFclass f s
  | .fdiv f => Sys2Proof.Machine.execFdiv f s
  | .ffma f => Sys2Proof.Machine.execFfma f s
  | .fcmp f => Sys2Proof.Machine.execFcmp f s
  | .frcp f => Sys2Proof.Machine.execFrcp f s
  | .frsq f => Sys2Proof.Machine.execFrsq f s
  | .fsqrt f => Sys2Proof.Machine.execFsqrt f s
  | .fexp2 f => Sys2Proof.Machine.execFexp2 f s
  | .flog2 f => Sys2Proof.Machine.execFlog2 f s
  | .fsin f => Sys2Proof.Machine.execFsin f s
  | .fcos f => Sys2Proof.Machine.execFcos f s
  | .ftanh f => Sys2Proof.Machine.execFtanh f s
  | .cvtS32F32 f => Sys2Proof.Machine.execCvtS32F32 f s
  | .cvtU32F32 f => Sys2Proof.Machine.execCvtU32F32 f s
  | .cvtF32S32 f => Sys2Proof.Machine.execCvtF32S32 f s
  | .cvtF32U32 f => Sys2Proof.Machine.execCvtF32U32 f s
  | .cvtBf16F32 f => Sys2Proof.Machine.execCvtBf16F32 f s
  | .cvtF32Bf16 f => Sys2Proof.Machine.execCvtF32Bf16 f s
  | .cvtF16F32 f => Sys2Proof.Machine.execCvtF16F32 f s
  | .cvtF32F16 f => Sys2Proof.Machine.execCvtF32F16 f s
  | .cvtE4m3F32 f => Sys2Proof.Machine.execCvtE4m3F32 f s
  | .cvtF32E4m3 f => Sys2Proof.Machine.execCvtF32E4m3 f s
  | .cvtE5m2F32 f => Sys2Proof.Machine.execCvtE5m2F32 f s
  | .cvtF32E5m2 f => Sys2Proof.Machine.execCvtF32E5m2 f s
  | .badd2 f => Sys2Proof.Machine.execBadd2 f s
  | .bmul2 f => Sys2Proof.Machine.execBmul2 f s
  | .bfma2 f => Sys2Proof.Machine.execBfma2 f s
  | .padd2 f => Sys2Proof.Machine.execPadd2 f s
  | .padd2S f => Sys2Proof.Machine.execPadd2S f s
  | .psub2 f => Sys2Proof.Machine.execPsub2 f s
  | .psub2S f => Sys2Proof.Machine.execPsub2S f s
  | .pmul2 f => Sys2Proof.Machine.execPmul2 f s
  | .pmac2 f => Sys2Proof.Machine.execPmac2 f s
  | .srar f => Sys2Proof.Machine.execSrar f s
  | .srarH f => Sys2Proof.Machine.execSrarH f s
  | .shfl f => Sys2Proof.Machine.execShfl f s
  | .slup f => Sys2Proof.Machine.execSlup f s
  | .sldn f => Sys2Proof.Machine.execSldn f s
  | .cmprs f => Sys2Proof.Machine.execCmprs f s
  | .expnd f => Sys2Proof.Machine.execExpnd f s
  | .voteAll f => Sys2Proof.Machine.execVoteAll f s
  | .voteAny f => Sys2Proof.Machine.execVoteAny f s
  | .voteBal f => Sys2Proof.Machine.execVoteBal f s
  | .reduxAdd f => Sys2Proof.Machine.execReduxAdd f s
  | .reduxMin f => Sys2Proof.Machine.execReduxMin f s
  | .reduxMax f => Sys2Proof.Machine.execReduxMax f s
  | .reduxAnd f => Sys2Proof.Machine.execReduxAnd f s
  | .reduxOr f => Sys2Proof.Machine.execReduxOr f s
  | .scanAdd f => Sys2Proof.Machine.execScanAdd f s
  | .scanMax f => Sys2Proof.Machine.execScanMax f s
  | .pand f => Sys2Proof.Machine.execPand f s
  | .por f => Sys2Proof.Machine.execPor f s
  | .pxor f => Sys2Proof.Machine.execPxor f s
  | .pnot f => Sys2Proof.Machine.execPnot f s
  | .ptos f => Sys2Proof.Machine.execPtos f s
  | .pset f => Sys2Proof.Machine.execPset f s
  | .ldUniform f => Sys2Proof.Machine.execLdUniform f s
  | .stUniform f => Sys2Proof.Machine.execStUniform f s
  | .ld f => Sys2Proof.Machine.execLd f s
  | .ldb f => Sys2Proof.Machine.execLdb f s
  | .lda f => Sys2Proof.Machine.execLda f s
  | .st f => Sys2Proof.Machine.execSt f s
  | .strl f => Sys2Proof.Machine.execStrl f s
  | .ldw f => Sys2Proof.Machine.execLdw f s
  | .pref f => Sys2Proof.Machine.execPref f s
  | .cmntClean f => Sys2Proof.Machine.execCmntClean f s
  | .cmntInv f => Sys2Proof.Machine.execCmntInv f s
  | .cmntCinv f => Sys2Proof.Machine.execCmntCinv f s
  | .atomAddB32 f => Sys2Proof.Machine.execAtomAddB32 f s
  | .atomAndB32 f => Sys2Proof.Machine.execAtomAndB32 f s
  | .atomOrB32 f => Sys2Proof.Machine.execAtomOrB32 f s
  | .atomXorB32 f => Sys2Proof.Machine.execAtomXorB32 f s
  | .atomMinB32 f => Sys2Proof.Machine.execAtomMinB32 f s
  | .atomMinUB32 f => Sys2Proof.Machine.execAtomMinUB32 f s
  | .atomMaxB32 f => Sys2Proof.Machine.execAtomMaxB32 f s
  | .atomMaxUB32 f => Sys2Proof.Machine.execAtomMaxUB32 f s
  | .atomExchB32 f => Sys2Proof.Machine.execAtomExchB32 f s
  | .atomCasB32 f => Sys2Proof.Machine.execAtomCasB32 f s
  | .atomFaddB32 f => Sys2Proof.Machine.execAtomFaddB32 f s
  | .atomAddB64 f => Sys2Proof.Machine.execAtomAddB64 f s
  | .atomAndB64 f => Sys2Proof.Machine.execAtomAndB64 f s
  | .atomOrB64 f => Sys2Proof.Machine.execAtomOrB64 f s
  | .atomXorB64 f => Sys2Proof.Machine.execAtomXorB64 f s
  | .atomMinB64 f => Sys2Proof.Machine.execAtomMinB64 f s
  | .atomMinUB64 f => Sys2Proof.Machine.execAtomMinUB64 f s
  | .atomMaxB64 f => Sys2Proof.Machine.execAtomMaxB64 f s
  | .atomMaxUB64 f => Sys2Proof.Machine.execAtomMaxUB64 f s
  | .atomExchB64 f => Sys2Proof.Machine.execAtomExchB64 f s
  | .atomCasB64 f => Sys2Proof.Machine.execAtomCasB64 f s
  | .atomnAddB32 f => Sys2Proof.Machine.execAtomnAddB32 f s
  | .atomnAndB32 f => Sys2Proof.Machine.execAtomnAndB32 f s
  | .atomnOrB32 f => Sys2Proof.Machine.execAtomnOrB32 f s
  | .atomnXorB32 f => Sys2Proof.Machine.execAtomnXorB32 f s
  | .atomnMinB32 f => Sys2Proof.Machine.execAtomnMinB32 f s
  | .atomnMinUB32 f => Sys2Proof.Machine.execAtomnMinUB32 f s
  | .atomnMaxB32 f => Sys2Proof.Machine.execAtomnMaxB32 f s
  | .atomnMaxUB32 f => Sys2Proof.Machine.execAtomnMaxUB32 f s
  | .atomnExchB32 f => Sys2Proof.Machine.execAtomnExchB32 f s
  | .atomnCasB32 f => Sys2Proof.Machine.execAtomnCasB32 f s
  | .atomnFaddB32 f => Sys2Proof.Machine.execAtomnFaddB32 f s
  | .atomnAddB64 f => Sys2Proof.Machine.execAtomnAddB64 f s
  | .atomnAndB64 f => Sys2Proof.Machine.execAtomnAndB64 f s
  | .atomnOrB64 f => Sys2Proof.Machine.execAtomnOrB64 f s
  | .atomnXorB64 f => Sys2Proof.Machine.execAtomnXorB64 f s
  | .atomnMinB64 f => Sys2Proof.Machine.execAtomnMinB64 f s
  | .atomnMinUB64 f => Sys2Proof.Machine.execAtomnMinUB64 f s
  | .atomnMaxB64 f => Sys2Proof.Machine.execAtomnMaxB64 f s
  | .atomnMaxUB64 f => Sys2Proof.Machine.execAtomnMaxUB64 f s
  | .atomnExchB64 f => Sys2Proof.Machine.execAtomnExchB64 f s
  | .atomnCasB64 f => Sys2Proof.Machine.execAtomnCasB64 f s
  | .fence f => Sys2Proof.Machine.execFence f s
  | .monarm f => Sys2Proof.Machine.execMonarm f s
  | .monwait f => Sys2Proof.Machine.execMonwait f s
  | .tmma f => Sys2Proof.Machine.execTmma f s
  | .tzero f => Sys2Proof.Machine.execTzero f s
  | .trd f => Sys2Proof.Machine.execTrd f s
  | .twr f => Sys2Proof.Machine.execTwr f s
  | .tbatch f => Sys2Proof.Machine.execTbatch f s
  | .twait f => Sys2Proof.Machine.execTwait f s
  | .tdrain f => Sys2Proof.Machine.execTdrain f s
  | .tdrainAdd f => Sys2Proof.Machine.execTdrainAdd f s
  | .txbegin f => Sys2Proof.Machine.execTxbegin f s
  | .txend => Sys2Proof.Machine.execTxend s
  | .txabort => Sys2Proof.Machine.execTxabort s
  | .rlystart f => Sys2Proof.Machine.execRlystart f s
  | .cpy f => Sys2Proof.Machine.execCpy f s
  | .chain f => Sys2Proof.Machine.execChain f s
  | .rly f => Sys2Proof.Machine.execRly f s
  | .cpywait f => Sys2Proof.Machine.execCpywait f s
  | .rlywait f => Sys2Proof.Machine.execRlywait f s
  | .bra f => Sys2Proof.Machine.execBra f s
  | .bdiv f => Sys2Proof.Machine.execBdiv f s
  | .call f => Sys2Proof.Machine.execCall f s
  | .rcv => Sys2Proof.Machine.execRcv s
  | .ret f => Sys2Proof.Machine.execRet f s
  | .brx f => Sys2Proof.Machine.execBrx f s
  | .callx f => Sys2Proof.Machine.execCallx f s
  | .exit => Sys2Proof.Machine.execExit s
  | .nop => Sys2Proof.Machine.execNop s
  | .yield => Sys2Proof.Machine.execYield s
  | .loop f => Sys2Proof.Machine.execLoop f s
  | .bar f => Sys2Proof.Machine.execBar f s
  | .bara f => Sys2Proof.Machine.execBara f s
  | .barw f => Sys2Proof.Machine.execBarw f s
  | .heat f => Sys2Proof.Machine.execHeat f s
  | .srd f => Sys2Proof.Machine.execSrd f s
  | .swr f => Sys2Proof.Machine.execSwr f s
  | .trap f => Sys2Proof.Machine.execTrap f s
  | .tretRetry => Sys2Proof.Machine.execTretRetry s
  | .tretNext => Sys2Proof.Machine.execTretNext s
  | .tretFix => Sys2Proof.Machine.execTretFix s
  | .clk f => Sys2Proof.Machine.execClk f s
  | .sigchk f => Sys2Proof.Machine.execSigchk f s
  | .himm f => Sys2Proof.Machine.execHimm f s
  | .hsched f => Sys2Proof.Machine.execHsched f s
  | .hmodCache f => Sys2Proof.Machine.execHmodCache f s
  | .hmodRound f => Sys2Proof.Machine.execHmodRound f s
  | .hmodQueue f => Sys2Proof.Machine.execHmodQueue f s
  | .hmodCount f => Sys2Proof.Machine.execHmodCount f s
  | .hmodScope f => Sys2Proof.Machine.execHmodScope f s
  | .live f => Sys2Proof.Machine.execLive f s
  | .workRead l => Sys2Proof.Machine.execWorkRead l s
  | .pacerqWrite g => Sys2Proof.Machine.execPacerqWrite g s
  | .pacerqReservationExpiry g => Sys2Proof.Machine.execPacerqReservationExpiry g s
  | .monwaitTimeout g => Sys2Proof.Machine.execMonwaitTimeout g s
  | .loadDataReturn n => Sys2Proof.Machine.execLoadDataReturn n s
  | .atomicReply n rejected => Sys2Proof.Machine.execAtomicReply n rejected s
  | .walkComplete n => Sys2Proof.Machine.execWalkComplete n s
  | .batchEnter g => Sys2Proof.Machine.execBatchEnter g s
  | .batchFinish g => Sys2Proof.Machine.execBatchFinish g s
  | .txCommit item => Sys2Proof.Machine.execTxCommit item s
  | .engineTransferComplete x => Sys2Proof.Machine.execEngineTransferComplete x s
  | .relayChunkArrive c dst chunk src => Sys2Proof.Machine.execRelayChunkArrive c dst chunk src s
  | .reduceBlockComplete c dst chunk => Sys2Proof.Machine.execReduceBlockComplete c dst chunk s
  | .relayInstanceStart c rank => Sys2Proof.Machine.execRelayInstanceStart c rank s
  | .heatBoundary l level inst => Sys2Proof.Machine.execHeatBoundary l level inst s
  | .groupEnd g => Sys2Proof.Machine.execGroupEnd g s
  | .submissionDoorbell q v => Sys2Proof.Machine.execSubmissionDoorbell q v s
  | .completionHeadDoorbell q v => Sys2Proof.Machine.execCompletionHeadDoorbell q v s
  | .go v => Sys2Proof.Machine.execGo v s
  | .barRegisterWrite off data => Sys2Proof.Machine.execBarRegisterWrite off data s
  | .bar2Access write off data => Sys2Proof.Machine.execBar2Access write off data s
  | .bar2Atomic op width off x y => Sys2Proof.Machine.execBar2Atomic op width off x y s
  | .graphNodeRegister q => Sys2Proof.Machine.execGraphNodeRegister q s
  | .launch => Sys2Proof.Machine.execLaunch s
  | .packetBadKind q => Sys2Proof.Machine.execPacketBadKind q s
  | .workItemPlace => Sys2Proof.Machine.execWorkItemPlace s
  | .quantumSliceExpiry item => Sys2Proof.Machine.execQuantumSliceExpiry item s
  | .preemptFallback g => Sys2Proof.Machine.execPreemptFallback g s
  | .saveComplete item => Sys2Proof.Machine.execSaveComplete item s
  | .workItemRestore item => Sys2Proof.Machine.execWorkItemRestore item s
  | .watchdogPark g => Sys2Proof.Machine.execWatchdogPark g s
  | .launchComplete l => Sys2Proof.Machine.execLaunchComplete l s
  | .pacerGrant die => Sys2Proof.Machine.execPacerGrant die s
  | .pacerRecompute => Sys2Proof.Machine.execPacerRecompute s
  | .partReset => Sys2Proof.Machine.execPartReset s
  | .firstFullSample r => Sys2Proof.Machine.execFirstFullSample r s
  | .sensorSample r => Sys2Proof.Machine.execSensorSample r s
  | .sensorTimeout pos idx => Sys2Proof.Machine.execSensorTimeout pos idx s
  | .coldHoldExpiry => Sys2Proof.Machine.execColdHoldExpiry s
  | .classChangeIssueStop => Sys2Proof.Machine.execClassChangeIssueStop s
  | .classChangeIssueResume => Sys2Proof.Machine.execClassChangeIssueResume s
  | .pseudoChannelRetrainDone => Sys2Proof.Machine.execPseudoChannelRetrainDone s
  | .wsWindowBegin die => Sys2Proof.Machine.execWsWindowBegin die s
  | .wsWindowEnd die => Sys2Proof.Machine.execWsWindowEnd die s
  | .retentionPatrol stack corrected => Sys2Proof.Machine.execRetentionPatrol stack corrected s
  | .errorDetected hist unit bucket => Sys2Proof.Machine.execErrorDetected hist unit bucket s
  | .uncorrectableError c unit => Sys2Proof.Machine.execUncorrectableError c unit s
  | .histogramWrite => Sys2Proof.Machine.execHistogramWrite s
  | .dieLinkDown link => Sys2Proof.Machine.execDieLinkDown link s
  | .regionMoveComplete region => Sys2Proof.Machine.execRegionMoveComplete region s
  | .dieOfflineComplete => Sys2Proof.Machine.execDieOfflineComplete s
  | .stridePortDown port => Sys2Proof.Machine.execStridePortDown port s
  | .stridePortUp p => Sys2Proof.Machine.execStridePortUp p s
  | .linkStateUpdate u => Sys2Proof.Machine.execLinkStateUpdate u s
  | .strideResendTimeout seq => Sys2Proof.Machine.execStrideResendTimeout seq s
  | .strideFlitReceive port flit => Sys2Proof.Machine.execStrideFlitReceive port flit s
  | .ultraEthernetPacket p => Sys2Proof.Machine.execUltraEthernetPacket p s
  | .offline src die => Sys2Proof.Machine.execOffline src die s
  | .offlineForced src die => Sys2Proof.Machine.execOfflineForced src die s
  | .restore src die => Sys2Proof.Machine.execRestore src die s
  | .loadWindow src dies va off len => Sys2Proof.Machine.execLoadWindow src dies va off len s
  | .loadWindowCopy => Sys2Proof.Machine.execLoadWindowCopy s
  | .loadWindowClose => Sys2Proof.Machine.execLoadWindowClose s
  | .regQueue src r => Sys2Proof.Machine.execRegQueue src r s
  | .queueUnregister src q => Sys2Proof.Machine.execQueueUnregister src q s
  | .regAsid src asid root => Sys2Proof.Machine.execRegAsid src asid root s
  | .asidRelease src asid => Sys2Proof.Machine.execAsidRelease src asid s
  | .invalidate src asid va len => Sys2Proof.Machine.execInvalidate src asid va len s
  | .invalidateComplete n => Sys2Proof.Machine.execInvalidateComplete n s
  | .faultAnswerResolve src recid => Sys2Proof.Machine.execFaultAnswerResolve src recid s
  | .faultAnswerDecline src recid => Sys2Proof.Machine.execFaultAnswerDecline src recid s
  | .resume src core slot => Sys2Proof.Machine.execResume src core slot s
  | .killGroup src core slot => Sys2Proof.Machine.execKillGroup src core slot s
  | .killLaunch src core slot => Sys2Proof.Machine.execKillLaunch src core slot s
  | .resumeSplit src core slot => Sys2Proof.Machine.execResumeSplit src core slot s
  | .warmUp src => Sys2Proof.Machine.execWarmUp src s
  | .cancel src => Sys2Proof.Machine.execCancel src s
  | .safeExit src => Sys2Proof.Machine.execSafeExit src s
  | .rampClear src => Sys2Proof.Machine.execRampClear src s
  | .pacerCap src v => Sys2Proof.Machine.execPacerCap src v s
  | .pacerDidt src v => Sys2Proof.Machine.execPacerDidt src v s
  | .pacerOrder src v => Sys2Proof.Machine.execPacerOrder src v s
  | .wdog src ms => Sys2Proof.Machine.execWdog src ms s
  | .historyClear src => Sys2Proof.Machine.execHistoryClear src s
  | .telemetry src base slots => Sys2Proof.Machine.execTelemetry src base slots s
  | .framePool src list count => Sys2Proof.Machine.execFramePool src list count s
  | .countdown src node => Sys2Proof.Machine.execCountdown src node s
  | .errThresh src hist thresh => Sys2Proof.Machine.execErrThresh src hist thresh s
  | .nodecfg src pkg node compat => Sys2Proof.Machine.execNodecfg src pkg node compat s
  | .mgmtBadReq r => Sys2Proof.Machine.execMgmtBadReq r s
  | .getVersion => Sys2Proof.Machine.execGetVersion s
  | .getCapabilities => Sys2Proof.Machine.execGetCapabilities s
  | .negotiateAlgorithms => Sys2Proof.Machine.execNegotiateAlgorithms s
  | .getDigests => Sys2Proof.Machine.execGetDigests s
  | .getCertificate slot offset len => Sys2Proof.Machine.execGetCertificate slot offset len s
  | .challenge slot => Sys2Proof.Machine.execChallenge slot s
  | .getMeasurements index => Sys2Proof.Machine.execGetMeasurements index s
  | .spdmUnsupportedRequest code => Sys2Proof.Machine.execSpdmUnsupportedRequest code s
  | .illegalEncoding w => Sys2Proof.Machine.execIllegalEncoding w s
  | .reHarvestService r => Sys2Proof.Machine.execReHarvestService r s
  | .firmwareUpdate fw => Sys2Proof.Machine.execFirmwareUpdate fw s

end Sys2Proof.Machine
end

