-- ==== Sys2Proof/Machine/Agents.lean ====
section
/-! DEFINITION. What each agent of the machine does when its turn comes (assumption 1): a group that issues, an entry
of the agenda, a step the part takes by itself, the passing of time. -/

namespace Sys2Proof.Machine

/-! ### A group issues -/

/-- The priority of a group: that of its launch (03 R74). -/
def groupPrio (s : State) (gid : Nat) : Nat :=
  match grp s gid with
  | some g => ((kfind s.run.launches g.launch).getD Launch.fresh).pkt.prio
  | none => 0

/-- A group's place in `ctl.turns`: its core and priority. -/
def turnKey (s : State) (gid : Nat) : Nat := gid / 32 * 256 + groupPrio s gid

/-- The group that executes, which is the last of its core and priority to issue (03 R74). -/
def setCur (s : State) (gid : Nat) : State :=
  { s with ctl := { s.ctl with cur := gid, turns := kins s.ctl.turns (turnKey s gid) (gid % 32) } }

/-- What the group of `ctl.cur` does with what its fetch found (07 R162; 06 R135; 14 R298). -/
def runFetched (s : State) (gid : Nat) (g : Group) : Fetched → Host.Outcome State Fault Refusal
  | .instr i => exec i (noteFetchAt s (who s gid g) g.pc)
  | .illegal w => execIllegalEncoding w (noteFetchAt s (who s gid g) g.pc)
  | .fault h va => .next (fetchFault s gid g h va)

/-- One instruction of the group in a slot: fetched, decoded, executed. A trap that is due is taken first (03 R66). -/
def groupStep (gid : Nat) (s : State) : Host.Outcome State Fault Refusal :=
  match grp s gid with
  | none => .next s
  | some g =>
    if g.stat ≠ .run ∨ issueStopped s then .next s
    else match g.trapDue with
    | some t => .next (takeTrap s gid { g with trapDue := none } t)
    | none => runFetched (setCur s gid) gid g (fetchAt (setCur s gid) (who (setCur s gid) gid g) g.pc)

/-! ### Time -/

/-- The 1 µs windows of the di/dt limit after the clock goes from one cycle count to another (10 R227). -/
def rollWindows (mhz old new : Nat) (w : KMap (Nat × Nat)) : KMap (Nat × Nat) :=
  match new / mhz - old / mhz with
  | 0 => w
  | 1 => w.map fun e => (e.1, (e.2.2, 0))
  | _ => []

/-- AC cycles pass: the clock, the time in SI units, the Pacer's accounts, the di/dt windows. -/
def passTime (s : State) (n : Nat) : State :=
  let w := rollWindows (acMhz s.part.cryo.cls) s.ctl.acct (s.ctl.clk + n) s.host.window
  let d := s.ctl.clk + n - s.ctl.acct
  let s := timeAt s (s.ctl.clk + n)
  let s := { s with ctl := { s.ctl with acct := s.ctl.clk } }
  refill (setHost s { s.host with window := w }) d

/-! ### The part's own steps -/

/-- The most records that a management request posts to queue 0's ring: an event of each link and of each parked save, one of
a die, and its completion. -/
def mgmtPosts (s : State) : Nat := 26 + (s.mem.faults.map fun e => e.2.agents.length).sum

/-- A management request is taken (13 R278), once the rings that it may post to can take its records (13 R275), and no
engine transfer owns a line of the list that it reads (07 R156). -/
def takeMgmt (s : State) : Host.Outcome State Fault Refusal :=
  match s.host.mgmt with
  | [] => .next s
  | m :: t => if srcCan s m.src && canPosts s 0 (mgmtPosts s) && !listOwned s m then runMgmt m (setHost s { s.host with mgmt := t }) else .next s

/-- The oldest buffered write that the cores' ports hold is performed (07 R148). -/
def performAt (s : State) (n : Nat) : State :=
  match s.mem.ports[n]? with
  | some w => drainWhere s fun x => x == w
  | none => s

/-- The lanes of a host atomic whose page answers no AtomicOp (06 R138; 13 R280). -/
def rejectedLanes (s : State) (f : Flight) : Mask :=
  match f.host with
  | some (_, _, hs) => maskOf fun l => hs.any fun h => h.lane == l && s.mem.aborts.contains (h.addr / 4096)
  | none => 0

/-- A step the part takes by itself. -/
abbrev Own := State → Host.Outcome State Fault Refusal

/-- The front end: management packets, host accesses that waited, packets, launches, placement. -/
def frontSteps (s : State) : List Own :=
  [takeMgmt, fun s => .next (serveStalled s.host.stalled.length s), fun s => .next (postDoors s.host.doors.length s)]
    ++ (s.host.queues.map fun e => execGraphNodeRegister e.1)
    ++ (s.host.queues.map fun e => execPacketBadKind e.1)
    ++ [execLaunch, execLoadWindowCopy, execLoadWindowClose]
    ++ (s.mem.invals.map fun i => execInvalidateComplete i.id)

/-- Translation and data on their way. -/
def memorySteps (s : State) : List Own :=
  (s.mem.walks.map fun w => execWalkComplete w.id)
    ++ s.run.flights.map fun f =>
      if f.atomic then execAtomicReply f.id (rejectedLanes s f) else execLoadDataReturn f.id

/-- Engines, collectives, batches, leave. -/
def engineSteps (s : State) : List Own :=
  ((List.range s.part.dies.length).map fun d => execPacerGrant d)
    ++ (s.run.groups.flatMap fun e => [execPacerqWrite e.1, execBatchEnter e.1, execBatchFinish e.1])
    ++ (s.run.colls.flatMap fun k => k.parts.map fun p => execRelayInstanceStart k.id p.rank)
    ++ (s.run.xfers.map fun x => execEngineTransferComplete x.id)
    ++ [fun s => .next (relayNext s)] ++ (s.part.stride.inbox.map fun f => relayTake (flitSrc f))

/-- Every chunk of a collective that may arrive, and every reduce block that may complete. -/
def relaySteps (s : State) : List Own :=
  s.run.colls.flatMap fun k =>
    ((List.range k.n).flatMap fun dst => (List.range (chunkCount k.shape k.n)).flatMap fun c =>
      (List.range k.n).map fun src => execRelayChunkArrive k.id dst c ⟨src, []⟩)
    ++ (List.range k.n).flatMap fun dst => (List.range (chunkCount k.shape k.n)).map fun c =>
      execReduceBlockComplete k.id dst c

/-- Transactions, heats, ends of groups and launches, WORK. -/
def itemSteps (s : State) : List Own :=
  (s.run.launches.flatMap fun e =>
      execWorkRead e.1 :: e.2.heats.map fun h => execHeatBoundary e.1 h.level h.inst)
    ++ (s.run.items.map fun e => execTxCommit e.1)
    ++ (s.run.groups.map fun e => execGroupEnd e.1)
    ++ s.run.launches.map fun e => execLaunchComplete e.1

/-- The AC cycle at which a group's MONWAIT times out, while it waits (17 R379). -/
def monDue (g : Group) : Option Nat :=
  if g.stat == .run && g.wait == some .monwait && !g.monTimeout then g.monEnd else none

/-- The AC cycle at which a group's held reservation is returned (10 R228). -/
def reserveDue (g : Group) : Option Nat := g.pq.held.map fun _ => g.pq.since + 2 ^ 16

/-- A step that waits for an AC cycle. -/
def whenDue (n : Option Nat) (f : Own) (s : State) : Host.Outcome State Fault Refusal :=
  if n.any fun k => decide (k ≤ s.ctl.clk) then f s else .next s

/-- What the AC cycle count brings to the groups. -/
def timeSteps (s : State) : List Own :=
  (s.run.groups.map fun e => whenDue (monDue e.2) (execMonwaitTimeout e.1))
    ++ s.run.groups.map fun e => whenDue (reserveDue e.2) (execPacerqReservationExpiry e.1)

/-- The AC cycles until an item's time to the fallback is over (11 R248; 02 R37). -/
def fallbackGap (s : State) (i : Item) : Option Nat :=
  i.preempt.map fun _ => s.ctl.clk + (i.asked + 50 * siUnits - s.ctl.si + siOf s 1 - 1) / siOf s 1

/-- The AC cycles from now to the next one that something waits for; one when nothing does. -/
def idleGap (s : State) : Nat :=
  let ns := (s.run.groups.filterMap fun e => monDue e.2) ++ (s.run.groups.filterMap fun e => reserveDue e.2)
    ++ (s.run.items.map fun e => e.2.placed + 2 ^ 20)
    ++ s.run.items.filterMap fun e => fallbackGap s e.2
  match (ns.filter fun n => decide (s.ctl.clk < n)).min? with
  | some n => n - s.ctl.clk
  | none => 1

/-- Placement, pre-emption, the watchdog. -/
def placeSteps (s : State) : List Own :=
  [execWorkItemPlace]
    ++ (s.run.items.flatMap fun e => [execSaveComplete e.1, execWorkItemRestore e.1, execQuantumSliceExpiry e.1])
    ++ s.run.groups.flatMap fun e => [execPreemptFallback e.1, execWatchdogPark e.1]

/-- Cold operation and dies. -/
def partSteps (s : State) : List Own :=
  [execColdHoldExpiry, execClassChangeIssueStop, execClassChangeIssueResume, execDieOfflineComplete]
    ++ s.part.off.flatMap fun o => o.regions.map fun r => execRegionMoveComplete r

/-- The step changed more than the model's own counters. -/
def moved (s t : State) : Bool := !(decide (s.mem = t.mem ∧ s.run = t.run ∧ s.part = t.part ∧ s.host = t.host))

/-- The outcome of the first of some steps that does anything. -/
def firstMove (s : State) : List Own → Option (Host.Outcome State Fault Refusal)
  | [] => none
  | f :: t =>
    match f s with
    | .next s' => if moved s s' then some (.next s') else firstMove s t
    | o => some o

/-- The next of the part's own steps. -/
def ownMove (s : State) : Option (Host.Outcome State Fault Refusal) :=
  [frontSteps, memorySteps, engineSteps, relaySteps, itemSteps, timeSteps, placeSteps, partSteps].findSome? fun f =>
    firstMove s (f s)

/-! ### Whose turn it is -/

/-- The group can use an issue slot now: its step does more than note what it waits for. -/
def groupReady (s : State) (gid : Nat) : Bool :=
  (grp s gid).any fun g => match groupStep gid s with
    | .next t => moved s (modGrp t gid fun h => { h with wait := g.wait })
    | _ => true

/-- How far a group stands from its turn among those of its core and priority (03 R74). -/
def turnDist (s : State) (gid : Nat) : Nat := (gid % 32 + 31 - kget 31 s.ctl.turns (turnKey s gid)) % 32

/-- Another group of the core comes before a group: one of higher priority, or one of the same whose turn is sooner (03
R74). -/
def comesBefore (s : State) (gid k : Nat) : Bool :=
  k / 32 == gid / 32 && (decide (groupPrio s gid < groupPrio s k)
    || (groupPrio s k == groupPrio s gid && decide (turnDist s k < turnDist s gid)))

/-- A ready group of the core comes before a group, and takes the slot (03 R74). -/
def outranked (s : State) (gid : Nat) : Bool :=
  (kkeys s.run.groups).any fun k => comesBefore s gid k && groupReady s k

/-- The groups in slot order, from the one after the last that issued. -/
def issueOrder (s : State) : List Nat :=
  let ks := kkeys s.run.groups
  (ks.filter fun k => decide (s.ctl.rr < k)) ++ ks.filter fun k => decide (k ≤ s.ctl.rr)

/-- After the step of a group: an AC cycle passes, the next turn is that of the group after it, and with every round
of the groups a buffered write is performed. -/
def endTurn (gid rr : Nat) (s : State) : State :=
  let t := passTime (if gid ≤ rr then performAt s 0 else s) 1
  { t with ctl := { t.ctl with rr := gid } }

/-- The step of a group that the agenda names: it gives way to a ready group that comes before it (03 R74). -/
def issueTurn (gid : Nat) (s : State) : Host.Outcome State Fault Refusal :=
  if outranked s gid then .next s else groupStep gid s

/-- The step of a group whose turn comes up by itself. -/
def groupTurn (gid : Nat) (s : State) : Host.Outcome State Fault Refusal :=
  match issueTurn gid s with
  | .next t => .next (if moved s t then endTurn gid s.ctl.rr t else s)
  | o => o

/-- When nothing else moves: a buffered write is performed. -/
def idleSteps (_ : State) : List Own := [fun s => .next (performAt s 0)]

/-- A step without an agenda: the part's own steps, then the groups in turn, then what is left. -/
def selfStep (s : State) : Host.Outcome State Fault Refusal :=
  match ownMove s with
  | some o => o
  | none =>
    match firstMove s ((issueOrder s).map groupTurn) with
    | some o => o
    | none => (firstMove s (idleSteps s)).getD (.next (passTime s (idleGap s)))

/-- A superblock of four lines leaves a core's L1: the one of a line (06 R124). -/
def evictLine (s : State) (core line : Nat) : State := evictL1 s core (line / 4)

/-- A load of a group performs ahead of its turn (07 R144, R146; assumption 38): the 8 bytes of HBM or scratchpad that
hold an address, when no engine transfer owns them. -/
def readAhead (s : State) (gid va : Nat) : State :=
  match grp s gid with
  | none => s
  | some g =>
    let w := who s gid g
    match resolve s w .load (va / 8 * 8) 8 with
    | .ok l _ =>
      if g.stat ≠ .run ∨ issueStopped s ∨ ownedLoc s l 8 then s
      else match l with
        | .hbm _ => modGrp s gid fun g => { g with ahead := kins g.ahead (locKey l / 8) (readLoc s w ⟨false, false, false⟩ l 8) }
        | .scr _ _ => modGrp s gid fun g => { g with ahead := kins g.ahead (locKey l / 8) (readLoc s w ⟨false, false, false⟩ l 8) }
        | _ => s
    | _ => s

/-- The front end reads a line of HBM into its read buffers (07 R150, R152; assumption 57). -/
def frontRead (s : State) (pa : Nat) : State :=
  if !hostReach s (pa / 128 * 128) 128 || ownedLoc s (.hbm (pa / 128 * 128)) 128 then s
  else setHost s { s.host with febuf := kins s.host.febuf (pa / 128) (readHbm s.mem (pa / 128 * 128) 128, []) }

/-- An entry of the agenda. -/
def runTurn (s : State) : Turn → Host.Outcome State Fault Refusal
  | .event i => exec i s
  | .issue gid => issueTurn gid s
  | .tick n => .next (passTime s n)
  | .perform n => .next (performAt s n)
  | .evict core line => .next (evictLine s core line)
  | .evictHome block => .next (evictHome s block)
  | .evictGuest die block => .next (evictGuest s die block)
  | .readAhead gid va => .next (readAhead s gid va)
  | .frontRead pa => .next (frontRead s pa)
  | .frontDrop line => .next (dropFront s [line])
  | .barRead off n => .next (barRead s off n)
  | .hostWrite a bs => .next (setMem s { s.mem with host := writeCells s.mem.host a bs })
  | .hostPage p answers => .next (setMem s { s.mem with
      aborts := if answers then s.mem.aborts.filter (fun q => !(q == p)) else s.mem.aborts ++ [p] })

/-! ### Placing an instruction where the next step fetches -/

/-- The image of the launch that `withFetchWord` installs: one group of 64 lanes on one core. -/
def placeImage : Image :=
  { Image.zero with
    entry := 0
    levels := [⟨1, 64, 1, 64⟩]
    vfoot := 48
    sfoot := 63
    afoot := 4
    scratch := 131072
    rectW := 1
    rectH := 1 }

/-- Bytes of HBM written from a physical address. -/
def placeBytes (s : State) (pa : Nat) (bs : List Byte) : State := setMem s (writeHbm s.mem pa bs)

/-- ASID 0 with the 16 MiB page at address 0 mapped to physical 16 MiB, readable, writable and executable; its tables
lie at 0, 32 KiB and 64 KiB (06 R130, R131). -/
def placeTables (s : State) : State :=
  let table (pa next : Nat) (s : State) : State := placeBytes s pa (bytesLe 8 (1 + next))
  let leaf : Nat := 1 + 2 + 3 * 8 + 64 + 128 + 2 ^ 24
  let run (s : State) : State := (List.range 16).foldl (fun s k => placeBytes s (0x10000 + 8 * k) (bytesLe 8 leaf)) s
  let s := run (table 0x8000 0x10000 (table 0 0x8000 s))
  setMem s { s.mem with asids := kins s.mem.asids 0 0 }

/-- The launch, work item and group that `withFetchWord` installs; the group stands in slot 0 of core 0 with its PC
at 0, and the core's instruction cache and the translations of ASID 0 are empty. -/
def placeGroup (s : State) : State :=
  let n := s.ctl.serial
  let l : Launch := { Launch.fresh with
    img := placeImage
    pkt := { Packet.zero with lcount := 1 }
    stat := .bound
    nextItem := 1 }
  let i : Item := { Item.fresh with launch := n, cores := [0], gids := [0] }
  let s := dropAsid (flushIcache (bumpSerial s) 0) 0
  { s with run := { s.run with
    launches := kins s.run.launches n l
    items := kins s.run.items n i
    groups := kins s.run.groups 0 (startGroup l n n 0) } }

/-- The bytes of a number of `n` bits, and zeros behind them up to the longest instruction, at virtual address 0. -/
def placeCode (s : State) (nbits w : Nat) : State :=
  placeBytes s (2 ^ 24) (bytesLe 36 (w % 2 ^ nbits))

end Sys2Proof.Machine
end

