-- ==== Sys2Proof/Machine/Step.lean ====
section
/-! DEFINITION. One step of the machine, and the state whose next step fetches a given instruction. -/

namespace Sys2Proof.Machine

/-- One step (assumption 1): the first entry of the agenda, or, without an agenda, what the machine does by itself. -/
def step (s : State) : Host.Outcome State Fault Refusal :=
  match s.ctl.agenda with
  | t :: rest => runTurn { s with ctl := { s.ctl with agenda := rest } } t
  | [] => selfStep s

/-- The state with an instruction stored where the next step fetches (assumption 1): a launch bound and placed, and its
group first on the agenda. -/
def State.withFetchWord (s : State) (nbits w : Nat) : State :=
  let s := placeCode (placeTables (placeGroup s)) nbits w
  { s with ctl := { s.ctl with agenda := [.issue 0] } }

end Sys2Proof.Machine
end

