-- ==== Sys2Proof/Rounding.lean ====
section
/-! DEFINITION. What it means that a floating-point result is an exact number rounded once (05 R94, R96, R97, R100, R103
to R105), said with rational and real numbers and apart from the algorithms of Machine/Float.lean. -/

namespace Sys2Proof.Machine

/-- An operand or a result before rounding: a NaN (`nv`: it raises NV), an infinity (`dz`: it raises DZ), or an exact
number with the sign it takes where it is zero. -/
inductive ExactVal where
  | nan (nv : Bool)
  | inf (neg dz : Bool)
  | num (neg : Bool) (x : ℚ)
  deriving DecidableEq, Repr

/-- The sign bit of a code. -/
def codeNeg (f : Fmt) (c : Nat) : Bool := c.testBit (f.eb + f.fb)

/-- The number that a finite code holds (05 R94); none for an infinity and a NaN. -/
def codeNum (f : Fmt) (c : Nat) : Option ℚ :=
  let sign : ℚ := if codeNeg f c then -1 else 1
  let ex := c / 2 ^ f.fb % 2 ^ f.eb
  let fr := c % 2 ^ f.fb
  if ex = 0 then some (sign * (fr / 2 ^ f.fb) * 2 ^ (1 - (f.bias : ℤ)))
  else if ex = 2 ^ f.eb - 1 ∧ (f.ocp = false ∨ fr = 2 ^ f.fb - 1) then none
  else some (sign * (1 + fr / 2 ^ f.fb) * 2 ^ ((ex : ℤ) - f.bias))

/-- What a code holds: a NaN is signalling where its fraction's top bit is 0; E4M3 has no infinity and one quiet NaN
per sign (05 R94). -/
def codeVal (f : Fmt) (c : Nat) : ExactVal :=
  match codeNum f c with
  | some x => .num (codeNeg f c) x
  | none =>
    if f.ocp then .nan false
    else if c % 2 ^ f.fb = 0 then .inf (codeNeg f c) false
    else .nan (!c.testBit (f.fb - 1))

/-- In (05 R97): with FIN a subnormal source reads as a zero of its sign. -/
def inFormat (f : Fmt) (flush : Bool) (c : Nat) : Nat :=
  let k := c % 2 ^ (1 + f.eb + f.fb)
  if flush ∧ k / 2 ^ f.fb % 2 ^ f.eb = 0 then k / 2 ^ (f.eb + f.fb) * 2 ^ (f.eb + f.fb) else k

def ExactVal.isNan : ExactVal → Bool
  | .nan _ => true
  | _ => false

/-- The NaN of two operands of which one is a NaN: NV where one is signalling. -/
def ExactVal.nanOf (a b : ExactVal) : ExactVal := .nan (decide (a = .nan true) || decide (b = .nan true))

/-- The exact sum (05 R100): infinities of opposite signs are invalid; a zero sum of two zeros of one sign keeps it, and
any other exact zero sum is negative under RDN alone. -/
def ExactVal.add (rm : Rm) (a b : ExactVal) : ExactVal :=
  match a, b with
  | .inf n _, .inf k _ => if n = k then .inf n false else .nan true
  | .inf n _, .num _ _ => .inf n false
  | .num _ _, .inf n _ => .inf n false
  | .num n x, .num k y => .num (if n = k then n else decide (rm = .rdn)) (x + y)
  | a, b => a.nanOf b

/-- The exact product: 0 times infinity is invalid. -/
def ExactVal.mul (a b : ExactVal) : ExactVal :=
  match a, b with
  | .inf n _, .inf k _ => .inf (n != k) false
  | .inf n _, .num k y => if y = 0 then .nan true else .inf (n != k) false
  | .num n x, .inf k _ => if x = 0 then .nan true else .inf (n != k) false
  | .num n x, .num k y => .num (n != k) (x * y)
  | a, b => a.nanOf b

/-- The exact quotient: 0/0 and infinity over infinity are invalid, and a finite non-zero number over zero raises DZ. -/
def ExactVal.div (a b : ExactVal) : ExactVal :=
  match a, b with
  | .inf _ _, .inf _ _ => .nan true
  | .inf n _, .num k _ => .inf (n != k) false
  | .num n _, .inf k _ => .num (n != k) 0
  | .num n x, .num k y =>
    if y = 0 then if x = 0 then .nan true else .inf (n != k) true else .num (n != k) (x / y)
  | a, b => a.nanOf b

/-- The sign inverted: FSUB adds B so (16 R336). -/
def ExactVal.negate : ExactVal → ExactVal
  | .nan s => .nan s
  | .inf n d => .inf (!n) d
  | .num n x => .num (!n) (-x)

/-- a is below b: infinities lie beyond every number, and a NaN is below nothing. -/
def ExactVal.below (a b : ExactVal) : Bool :=
  match a, b with
  | .inf n _, .inf k _ => n && !k
  | .inf n _, .num _ _ => n
  | .num _ _, .inf k _ => !k
  | .num _ x, .num _ y => decide (x < y)
  | _, _ => false

/-- y is x rounded into the set S in a direction of 05 R97; E holds the even members, which win a tie. -/
def RoundsInto (S E : ℝ → Prop) (rm : Rm) (x y : ℝ) : Prop :=
  S y ∧ match rm with
    | .rne => ∀ z, S z → |x - y| ≤ |x - z| ∧ (|x - y| = |x - z| → z = y ∨ E y)
    | .rtz => 0 ≤ x * y ∧ |y| ≤ |x| ∧ ∀ z, S z → 0 ≤ x * z → |z| ≤ |x| → |z| ≤ |y|
    | .rdn => y ≤ x ∧ ∀ z, S z → z ≤ x → z ≤ y
    | .rup => x ≤ y ∧ ∀ z, S z → x ≤ z → y ≤ z

/-- The numbers of at most p significant bits, the exponent unbounded. -/
def Significant (p : Nat) (y : ℝ) : Prop := ∃ m e : ℤ, |m| < 2 ^ p ∧ y = m * 2 ^ e

/-- The numbers of at most p significant bits that are multiples of 2^q. -/
def OnGrid (p : Nat) (q : ℤ) (y : ℝ) : Prop := ∃ m e : ℤ, |m| < 2 ^ p ∧ q ≤ e ∧ y = m * 2 ^ e

/-- The integers and the even integers. -/
def Whole (y : ℝ) : Prop := ∃ k : ℤ, y = k
def WholeEven (y : ℝ) : Prop := ∃ k : ℤ, y = 2 * k

/-- The largest finite magnitude of a format (05 R94). -/
def Fmt.largest (f : Fmt) : ℚ :=
  if f.ocp then (2 - 2 / 2 ^ f.fb) * 2 ^ ((2 ^ f.eb - 1 : ℤ) - f.bias) else (2 - 1 / 2 ^ f.fb) * 2 ^ ((2 ^ f.eb - 2 : ℤ) - f.bias)

/-- The smallest normal of a format (05 R94). -/
def Fmt.smallest (f : Fmt) : ℚ := 2 ^ (1 - (f.bias : ℤ))

/-- Round(x, f, rm) and Out of 05 R100 for a non-zero x. `u` is x rounded with an unbounded exponent range: beyond the
largest finite it overflows, below the smallest normal it is tiny. Otherwise the code holds x rounded into the format,
with the sign of x; NX where that is not x, and UF besides where x is tiny. -/
def Rounds (f : Fmt) (rm : Rm) (flushOut : Bool) (x : ℝ) (r : FRes) : Prop :=
  ∃ u : ℝ, RoundsInto (Significant (f.fb + 1)) (Significant f.fb) rm x u
    ∧ ((f.largest : ℝ) < |u| → r.fl = 4 + 16 ∧ ∃ neg : Bool, (neg = true ↔ x < 0) ∧ r.v = overflowCode f rm neg)
    ∧ (|u| ≤ f.largest → |u| < f.smallest → flushOut = true →
        r.fl = 8 + 16 ∧ ∃ neg : Bool, (neg = true ↔ x < 0) ∧ r.v = signBit f neg)
    ∧ (|u| ≤ f.largest → (|u| < f.smallest → flushOut = false) →
        ∃ y : ℚ, RoundsInto (OnGrid (f.fb + 1) (1 - f.bias - f.fb)) (OnGrid f.fb (2 - f.bias - f.fb)) rm x y
          ∧ r.v < 2 ^ (1 + f.eb + f.fb) ∧ codeNum f r.v = some y ∧ (codeNeg f r.v = true ↔ x < 0)
          ∧ ((y : ℝ) = x → r.fl = 0)
          ∧ ((y : ℝ) ≠ x → (|u| < f.smallest → r.fl = 8 + 16) ∧ (f.smallest ≤ |u| → r.fl = 16)))

/-- The result of an operation whose exact value is e: a canonical NaN (05 R96), an infinity, a signed zero, or the
number rounded once. -/
def Gives (f : Fmt) (rm : Rm) (flushOut : Bool) (e : ExactVal) (r : FRes) : Prop :=
  match e with
  | .nan nv => r = ⟨nanCode f false, nv.toNat⟩
  | .inf neg dz => r = ⟨infCode f neg, if dz then 2 else 0⟩
  | .num neg x => (x = 0 → r = ⟨signBit f neg, 0⟩) ∧ (x ≠ 0 → Rounds f rm flushOut x r)

/-- FSQRT (05 R105): the root of -0 is -0, and of a number below zero it is invalid. -/
def RootIs (rm : Rm) (a : ExactVal) (r : FRes) : Prop :=
  match a with
  | .nan s => r = ⟨nanCode fp32 false, s.toNat⟩
  | .inf neg _ => r = if neg then ⟨nanCode fp32 false, 1⟩ else ⟨infCode fp32 false, 0⟩
  | .num neg x =>
    (x = 0 → r = ⟨signBit fp32 neg, 0⟩) ∧ (x < 0 → r = ⟨nanCode fp32 false, 1⟩)
    ∧ (0 < x → Rounds fp32 rm false (Real.sqrt x) r)

/-- The conditions of FCMP (16 R338). -/
def compares (cond : Nat) (a b : ExactVal) : Bool :=
  let un := a.isNan || b.isNan
  match cond with
  | 0 => !un && !a.below b && !b.below a
  | 1 => un || a.below b || b.below a
  | 2 => !un && a.below b
  | 3 => !un && !b.below a
  | 4 => !un && b.below a
  | 5 => !un && !a.below b
  | 6 => un
  | _ => !un

/-- The smaller (FMIN) or larger (FMAX) of two sources that are no NaN, -0 below +0 (16 R344). -/
def extremum (isMax : Bool) (a b : Nat) : Nat :=
  let x := codeVal fp32 a
  let y := codeVal fp32 b
  if x.below y = true ∨ (y.below x = false ∧ codeNeg fp32 a = true) then if isMax then b else a
  else if isMax then a else b

/-- FRND in the direction d (16 R347): the nearest integer that way, with the sign of the source and no flag but NV. -/
def IntegralIs (d : Rm) (c : Nat) (r : FRes) : Prop :=
  match codeVal fp32 c with
  | .nan s => r = ⟨nanCode fp32 false, s.toNat⟩
  | .inf _ _ => r = ⟨c, 0⟩
  | .num neg x =>
    ∃ k : ℤ, RoundsInto Whole WholeEven d x k ∧ codeNum fp32 r.v = some (k : ℚ) ∧ codeNeg fp32 r.v = neg
      ∧ r.v < 2 ^ 32 ∧ r.fl = 0

/-- CVT to an integer (05 R104): rounded under rm, saturated to lo and hi with NV, NX where inexact; a NaN gives 0. -/
def IntegerIs (rm : Rm) (lo hi : ℤ) (a : ExactVal) (r : FRes) : Prop :=
  let code (k : ℤ) : Nat := (k % 2 ^ 32).toNat
  match a with
  | .nan _ => r = ⟨0, 1⟩
  | .inf neg _ => r = ⟨code (if neg then lo else hi), 1⟩
  | .num _ x =>
    ∃ k : ℤ, RoundsInto Whole WholeEven rm x k
      ∧ r = if k < lo then ⟨code lo, 1⟩ else if hi < k then ⟨code hi, 1⟩ else ⟨code k, if (k : ℚ) = x then 0 else 16⟩

/-- CVT to a narrower format (05 R104): E4M3 keeps a NaN's sign and turns an infinity into its largest finite value with
NX only. -/
def NarrowIs (f : Fmt) (rm : Rm) (flushOut : Bool) (c : Nat) (r : FRes) : Prop :=
  match codeVal fp32 c with
  | .nan s => r = ⟨nanCode f (f.ocp && codeNeg fp32 c), s.toNat⟩
  | .inf neg _ => r = if f.ocp then ⟨maxCode f neg, 16⟩ else ⟨infCode f neg, 0⟩
  | .num neg x => (x = 0 → r = ⟨signBit f neg, 0⟩) ∧ (x ≠ 0 → Rounds f rm flushOut x r)

/-- CVT to F32 from a narrower format (05 R104): exact; only a signalling NaN raises NV. -/
def WideIs (f : Fmt) (c : Nat) (r : FRes) : Prop :=
  match codeVal f c with
  | .nan s => r = ⟨nanCode fp32 false, s.toNat⟩
  | .inf neg _ => r = ⟨infCode fp32 neg, 0⟩
  | .num neg x => codeNum fp32 r.v = some x ∧ codeNeg fp32 r.v = neg ∧ r.v < 2 ^ 32 ∧ r.fl = 0

/-- A lane's output is a result for which P holds. -/
def LaneGives (o : LaneOut) (P : FRes → Prop) : Prop := ∃ r, o = ⟨r.v, r.fl, 0, none⟩ ∧ P r

/-- A lane's output holds two BF16 results, one in each half, with the flags of both (15 R313). -/
def HalvesGive (o : LaneOut) (P : Nat → FRes → Prop) : Prop :=
  ∃ r0 r1, o = ⟨r0.v + r1.v * 2 ^ 16, r0.fl ||| r1.fl, 0, none⟩ ∧ P 0 r0 ∧ P 1 r1

end Sys2Proof.Machine
end

