-- ==== Sys2Proof/Safety.lean ====
section
/-! DEFINITION. What counts as a safe run, in the terms the claims use: memories in canonical form, when an encoded
instruction issues, what its retirement leaves, and what an instruction keeps. -/

namespace Sys2Proof.Machine

/-! ### Memories -/

/-- HBM, host memory and the weight store are in canonical form: addresses strictly rising, no byte listed that equals
what an unlisted address reads as (assumption 3). -/
def Mem.wf (m : Mem) : Bool := kwf 0 m.hbm && kwf 0 m.host && kwf 0 m.ws

/-- The outcome is a next state. -/
def isNext (o : Host.Outcome State Fault Refusal) : Bool :=
  match o with
  | .next _ => true
  | .fault _ => false
  | .refused _ => false

/-- One byte of any memory of the machine: as it stands at its home, or, in host memory, as the writes that have been sent
on to the host leave it (07 R148). -/
def byteAt (s : State) (l : Loc) : Byte := (readNow s l 1).getD 0 0

/-- Every byte of every memory reads as before. -/
def SameBytes (s t : State) : Prop := ∀ l, byteAt t l = byteAt s l

/-! ### Issue -/

/-- What the issue of an encoded instruction needs to know of it: how it takes a guard (14 R300), its registers
(04 R81) and its TRAPDST (11 R239). -/
structure Form where
  i : Instr
  pol : Pol
  regs : Group → Regs
  dst : Group → Nat

/-- Where the form issues: the group g under `ctl.cur`, its executing lanes, its place, the address after it. -/
def Form.ctx (f : Form) (s : State) (g : Group) : Ctx :=
  { i := f.i, word := wordOf f.i, w := who (delayed s g) s.ctl.cur g, x := execLanes g f.pol, s0 := delayed s g,
    replay := g.replay.isSome, next := pcAfter g.pc (4 * sizeWords f.i), dst := f.dst g }

/-- The current group g runs, nothing holds the form back (04 R88), its hints and guard fit it (04 R90, 14 R299,
R300), it does not trap on a dead read (04 R82), and renaming answers g1 (04 R81 to R83). -/
structure Form.Issues (f : Form) (s : State) (g g1 : Group) : Prop where
  cur : grp s s.ctl.cur = some g
  run : g.stat = .run
  free : heldBack s s.ctl.cur g (f.regs g) = none
  front : frontCheck g f.pol (wordOf f.i) (f.dst g) = none
  exec : f.pol = .once → execLanes g f.pol ≠ 0
  live : g.trapen = false ∨ deadRead g (f.regs g).reads = none
  names : rename g (who s s.ctl.cur g).l (f.regs g) = .ok g1

/-- The state in which a form takes effect: renaming done. -/
def Form.begun (_ : Form) (s : State) (g g1 : Group) : State := setGrp (delayed s g) s.ctl.cur g1

/-! ### Frames -/

/-- Lane l of v-register x after the kills of an instruction and before its result (04 R82): a killed source that is no
destination reads zero. -/
def keptV (r : Regs) (g : Group) (x l : Nat) : W32 :=
  if r.kills.contains (false, x) && !(r.writes.contains (false, x)) then 0 else rdVl g x l

/-- An s-register after the kills of an instruction and before its result. -/
def keptS (r : Regs) (g : Group) (x : Nat) : W64 :=
  if r.kills.contains (true, x) && !(r.writes.contains (true, x)) then 0 else rdS g x

/-- A group without its v-, s- and p-registers, the names that are live or killed, FPFLAGS, SATF, and what issue itself
moves (PC, masks of the running subgroup, SIG, hints, replay, wait): its accumulators, its trap and special registers, and
everything else it holds. -/
def Group.kept (g : Group) : Group :=
  { g with
    v := [], s := [], p := [], vlive := [], slive := [], vkilled := [], skilled := [], seen := false, firstreg := 0
    dfile := false, fpflags := [], satf := [], pc := 0, active := 0, ref := 0, sig := 0, split := none
    hints := Hints.none, replay := none, wait := none, idle := 0, issued := 0, pointed := false
    ahead := [] }

/-- The group's p-registers read as before. -/
def SameP (g h : Group) : Prop := ∀ x, rdP h x = rdP g x

/-- FPFLAGS and SATF are unchanged. -/
def SameFlags (g h : Group) : Prop := h.fpflags = g.fpflags ∧ h.satf = g.satf

/-- The v-registers after an instruction that writes none but the killed ones. -/
def KeptVs (r : Regs) (g h : Group) : Prop := ∀ x l, rdVl h x l = keptV r g x l

/-- The s-registers after an instruction that writes none but the killed ones. -/
def KeptSs (r : Regs) (g h : Group) : Prop := ∀ x, rdS h x = keptS r g x

/-- Everything outside the current group and the instruction's own effect: other groups, work items, launches, engine
transfers, collectives, part and host interface are unchanged, and the flights of the group count one issue more
(04 R88). -/
def SameOutside (s t : State) : Prop :=
  (∀ k, k ≠ s.ctl.cur → grp t k = grp s k)
  ∧ t.run.launches = s.run.launches ∧ t.run.items = s.run.items ∧ t.run.xfers = s.run.xfers
  ∧ t.run.colls = s.run.colls ∧ t.part = s.part ∧ t.host = s.host
  ∧ t.run.flights = s.run.flights.map fun f => if f.gid = s.ctl.cur then { f with left := f.left - 1 } else f

/-- Retirement of an instruction that does not branch (03 R60; 04 R90): its hints are used up, and, outside split mode,
PC is the address after it, the active mask stands and no lanes are left to reissue. -/
def Retired (f : Form) (g h : Group) : Prop :=
  h.hints = Hints.none ∧ h.wait = none
  ∧ (g.split = none →
      h.split = none ∧ h.replay = none ∧ h.active = g.active ∧ h.pc = pcAfter g.pc (4 * sizeWords f.i))

/-! ### Arithmetic -/

/-- A lane's operation of an arithmetic instruction: width, controls and operands. -/
abbrev LaneOp := Nat → Fp → LaneIn → LaneOut

/-- The form of an arithmetic instruction. -/
def Alu.form (al : Alu) (i : Instr) : Form := ⟨i, if al.u then .once else .lanes, al.regs, al.dstOf⟩

/-- What lane l computes: its own result, or, in a uniform form, the group's. -/
def Alu.laneRes (al : Alu) (op : LaneOp) (c : Ctx) (l : Nat) : LaneOut :=
  if al.u then op 64 (fpOf c.g) (al.input c (Mask.lowest c.x)) else op 32 (fpOf c.g) (al.input c l)

/-- An arithmetic instruction writes v-register x. -/
def Alu.putsV (al : Alu) (g : Group) (x : Nat) : Bool :=
  al.dst == .reg x && !al.u && !(marks g).1 && !(x == 63)

/-- An arithmetic instruction writes s-register x. -/
def Alu.putsS (al : Alu) (g : Group) (x : Nat) : Bool :=
  al.dst == .reg x && al.u && !(marks g).1 && !(x == 63)

/-- What an arithmetic instruction whose lanes compute r leaves in the group: the destination in the executing lanes,
p7, v63 and s63 discarding the write (04 R77); FPFLAGS and SATF with the operation's flags added (05 R98, R102); every
other register as it was, killed sources aside. -/
structure Alu.Leaves (al : Alu) (c : Ctx) (r : Nat → LaneOut) (g h : Group) : Prop where
  vector : ∀ x l, l < 64 → rdVl h x l =
    if al.putsV g x && Mask.has c.x l then BitVec.ofNat 32 (r l).v else keptV (al.regs g) g x l
  uniform : ∀ x, rdS h x =
    if al.putsS g x then BitVec.ofNat 64 (r (Mask.lowest c.x)).v else keptS (al.regs g) g x
  preds : ∀ x l, l < 64 → Mask.has (rdP h x) l =
    if x = 6 ∧ Mask.has c.x l ∧ ((r (Mask.lowest c.x)).cy).isSome then ((r l).cy).getD false
    else match al.dst with
      | .pred pd cmb =>
        if x = pd ∧ pd ≠ 7 ∧ Mask.has c.x l then combine cmb (Mask.has (rdP g x) l) ((r l).v == 1)
        else Mask.has (rdP g x) l
      | .reg _ => Mask.has (rdP g x) l
  flags : ∀ l, l < 64 → kget 0 h.fpflags l =
    if Mask.has c.x l then kget 0 g.fpflags l ||| BitVec.ofNat 5 (r l).fl else kget 0 g.fpflags l
  sat : ∀ l, l < 64 → kget 0 h.satf l =
    if Mask.has c.x l then kget 0 g.satf l ||| BitVec.ofNat 2 (r l).sat else kget 0 g.satf l
  rest : h.kept = g.kept

/-- What an instruction over registers leaves outside its group: every memory byte, and, unless an operand is a queue
(03 R69), every work item and launch. -/
structure OutsideKept (s t : State) (g : Group) : Prop where
  bytes : SameBytes s t
  groups : ∀ k, k ≠ s.ctl.cur → grp t k = grp s k
  part : t.part = s.part
  host : t.host = s.host
  engines : t.run.xfers = s.run.xfers ∧ t.run.colls = s.run.colls
  plain : marks g = (false, false, false) → SameOutside s t ∧ t.mem = s.mem

/-- The operand form and the operation of every arithmetic instruction, with the hints it issues under. -/
def aluForm (h : Hints) (i : Instr) : Option (Alu × LaneOp) :=
  match i with
  | .iadd f => some (aluRRR f false, iaddOp)
  | .isub f => some (aluRRR f false, isubOp)
  | .imul f => some (aluRRR f false, imulOp)
  | .imulh f => some (aluRRR f false, imulhOp)
  | .imulhU f => some (aluRRR f false, imulhUOp)
  | .imin f => some (aluRRR f false, iminOp)
  | .iminU f => some (aluRRR f false, iminUOp)
  | .imax f => some (aluRRR f false, imaxOp)
  | .imaxU f => some (aluRRR f false, imaxUOp)
  | .iabs f => some (aluUn f, iabsOp)
  | .ineg f => some (aluUn f, inegOp)
  | .and f => some (aluRRR f false, andOp)
  | .or f => some (aluRRR f false, orOp)
  | .xor f => some (aluRRR f false, xorOp)
  | .andn f => some (aluRRR f false, andnOp)
  | .not f => some (aluUn f, notOp)
  | .shl f => some (aluRRR f false, shlOp)
  | .shr f => some (aluRRR f false, shrOp)
  | .sar f => some (aluRRR f false, sarOp)
  | .rol f => some (aluRRR f false, rolOp)
  | .clz f => some (aluUn f, clzOp)
  | .popc f => some (aluUn f, popcOp)
  | .brev f => some (aluUn f, brevOp)
  | .mov f => some (aluUn f, movOp)
  | .iaddc f => some (aluIaddc f, iaddcOp)
  | .iaddi f => some (aluRI f (immRI h f.imm true), iaddOp)
  | .andi f => some (aluRI f (immRI h f.imm false), andOp)
  | .ori f => some (aluRI f (immRI h f.imm false), orOp)
  | .xori f => some (aluRI f (immRI h f.imm false), xorOp)
  | .shli f => some (aluSH f, shlOp)
  | .shri f => some (aluSH f, shrOp)
  | .sari f => some (aluSH f, sarOp)
  | .movi f => some ({ aluWI f (immWI h f.imm) with ra := false }, moviOp)
  | .imad f => some (aluRRR f true, imadOp)
  | .icmp f => some (aluCP f, icmpOp f.cond.toNat)
  | .bfeU f => some (aluRRR f false, bfeUOp)
  | .bfeS f => some (aluRRR f false, bfeSOp)
  | .bfi f => some (aluRRR f true, bfiOp)
  | .lea f => some (aluLEA f, leaOp f.sh.toNat)
  | .sel f => some (aluSEL f, selOp)
  | .fadd f => some (aluRRR f false, faddOp)
  | .fsub f => some (aluRRR f false, fsubOp)
  | .fmul f => some (aluRRR f false, fmulOp)
  | .fmin f => some (aluRRR f false, fminOp)
  | .fmax f => some (aluRRR f false, fmaxOp)
  | .fabs f => some (aluUn f, fabsOp)
  | .fneg f => some (aluUn f, fnegOp)
  | .frndNe f => some (aluUn f, frndNeOp)
  | .frndZ f => some (aluUn f, frndZOp)
  | .frndDn f => some (aluUn f, frndDnOp)
  | .frndUp f => some (aluUn f, frndUpOp)
  | .fclass f => some (aluUn f, fclassOp)
  | .fdiv f => some (aluRRR f false, fdivOp)
  | .ffma f => some (aluRRR f true, ffmaOp)
  | .fcmp f => some (aluCP f, fcmpOp f.cond.toNat)
  | .frcp f => some (aluUn f, frcpOp)
  | .frsq f => some (aluUn f, frsqOp)
  | .fsqrt f => some (aluUn f, fsqrtOp)
  | .fexp2 f => some (aluUn f, fexp2Op)
  | .flog2 f => some (aluUn f, flog2Op)
  | .fsin f => some (aluUn f, fsinOp)
  | .fcos f => some (aluUn f, fcosOp)
  | .ftanh f => some (aluUn f, ftanhOp)
  | .cvtS32F32 f => some (aluUn f, cvtS32F32Op)
  | .cvtU32F32 f => some (aluUn f, cvtU32F32Op)
  | .cvtF32S32 f => some (aluUn f, cvtF32S32Op)
  | .cvtF32U32 f => some (aluUn f, cvtF32U32Op)
  | .cvtBf16F32 f => some (aluUn f, cvtBf16F32Op)
  | .cvtF32Bf16 f => some (aluUn f, cvtF32Bf16Op)
  | .cvtF16F32 f => some (aluUn f, cvtF16F32Op)
  | .cvtF32F16 f => some (aluUn f, cvtF32F16Op)
  | .cvtE4m3F32 f => some (aluUn f, cvtE4m3F32Op)
  | .cvtF32E4m3 f => some (aluUn f, cvtF32E4m3Op)
  | .cvtE5m2F32 f => some (aluUn f, cvtE5m2F32Op)
  | .cvtF32E5m2 f => some (aluUn f, cvtF32E5m2Op)
  | .badd2 f => some (aluRRV f false, badd2Op)
  | .bmul2 f => some (aluRRV f false, bmul2Op)
  | .bfma2 f => some (aluRRV f true, bfma2Op)
  | .padd2 f => some (aluRRV f false, padd2Op)
  | .padd2S f => some (aluRRV f false, padd2SOp)
  | .psub2 f => some (aluRRV f false, psub2Op)
  | .psub2S f => some (aluRRV f false, psub2SOp)
  | .pmul2 f => some (aluRRV f false, pmul2Op)
  | .pmac2 f => some (aluRRV f true, pmac2Op)
  | .srar f => some (aluRRV f false, srarOp)
  | .srarH f => some (aluRRV f false, srarHOp)
  | _ => none

/-- A result over n-bit registers: operands A, B, D and the predicate condition. -/
abbrev IntFn := (n : Nat) → BitVec n → BitVec n → BitVec n → Bool → BitVec n

/-- The position and the length of the field of BFE and BFI inside the word (15 R318). -/
def bfPos {n : Nat} (b : BitVec n) : Nat := (b.extractLsb' 0 8).toNat
def bfLen {n : Nat} (b : BitVec n) : Nat := min (b.extractLsb' 8 8).toNat (n - bfPos b)

/-- Ones in the low m bits. -/
def onesLow (n m : Nat) : BitVec n := BitVec.allOnes n >>> (n - m)

/-- What each integer instruction that writes a register computes, in the words of the spec (15 R307, R318, R320;
16 R359, R360, R362, R364 to R366; 17 R374, R381, R382, R384; 18 R395, R396, R398, R422). -/
def intFn (i : Instr) : Option IntFn :=
  match i with
  | .iadd _ => some fun _ a b _ _ => a + b
  | .iaddi _ => some fun _ a b _ _ => a + b
  | .isub _ => some fun _ a b _ _ => a - b
  | .imul _ => some fun _ a b _ _ => a * b
  | .imulh _ => some fun n a b _ _ => (a.signExtend (2 * n) * b.signExtend (2 * n)).extractLsb' n n
  | .imulhU _ => some fun n a b _ _ => (a.setWidth (2 * n) * b.setWidth (2 * n)).extractLsb' n n
  | .imin _ => some fun _ a b _ _ => if a.sle b then a else b
  | .iminU _ => some fun _ a b _ _ => if a.ule b then a else b
  | .imax _ => some fun _ a b _ _ => if a.sle b then b else a
  | .imaxU _ => some fun _ a b _ _ => if a.ule b then b else a
  | .iabs _ => some fun _ a _ _ _ => if a.msb then -a else a
  | .ineg _ => some fun _ a _ _ _ => -a
  | .and _ => some fun _ a b _ _ => a &&& b
  | .andi _ => some fun _ a b _ _ => a &&& b
  | .or _ => some fun _ a b _ _ => a ||| b
  | .ori _ => some fun _ a b _ _ => a ||| b
  | .xor _ => some fun _ a b _ _ => a ^^^ b
  | .xori _ => some fun _ a b _ _ => a ^^^ b
  | .andn _ => some fun _ a b _ _ => a &&& ~~~b
  | .not _ => some fun _ a _ _ _ => ~~~a
  | .shl _ => some fun _ a b _ _ => a <<< b
  | .shli _ => some fun _ a b _ _ => a <<< b
  | .shr _ => some fun _ a b _ _ => a >>> b
  | .shri _ => some fun _ a b _ _ => a >>> b
  | .sar _ => some fun _ a b _ _ => a.sshiftRight b.toNat
  | .sari _ => some fun _ a b _ _ => a.sshiftRight b.toNat
  | .rol _ => some fun n a b _ _ => a.rotateLeft (b.toNat % n)
  | .clz _ => some fun n a _ _ _ =>
    BitVec.ofNat n ((List.range n).takeWhile fun k => !(a.getLsbD (n - 1 - k))).length
  | .popc _ => some fun n a _ _ _ => BitVec.ofNat n ((List.range n).filter a.getLsbD).length
  | .brev _ => some fun _ a _ _ _ => a.reverse
  | .mov _ => some fun _ a _ _ _ => a
  | .movi _ => some fun _ _ b _ _ => b
  | .imad _ => some fun _ a b d _ => a * b + d
  | .bfeU _ => some fun n a b _ _ => (a >>> bfPos b) &&& onesLow n (bfLen b)
  | .bfeS _ => some fun n a b _ _ =>
    if bfLen b = 0 then 0 else ((a >>> bfPos b) <<< (n - bfLen b)).sshiftRight (n - bfLen b)
  | .bfi _ => some fun n a b d _ =>
    (d &&& ~~~(onesLow n (bfLen b) <<< bfPos b)) ||| ((a &&& onesLow n (bfLen b)) <<< bfPos b)
  | .lea f => some fun _ a b _ _ => (a <<< f.sh.toNat) + b
  | .sel _ => some fun _ a b _ p => if p then a else b
  | _ => none

/-- The operands of a lane as n-bit registers, in a uniform form those of the group. -/
def Alu.opnd (al : Alu) (c : Ctx) (l : Nat) : LaneIn := al.input c (if al.u then Mask.lowest c.x else l)

/-- The results of an integer instruction: no flag, no clamp, no carry (05 R102). -/
def Alu.intRes (al : Alu) (fn : IntFn) (c : Ctx) (l : Nat) : LaneOut :=
  let x := al.opnd c l
  let n := al.width
  ⟨(fn n (BitVec.ofNat n x.a) (BitVec.ofNat n x.b) (BitVec.ofNat n x.d) x.p).toNat, 0, 0, none⟩

/-- The conditions of ICMP (17 R363). -/
def icmpHolds (cond : Nat) {n : Nat} (a b : BitVec n) : Bool :=
  match cond with
  | 0 => a == b
  | 1 => !(a == b)
  | 2 => a.slt b
  | 3 => a.sle b
  | 4 => b.slt a
  | 5 => b.sle a
  | 6 => a.ult b
  | _ => b.ule a

/-- Element h of a packed register (05 R95, 17 R385). -/
def elem16 (x : W32) (h : Nat) : Int := (x.extractLsb' (16 * h) 16).toInt

/-- A number clamped to a signed range of n bits, and whether it was clamped (05 R103). -/
def satTo (n : Nat) (t : Int) : Int := max (-(2 ^ (n - 1))) (min t (2 ^ (n - 1) - 1))

/-- Two packed elements. -/
def join16 (lo hi : Int) : W32 := (BitVec.ofInt 16 hi ++ BitVec.ofInt 16 lo : BitVec 32)

/-- The rounding shift of SRAR: halves round up (18 R401). -/
def roundShift (a : W32) (k : Nat) : Int := if k = 0 then a.toInt else (a.toInt + 2 ^ (k - 1)) / 2 ^ k

/-- What each packed integer instruction computes from A, B and D, and the SATF bits it sets (17 R385, 18 R401). -/
def packFn (i : Instr) : Option (W32 → W32 → W32 → W32 × Nat) :=
  let both (f : Int → Int → Int) (a b : W32) : Int × Int :=
    (f (elem16 a 0) (elem16 b 0), f (elem16 a 1) (elem16 b 1))
  let wrap (t : Int × Int) : W32 × Nat := (join16 t.1 t.2, 0)
  let sat (t : Int × Int) : W32 × Nat :=
    (join16 (satTo 16 t.1) (satTo 16 t.2), if satTo 16 t.1 = t.1 ∧ satTo 16 t.2 = t.2 then 0 else 1)
  match i with
  | .padd2 _ => some fun a b _ => wrap (both (· + ·) a b)
  | .padd2S _ => some fun a b _ => sat (both (· + ·) a b)
  | .psub2 _ => some fun a b _ => wrap (both (· - ·) a b)
  | .psub2S _ => some fun a b _ => sat (both (· - ·) a b)
  | .pmul2 _ => some fun a b _ => wrap (both (· * ·) a b)
  | .pmac2 _ => some fun a b d =>
    let t := d.toInt + elem16 a 0 * elem16 b 0 + elem16 a 1 * elem16 b 1
    (BitVec.ofInt 32 (satTo 32 t), if satTo 32 t = t then 0 else 2)
  | .srar _ => some fun a b _ => (BitVec.ofInt 32 (roundShift a (b.toNat % 32)), 0)
  | .srarH _ => some fun a b _ =>
    let t := roundShift a (b.toNat % 32)
    ((BitVec.ofInt 16 (satTo 16 t)).setWidth 32, if satTo 16 t = t then 0 else 1)
  | _ => none

/-- The results of a packed integer instruction. -/
def Alu.packRes (al : Alu) (fn : W32 → W32 → W32 → W32 × Nat) (c : Ctx) (l : Nat) : LaneOut :=
  let x := al.opnd c l
  let r := fn (BitVec.ofNat 32 x.a) (BitVec.ofNat 32 x.b) (BitVec.ofNat 32 x.d)
  ⟨r.1.toNat, 0, r.2, none⟩

/-- The arithmetic instructions that can raise a floating-point exception or set FPFLAGS (05 R99). -/
def floating (i : Instr) : Bool := (intFn i).isNone && (packFn i).isNone

/-! ### Traps -/

/-- The group g in slot gid can take a trap now (11 R238): it has a handler, the stack has two slots left, the slots that
this spills translate (03 R66), and its work item is in no open transaction at a rung that a trap aborts (08 R186). -/
structure CanDeliver (s : State) (gid : Nat) (g : Group) : Prop where
  handler : g.trapvec ≠ 0
  room : slotsOf g.stack + 2 ≤ stackMax ((kfind s.run.launches g.launch).getD Launch.fresh).img
  spill : spillFault s (who s gid g) g (slotsOf g.stack) (slotsOf g.stack + 2) = none
  closed : ((kfind s.run.items g.item).getD Item.fresh).txOpen = true →
    2 < ((kfind s.run.items g.item).getD Item.fresh).rung

/-- Every slot of the spill area that the group's stack touches on its way to `n` slots translates (03 R66). -/
def SpillsOk (s : State) (g : Group) (n : Nat) : Prop := spillFault s (who s s.ctl.cur g) g (slotsOf g.stack) n = none

/-- The stack of the issuing group, its spilled slots as memory holds them (03 R66). -/
def Form.stack (f : Form) (s : State) (g : Group) : List Entry := stackOf (f.ctx s g)

/-- An instruction of the form that brings the stack to `n` slots parks, with its stack, mask and PC as they were, on a
record of the first slot that does not translate (03 R66; 06 R135), where the walk waits for no engine's line and a fault
record can be opened. -/
def Form.SpillParks (f : Form) (s : State) (g : Group) (n : Nat) : Prop :=
  ∀ va k, spillFault s (who s s.ctl.cur g) g (slotsOf g.stack) n = some (va, k) → k ≠ walkBusy →
    poolFull s (who s s.ctl.cur g).die (who s s.ctl.cur g).asid va (decide (slotsOf g.stack < n)) = false →
    ∃ t h, exec f.i s = .next t ∧ grp t s.ctl.cur = some h ∧ h.stat = .parkFault ∧ h.stack = g.stack
      ∧ h.active = g.active ∧ h.sig = g.sig ∧ h.pc = g.hints.first.getD g.pc
      ∧ (∃ e ∈ t.mem.faults, (Agent.group s.ctl.cur, va, 6) ∈ e.2.agents) ∧ t.mem.hbm = s.mem.hbm

/-- A trap is delivered from a state s to the group g under `ctl.cur`, which then has the stack st: memory changes only in
the group's spill area, where the slots that the new entry pushes out of the core are stored (03 R66); none are while
the stack has at most 32 slots, and then every byte of every memory reads as before. -/
structure PushedOnly (s t : State) (g : Group) (st : List Entry) : Prop where
  mem : t.mem = (spillOut s (who s s.ctl.cur g) g (slotsOf g.stack) st).mem
  core : slotsOf st ≤ 32 → SameBytes s t

/-- The trap that an instruction of the form raises when it changed nothing (11 R233): restarting, at its first hint. -/
def Form.trapReq (f : Form) (g : Group) (cause : Nat) (info : W64) (lanes : Mask) : TrapReq :=
  { cause := cause, info := info, lanes := lanes, restarting := true, gather := false, dst := f.dst g, gdone := 0,
    pc := g.hints.first.getD g.pc, next := pcAfter g.pc (4 * sizeWords f.i) }

/-- The instruction ends in that trap and has no other effect. -/
def Form.TrapsWith (f : Form) (s : State) (g : Group) (cause : Nat) (info : W64) (lanes : Mask) : Prop :=
  exec f.i s = .next (takeTrap (delayed s g) s.ctl.cur g (f.trapReq g cause info lanes))

/-! ### Cross-lane instructions and predicates -/

/-- The operands of every cross-lane instruction on v-registers. -/
def crossOf (i : Instr) : Option Cross :=
  let rrv (f : RRV) (u : Bool) : Cross :=
    { d := f.d.toNat, a := f.a.toNat, ka := f.ka, b := some ((u, f.b.toNat), f.kb), ma := false, idle := false,
      f := fun _ _ _ => none }
  let cpx (f : CPX) : Cross :=
    { d := f.d.toNat, a := f.a.toNat, ka := f.ka, b := none, ma := true, idle := false, f := fun _ _ _ => none }
  match i with
  | .shfl f => some (rrv f false)
  | .slup f => some (rrv f true)
  | .sldn f => some (rrv f true)
  | .cmprs f => some (cpx f)
  | .expnd f => some (cpx f)
  | .reduxAdd f => some (crossRedux .add f)
  | .reduxMin f => some (crossRedux .min f)
  | .reduxMax f => some (crossRedux .max f)
  | .reduxAnd f => some (crossRedux .and f)
  | .reduxOr f => some (crossRedux .or f)
  | .scanAdd f => some (crossScan .add f)
  | .scanMax f => some (crossScan .max f)
  | _ => none

def Cross.form (k : Cross) (i : Instr) : Form := ⟨i, .lanes, k.regs, k.dstOf⟩

/-- A over a list of lanes combined (17 R390): the wrapping sum, the signed minimum and maximum, AND, OR. -/
def redAll (o : RedOp) (l : List W32) : W32 :=
  match o with
  | .add => l.foldl (· + ·) 0
  | .min => l.foldl (fun a b => if b.slt a then b else a) 0x7FFFFFFF
  | .max => l.foldl (fun a b => if a.slt b then b else a) 0x80000000
  | .and => l.foldl (· &&& ·) 0xFFFFFFFF
  | .or => l.foldl (· ||| ·) 0

/-- The entries of queue q of the group's core in its work item, oldest first (03 R69). -/
def coreQueue (s : State) (g : Group) (q : Nat) : List (List W32) :=
  queueOf (who s s.ctl.cur g) q

/-- Lane l of the A operand: a queue entry's slot, or a register (03 R69). -/
def Cross.aVal (k : Cross) (c : Ctx) (l : Nat) : W32 :=
  if (marks c.g).2.1 then laneOf 0 (queueHead c.w k.a) l else rdVl c.g k.a l

/-- What a cross-lane instruction leaves when executing lane l receives r l, and keeps D where that is none. -/
structure Cross.Leaves (k : Cross) (c : Ctx) (r : Nat → Option W32) (g h : Group) : Prop where
  vector : ∀ x l, l < 64 → rdVl h x l =
    if x = k.d ∧ k.d ≠ 63 ∧ (marks g).1 = false ∧ Mask.has c.x l then (r l).getD (rdVl g k.d l)
    else keptV (k.regs g) g x l
  uniform : ∀ x, rdS h x = keptS (k.regs g) g x
  preds : SameP g h
  flags : SameFlags g h
  rest : h.kept = g.kept

/-- A form that writes nothing but a predicate, in the executing lanes; p7 discards the write (04 R77). -/
structure PredLeaves (f : Form) (c : Ctx) (pd : Nat) (r : Nat → Bool) (g h : Group) : Prop where
  vector : ∀ x l, rdVl h x l = keptV (f.regs g) g x l
  uniform : ∀ x, rdS h x = keptS (f.regs g) g x
  preds : ∀ x l, l < 64 →
    Mask.has (rdP h x) l = if x = pd ∧ pd ≠ 7 ∧ Mask.has c.x l then r l else Mask.has (rdP g x) l
  flags : SameFlags g h
  rest : h.kept = g.kept

/-- A form that writes nothing but an s-register; s63 discards the write (04 R77). -/
structure UniLeaves (f : Form) (d : Nat) (v : W64) (g h : Group) : Prop where
  vector : ∀ x l, rdVl h x l = keptV (f.regs g) g x l
  uniform : ∀ x, rdS h x = if x = d ∧ d ≠ 63 then v else keptS (f.regs g) g x
  preds : SameP g h
  flags : SameFlags g h
  rest : h.kept = g.kept

/-- No HMOD of class QUEUE is pending (04 R80). -/
def NoQueueHint (g : Group) : Prop := ∀ d a b, g.hints.hmod ≠ some (.queue d a b)

/-- The registers of a VOTE: B, and D unless no lane executes (18 R421). -/
def voteForm (i : Instr) (b : Nat) (kb : Bool) (d : List (Bool × Nat)) (dst : Nat) : Form :=
  ⟨i, .lanes, voteRegs b kb d, fun _ => dst⟩

/-! ### Memory instructions -/

/-- A buffered write puts a byte at a place. -/
def PortWrite.puts (w : PortWrite) (m : KMap Nat) (l : Loc) (b : Byte) : Prop :=
  ∃ k, k < w.data.length ∧ w.data.getD k 0 = b ∧ match l with
    | .hbm pa => w.host = false ∧ remapOf m (w.addr + k) = remapOf m pa
    | .host a => w.host = true ∧ w.addr + k = a
    | _ => False

/-- Every byte reads as before, or as a write says that stood in a core's memory port and has been performed (07 R148). -/
def Drained (s t : State) : Prop :=
  ∀ l, byteAt t l = byteAt s l ∨ ∃ w ∈ s.mem.ports, w.puts s.mem.remap l (byteAt t l)

/-- Outside the scratchpads, every byte reads as before, or as a write says that stood in a core's memory port. -/
def HomesDrained (s t : State) : Prop :=
  ∀ l, (∀ it o, l ≠ .scr it o) → byteAt t l = byteAt s l ∨ ∃ w ∈ s.mem.ports, w.puts s.mem.remap l (byteAt t l)

/-- What a group keeps besides its registers and what memory instructions note in it: lines read, arrivals, the
release FENCE, a host atomic, its monitor, which a write may fire. -/
def Group.bare (g : Group) : Group :=
  { g.kept with
    readLines := []
    readOver := false
    arrivals := 0
    relFence := false
    hostAtom := none
    hostAns := none
    mon := .idle }

/-- A form that writes no register at issue: killed sources apart, the group keeps everything but the bookkeeping of
memory instructions. -/
structure NoRegister (f : Form) (g h : Group) : Prop where
  vector : KeptVs (f.regs g) g h
  uniform : KeptSs (f.regs g) g h
  preds : SameP g h
  flags : SameFlags g h
  rest : h.bare = g.bare

/-- The operands of LD, LDB, LDW and uniform LD (17 R368, R370, R373). -/
def loadOf (i : Instr) : Option LoadOp :=
  match i with
  | .ldUniform f => some ⟨f.d.toNat, f.s.toNat, 63, f.w.toNat, f.na, f.lh.toNat, true, false, .load⟩
  | .ld f => some ⟨f.d.toNat, f.s.toNat, f.v.toNat, f.w.toNat, f.na, f.lh.toNat, false, false, .load⟩
  | .ldb f => some ⟨f.d.toNat, f.s.toNat, f.v.toNat, f.w.toNat, f.na, f.lh.toNat, false, true, .load⟩
  | .ldw f => some ⟨f.d.toNat, f.s.toNat, f.v.toNat, f.w.toNat, f.na, f.lh.toNat, false, false, .ldw⟩
  | _ => none

def LoadOp.form (o : LoadOp) (i : Instr) : Form := ⟨i, if o.u then .once else .lanes, o.regs, o.dstOf⟩

/-- The lanes that access memory: every executing lane, or, where all read one address, the lowest for all (17 R368). -/
def LoadOp.lanes (o : LoadOp) (x : Mask) : List Nat := if o.v = 63 then [Mask.lowest x] else Mask.list x

/-- Register k of a loaded datum, from its bytes (17 R367): b8s and b16s are sign-extended, every other datum is taken
little-endian, a register's width at a time, and zero-extended. -/
def loadedReg (u : Bool) (w k : Nat) (bs : List Byte) : Nat :=
  let n := if u then 64 else 32
  match w with
  | 1 => ((BitVec.ofNat 8 (natLe bs)).signExtend n).toNat
  | 3 => ((BitVec.ofNat 16 (natLe bs)).signExtend n).toNat
  | _ => natLe ((bs.drop (k * (n / 8))).take (n / 8))

/-- The operands of ST and uniform ST (18 R405). -/
def storeOf (i : Instr) : Option StoreOp :=
  match i with
  | .stUniform f => some ⟨f.d.toNat, f.s.toNat, 63, f.w.toNat, true⟩
  | .st f => some ⟨f.d.toNat, f.s.toNat, f.v.toNat, f.w.toNat, false⟩
  | _ => none

def StoreOp.form (o : StoreOp) (i : Instr) : Form := ⟨i, if o.u then .once else .lanes, o.regs, fun _ => dstNone⟩

/-- The bytes lane l stores: the low bytes of the data registers, little-endian (18 R405). -/
def storedBytes (g : Group) (u : Bool) (n r l : Nat) : List Byte :=
  let one (k : Nat) : List Byte := if u then bytesLe 8 (rdS g (r + k)).toNat else bytesLe 4 (rdVl g (r + k) l).toNat
  (one 0 ++ one 1 ++ one 2 ++ one 3).take n

/-- The stores of a list of lanes performed one after another, so that a later lane's bytes remain (07 R144). -/
def storeInOrder (w : Who) (rel : Bool) : List (Loc × List Byte) → State → State
  | [], s => s
  | (l, bs) :: t, s => storeInOrder w rel t (storeLoc s w rel l bs)

/-- What a core's memory port accepts of a store: one write, or the two halves of a b128 datum (07 R145). -/
def accepted (w : Who) (host : Bool) (a : Nat) (bs : List Byte) (rel : Bool) : List PortWrite :=
  if bs.length = 16 then [⟨w.core, w.gid, host, a, bs.take 8, rel, [], false⟩, ⟨w.core, w.gid, host, a + 8, bs.drop 8, rel, [], false⟩]
  else [⟨w.core, w.gid, host, a, bs, rel, [], false⟩]

/-- The release wait of a group at a level is over (07 R150): above CORE no HBM write of it is left in the memory port,
and at SYSTEM no host-memory write, and no line that it wrote in the front end's read buffers. -/
structure Released (im : Image) (lvl : Nat) (gid : Nat) (t : State) : Prop where
  hbm : aboveCore im lvl = true → ∀ x ∈ t.mem.ports, x.host = false → x.gid ≠ gid
  host : lvl = 13 → ∀ x ∈ t.mem.ports, x.gid ≠ gid
  front : lvl = 13 → ∀ e ∈ t.host.febuf, gid ∉ e.2.2

/-- The host interface is unchanged but for the front end's read buffers, which performed writes mark (07 R150). -/
def SameHost (s t : State) : Prop := { t.host with febuf := s.host.febuf } = s.host

/-- The operation, width and return of every atomic (14 R297). -/
def atomOf (i : Instr) : Option AtomOp :=
  match i with
  | .atomAddB32 f => some ⟨0, false, true, f⟩
  | .atomAndB32 f => some ⟨1, false, true, f⟩
  | .atomOrB32 f => some ⟨2, false, true, f⟩
  | .atomXorB32 f => some ⟨3, false, true, f⟩
  | .atomMinB32 f => some ⟨4, false, true, f⟩
  | .atomMinUB32 f => some ⟨5, false, true, f⟩
  | .atomMaxB32 f => some ⟨6, false, true, f⟩
  | .atomMaxUB32 f => some ⟨7, false, true, f⟩
  | .atomExchB32 f => some ⟨8, false, true, f⟩
  | .atomCasB32 f => some ⟨9, false, true, f⟩
  | .atomFaddB32 f => some ⟨10, false, true, f⟩
  | .atomAddB64 f => some ⟨0, true, true, f⟩
  | .atomAndB64 f => some ⟨1, true, true, f⟩
  | .atomOrB64 f => some ⟨2, true, true, f⟩
  | .atomXorB64 f => some ⟨3, true, true, f⟩
  | .atomMinB64 f => some ⟨4, true, true, f⟩
  | .atomMinUB64 f => some ⟨5, true, true, f⟩
  | .atomMaxB64 f => some ⟨6, true, true, f⟩
  | .atomMaxUB64 f => some ⟨7, true, true, f⟩
  | .atomExchB64 f => some ⟨8, true, true, f⟩
  | .atomCasB64 f => some ⟨9, true, true, f⟩
  | .atomnAddB32 f => some ⟨0, false, false, f⟩
  | .atomnAndB32 f => some ⟨1, false, false, f⟩
  | .atomnOrB32 f => some ⟨2, false, false, f⟩
  | .atomnXorB32 f => some ⟨3, false, false, f⟩
  | .atomnMinB32 f => some ⟨4, false, false, f⟩
  | .atomnMinUB32 f => some ⟨5, false, false, f⟩
  | .atomnMaxB32 f => some ⟨6, false, false, f⟩
  | .atomnMaxUB32 f => some ⟨7, false, false, f⟩
  | .atomnExchB32 f => some ⟨8, false, false, f⟩
  | .atomnCasB32 f => some ⟨9, false, false, f⟩
  | .atomnFaddB32 f => some ⟨10, false, false, f⟩
  | .atomnAddB64 f => some ⟨0, true, false, f⟩
  | .atomnAndB64 f => some ⟨1, true, false, f⟩
  | .atomnOrB64 f => some ⟨2, true, false, f⟩
  | .atomnXorB64 f => some ⟨3, true, false, f⟩
  | .atomnMinB64 f => some ⟨4, true, false, f⟩
  | .atomnMinUB64 f => some ⟨5, true, false, f⟩
  | .atomnMaxB64 f => some ⟨6, true, false, f⟩
  | .atomnMaxUB64 f => some ⟨7, true, false, f⟩
  | .atomnExchB64 f => some ⟨8, true, false, f⟩
  | .atomnCasB64 f => some ⟨9, true, false, f⟩
  | _ => none

def AtomOp.form (o : AtomOp) (i : Instr) : Form := ⟨i, .lanes, o.regs, o.dstOf⟩

/-- What a read-modify-write stores, over n bits (15 R310): op is the OP of 14 R297. -/
def rmw (op : Nat) {n : Nat} (old x y : BitVec n) : BitVec n :=
  match op with
  | 0 => old + x
  | 1 => old &&& x
  | 2 => old ||| x
  | 3 => old ^^^ x
  | 4 => if x.slt old then x else old
  | 5 => if x.ult old then x else old
  | 6 => if old.slt x then x else old
  | 7 => if old.ult x then x else old
  | 8 => x
  | _ => if old = x then y else old

/-- Lanes at scratchpad and HBM places performed one after another: the old value of each, and the state after the
last. -/
inductive RmwChain (o : AtomOp) (c : Ctx) (rel : Bool) : List (Nat × Loc) → State → List (Nat × Nat) → State → Prop where
  | nil (s : State) : RmwChain o c rel [] s [] s
  | cons (l : Nat) (p : Loc) (t : List (Nat × Loc)) (s u v : State) (old : Nat) (olds : List (Nat × Nat)) :
      atomAt s c.w rel o.op o.bytes (o.x c.g l) (o.y c.g l) p = (old, u) → RmwChain o c rel t u olds v →
      RmwChain o c rel ((l, p) :: t) s ((l, old) :: olds) v

/-- The address of lane l of a form in format M (17 R368): BASE, IDX zero-extended unless it is 63, and the HIMM
displacement, modulo 2^64. -/
def addrM (g : Group) (base idx l : Nat) : Nat :=
  ((rdS g base) + (if idx = 63 then 0 else (rdVl g idx l).setWidth 64)
    + (match g.hints.himm with
      | none => 0
      | some y => y.signExtend 64)).toNat

/-! ### Every instruction over registers and memory, and control flow -/

/-- The form of an instruction of one of the families above, under its hints. -/
def formOf (h : Hints) (i : Instr) : Option Form :=
  match aluForm h i with
  | some (al, _) => some (al.form i)
  | none => match crossOf i with
    | some k => some (k.form i)
    | none => match loadOf i with
      | some o => some (o.form i)
      | none => match storeOf i with
        | some o => some (o.form i)
        | none => (atomOf i).map fun o => o.form i

/-- The form of an instruction that names no register. -/
def plainForm (i : Instr) (pol : Pol) : Form := ⟨i, pol, fun _ => noRegs, fun _ => dstNone⟩

/-- A control transfer: outside split mode PC and the active mask as given and the reference mask set to the active mask;
the stack as given, SIG and everything else of the group as before (03 R60 to R64; 11 R254). In split mode the next
subgroup runs (03 R68). -/
structure Jumped (f : Form) (g h : Group) (pc : Nat) (m : Mask) (st : List Entry) : Prop where
  place : g.split = none → h.split = none ∧ h.replay = none ∧ h.pc = pc ∧ h.active = m ∧ h.ref = m
  stack : h.stack = st
  sig : h.sig = g.sig
  hints : h.hints = Hints.none ∧ h.wait = none
  vector : KeptVs (f.regs g) g h
  preds : SameP g h
  flags : SameFlags g h
  rest : { h.kept with stack := [] } = { g.kept with stack := [] }

/-- A control transfer that writes no s-register. -/
structure JumpedOnly (f : Form) (g h : Group) (pc : Nat) (m : Mask) (st : List Entry) : Prop extends
    Jumped f g h pc m st where
  uniform : KeptSs (f.regs g) g h

/-- The place of a branch: a signed word offset from an address, in the 56 bits of a PC (03 R62). -/
def offsetFrom {n : Nat} (a : Nat) (off : BitVec n) : Nat := (((a : Int) + 4 * off.toInt) % 2 ^ 56).toNat

/-- The loop of RCV at address a (03 R64), with nt the address that follows: from a stack and an active mask to the stack,
mask and PC it ends with. -/
inductive RcvLoop (a nt : Nat) : List Entry → Mask → List Entry → Mask → Nat → Prop where
  | empty (m : Mask) : RcvLoop a nt [] m [] m nt
  | pend (p : Nat) (k m : Mask) (t : List Entry) (hb : belowIs t a = true) (hk : k ≠ 0) :
      RcvLoop a nt (.pend p k :: t) m t k p
  | skip (p : Nat) (m : Mask) (t st : List Entry) (m' : Mask) (pc : Nat) (hb : belowIs t a = true)
      (hr : RcvLoop a nt t m st m' pc) : RcvLoop a nt (.pend p 0 :: t) m st m' pc
  | div (k m : Mask) (t st : List Entry) (m' : Mask) (pc : Nat) (hr : RcvLoop a nt t k st m' pc) :
      RcvLoop a nt (.div a k :: t) m st m' pc
  | other (e : Entry) (m : Mask) (t : List Entry) (hp : ∀ p k, e = .pend p k → belowIs t a = false)
      (hd : ∀ k, e ≠ .div a k) : RcvLoop a nt (e :: t) m (e :: t) m nt

/-- The pending hints with one more, or none where one of its kind is pending already (04 R90). -/
def hintJoins (h : Hints) (i : Instr) : Option (Option Hints) :=
  let one (free : Bool) (x : Hints) : Option (Option Hints) := some (if free then some x else none)
  match i with
  | .himm f => one h.himm.isNone { h with himm := some f.y }
  | .hsched f => one h.hsched.isNone { h with hsched := some f }
  | .hmodCache f => one h.hmod.isNone { h with hmod := some (.cache f.policy.toNat) }
  | .hmodRound f => one h.hmod.isNone { h with hmod := some (.round f.rm.toNat) }
  | .hmodQueue f => one h.hmod.isNone { h with hmod := some (.queue f.qd f.qa f.qb) }
  | .hmodCount f => one h.hmod.isNone { h with hmod := some (.count f.idx.toNat f.incs.toNat) }
  | .hmodScope f => one h.hmod.isNone { h with hmod := some (.scope f.rlvl.toNat) }
  | _ => none

/-- The lanes of a group that some subgroup of it runs: its active lanes and, in split mode, those of the other subgroups
(03 R68). -/
def Group.threads (g : Group) : Mask :=
  match g.split with
  | none => g.active
  | some (t, k) => (t.take k ++ t.drop (k + 1)).foldl (fun m e => m ||| e.mask) g.active

/-- Where lane l of a group is (03 R68): the PC of its subgroup and, in split mode, the subgroup's parent. -/
def Group.laneAt (g : Group) (l : Nat) : Option (Nat × Nat) :=
  match g.split with
  | none => if Mask.has g.active l then some (g.pc, 0) else none
  | some (t, k) =>
    if Mask.has g.active l then some (g.pc, (t.getD k ⟨0, 0, 0, none⟩).parent)
    else ((t.take k ++ t.drop (k + 1)).find? fun e => Mask.has e.mask l).map fun e => (e.pc, e.parent)

/-- No lane is in two subgroups (03 R68). -/
def Group.lanesApart (g : Group) : Prop :=
  match g.split with
  | none => True
  | some (t, k) => (g.active :: (t.take k ++ t.drop (k + 1)).map (·.mask)).Pairwise fun a b => a &&& b = 0

/-- Nothing changes but the group under `ctl.cur` and the count of issues (04 R88). -/
def OnlyGroup (s t : State) : Prop := SameOutside s t ∧ t.mem = s.mem

/-! ### Records, placement and the host -/

/-- A record with these first payload bytes reaches the ring of queue qi (13 R274, R275). With room and nothing waiting it
stands in slot SEQ mod 2^CSIZE in the layout of R274; otherwise it waits behind the others in the ring's buffer. A queue
that is not registered has no ring. -/
def Posted (s t : State) (qi type concerns : Nat) (p : List Byte) : Prop :=
  ∀ q, kfind s.host.queues qi = some q →
    (q.seq - q.head ≠ 2 ^ q.csize ∧ q.held = [] →
      let b := readCells t.mem.host (q.cring + q.seq % 2 ^ q.csize * 64) 64
      let f (o n : Nat) : Nat := natLe ((b.drop o).take n)
      f 0 2 = type ∧ f 2 1 = (q.seq / 2 ^ q.csize + 1) % 2 ∧ f 3 1 = 0 ∧ f 4 2 = concerns ∧ f 6 2 = 0
        ∧ f 8 4 = q.ridx % 2 ^ 32 ∧ f 12 4 = 0 ∧ f 16 8 = q.seq % 2 ^ 64 ∧ f 24 8 = 0 ∧ (b.drop 32).take p.length = p
        ∧ ∃ y, kfind t.host.queues qi = some y ∧ y.seq = q.seq + 1 ∧ y.held = [])
    ∧ (q.seq - q.head = 2 ^ q.csize ∨ q.held ≠ [] → ∃ y r, kfind t.host.queues qi = some y ∧ y.seq = q.seq
        ∧ y.held = q.held ++ [r] ∧ r.type = type ∧ r.queue = concerns ∧ r.payload.take p.length = p)

/-- An event with these payload bytes reaches queue 0's ring (13 R274). -/
def Told (s t : State) (type : Nat) (p : List Byte) : Prop := Posted s t 0 type 0 (p ++ List.replicate (24 - p.length) 0)

/-- The bytes of a store that stands at its place in HBM; its bytes lie at different places (06 R119). -/
def Apart (s : State) (pa n : Nat) : Prop :=
  ∀ i j, i < n → j < n → remapOf s.mem.remap (pa + i) = remapOf s.mem.remap (pa + j) → i = j

/-- HBM holds the bytes at an address, and every other byte of every memory reads as before. -/
def HbmHolds (s t : State) (pa : Nat) (bs : List Byte) : Prop :=
  readHbm t.mem pa bs.length = bs
  ∧ (∀ a, (∀ k, k < bs.length → remapOf s.mem.remap a ≠ remapOf s.mem.remap (pa + k)) →
      byteAt t (.hbm a) = byteAt s (.hbm a))
  ∧ ∀ l, (∀ a, l ≠ .hbm a) → byteAt t l = byteAt s l

end Sys2Proof.Machine
end

