-- ==== Sys2Proof/Certificates/Slice0/Obligations.lean ====
section
/-! DEFINITION. The statements for the provers: one `def Obligations.<Name> : Prop` each. Every docstring cites the
rules of spec/ that it formalises. The vocabulary is that of Safety.lean and Rounding.lean. -/

open Sys2Proof Sys2Proof.Machine

/-! ### The machine: decoding, stepping, reset -/

/-- The words at the program counter that decode to an instruction are executed by the next step, whether the agenda names
the group or the group comes up by itself: the step is exec of that instruction, at a state that differs from this one
only in whose turn it is, in the instruction cache and in the translations held (07 R162). No ready group that comes before
it on its core takes the slot: one of higher priority, or one of the same whose turn is sooner (03 R74). Where the group came
up by itself, the end of its turn follows: time passes, the turn moves on, a buffered write may be performed (the model's
choice, log entry 1). A trap that is still due, because its stack slots could not be spilled at once (03 R66), is taken
first. -/
def Obligations.StepRunsDecodedInstruction : Prop :=
  ∀ (s : State) (gid : Nat) (g : Group) (i : Instr) (ws : List W32),
    grp s gid = some g → g.stat = .run → issueStopped s = false → decodeWords ws = .ok (i, []) →
    (∀ rest t, g.trapDue = some t → s.ctl.agenda = .issue gid :: rest →
      outranked { s with ctl := { s.ctl with agenda := rest } } gid = false →
      step s = .next (takeTrap { s with ctl := { s.ctl with agenda := rest } } gid { g with trapDue := none } t))
    ∧ (∀ rest, g.trapDue = none → s.ctl.agenda = .issue gid :: rest →
      outranked { s with ctl := { s.ctl with agenda := rest } } gid = false →
      let s0 := setCur { s with ctl := { s.ctl with agenda := rest } } gid
      fetchWords s0 (who s0 gid g) ws.length g.pc = .ok ws →
      ∃ u, step s = exec i u ∧ u.ctl = s0.ctl ∧ u.run = s.run ∧ u.part = s.part ∧ u.host = s.host
        ∧ { u.mem with icache := s.mem.icache, tlb := s.mem.tlb } = s.mem)
    ∧ (g.trapDue = none → s.ctl.agenda = [] → ownMove s = none → (∃ rest, issueOrder s = gid :: rest) →
      outranked s gid = false →
      let s0 := setCur s gid
      fetchWords s0 (who s0 gid g) ws.length g.pc = .ok ws →
      ∃ u, u.ctl = s0.ctl ∧ u.run = s.run ∧ u.part = s.part ∧ u.host = s.host
        ∧ { u.mem with icache := s.mem.icache, tlb := s.mem.tlb } = s.mem
        ∧ ∀ t, exec i u = .next t → moved s t = true → moved s (endTurn gid s.ctl.rr t) = true →
            step s = .next (endTurn gid s.ctl.rr t))

/-- R298, R301, R294 and the examples of the instruction reference: words of the spec decode to the instructions they
stand for, and a reserved one to none. -/
def Obligations.SpecWordsDecode : Prop :=
  decodeWords [0x04304204] = .ok (.iadd ⟨3, 1, 2, true, false, false⟩, [])
  ∧ decodeWords [0x24907F00] = .ok (.icmp ⟨1, 1, 1, 63, 0, false, false, false⟩, [])
  ∧ decodeWords [0xE4401804] = .ok (.bdiv ⟨false, 1, 3, 4⟩, [])
  ∧ decodeWords [0xE1C00002] = .ok (.bra ⟨false, 7, 2⟩, [])
  ∧ decodeWords [0x88208400] = .ok (.lda ⟨2, 2, 0, 4, 0, false⟩, [])
  ∧ decodeWords [0xFF00000B, 0x0000000F, 0x00000100, 0x50000000]
      = .ok (.live ⟨some 0x0000000F, some 0x00000100, none, some 0x50000000, 0, []⟩, [])
  ∧ ∃ e, decodeWords [0x00000000] = .error e

/-- R294 to R297, R301. Every well-formed instruction with words decodes from them, whatever words follow, to itself with
every operand: no bit of an encoding is dropped. -/
def Obligations.DecodeEncodeRoundTrip : Prop :=
  ∀ (i : Instr) (ws tl : List W32), wellFormed i = true → encode i = some ws → decodeWords (ws ++ tl) = .ok (i, tl)

/-- R298. What decodes is a well-formed instruction, and the words are its encoding: a word with a reserved field or with a
must-be-zero bit set decodes to nothing. -/
def Obligations.DecodedWordsAreEncodings : Prop :=
  ∀ (ws tl : List W32) (i : Instr), decodeWords ws = .ok (i, tl) →
    wellFormed i = true ∧ ∃ us, encode i = some us ∧ ws = us ++ tl

/-- R298, R91. A word that no instruction has raises the restarting trap ILLEGAL (0x01) with the word in TRAPINFO and
no destination; TRAPPC is the first hint of its sequence, or the LIVE word. R90, R91. A hint takes an issue slot and
joins the pending hints, with the address of the first of them kept; a second one of its kind raises the restarting
trap ILLEGAL at that first address. Nothing else changes. -/
def Obligations.IllegalWordsTrapAndHintsAttach : Prop :=
  (∀ (x : W32) (s : State) (g : Group),
    grp s s.ctl.cur = some g → g.stat = .run → heldBack s s.ctl.cur g noRegs = none →
    let g1 := if x.toNat / 2 ^ 24 = 0xFF then { g with hints := Hints.none } else g
    exec (.illegalEncoding x) s = .next (takeTrap (setGrp s s.ctl.cur g1) s.ctl.cur g1
      { cause := 1, info := x.setWidth 64, lanes := g.active, restarting := true, gather := false, dst := 192, gdone := 0,
        pc := g1.hints.first.getD g.pc, next := illegalNext s s.ctl.cur g x }))
  ∧ (∀ (i : Instr) (s : State) (g : Group) (r : Option Hints),
    grp s s.ctl.cur = some g → g.stat = .run → heldBack s s.ctl.cur g noRegs = none → hintJoins g.hints i = some r →
    (∀ h', r = some h' → exec i s = .next (setGrp s s.ctl.cur
      { g with hints := { h' with first := some (g.hints.first.getD g.pc) }, pc := pcAfter g.pc 4, wait := none,
               issued := s.ctl.clk }))
    ∧ (r = none → exec i s = .next (takeTrap s s.ctl.cur g
      { cause := 1, info := (wordOf i).setWidth 64, lanes := g.active, restarting := true, gather := false, dst := 192,
        gdone := 0, pc := g.hints.first.getD g.pc,
        next := sequenceEnd s (who s s.ctl.cur g) sequenceMax (pcAfter g.pc 4) })))

/-- From every state whose memories are in canonical form (addresses strictly rising, no byte listed that equals what an
unlisted address reads as), every step that answers a next state leaves them so. The form is the model's own (log
entry 3). -/
def Obligations.StepKeepsMemoriesCanonical : Prop :=
  ∀ s t : State, s.mem.wf = true → step s = .next t → t.mem.wf = true

/-- The state after reset has its memories in canonical form. R14, R227, R229, R278. After part reset nothing runs and
nothing is listed: no group, work item, launch, transfer or queue, no translation, no fault record; BUSY is 0, the
watchdog is at 2 s and DIDT at 100 %. That the generation is 0 and every die of the inventory online is the model's
reading (log entry 5), that MSTAT is 0 its choice (log entry 11), and so is the inventory of eight dies (log entry 4).
-/
def Obligations.ResetState : Prop :=
  (State.reset.mem.wf = true)
  ∧ (let s := State.reset
  s.run = ⟨[], [], [], [], [], [], []⟩ ∧ s.mem.hbm = [] ∧ s.mem.asids = [] ∧ s.mem.tlb = [] ∧ s.mem.faults = []
  ∧ s.mem.ports = [] ∧ s.host.queues = [] ∧ s.host.busy = false ∧ s.host.mstatus = 0 ∧ s.host.wdogMs = 2000 ∧ s.host.didt = 100
  ∧ s.part.gen = 0 ∧ s.part.dies.length = 8 ∧ (∀ d ∈ s.part.dies, d.state = 0))

/-! ### Issue: hints, guards, renaming (04 R81 to R90; 14 R299, R300) -/

/-- R90, R299, R300, R306, R80. Before anything else, an instruction over registers or memory whose pending hints do
not fit it traps with ILLEGAL; a uniform one under HMOD QUEUE traps with ILLEGAL_OPERAND; one that runs once for the
group and whose guard holds in some active lanes and not in others traps with DIVERGE, those lanes in TRAPINFO. With a
guard that holds in no active lane it only kills the sources it marks (R60, R82). R82, R83, R86. With TRAPEN set, a
read of a killed name raises the restarting trap DEADREAD (0x1B), with file and number in TRAPINFO; otherwise, a write
that would raise the live names above VFOOT or SFOOT raises ILLEGAL_OPERAND with 0x0101 or 0x0102. In both cases the
instruction has no other effect. The instruction's own checks come first (log entry 19). -/
def Obligations.IssueChecksTrap : Prop :=
  (∀ (i : Instr) (F : Form) (s : State) (g : Group),
    grp s s.ctl.cur = some g → g.stat = .run → formOf g.hints i = some F → heldBack s s.ctl.cur g (F.regs g) = none →
    let w := wordOf i
    let x := execLanes g F.pol
    (hintsFit g.hints w = false → F.TrapsWith s g 1 (w.setWidth 64) g.active)
    ∧ (hintsFit g.hints w = true → queueUniform g.hints w = true → F.TrapsWith s g cOPERAND (w.setWidth 64) g.active)
    ∧ (hintsFit g.hints w = true → queueUniform g.hints w = false → F.pol = .once → g.replay = none →
        (x ≠ 0 → x ≠ g.active → F.TrapsWith s g cDIVERGE x g.active)
        ∧ (x = 0 → ∃ t h, exec i s = .next t ∧ grp t s.ctl.cur = some h ∧ Retired F g h ∧ SameP g h ∧ SameFlags g h
            ∧ (∀ y l, rdVl h y l = if (F.regs g).kills.contains (false, y) && y != 63 then 0 else rdVl g y l)
            ∧ (∀ y, rdS h y = if (F.regs g).kills.contains (true, y) && y != 63 then 0 else rdS g y)
            ∧ h.kept = g.kept ∧ OnlyGroup s t)))
  ∧ (∀ (i : Instr) (al : Alu) (op : LaneOp) (s : State) (g : Group),
    grp s s.ctl.cur = some g → g.stat = .run → aluForm g.hints i = some (al, op) →
    let F := al.form i
    heldBack s s.ctl.cur g (F.regs g) = none → frontCheck g F.pol (wordOf i) (F.dst g) = none →
    execLanes g F.pol ≠ 0 → al.check (F.ctx s g) = none →
    (∀ d, g.trapen = true → deadRead g (F.regs g).reads = some d →
      F.TrapsWith s g 0x1B (BitVec.ofNat 64 (64 * d.1.toNat + d.2)) g.active)
    ∧ ((g.trapen = false ∨ deadRead g (F.regs g).reads = none) →
      ∀ n, rename g (who s s.ctl.cur g).l (F.regs g) = .error n →
        (n = 0x0101 ∨ n = 0x0102) ∧ F.TrapsWith s g cOPERAND (BitVec.ofNat 64 n) g.active))

/-- R81, R82, R86. Renaming: each destination becomes live and holds its earlier value until it is written, also where
it is itself a killed source, of which R81 and R82 do not speak (the model's choice, log entry 50); each killed source
that is no destination becomes killed and reads zero; every other name keeps value and state; the first dead read
since SEEN was 0 is noted in DEADREAD. R254. SIG: every arithmetic instruction whose issue completes rotates the 23
bits left by one and adds, by exclusive or, MAJ, 64 times FN of its format and 2048 where the active mask differs from
the reference mask. -/
def Obligations.VersionsAndSignature : Prop :=
  (∀ (g g1 : Group) (l : Launch) (r : Regs), rename g l r = .ok g1 →
    (∀ x, x.2 ≠ 63 → x ∈ r.writes → isLiveReg g1 x = true ∧ isKilled g1 x = false)
    ∧ (∀ x, x.2 ≠ 63 → x ∈ r.kills → x ∉ r.writes → isLiveReg g1 x = false ∧ isKilled g1 x = true)
    ∧ (∀ x, x.2 = 63 ∨ (x ∉ r.kills ∧ x ∉ r.writes) → isLiveReg g1 x = isLiveReg g x ∧ isKilled g1 x = isKilled g x)
    ∧ (∀ x k, rdVl g1 x k = keptV r g x k) ∧ (∀ x, rdS g1 x = keptS r g x)
    ∧ (match r.reads.find? fun x => x.2 != 63 && isKilled g x with
      | none => g1.seen = g.seen ∧ g1.firstreg = g.firstreg ∧ g1.dfile = g.dfile
      | some x => g1.seen = true ∧ (g.seen = true → g1.firstreg = g.firstreg ∧ g1.dfile = g.dfile)
          ∧ (g.seen = false → g1.firstreg = x.2 ∧ g1.dfile = x.1))
    ∧ g1.p = g.p ∧ g1.fpflags = g.fpflags ∧ g1.satf = g.satf ∧ g1.pc = g.pc ∧ g1.stack = g.stack ∧ g1.active = g.active)
  ∧ (∀ (i : Instr) (al : Alu) (op : LaneOp) (s : State) (g g1 : Group),
    aluForm g.hints i = some (al, op) → (al.form i).Issues s g g1 → al.check ((al.form i).ctx s g) = none →
    fpTrap g (execLanes g (al.form i).pol) (fun l => (al.laneRes op ((al.form i).ctx s g) l).fl) (al.dstOf g) = none →
    let w := (wordOf i).toNat
    let maj := w / 2 ^ 26
    let fn := if maj = 0x01 ∨ maj = 0x08 ∨ maj = 0x10 ∨ maj = 0x11 ∨ maj = 0x13 ∨ maj = 0x14 ∨ maj = 0x15 ∨ maj = 0x18
      ∨ maj = 0x0A then w / 8 % 32 else 0
    ∃ t h, exec i s = .next t ∧ grp t s.ctl.cur = some h
      ∧ h.sig = g.sig.rotateLeft 1 ^^^ BitVec.ofNat 23 (maj + 64 * fn + (if g.active = g.ref then 0 else 2048)))

/-! ### Arithmetic (15 to 18; 05 R96 to R105) -/

/-- R102, R307, R318, R320, R359, R360, R362, R364 to R366, R374, R381, R382, R384, R395, R396, R398, R422. Every
integer instruction that writes a register, in every operand form (v- or s-registers, queue operands, immediates with
HIMM), completes: each executing lane of D, or the s-register D, holds the value that `intFn` gives of its operands
modulo 2^W; v63 and s63 discard the result; no flag, no SATF bit and no predicate changes; killed sources read zero
and every other register, every memory byte and everything outside the group stay. `al.check` is none unless a queue
operand is illegal, empty or full, or, in a uniform SEL, the predicate differs among the executing lanes. R385, R401,
R102. The packed INT16 instructions and the rounding shifts: D holds what `packFn` gives, and SATF gains the H or W
bit in exactly the executing lanes in which a result was clamped. -/
def Obligations.IntegerAndPackedResults : Prop :=
  (∀ (i : Instr) (al : Alu) (op : LaneOp) (fn : IntFn) (s : State) (g g1 : Group),
    aluForm g.hints i = some (al, op) → intFn i = some fn → (al.form i).Issues s g g1 →
    al.check ((al.form i).ctx s g) = none →
    ∃ t h, exec i s = .next t ∧ grp t s.ctl.cur = some h ∧ Retired (al.form i) g h
      ∧ al.Leaves ((al.form i).ctx s g) (al.intRes fn ((al.form i).ctx s g)) g h ∧ OutsideKept s t g)
  ∧ (∀ (i : Instr) (al : Alu) (op : LaneOp) (fn : W32 → W32 → W32 → W32 × Nat) (s : State) (g g1 : Group),
    aluForm g.hints i = some (al, op) → packFn i = some fn → (al.form i).Issues s g g1 →
    al.check ((al.form i).ctx s g) = none →
    ∃ t h, exec i s = .next t ∧ grp t s.ctl.cur = some h ∧ Retired (al.form i) g h
      ∧ al.Leaves ((al.form i).ctx s g) (al.packRes fn ((al.form i).ctx s g)) g h ∧ OutsideKept s t g)

/-- R361. IADDC: t = A + B + p6 over the exact numbers; D is t modulo 2^W and p6, in the executing lanes, is the carry
t >= 2^W, also where D is v63 or s63 and the sum is discarded. R361, R398. A uniform IADDC or SEL whose predicate
differs among the executing lanes completes nothing: it raises the restarting trap DIVERGE, with the executing lanes
in which the predicate holds in TRAPINFO, and the trap is taken as `takeTrap` takes it. R363, R338. ICMP: in every
executing lane PD becomes the condition over W bits, combined by CMB (set, AND, OR); p7 discards it; no register but
killed sources and no flag changes. -/
def Obligations.CarriesAndPredicates : Prop :=
  (∀ (f : RRR) (s : State) (g g1 : Group),
    let al := aluIaddc f
    let c := (al.form (.iaddc f)).ctx s g
    (al.form (.iaddc f)).Issues s g g1 → al.check c = none →
    ∃ t h, exec (.iaddc f) s = .next t ∧ grp t s.ctl.cur = some h ∧ Retired (al.form (.iaddc f)) g h
      ∧ al.Leaves c (fun l =>
          let x := al.opnd c l
          let sum := x.a + x.b + (Mask.has (rdP g 6) (if f.u then Mask.lowest c.x else l)).toNat
          ⟨sum % 2 ^ al.width, 0, 0, some (decide (2 ^ al.width ≤ sum))⟩) g h
      ∧ OutsideKept s t g)
  ∧ (∀ (i : Instr) (al : Alu) (op : LaneOp) (p : Nat) (neg : Bool) (s : State) (g g1 : Group),
    aluForm g.hints i = some (al, op) → al.u = true → al.pp = some (p, neg) → (al.form i).Issues s g g1 →
    let c := (al.form i).ctx s g
    let on := maskOf fun l => Mask.has c.x l && (Mask.has (rdP g p) l != neg)
    on ≠ 0 → on ≠ c.x →
    exec i s = .next (takeTrap (delayed s g) s.ctl.cur g
      { cause := cDIVERGE, info := on, lanes := g.active, restarting := true, gather := false, dst := al.dstOf g,
        gdone := 0, pc := g.hints.first.getD g.pc, next := pcAfter g.pc 4 }))
  ∧ (∀ (f : CP) (s : State) (g g1 : Group),
    let al := aluCP f
    let c := (al.form (.icmp f)).ctx s g
    (al.form (.icmp f)).Issues s g g1 → al.check c = none →
    ∃ t h, exec (.icmp f) s = .next t ∧ grp t s.ctl.cur = some h ∧ Retired (al.form (.icmp f)) g h
      ∧ al.Leaves c (fun l =>
          let x := al.opnd c l
          ⟨(icmpHolds f.cond.toNat (BitVec.ofNat al.width x.a) (BitVec.ofNat al.width x.b)).toNat, 0, 0, none⟩) g h
      ∧ OutsideKept s t g)

/-- R98, R99, R334. Every floating-point and conversion instruction, packed BF16 and FCMP among them, completes when no
executing lane raises an exception whose TEN bit is set: each executing lane of D (or of PD, for FCMP) holds the
result of the operation, and FPFLAGS gains, sticky, the exceptions each executing lane raised. -/
def Obligations.FloatingResults : Prop :=
  ∀ (i : Instr) (al : Alu) (op : LaneOp) (s : State) (g g1 : Group),
    aluForm g.hints i = some (al, op) → floating i = true → (al.form i).Issues s g g1 →
    let c := (al.form i).ctx s g
    al.check c = none → fpTrap g c.x (fun l => (al.laneRes op c l).fl) (al.dstOf g) = none →
    ∃ t h, exec i s = .next t ∧ grp t s.ctl.cur = some h ∧ Retired (al.form i) g h
      ∧ al.Leaves c (al.laneRes op c) g h ∧ OutsideKept s t g

/-- R101, R339. When an executing lane raises an exception whose TEN bit is set, every executing lane has first
written its result and set its flags (the handler sees `al.Leaves`), and a group that can take a trap then takes a
completing one: TRAPCAUSE is 0x08 plus the lowest bit b of the union of the enabled exceptions, TRAPLANES the
executing lanes that raised b, TRAPINFO the union, and the handler's TRET.NEXT resumes after the instruction. R335,
R337, R96. FABS clears bit 31 and FNEG inverts it whatever the code (a NaN payload, a subnormal with FIN), and FCLASS
sets exactly one of bits 0 to 9, the bit of A's class; none of the three raises an exception in any mode. R96, R100,
R334. A NaN source makes FADD, FSUB, FMUL and FDIV give the canonical quiet NaN 0x7FC0_0000 whatever the payload, with
NV exactly for a signalling NaN. FFMA gives it for a NaN in its product or its addend and for 0 times infinity in its
product, with NV exactly for a signalling NaN among the three or 0 times infinity, also where the addend is a quiet
NaN. FMIN and FMAX give the other source when one source is a NaN. -/
def Obligations.FloatExceptionsSignsAndNans : Prop :=
  (∀ (i : Instr) (al : Alu) (op : LaneOp) (s : State) (g g1 : Group),
    aluForm g.hints i = some (al, op) → floating i = true → (al.form i).Issues s g g1 →
    let c := (al.form i).ctx s g
    let en (l : Nat) : BitVec 5 := BitVec.ofNat 5 (al.laneRes op c l).fl &&& g.fpmode.extractLsb' 4 5
    ∀ b, b < 5 → al.check c = none → marks g = (false, false, false) → CanDeliver s s.ctl.cur g →
    (∃ l, l < 64 ∧ Mask.has c.x l ∧ (en l).getLsbD b) →
    (∀ k, k < b → ∀ l, l < 64 → Mask.has c.x l → (en l).getLsbD k = false) →
    ∃ t h e info, exec i s = .next t ∧ grp t s.ctl.cur = some h
      ∧ (∀ k, info.getLsbD k = true ↔ k < 5 ∧ ∃ l, l < 64 ∧ Mask.has c.x l ∧ (en l).getLsbD k)
      ∧ h.pc = g.trapvec ∧ h.stack = .trap e :: g.stack
      ∧ h.trapcause = 0x08 + b ∧ h.trapdst = al.dstOf g ∧ h.trapinfo = info ∧ h.trappc = g.hints.first.getD g.pc
      ∧ (∀ l, l < 64 → Mask.has h.traplanes l = (Mask.has c.x l && (en l).getLsbD b)) ∧ h.active = h.traplanes
      ∧ e.next = pcAfter g.pc 4 ∧ e.restarting = false ∧ e.active = g.active ∧ e.lanes = h.traplanes
      ∧ (∀ x l, l < 64 → rdVl h x l =
          if al.putsV g x && Mask.has c.x l then BitVec.ofNat 32 (al.laneRes op c l).v else keptV (al.regs g) g x l)
      ∧ (∀ l, l < 64 → Mask.has c.x l →
          kget 0 h.fpflags l = kget 0 g.fpflags l ||| BitVec.ofNat 5 (al.laneRes op c l).fl)
      ∧ PushedOnly s t g h.stack)
  ∧ (∀ (n : Nat) (fp : Fp) (a : W32) (x : LaneIn), x.a = a.toNat →
    (fabsOp n fp x = ⟨(a &&& 0x7FFFFFFF).toNat, 0, 0, none⟩) ∧ (fnegOp n fp x = ⟨(a ^^^ 0x80000000).toNat, 0, 0, none⟩)
    ∧ ∃ k, k < 10 ∧ fclassOp n fp x = ⟨2 ^ k, 0, 0, none⟩
      ∧ (let e := a.extractLsb' 23 8
         let m := a.extractLsb' 0 23
         match k with
         | 0 => a = 0xFF800000
         | 1 => a.msb = true ∧ e ≠ 0 ∧ e ≠ 255
         | 2 => a.msb = true ∧ e = 0 ∧ m ≠ 0
         | 3 => a = 0x80000000
         | 4 => a = 0
         | 5 => a.msb = false ∧ e = 0 ∧ m ≠ 0
         | 6 => a.msb = false ∧ e ≠ 0 ∧ e ≠ 255
         | 7 => a = 0x7F800000
         | 8 => e = 255 ∧ m ≠ 0 ∧ m.msb = false
         | _ => e = 255 ∧ m.msb = true))
  ∧ ((∀ (n : Nat) (fp : Fp) (x : LaneIn), (val32 fp x.a).isNan = true ∨ (val32 fp x.b).isNan = true →
    let sig := (val32 fp x.a).snan || (val32 fp x.b).snan
    (∀ op, op ∈ [faddOp, fsubOp, fmulOp, fdivOp] → op n fp x = ⟨0x7FC00000, sig.toNat, 0, none⟩)
    ∧ ((val32 fp x.b).isNan = false → ∀ op, op ∈ [fminOp, fmaxOp] → op n fp x = ⟨in32 fp x.b, sig.toNat, 0, none⟩)
    ∧ ((val32 fp x.a).isNan = false → ∀ op, op ∈ [fminOp, fmaxOp] → op n fp x = ⟨in32 fp x.a, sig.toNat, 0, none⟩))
  ∧ ∀ (n : Nat) (fp : Fp) (x : LaneIn),
    let zero (v : FVal) : Bool := match v with
      | .fin _ m _ => m == 0
      | _ => false
    let infinite (v : FVal) : Bool := match v with
      | .inf _ => true
      | _ => false
    let a := val32 fp x.a
    let b := val32 fp x.b
    let d := val32 fp x.d
    let invalid := (zero a && infinite b) || (infinite a && zero b)
    a.isNan = true ∨ b.isNan = true ∨ d.isNan = true ∨ invalid = true →
    ffmaOp n fp x = ⟨0x7FC00000, (a.snan || b.snan || d.snan || invalid).toNat, 0, none⟩)

/-- R94, R96, R97, R100, R103 to R105, R313, R330, R336, R338, R339, R343 to R345, R347. The values of the floating-point
instructions, whatever the sources, said over exact numbers (Rounding.lean): FADD, FSUB, FMUL, FDIV, FFMA and FSQRT give
the exact result rounded once in the direction rm, with the overflow result, tininess after rounding, FOUT and the flags
of R100, and the NaN, infinity and zero-sign results of R100; FCMP compares; FMIN and FMAX select; FRND rounds to an
integer in its own direction; each CVT converts as R104 gives; BADD2, BMUL2 and BFMA2 do the same in each BF16 half and
merge the flags. FIN makes a subnormal FP32 or BF16 source a zero of its sign. -/
def Obligations.FloatValuesRoundOnce : Prop :=
  ∀ (n : Nat) (fp : Fp) (x : LaneIn),
    let a := inFormat fp32 fp.fin x.a
    let b := inFormat fp32 fp.fin x.b
    let A := codeVal fp32 a
    let B := codeVal fp32 b
    let D := codeVal fp32 (inFormat fp32 fp.fin x.d)
    let half (y h : Nat) : ExactVal := codeVal bf16 (inFormat bf16 fp.fin (y / 2 ^ (16 * h)))
    LaneGives (faddOp n fp x) (Gives fp32 fp.rm fp.fout (A.add fp.rm B))
    ∧ LaneGives (fsubOp n fp x) (Gives fp32 fp.rm fp.fout (A.add fp.rm B.negate))
    ∧ LaneGives (fmulOp n fp x) (Gives fp32 fp.rm fp.fout (A.mul B))
    ∧ LaneGives (fdivOp n fp x) (Gives fp32 fp.rm fp.fout (A.div B))
    ∧ LaneGives (ffmaOp n fp x) (Gives fp32 fp.rm fp.fout ((A.mul B).add fp.rm D))
    ∧ LaneGives (fsqrtOp n fp x) (RootIs fp.rm A)
    ∧ (∀ cond, cond < 8 → fcmpOp cond n fp x = ⟨(compares cond A B).toNat,
        (if A = .nan true ∨ B = .nan true ∨ (2 ≤ cond ∧ cond ≤ 5 ∧ (A.isNan = true ∨ B.isNan = true)) then 1 else 0),
        0, none⟩)
    ∧ (A.isNan = false → B.isNan = false →
        fminOp n fp x = ⟨extremum false a b, 0, 0, none⟩ ∧ fmaxOp n fp x = ⟨extremum true a b, 0, 0, none⟩)
    ∧ (∀ op d, (op, d) ∈ [(frndNeOp, Rm.rne), (frndZOp, .rtz), (frndDnOp, .rdn), (frndUpOp, .rup)] →
        LaneGives (op n fp x) (IntegralIs d a))
    ∧ LaneGives (cvtS32F32Op n fp x) (IntegerIs fp.rm (-2 ^ 31) (2 ^ 31 - 1) A)
    ∧ LaneGives (cvtU32F32Op n fp x) (IntegerIs fp.rm 0 (2 ^ 32 - 1) A)
    ∧ LaneGives (cvtF32S32Op n fp x) (Gives fp32 fp.rm fp.fout (.num false (BitVec.ofNat 32 x.a).toInt))
    ∧ LaneGives (cvtF32U32Op n fp x) (Gives fp32 fp.rm fp.fout (.num false (BitVec.ofNat 32 x.a).toNat))
    ∧ LaneGives (cvtBf16F32Op n fp x) (NarrowIs bf16 fp.rm fp.fout a)
    ∧ (∀ op f, (op, f) ∈ [(cvtF16F32Op, fp16), (cvtE4m3F32Op, e4m3), (cvtE5m2F32Op, e5m2)] →
        LaneGives (op n fp x) (NarrowIs f fp.rm false a))
    ∧ LaneGives (cvtF32Bf16Op n fp x) (WideIs bf16 (inFormat bf16 fp.fin x.a))
    ∧ (∀ op f, (op, f) ∈ [(cvtF32F16Op, fp16), (cvtF32E4m3Op, e4m3), (cvtF32E5m2Op, e5m2)] →
        LaneGives (op n fp x) (WideIs f (x.a % 2 ^ (1 + f.eb + f.fb))))
    ∧ HalvesGive (badd2Op n fp x) (fun h => Gives bf16 fp.rm fp.fout ((half x.a h).add fp.rm (half x.b h)))
    ∧ HalvesGive (bmul2Op n fp x) (fun h => Gives bf16 fp.rm fp.fout ((half x.a h).mul (half x.b h)))
    ∧ HalvesGive (bfma2Op n fp x)
        (fun h => Gives bf16 fp.rm fp.fout (((half x.a h).mul (half x.b h)).add fp.rm (half x.d h)))

/-! ### Cross-lane instructions, votes, predicates and queues -/

/-- R399, R76. SHFL, SLUP and SLDN: executing lane l of D receives A of its source lane (B[5:0] for SHFL; l - k where
l >= k, l + k where l + k <= 63), an exited or absent lane reading 0; a lane without a source keeps D; all sources are
read before any lane is written. R327, R76. CMPRS gives the j-th executing lane A of the j-th executing lane in which
pS holds, and EXPND the j-th executing lane in which pS holds A of the j-th executing lane; the other lanes keep D. -/
def Obligations.LanePermutations : Prop :=
  (∀ (i : Instr) (k : Cross) (f : RRV) (s : State) (g g1 : Group),
    (i = .shfl f ∨ i = .slup f ∨ i = .sldn f) → crossOf i = some k → (k.form i).Issues s g g1 →
    let c := (k.form i).ctx s g
    k.check c = none →
    let by_ := (rdS g f.b.toNat).toNat
    let src (l : Nat) : Option Nat :=
      if i = .shfl f then some ((rdVl g f.b.toNat l).extractLsb' 0 6).toNat
      else if i = .slup f then (if by_ ≤ l then some (l - by_) else none)
      else (if l + by_ ≤ 63 then some (l + by_) else none)
    ∃ t h, exec i s = .next t ∧ grp t s.ctl.cur = some h ∧ Retired (k.form i) g h
      ∧ k.Leaves c (fun l => (src l).map fun m => if Mask.has g.exited m || Mask.has g.absent m then 0
          else rdVl g f.a.toNat m) g h
      ∧ OutsideKept s t g)
  ∧ (∀ (i : Instr) (k : Cross) (f : CPX) (s : State) (g g1 : Group),
    (i = .cmprs f ∨ i = .expnd f) → crossOf i = some k → (k.form i).Issues s g g1 →
    let c := (k.form i).ctx s g
    k.check c = none →
    let e := Mask.list c.x
    let sel := Mask.list (c.x &&& rdP g f.p.toNat)
    let from_ (l : Nat) : Option Nat :=
      if i = .cmprs f then sel[e.idxOf l]? else if l ∈ sel then e[sel.idxOf l]? else none
    ∃ t h, exec i s = .next t ∧ grp t s.ctl.cur = some h ∧ Retired (k.form i) g h
      ∧ k.Leaves c (fun l => (from_ l).map (k.aVal c)) g h ∧ OutsideKept s t g)

/-- R390, R397, R76. REDUX writes the combination of A over the executing lanes (wrapping sum, signed minimum and
maximum, AND, OR) to D in every executing lane; SCAN writes to executing lane l the combination over the executing
lanes up to l. With no executing lane neither has an effect. -/
def Obligations.ReduxAndScanResults : Prop :=
  ∀ (i : Instr) (k : Cross) (o : RedOp) (scan : Bool) (f : RDX) (s : State) (g g1 : Group),
    (i, o, scan) ∈ [(Instr.reduxAdd f, RedOp.add, false), (.reduxMin f, .min, false), (.reduxMax f, .max, false),
      (.reduxAnd f, .and, false), (.reduxOr f, .or, false), (.scanAdd f, .add, true), (.scanMax f, .max, true)] →
    crossOf i = some k → (k.form i).Issues s g g1 →
    let c := (k.form i).ctx s g
    k.check c = none →
    ∃ t h, exec i s = .next t ∧ grp t s.ctl.cur = some h ∧ Retired (k.form i) g h
      ∧ k.Leaves c (fun l => some (redAll o
          (((Mask.list c.x).filter fun m => !scan || decide (m ≤ l)).map (k.aVal c)))) g h
      ∧ OutsideKept s t g

/-- R421, R76. The counted lanes are the executing lanes whose bit of B is 1. VOTE.ALL writes to PD in every executing
lane whether pA holds in all of them, VOTE.ANY whether it holds in some, and VOTE.BAL writes the mask of the counted
lanes in which pA holds to the s-register D; with no executing lane a VOTE has no effect. An HMOD of class QUEUE traps
with ILLEGAL_OPERAND, whatever it marks. R387, R77. PAND, POR, PXOR and PNOT write the combination of their sources to
pD in each executing lane; PSET writes bit l of sA in lane l; PTOS writes the executing lanes in which pA holds to sD.
p7 and s63 discard the result. -/
def Obligations.VotesAndPredicateLogic : Prop :=
  ((∀ (f : VOTEP) (all : Bool) (s : State) (g g1 : Group),
    let i := if all then Instr.voteAll f else Instr.voteAny f
    let F := voteForm i f.b.toNat f.kb [] (dstP f.pd.toNat)
    F.Issues s g g1 → NoQueueHint g →
    let c := F.ctx s g
    let vote (l : Nat) : Bool := Mask.has c.x l && Mask.has (rdS g f.b.toNat) l
    let pa (l : Nat) : Bool := Mask.has (rdP g f.pa.toNat) l
    ∃ t h, exec i s = .next t ∧ grp t s.ctl.cur = some h ∧ Retired F g h
      ∧ PredLeaves F c f.pd.toNat (fun _ =>
          if all then (List.range 64).all fun l => !(vote l) || pa l else (List.range 64).any fun l => vote l && pa l) g h
      ∧ SameOutside s t ∧ t.mem = s.mem)
  ∧ (∀ (f : VOTEB) (s : State) (g g1 : Group),
    let F := voteForm (.voteBal f) f.b.toNat f.kb [(true, f.d.toNat)] (dstS f.d.toNat)
    F.Issues s g g1 → NoQueueHint g →
    let c := F.ctx s g
    ∃ t h, exec (.voteBal f) s = .next t ∧ grp t s.ctl.cur = some h ∧ Retired F g h
      ∧ UniLeaves F f.d.toNat (if c.x = 0 then keptS (F.regs g) g f.d.toNat
          else c.x &&& rdS g f.b.toNat &&& rdP g f.pa.toNat) g h
      ∧ SameOutside s t ∧ t.mem = s.mem)
  ∧ (∀ (f : VOTEP) (all : Bool) (s : State) (g g1 : Group),
    let i := if all then Instr.voteAll f else Instr.voteAny f
    let F := voteForm i f.b.toNat f.kb [] (dstP f.pd.toNat)
    F.Issues s g g1 → ¬ NoQueueHint g → F.TrapsWith s g cOPERAND ((wordOf i).setWidth 64) g.active)
  ∧ ∀ (f : VOTEB) (s : State) (g g1 : Group),
    let F := voteForm (.voteBal f) f.b.toNat f.kb [(true, f.d.toNat)] (dstS f.d.toNat)
    F.Issues s g g1 → ¬ NoQueueHint g → F.TrapsWith s g cOPERAND ((wordOf (.voteBal f)).setWidth 64) g.active)
  ∧ ((∀ (f : PRR) (i : Instr) (b : Bool → Bool → Bool) (s : State) (g g1 : Group),
    (i = .pand f ∧ b = and ∨ i = .por f ∧ b = or ∨ i = .pxor f ∧ b = xor) →
    let F : Form := ⟨i, .lanes, fun _ => noRegs, fun _ => dstP f.pd.toNat⟩
    F.Issues s g g1 → NoQueueHint g →
    ∃ t h, exec i s = .next t ∧ grp t s.ctl.cur = some h ∧ Retired F g h
      ∧ PredLeaves F (F.ctx s g) f.pd.toNat
          (fun l => b (Mask.has (rdP g f.pa.toNat) l) (Mask.has (rdP g f.pb.toNat) l)) g h
      ∧ SameOutside s t ∧ t.mem = s.mem)
  ∧ (∀ (f : PUN) (s : State) (g g1 : Group),
    let F : Form := ⟨.pnot f, .lanes, fun _ => noRegs, fun _ => dstP f.pd.toNat⟩
    F.Issues s g g1 → NoQueueHint g →
    ∃ t h, exec (.pnot f) s = .next t ∧ grp t s.ctl.cur = some h ∧ Retired F g h
      ∧ PredLeaves F (F.ctx s g) f.pd.toNat (fun l => !(Mask.has (rdP g f.pa.toNat) l)) g h
      ∧ SameOutside s t ∧ t.mem = s.mem)
  ∧ (∀ (f : PSETF) (s : State) (g g1 : Group),
    let F : Form := ⟨.pset f, .lanes, fun _ => ⟨[(true, f.a.toNat)], [], []⟩, fun _ => dstP f.pd.toNat⟩
    F.Issues s g g1 → NoQueueHint g →
    ∃ t h, exec (.pset f) s = .next t ∧ grp t s.ctl.cur = some h ∧ Retired F g h
      ∧ PredLeaves F (F.ctx s g) f.pd.toNat (fun l => (rdS g f.a.toNat).getLsbD l) g h
      ∧ SameOutside s t ∧ t.mem = s.mem)
  ∧ ∀ (f : PTOSF) (s : State) (g g1 : Group),
    let F : Form := ⟨.ptos f, .lanes, fun _ => ⟨[], [], [(true, f.d.toNat)]⟩, fun _ => dstS f.d.toNat⟩
    F.Issues s g g1 → NoQueueHint g →
    ∃ t h, exec (.ptos f) s = .next t ∧ grp t s.ctl.cur = some h ∧ Retired F g h
      ∧ UniLeaves F f.d.toNat (execLanes g .lanes &&& rdP g f.pa.toNat) g h
      ∧ SameOutside s t ∧ t.mem = s.mem)

/-- R69 to R71, R80. An arithmetic instruction with queue operands: one whose sources have entries and whose destination
has room pops each source queue once and pushes one entry, a slot for each lane that holds the lane's result where it
executes and 0 elsewhere, and no other queue of the core changes; one that finds a source empty, or its
destination with four entries, waits and changes nothing; one whose operand is no queue that the group may use traps
with ILLEGAL_OPERAND. -/
def Obligations.QueueOperands : Prop :=
  ∀ (i : Instr) (al : Alu) (op : LaneOp) (s : State) (g g1 : Group),
    aluForm g.hints i = some (al, op) → al.pp = none → (al.form i).Issues s g g1 →
    (kfind s.run.items g.item).isSome →
    let c := (al.form i).ctx s g
    let m := marks g
    let entry : List W32 :=
      (List.range 64).map fun l => if Mask.has c.x l then BitVec.ofNat 32 (al.laneRes op c l).v else 0
    let popped (q : Nat) : Bool := (m.2.1 && q == al.a) || (m.2.2 && q == al.bnum)
    let bad := (m.1 && (al.rd || al.dst != .reg al.dnum || !queueOk c.w al.dnum true))
      || (m.2.1 && (!al.ra || !queueOk c.w al.a false)) || (m.2.2 && (!al.readsB || !queueOk c.w al.bnum false))
    let empty := (m.2.1 && (coreQueue s g al.a).isEmpty) || (m.2.2 && (coreQueue s g al.bnum).isEmpty)
    let full := m.1 && decide (4 ≤ (coreQueue s g al.dnum).length - (popped al.dnum).toNat)
    (bad = true → (al.form i).TrapsWith s g cOPERAND ((wordOf i).setWidth 64) g.active)
    ∧ (bad = false → (empty || full) = true →
        exec i s = .next (modGrp (delayed s g) s.ctl.cur fun h => { h with wait := some .queue }))
    ∧ (al.check c = none → fpTrap g c.x (fun l => (al.laneRes op c l).fl) (al.dstOf g) = none →
        bad = false ∧ empty = false ∧ full = false
        ∧ ∃ t, exec i s = .next t ∧ ∀ q, q < 8 → coreQueue t g q =
            (if popped q then (coreQueue s g q).drop 1 else coreQueue s g q)
              ++ (if m.1 && q == al.dnum then [entry] else []))

/-! ### Loads and stores (17 R367 to R373; 18 R405 to R408; 07) -/

/-- R367, R368, R370, R373. LD, LDB, LDW and the uniform LD: where every lane's address passes its checks and no
accessed line is owned or in its weight-store window (a hit in L1 waits for neither, R157), the load completes: it puts in
flight, for each executing lane, the registers of the datum read little-endian at the lane's place (with one address for
all, the value of the one access), extended as W says. No register and no byte of memory changes until the data returns.
The value is stated where the fills of the lanes push no superblock out of L1 (which one goes is open, log entry 18). -/
def Obligations.LoadsReadMemory : Prop :=
  ∀ (i : Instr) (o : LoadOp) (s : State) (g g1 : Group), loadOf i = some o → (o.form i).Issues s g g1 →
    let c := (o.form i).ctx s g
    let w := who s s.ctl.cur g
    let n := bytesM o.w
    let md := l1ModeOf g o.bypass o.na
    let a (l : Nat) : Nat := addrM g o.s o.v l
    let hs : List LaneHit := (o.lanes c.x).map fun l => ⟨l, a l, check s w o.acc (a l) n⟩
    o.pre c = none → c.x ≠ 0 → (∀ e ∈ hs, e.loc?.isSome) → blockedBy s (hs.filter fun h => !h.inL1 s w md) n = none →
    ∃ t h fl, exec i s = .next t ∧ grp t s.ctl.cur = some h ∧ Retired (o.form i) g h ∧ NoRegister (o.form i) g h
      ∧ SameBytes s t ∧ t.run.items = s.run.items ∧ t.mem.ports = s.mem.ports
      ∧ t.run.flights.getLast? = some fl ∧ fl.id = s.ctl.serial ∧ fl.gid = s.ctl.cur ∧ fl.uni = o.u ∧ fl.atomic = false
      ∧ fl.reg = o.d ∧ fl.lanes = c.x ∧ fl.left = o.lh ∧ fl.vals.length = regsM o.u o.w
      ∧ ((l1Blocks s w.core).length + hs.length ≤ 256 → ∀ l, Mask.has c.x l → ∀ k, k < regsM o.u o.w → ∀ p nc,
          check s w o.acc (a (if o.v = 63 then Mask.lowest c.x else l)) n = .ok p nc →
          (fl.vals.getD k []).getD (if o.u then 0 else l) 0 = loadedReg o.u o.w k (readLoc s w (pageMode md nc) p n))

/-- R369, R406, R235, R117. A store any of whose lanes' addresses is not a multiple of the access size, whatever the
other lanes' addresses, raises a restarting trap, and nothing else happens: TRAPCAUSE is the lowest cause that a lane
raises (MEM_ALIGN when no lane has a lower one), TRAPINFO the address of the lowest lane that raised it, and TRAPLANES
the lanes that raise any (the active mask where the instruction faults as a whole). A load that faults as a whole at
such an address raises MEM_ALIGN. R235, R236. A gather some of whose lanes trap and none of whose lanes faults in
translation: the lanes whose checks pass are performed and complete, GDONE names the active lanes that are not left,
and the group takes a restarting trap with the lowest cause for the lanes left, as a replay. Stated where the stack
stays in the core. -/
def Obligations.AccessesThatTrap : Prop :=
  ((∀ (i : Instr) (o : StoreOp) (s : State) (g g1 : Group), storeOf i = some o → (o.form i).Issues s g g1 →
    let c := (o.form i).ctx s g
    let n := bytesM (storeWidth o.w)
    let ls := if o.v = 63 then [((Mask.list c.x).getLast?).getD 0] else Mask.list c.x
    let hit (l : Nat) : Hit := check s (who s s.ctl.cur g) .store (addrM g o.s o.v l) n
    o.pre c = none → c.x ≠ 0 → (∃ l ∈ ls, addrM g o.s o.v l % n ≠ 0) →
    ∀ k low, low ∈ ls → hit low = .trap k → (∀ l ∈ ls, ∀ j, hit l = .trap j → k < j ∨ k = j ∧ low ≤ l) →
    (o.form i).TrapsWith s g k (BitVec.ofNat 64 (addrM g o.s o.v low))
      (if o.v = 63 then g.active else maskOf fun l => ls.any fun m => m == l && match hit m with
        | .trap _ => true
        | _ => false))
  ∧ ∀ (i : Instr) (o : LoadOp) (s : State) (g g1 : Group), loadOf i = some o → o.v = 63 → (o.form i).Issues s g g1 →
    let c := (o.form i).ctx s g
    let a := addrM g o.s 63 0
    o.pre c = none → c.x ≠ 0 → a % bytesM o.w ≠ 0 → (o.form i).TrapsWith s g cALIGN (BitVec.ofNat 64 a) g.active)
  ∧ (∀ (i : Instr) (o : LoadOp) (s : State) (g g1 : Group), loadOf i = some o → o.v ≠ 63 → (o.form i).Issues s g g1 →
    let c := (o.form i).ctx s g
    let w := who s s.ctl.cur g
    let n := bytesM o.w
    let hs : List LaneHit := (Mask.list c.x).map fun l => ⟨l, addrM g o.s o.v l, check s w o.acc (addrM g o.s o.v l) n⟩
    let left := maskOf fun l => hs.any fun e => e.lane == l && e.loc?.isNone
    o.pre c = none → blockedBy s (hs.filter fun h => !h.inL1 s w (l1ModeOf g o.bypass o.na)) n = none →
    (∀ e ∈ hs, e.isXlate = false ∧ e.hit ≠ .busy) → left ≠ 0 → CanDeliver s s.ctl.cur g → slotsOf g.stack ≤ 30 →
    ∃ t h e, exec i s = .next t ∧ grp t s.ctl.cur = some h ∧ h.stack = .trap e :: g.stack ∧ h.pc = g.trapvec
      ∧ h.traplanes = left ∧ h.active = left ∧ h.gdone = g.active &&& ~~~left
      ∧ (∀ k, h.trapcause ≤ k ∨ ∀ x ∈ hs, x.cause? ≠ some k) ∧ (∃ x ∈ hs, x.cause? = some h.trapcause)
      ∧ e.restarting = true ∧ e.lanes = left ∧ h.trappc = g.hints.first.getD g.pc
      ∧ (left ≠ c.x → e.gather = true ∧ ∃ fl, t.run.flights.getLast? = some fl ∧ fl.gid = s.ctl.cur
          ∧ fl.lanes = c.x &&& ~~~left ∧ fl.reg = o.d))

/-- R371, R372, R150, R153. LDA: where its address passes its checks, it completes with one access for the group, whose
value every executing lane (or the s-register) will receive with the data. With LVL = REMOTE every other core in the set
of the line performs its writes before the read, which goes to the home, past the L1 and past what the group has read
ahead of its turn. At a level bound above CORE the issuing core's
L1 is empty afterwards; the lines that the group has read are forgotten (R154). No register changes at issue, and
memory changes only by buffered writes performed. With no executing lane LDA has no effect. -/
def Obligations.LdaReadsAndAcquires : Prop :=
  ∀ (f : OF) (s : State) (g g1 : Group),
    let F : Form := ⟨.lda f, if f.u then .once else .lanes,
      fun _ => ⟨[(true, f.s.toNat)], [], regRun f.u f.d.toNat (regsO f.u f.w.toNat)⟩,
      fun _ => if f.u then dstS f.d.toNat else dstV f.d.toNat⟩
    F.Issues s g g1 →
    let c := F.ctx s g
    let w := who s s.ctl.cur g
    let n := if f.w = 0 then 4 else 8
    let a := addrM g f.s.toNat 63 0
    let md := l1ModeOf g false false
    let how : L1Mode := if f.lvl = 14 then ⟨false, false, md.guest⟩ else md
    let reader : Who := if f.lvl = 14 then { w with g := { w.g with ahead := [] } } else w
    ldaPre f c = none →
    (∀ p nc, c.x ≠ 0 → check s w .load a n = .ok p nc → blockedBy s [⟨Mask.lowest c.x, a, .ok p nc⟩] n = none →
      ∃ t h fl, exec (.lda f) s = .next t ∧ grp t s.ctl.cur = some h ∧ Retired F g h ∧ NoRegister F g h ∧ Drained s t
        ∧ h.readLines = [] ∧ h.readOver = false
        ∧ (aboveCore w.l.img f.lvl.toNat = true → ∀ e ∈ t.mem.l1, e.1 / 2 ^ 49 ≠ w.core)
        ∧ (f.lvl = 14 → ∀ pa k, p = .hbm pa → k ∈ kget [] s.mem.relset (pa / 128) → k ≠ w.core →
            ∀ x ∈ t.mem.ports, x.core ≠ k)
        ∧ t.run.flights.getLast? = some fl ∧ fl.gid = s.ctl.cur ∧ fl.uni = f.u ∧ fl.reg = f.d.toNat ∧ fl.lanes = c.x
        ∧ fl.left = f.lh.toNat ∧ fl.vals.length = regsO f.u f.w.toNat
        ∧ (∀ l, Mask.has c.x l → ∀ k, k < regsO f.u f.w.toNat →
            (fl.vals.getD k []).getD (if f.u then 0 else l) 0
              = loadedReg f.u (if f.w = 0 then 4 else 5) k (readLoc (remoteFirst s w f.lvl.toNat p) reader (pageMode how nc) p n)))
    ∧ (c.x = 0 → f.u = false → ∃ t h, exec (.lda f) s = .next t ∧ grp t s.ctl.cur = some h ∧ Retired F g h
        ∧ NoRegister F g h ∧ OnlyGroup s t)

/-- R89 (95). LOAD_DATA_RETURN and, for an atomic without host lanes, ATOMIC_REPLY: the flight ends and its registers
are written, in the lanes that receive them; nothing else of the group, no other group and no byte of memory changes,
but for a group stopped at a LIVE, whose image then holds the registers that an atomic returned to (R247). R138, R263.
ATOMIC_REPLY for an atomic with lanes on host pages: the completer performs each lane that it does not reject, in
ascending lane order, one read-modify-write after another on the host's memory, so that two lanes at one address both
count; the rejected lanes change nothing; the accepted lanes of D receive the old values, and the group may go on,
holding the mask of its rejected lanes. Under REPLAY the lanes wait for their turn (R266), which is left out here. -/
def Obligations.RepliesWriteRegisters : Prop :=
  (∀ (s : State) (fl : Flight) (g : Group) (n : Nat) (rej : Mask),
    s.run.flights.find? (fun x => x.id == n) = some fl → fl.host = none → grp s fl.gid = some g →
    fl.reg + fl.vals.length ≤ 64 →
    let i := if fl.atomic then Instr.atomicReply n rej else Instr.loadDataReturn n
    ∃ t h, exec i s = .next t ∧ grp t fl.gid = some h
      ∧ (∀ x l, l < 64 → rdVl h x l =
          if fl.uni = false ∧ fl.reg ≤ x ∧ x < fl.reg + fl.vals.length ∧ x ≠ 63 ∧ Mask.has fl.lanes l then
            BitVec.ofNat 32 ((fl.vals.getD (x - fl.reg) []).getD l 0) else rdVl g x l)
      ∧ (∀ x, rdS h x = if fl.uni = true ∧ fl.reg ≤ x ∧ x < fl.reg + fl.vals.length ∧ x ≠ 63 then
            BitVec.ofNat 64 ((fl.vals.getD (x - fl.reg) []).getD 0 0) else rdS g x)
      ∧ SameP g h ∧ SameFlags g h ∧ { h.kept with stat := g.stat } = g.kept ∧ h.pc = g.pc ∧ h.active = g.active
      ∧ h.sig = g.sig ∧ (fl.atomic = false ∨ (∀ x, g.stat ≠ .stopped (.live x)) → h.stat = g.stat)
      ∧ (∀ x, fl.atomic = true → g.stat = .stopped (.live x) → ∃ y, h.stat = .stopped (.live y)
          ∧ ∀ r, fl.reg ≤ r → r < fl.reg + fl.vals.length → liveNames y fl.uni r = true)
      ∧ (∀ k, k ≠ fl.gid → grp t k = grp s k) ∧ t.mem = s.mem ∧ t.part = s.part ∧ t.host = s.host
      ∧ t.run.items = s.run.items ∧ t.run.flights = s.run.flights.filter fun x => !(x.id == n))
  ∧ (∀ (s : State) (fl : Flight) (g : Group) (n op bytes : Nat) (rej : Mask) (hs : List HostLane),
    s.run.flights.find? (fun x => x.id == n && x.atomic) = some fl → fl.host = some (op, bytes, hs) →
    grp s fl.gid = some g → (bytes = 4 ∨ bytes = 8) → op ≤ 9 → fl.reg + fl.vals.length ≤ 64 → fl.uni = false →
    (∀ x ∈ hs, x.x < 256 ^ bytes ∧ x.y < 256 ^ bytes ∧ x.lane < 64) → (hs.map (·.lane)).Pairwise (· < ·) →
    replaying (launchOf s g.launch) = false →
    let new (h : HostLane) (old : Nat) : Nat :=
      (rmw op (BitVec.ofNat (8 * bytes) old) (BitVec.ofNat (8 * bytes) h.x) (BitVec.ofNat (8 * bytes) h.y)).toNat
    let taken := hs.filter fun h => !(Mask.has rej h.lane)
    ∃ t h, ∃ m : List (KMap Byte), exec (.atomicReply n rej) s = .next t ∧ grp t fl.gid = some h
      ∧ h.hostAtom = none ∧ h.hostAns = some (maskOf fun l => Mask.has rej l && hs.any fun x => x.lane == l)
      ∧ m.length = taken.length + 1 ∧ m.head? = some s.mem.host ∧ t.mem.host = m.getLastD []
      ∧ (∀ k x, taken[k]? = some x →
          let before := m.getD k []
          let after := m.getD (k + 1) []
          let old := natLe (readCells before x.addr bytes)
          readCells after x.addr bytes = bytesLe bytes (new x old)
          ∧ (∀ a, a < x.addr ∨ x.addr + bytes ≤ a → kget 0 after a = kget 0 before a)
          ∧ ∀ r, r < fl.vals.length → fl.reg + r ≠ 63 →
              rdVl h (fl.reg + r) x.lane = BitVec.ofNat 32 (old / 2 ^ (32 * r)))
      ∧ t.mem.hbm = s.mem.hbm ∧ (∀ a, (∀ x ∈ taken, a < x.addr ∨ x.addr + bytes ≤ a) →
          kget 0 t.mem.host a = kget 0 s.mem.host a)
      ∧ t.run.flights = s.run.flights.filter fun x => !(x.id == fl.id))

/-- R405 to R407, R144, R237. ST and the uniform ST: where every lane passes its checks and no line is owned, the
store completes; the executing lanes store in ascending order the low bytes of their data registers at the places of
their addresses (with one address for all, the highest executing lane stores), so the highest lane's bytes remain; no
register changes; what one store does to memory is said next. R124, R144, R147, R148, R407. One store by a group
outside a transaction: the group's core reads the stored bytes back at once, in order and little-endian; every place
outside them reads, for that core and at home, as before; an HBM or host store stands in the core's memory port until
it is performed, a b128 one as two halves (R145), and a scratchpad store is there at once. R408, R150, R153. STRL: the
release wait at its level is over before its own write enters the memory port; the highest executing lane's datum is
what is stored; no register changes. -/
def Obligations.StoresWriteAndReadBack : Prop :=
  (∀ (i : Instr) (o : StoreOp) (s : State) (g g1 : Group), storeOf i = some o → (o.form i).Issues s g g1 →
    let c := (o.form i).ctx s g
    let w := who s s.ctl.cur g
    let n := bytesM (storeWidth o.w)
    let ls := if o.v = 63 then [((Mask.list c.x).getLast?).getD 0] else Mask.list c.x
    let hs : List LaneHit := ls.map fun l => ⟨l, addrM g o.s o.v l, check s w .store (addrM g o.s o.v l) n⟩
    ∀ places : List Loc, hs.map LaneHit.loc? = places.map some → o.pre c = none → c.x ≠ 0 →
    blockedBy s hs n = none → conflictHeld s w hs = false →
    ∃ t h u, exec i s = .next t ∧ grp t s.ctl.cur = some h ∧ Retired (o.form i) g h ∧ NoRegister (o.form i) g h
      ∧ u = storeInOrder w g.relFence ((places.zip ls).map fun e => (e.1, storedBytes g o.u n o.d e.2)) s
      ∧ t.mem.hbm = u.mem.hbm ∧ t.mem.host = u.mem.host ∧ t.mem.ws = u.mem.ws ∧ t.mem.ports = u.mem.ports
      ∧ t.run.items = u.run.items ∧ t.mem.l1 = u.mem.l1 ∧ t.part = s.part ∧ t.host = u.host)
  ∧ (∀ (s : State) (w : Who) (rel : Bool) (l : Loc) (bs : List Byte),
    ((kfind s.run.items w.item).getD Item.fresh).txOpen = false → w.it.txOpen = false →
    (match l with
      | .scr it _ => (kfind s.run.items it).isSome ∧ ((kfind s.run.items it).getD Item.fresh).txOpen = false
      | .hbm _ => rel = false
      | .host _ => True
      | _ => False) →
    let t := storeLoc s w rel l bs
    let md : L1Mode := ⟨false, false, false⟩
    let w' : Who := { w with g := endAhead w.g l bs.length }
    readLoc t w' md l bs.length = bs
    ∧ (∀ p, (match l, p with
        | .scr i o, .scr j q => i ≠ j ∨ q < o ∨ o + bs.length ≤ q
        | .hbm o, .hbm q => q < o ∨ o + bs.length ≤ q
        | .host o, .host q => q < o ∨ o + bs.length ≤ q
        | _, _ => True) →
        (match p with
          | .scr j _ => ((kfind s.run.items j).getD Item.fresh).txOpen = false
          | _ => True) →
        readLoc t w' md p 1 = readLoc s w' md p 1 ∧ byteAt t p = byteAt s p)
    ∧ (match l with
      | .scr _ _ => t.mem.ports = s.mem.ports
      | .hbm pa => t.mem.ports = s.mem.ports ++ accepted w false pa bs rel ∧ SameBytes s t
      | .host a => t.mem.ports = s.mem.ports ++ accepted w true a bs rel ∧ SameBytes s t
      | _ => True))
  ∧ (∀ (f : OF) (s : State) (g g1 : Group),
    let F : Form := ⟨.strl f, if f.u then .once else .lanes,
      fun _ => ⟨(true, f.s.toNat) :: regRun f.u f.d.toNat (regsO f.u f.w.toNat), [], []⟩, fun _ => dstNone⟩
    F.Issues s g g1 →
    let c := F.ctx s g
    let w := who s s.ctl.cur g
    let n := if f.w = 0 then 4 else 8
    let top := ((Mask.list c.x).getLast?).getD 0
    let a := addrM g f.s.toNat 63 0
    ∀ p nc, strlPre f c = none → c.x ≠ 0 → check s w .store a n = .ok p nc →
    blockedBy s [⟨top, a, .ok p nc⟩] n = none → conflictHeld s w [⟨top, a, .ok p nc⟩] = false →
    ∃ t h u, exec (.strl f) s = .next t ∧ grp t s.ctl.cur = some h ∧ Retired F g h ∧ NoRegister F g h
      ∧ Drained s u ∧ Released w.l.img f.lvl.toNat s.ctl.cur u
      ∧ (let v := storeLoc u w true p (storedBytes g f.u n f.d.toNat top)
         t.mem.hbm = v.mem.hbm ∧ t.mem.host = v.mem.host ∧ t.mem.ws = v.mem.ws ∧ t.mem.ports = v.mem.ports
         ∧ t.run.items = v.run.items ∧ t.mem.relset = v.mem.relset))

/-- R388, R128, R129, R140, R156. PREF and CMNT change no register and no value: PREF leaves every byte and every
buffered write as it was, whatever its addresses, and never traps or parks; it waits only for a line that an engine
transfer owns. CMNT over an empty range does nothing. Over a range whose pages all translate and whose lines no engine
owns, once the buffered writes of its group are performed, it performs those writes and changes no byte otherwise, so
that what it writes back changes no value; INV and CINV leave none of the range's lines in the issuing core's L1, but
for a poisoned line, and CLEAN leaves the L1 as it was. At LEVEL 0 the L2 stays as it was; at LEVEL 2 CLEAN leaves no
dirty copy of a line of the range in any L2, and INV and CINV no copy at all. R340, R341, R150, R152. FENCE writes no
register and no byte of its own. Its release half at a level bound above CORE leaves no HBM write of the group in the
memory port, and at SYSTEM no host-memory write and no line that the group wrote in the front end's read buffers; its
acquire half at such a level leaves the core's L1 empty, and forgets the lines the group has read; after a FENCE with
a release half the group's relaxed writes have release order until its next FENCE (R153). A relaxed FENCE changes
nothing else at all. -/
def Obligations.FencesAndMaintenance : Prop :=
  ((∀ (f : MP) (s : State) (g g1 : Group),
    let F : Form := ⟨.pref f, .lanes,
      fun _ => ⟨(true, f.s.toNat) :: (if f.v.toNat = 63 then [] else [(false, f.v.toNat)]), [], []⟩, fun _ => dstNone⟩
    F.Issues s g g1 →
    (∀ l pa nc, Mask.has (execLanes g .lanes) l = true → l < 64 →
      check s (who s s.ctl.cur g) .load (addrM g f.s.toNat f.v.toNat l) (bytesM f.w.toNat) = .ok (.hbm pa) nc →
      ownedLoc s (.hbm (pa / 128 * 128)) 128 = false) →
    ∃ t h, exec (.pref f) s = .next t ∧ grp t s.ctl.cur = some h ∧ Retired F g h ∧ NoRegister F g h ∧ SameBytes s t
      ∧ t.mem.ports = s.mem.ports ∧ SameOutside s t)
  ∧ ∀ (f : CMF) (i : Instr) (inv : Bool) (s : State) (g g1 : Group),
    (i = .cmntClean f ∧ inv = false ∨ i = .cmntInv f ∧ inv = true ∨ i = .cmntCinv f ∧ inv = true) →
    let F : Form := ⟨i, .once, fun _ => ⟨[(true, f.start.toNat), (true, f.len.toNat)], [], []⟩, fun _ => dstNone⟩
    F.Issues s g g1 →
    let w := who s s.ctl.cur g
    let start := (rdS g f.start.toNat).toNat
    let len := (rdS g f.len.toNat).toNat
    let a := start / 128 * 128
    let last := (start + len - 1) / 128 * 128 + 127
    let d := drainGroup s s.ctl.cur
    (len = 0 ∨ start + len ≤ 0xF0000000000000
      ∧ ∀ q, a ≤ q → q ≤ last → ∃ r, translate d w.die w.asid q .load = .ok r ∧ r.va ≤ q ∧ q < r.va + r.size
          ∧ 4096 ≤ r.size ∧ r.va % r.size = 0
          ∧ (r.host = false → ownedLoc d (.hbm (r.base + (q - r.va))) 1 = false)
          ∧ ∀ p, a ≤ p → p ≤ last → r.va ≤ p → p < r.va + r.size → translate d w.die w.asid p .load = .ok r) →
    ∃ t h, exec i s = .next t ∧ grp t s.ctl.cur = some h ∧ Retired F g h ∧ NoRegister F g h ∧ Drained s t
      ∧ (len = 0 → SameBytes s t ∧ t.mem.ports = s.mem.ports ∧ t.mem.l1 = s.mem.l1 ∧ t.mem.l2 = s.mem.l2)
      ∧ (len ≠ 0 → (∀ x ∈ t.mem.ports, x.gid ≠ s.ctl.cur) ∧ (∀ l, byteAt t l = byteAt d l)
          ∧ (inv = false → t.mem.l1 = d.mem.l1) ∧ (f.lvl = 0 → t.mem.l2 = d.mem.l2))
      ∧ (len ≠ 0 → ∀ q r, a ≤ q → q ≤ last → translate d w.die w.asid q .load = .ok r → r.host = false →
          let line := (r.base + (q - r.va)) / 128
          line < 2 ^ 49 → poisoned d.mem (line * 128) = false →
          (inv = true → ∀ e ∈ t.mem.l1, e.1 ≠ w.core * 2 ^ 49 + line)
          ∧ (f.lvl = 2 → ∀ e ∈ t.mem.l2, e.1 = line / 4 → ∀ p, p = e.2.home ∨ p ∈ e.2.guests.map (·.2) →
              p.dirty.getLsbD (line % 4) = false ∧ (inv = true → p.valid.getLsbD (line % 4) = false)))
      ∧ t.run.items = s.run.items ∧ t.run.launches = s.run.launches ∧ t.part = s.part ∧ SameHost s t)
  ∧ (∀ (f : FENF) (s : State) (g g1 : Group),
    let F : Form := ⟨.fence f, .lanes, fun _ => noRegs, fun _ => dstNone⟩
    F.Issues s g g1 →
    let c := F.ctx s g
    let w := who s s.ctl.cur g
    let acq := f.ord.getLsbD 0
    let rel := f.ord.getLsbD 1
    levelTrap c f.lvl.toNat acq = none → scopeTrap c (f.ord == 3) f.lvl.toNat = none → c.x ≠ 0 →
    ∃ t h, exec (.fence f) s = .next t ∧ grp t s.ctl.cur = some h ∧ Retired F g h ∧ NoRegister F g h ∧ Drained s t
      ∧ h.relFence = rel
      ∧ (rel = true → Released w.l.img (releaseLevel g f.lvl.toNat) s.ctl.cur t)
      ∧ (acq = true → h.readLines = [] ∧ h.readOver = false)
      ∧ (acq = true → aboveCore w.l.img f.lvl.toNat = true → ∀ e ∈ t.mem.l1, e.1 / 2 ^ 49 ≠ w.core)
      ∧ (acq = false → rel = false → t.mem = s.mem ∧ h.readLines = g.readLines)
      ∧ t.run.items = s.run.items ∧ t.run.launches = s.run.launches ∧ t.part = s.part ∧ SameHost s t)

/-! ### Atomics (15 R309 to R312; 06 R138, R139; 08 R177) -/

/-- R310, R139. Every ATOM and ATOMN: where each executing lane's address passes its checks at a scratchpad or HBM
place, outside a transaction (an ATOM also inside one), the atomic completes: each lane's read-modify-write is performed
once, same-address lanes in ascending lane order, with nothing between them but performed buffered writes; ATOM puts the
old values in flight for D, ATOMN leaves D unchanged; no register changes at issue. What one read-modify-write does is
said by ReadModifyWriteOncePerLane. -/
def Obligations.AtomicsPerformEachLane : Prop :=
  ∀ (i : Instr) (o : AtomOp) (s : State) (g g1 : Group), atomOf i = some o → (o.form i).Issues s g g1 →
    let c := (o.form i).ctx s g
    let w := who s s.ctl.cur g
    let addr (l : Nat) : Nat := (rdVl g o.v l).toNat + (rdVl g (o.v + 1) l).toNat * 2 ^ 32
    let hs : List LaneHit := (Mask.list c.x).map fun l => ⟨l, addr l, check s w .atomic (addr l) o.bytes⟩
    ∀ places : List Loc, hs.map LaneHit.loc? = places.map some → (∀ p ∈ places, ∀ a, p ≠ .host a) →
    o.pre c = none → g.hostAns = none → c.x ≠ 0 → blockedBy s hs o.bytes = none →
    (o.ret = true ∨ w.it.txOpen = false) → w.l.pkt.det = 0 →
    ∃ t h u v olds, exec i s = .next t ∧ grp t s.ctl.cur = some h ∧ Retired (o.form i) g h ∧ NoRegister (o.form i) g h
      ∧ Drained s u ∧ RmwChain o c (o.rel || g.relFence) ((Mask.list c.x).zip places) u olds v
      ∧ SameBytes v t
      ∧ (o.ret = true → ∃ fl, t.run.flights.getLast? = some fl ∧ fl.gid = s.ctl.cur ∧ fl.atomic = true ∧ fl.uni = false
          ∧ fl.host = none ∧ fl.reg = o.d ∧ fl.left = o.f.lh.toNat ∧ fl.lanes = c.x ∧ fl.vals.length = o.dstRegs
          ∧ ∀ e ∈ olds, ∀ k, k < o.dstRegs → (fl.vals.getD k []).getD e.1 0 = e.2 / 2 ^ (32 * k) % 2 ^ 32)
      ∧ (o.ret = false → t.run.flights.length = s.run.flights.length)

/-- R310, R311, R139, R177. One read-modify-write of n = 4 or 8 bytes: it returns the old value and leaves `rmw` of it
over 8n bits (FADD: the FP32 sum, rounded to nearest even), and no other byte changes. At an HBM place this is stated
where no buffered write of the core touches the bytes, and, in a transaction, where no other transaction holds the
line; in a versioned scratchpad range the work item's version of the bytes becomes the new value. R177, R179. An ATOMN
inside an open transaction whose lanes address HBM is deferred: it joins the work item's writes, in program order,
lane by lane in ascending order, and changes no byte of memory and no register. -/
def Obligations.ReadModifyWriteOncePerLane : Prop :=
  (∀ (s : State) (w : Who) (rel : Bool) (op n x y : Nat) (l : Loc),
    (n = 4 ∨ n = 8) → (op ≤ 9 ∨ op = 10 ∧ n = 4) → x < 256 ^ n → y < 256 ^ n →
    let r := atomAt s w rel op n x y l
    let new (old : Nat) : Nat :=
      if op = 10 then (atomFadd (BitVec.ofNat 32 old) (BitVec.ofNat 32 x)).toNat
      else (rmw op (BitVec.ofNat (8 * n) old) (BitVec.ofNat (8 * n) x) (BitVec.ofNat (8 * n) y)).toNat
    (∀ it o i, l = .scr it o → kfind s.run.items it = some i →
      r.1 = natLe (readCells i.scr o n)
      ∧ ∃ j, kfind r.2.run.items it = some j ∧ readCells j.scr o n = bytesLe n (new r.1)
        ∧ (∀ a, a < o ∨ o + n ≤ a → kget 0 j.scr a = kget 0 i.scr a)
        ∧ (i.txOpen = true → i.scrOff ≤ o % 2 ^ 19 → o % 2 ^ 19 + n ≤ i.scrOff + i.scrLen →
            ∀ k, k < n → kfind j.verScr (o + k) = some ((bytesLe n (new r.1)).getD k 0))
        ∧ r.2.mem.hbm = s.mem.hbm ∧ r.2.mem.ports = s.mem.ports)
    ∧ (∀ pa, l = .hbm pa → rel = false → (w.it.txOpen = true → holderOf s w.item (pa / 128) = none) →
      (∀ p ∈ s.mem.ports, p.core = w.core → p.host = false → p.addr + p.data.length ≤ pa ∨ pa + n ≤ p.addr) →
      (∀ k j, k < n → j < n → remapOf s.mem.remap (pa + k) = remapOf s.mem.remap (pa + j) → k = j) →
      r.1 = natLe (readHbm s.mem pa n) ∧ readHbm r.2.mem pa n = bytesLe n (new r.1)
      ∧ (∀ a, (∀ k, k < n → remapOf s.mem.remap a ≠ remapOf s.mem.remap (pa + k)) →
          readHbm r.2.mem a 1 = readHbm s.mem a 1)
      ∧ r.2.run.items = s.run.items ∧ r.2.mem.ports = s.mem.ports ∧ r.2.mem.host = s.mem.host))
  ∧ (∀ (i : Instr) (o : AtomOp) (s : State) (g g1 : Group), atomOf i = some o → o.ret = false → (o.form i).Issues s g g1 →
    let c := (o.form i).ctx s g
    let w := who s s.ctl.cur g
    let addr (l : Nat) : Nat := (rdVl g o.v l).toNat + (rdVl g (o.v + 1) l).toNat * 2 ^ 32
    let hs : List LaneHit := (Mask.list c.x).map fun l => ⟨l, addr l, check s w .atomic (addr l) o.bytes⟩
    ∀ pas : List Nat, hs.map LaneHit.loc? = pas.map (some ∘ Loc.hbm) → o.pre c = none → g.hostAns = none → c.x ≠ 0 →
    blockedBy s hs o.bytes = none → o.acq = false → ∀ it, kfind s.run.items g.item = some it → it.txOpen = true →
    ∃ t h it', exec i s = .next t ∧ grp t s.ctl.cur = some h ∧ Retired (o.form i) g h ∧ NoRegister (o.form i) g h
      ∧ kfind t.run.items g.item = some it'
      ∧ it'.vers = it.vers
          ++ ((Mask.list c.x).zip pas).map (fun e => VerWrite.op ⟨o.op, o.bytes, e.2, o.x g e.1, o.y g e.1⟩)
      ∧ it'.relLines = it.relLines ++ (if o.rel || g.relFence then pas.map fun pa => (w.core, pa / 128) else [])
      ∧ { it' with vers := it.vers, relLines := it.relLines } = it ∧ SameBytes s t ∧ t.mem.ports = s.mem.ports)

/-! ### Fences and monitors (16 R340, R341; 17 R377 to R380; 07 R150 to R154) -/

/-- R377 to R379. MONARM at an address that passes its checks registers the group's monitor on the line of the address,
armed; a MONWAIT whose monitor has fired completes with its outcome (0 write, 1 wake, 2 timeout), with 3 on an idle
monitor, writes it to D, and leaves the monitor idle and unregistered; on an armed monitor that has not timed out it
waits, or stops where a pre-emption of its work item is pending, its timeout counted in AC cycles from the first
MONWAIT; and MONWAIT_TIMEOUT ends that wait. Under REPLAY the outcome is the recorded one (R267), which is left out here. -/
def Obligations.MonitorsArmFireAndTimeOut : Prop :=
  (∀ (f : MNA) (s : State) (g g1 : Group),
    let F : Form := ⟨.monarm f, .once, fun _ => ⟨[(true, f.a.toNat)], [], []⟩, fun _ => dstNone⟩
    F.Issues s g g1 →
    let w := who s s.ctl.cur g
    let va := (rdS g f.a.toNat).toNat
    ∀ p nc k, resolve s w .mon va 1 = .ok p nc → monLineOf p = some k → ownedLoc s p 1 = false →
    ∃ t h, exec (.monarm f) s = .next t ∧ grp t s.ctl.cur = some h ∧ Retired F g h ∧ h.mon = .armed k
      ∧ (s.ctl.cur, k) ∈ t.mem.mons ∧ (∀ e ∈ t.mem.mons, e.1 = s.ctl.cur → e.2 = k)
      ∧ KeptVs (F.regs g) g h ∧ KeptSs (F.regs g) g h ∧ SameBytes s t ∧ t.mem.ports = s.mem.ports)
  ∧ (∀ (f : MNW) (s : State) (g g1 : Group) (o : Nat),
    let F : Form := ⟨.monwait f, .once, fun _ => ⟨[(true, f.tmo.toNat)], [], [(true, f.d.toNat)]⟩,
      fun _ => dstS f.d.toNat⟩
    F.Issues s g g1 → replaying (who s s.ctl.cur g).l = false →
    (match g.mon with
      | .idle => o = 3
      | .fired _ x => o = x
      | .armed _ => g.monTimeout = true ∧ o = 2) →
    ∃ t h, exec (.monwait f) s = .next t ∧ grp t s.ctl.cur = some h ∧ Retired F g h ∧ h.mon = .idle
      ∧ (∀ e ∈ t.mem.mons, e.1 ≠ s.ctl.cur)
      ∧ (∀ x, rdS h x = if x = f.d.toNat ∧ f.d ≠ 63 then BitVec.ofNat 64 o else keptS (F.regs g) g x)
      ∧ KeptVs (F.regs g) g h ∧ SameBytes s t ∧ t.mem.ports = s.mem.ports)
  ∧ (∀ (f : MNW) (s : State) (g g1 : Group) (k : MonLine),
    let F : Form := ⟨.monwait f, .once, fun _ => ⟨[(true, f.tmo.toNat)], [], [(true, f.d.toNat)]⟩,
      fun _ => dstS f.d.toNat⟩
    F.Issues s g g1 → replaying (who s s.ctl.cur g).l = false → g.mon = .armed k → g.monTimeout = false →
    let tmo := (rdS g f.tmo.toNat).toNat
    ∃ t h, exec (.monwait f) s = .next t ∧ grp t s.ctl.cur = some h ∧ h.wait = some .monwait ∧ h.mon = .armed k
      ∧ h.monEnd = (if tmo = 0 then none else some (g.monEnd.getD ((delayed s g).ctl.clk + tmo)))
      ∧ h.points = g.points + (if g.pointed then 0 else 1) ∧ h.pc = (if h.stat = .run then g.pc else g.hints.first.getD g.pc)
      ∧ h.stat = (if (who s s.ctl.cur g).it.preempt = none then .run else .stopped .monwait)
      ∧ h.active = g.active ∧ KeptVs noRegs g h ∧ KeptSs noRegs g h ∧ SameP g h ∧ SameFlags g h ∧ t.mem = s.mem)
  ∧ ∀ (s : State) (gid n : Nat) (g : Group) (k : MonLine),
    grp s gid = some g → g.mon = .armed k → g.monEnd = some n → g.stat = .run → g.wait = some .monwait →
    ∃ t h, exec (.monwaitTimeout gid) s = .next t ∧ grp t gid = some h ∧ h = { g with monTimeout := true }
      ∧ n ≤ t.ctl.clk ∧ t.mem = s.mem ∧ t.part = s.part ∧ t.host = s.host

/-! ### Control flow (03 R62 to R68; 15 R317, R319, R321, R322, R332; 17 R376, R389, R391) -/

/-- R319, R67, R68. BRA: with the condition in every active lane it jumps to a + 4 * sext(OFF22), in none it falls
through, and a mixed condition outside split mode traps with DIVERGE, the lanes in which it holds in TRAPINFO; the
stack is untouched. R68, R186. In split mode RCV only goes on; BDIV acts as BRA to Tpc; a mixed condition of either
splits the running subgroup: the lanes in which it holds go on at the target, the others of the subgroup at the next
address, both under the parent of the subgroup, while the group stays in split mode; the lanes of every other subgroup
keep their place. With every lane or no lane in the condition the subgroup stays whole. A split that would need a
ninth entry takes DIVERGE to firmware, which parks the group; that firmware parks it is the model's choice (log entry
22); inside an open transaction at rung 0 to 2 the attempt is marked to restart at rung 3 instead (R186). No lane is
lost, and the stack stands. -/
def Obligations.BranchesInAndOutOfSplitMode : Prop :=
  (∀ (f : BF) (s : State) (g g1 : Group),
    let F := plainForm (.bra f) .none
    F.Issues s g g1 →
    let c := (if f.neg then ~~~(rdP g f.p.toNat) else rdP g f.p.toNat) &&& g.active
    (c = g.active → ∃ t h, exec (.bra f) s = .next t ∧ grp t s.ctl.cur = some h
      ∧ JumpedOnly F g h (offsetFrom g.pc f.off) g.active g.stack ∧ OnlyGroup s t)
    ∧ (c = 0 → g.active ≠ 0 → ∃ t h, exec (.bra f) s = .next t ∧ grp t s.ctl.cur = some h
      ∧ JumpedOnly F g h (pcAfter g.pc 4) g.active g.stack ∧ OnlyGroup s t)
    ∧ (c ≠ g.active → c ≠ 0 → g.split = none → F.TrapsWith s g cDIVERGE c g.active))
  ∧ (∀ (s : State) (g g1 : Group) (tab : List SplitEntry) (k : Nat), g.split = some (tab, k) → k < tab.length → g.lanesApart →
    let it := (kfind s.run.items g.item).getD Item.fresh
    let here := (tab.getD k ⟨0, 0, 0, none⟩).parent
    let moved (h : Group) (c : Mask) (target : Nat) : Prop := ∀ l, l < 64 →
      (h.laneAt l).map (·.1) = (if Mask.has g.active l then some (if Mask.has c l then target else pcAfter g.pc 4)
        else (g.laneAt l).map (·.1))
      ∧ (h.split.isSome → h.laneAt l = (if Mask.has g.active l then
          some (if Mask.has c l then target else pcAfter g.pc 4, here) else g.laneAt l))
    ((plainForm .rcv .none).Issues s g g1 → ∃ t h, exec .rcv s = .next t ∧ grp t s.ctl.cur = some h
      ∧ h.stack = g.stack ∧ h.kept = g.kept ∧ moved h 0 0 ∧ OnlyGroup s t)
    ∧ ∀ (i : Instr) (p : BitVec 3) (neg : Bool) (target : Nat),
      (∃ f : BF, i = .bra f ∧ p = f.p ∧ neg = f.neg ∧ target = offsetFrom g.pc f.off)
        ∨ (∃ f : BDF, i = .bdiv f ∧ p = f.p ∧ neg = f.neg ∧ target = offsetFrom g.pc f.toff) →
      (plainForm i .none).Issues s g g1 →
      let c := (if neg then ~~~(rdP g p.toNat) else rdP g p.toNat) &&& g.active
      (c = g.active ∨ c = 0 ∨ tab.length < 8 →
        ∃ t h, exec i s = .next t ∧ grp t s.ctl.cur = some h ∧ h.stack = g.stack ∧ h.kept = g.kept ∧ h.sig = g.sig
          ∧ h.threads = g.threads ∧ moved h c target ∧ KeptVs noRegs g h ∧ KeptSs noRegs g h ∧ SameP g h ∧ OnlyGroup s t)
      ∧ (c ≠ g.active → c ≠ 0 → 8 ≤ tab.length → it.txOpen = true → it.rung ≤ 2 →
        (kfind s.run.items g.item).isSome →
        ∃ t h it', exec i s = .next t ∧ grp t s.ctl.cur = some h ∧ h.stat = g.stat ∧ h.split = g.split ∧ h.pc = g.pc
          ∧ h.active = g.active ∧ h.stack = g.stack ∧ KeptVs noRegs g h ∧ KeptSs noRegs g h ∧ SameP g h
          ∧ kfind t.run.items g.item = some it' ∧ it'.abort = some (it.abort.getD ⟨3, false, true, true⟩))
      ∧ (c ≠ g.active → c ≠ 0 → 8 ≤ tab.length → ¬ (it.txOpen = true ∧ it.rung ≤ 2) → canPost s 0 = true →
        ∃ t h, exec i s = .next t ∧ grp t s.ctl.cur = some h ∧ h.stat = .parkTrap cDIVERGE ∧ h.trapinfo = c
          ∧ h.split = g.split ∧ h.active = g.active ∧ h.stack = g.stack ∧ h.pc = g.hints.first.getD g.pc
          ∧ KeptVs noRegs g h ∧ KeptSs noRegs g h ∧ SameP g h))

/-- R63, R66, R317. BDIV: with no active lane left over it jumps to Tpc, with none in the condition it falls through,
and neither pushes; otherwise it pushes a DIV entry for Rpc unless that stands on top, and a PEND entry for the lanes
that do not branch unless their path starts at Rpc, and the branching lanes go on at Tpc; with Tpc = Rpc the others go
on. A push into the four reserved slots traps with STACK_OVERFLOW and pushes nothing. The core keeps the newest 32
slots: the slots that a push moves out are stored in the group's spill area, and below them the stack is what that
area holds (R66); the address of that area is the model's choice (log entry 33). Stated outside split mode, and where
that spill translates. R64, R389. RCV at its own address runs the loop of R64 on the stack; it falls through, with
stack and mask unchanged, when the top entry is for another address. The slots that the core has spilled are read back
from the spill area (R66). -/
def Obligations.DivergeAndReconverge : Prop :=
  (∀ (f : BDF) (s : State) (g g1 : Group),
    let F := plainForm (.bdiv f) .none
    F.Issues s g g1 → g.split = none →
    let c := (if f.neg then ~~~(rdP g f.p.toNat) else rdP g f.p.toNat) &&& g.active
    let n := g.active &&& ~~~c
    let tpc := offsetFrom g.pc f.toff
    let rpc := offsetFrom g.pc f.roff
    let nt := pcAfter g.pc 4
    let old := F.stack s g
    let div : List Entry := match old with
      | .div a _ :: _ => if a = rpc then [] else [.div rpc g.active]
      | _ => [.div rpc g.active]
    let pend : List Entry := if tpc = rpc ∨ nt = rpc then [] else [.pend nt n]
    let goes (pc : Nat) (m : Mask) (st : List Entry) : Prop :=
      ∃ t h, exec (.bdiv f) s = .next t ∧ grp t s.ctl.cur = some h ∧ h.pc = pc ∧ h.active = m ∧ h.ref = m ∧ h.stack = st
        ∧ h.sig = g.sig ∧ KeptVs noRegs g h ∧ KeptSs noRegs g h ∧ SameP g h ∧ SameFlags g h
        ∧ t.mem = (spillOut (F.begun s g g1) (who s s.ctl.cur g) g (slotsOf g.stack) st).mem
        ∧ (slotsOf st ≤ 32 ∨ slotsOf st ≤ slotsOf g.stack → JumpedOnly F g h pc m st ∧ OnlyGroup s t)
    let fits := pend = [] ∧ div = [] ∨ slotsOf g.stack + pend.length + div.length + 4
      ≤ 32 + ((kfind s.run.launches g.launch).getD Launch.fresh).img.spill
    let slots := slotsOf g.stack + pend.length + div.length
    (n = 0 → goes tpc g.active g.stack)
    ∧ (c = 0 → n ≠ 0 → goes nt g.active g.stack)
    ∧ (c ≠ 0 → n ≠ 0 → fits → SpillsOk s g slots → tpc ≠ rpc → goes tpc c (pend ++ div ++ old))
    ∧ (c ≠ 0 → n ≠ 0 → fits → SpillsOk s g slots → tpc = rpc → goes nt n (div ++ old))
    ∧ (c ≠ 0 → n ≠ 0 → ¬ fits → F.TrapsWith s g cSTACK (BitVec.ofNat 64 (slotsOf g.stack)) g.active))
  ∧ (∀ (s : State) (g g1 : Group) (st : List Entry) (m : Mask) (pc : Nat),
    let F := plainForm .rcv .none
    F.Issues s g g1 → g.split = none → RcvLoop g.pc (pcAfter g.pc 4) (F.stack s g) g.active st m pc →
    SpillsOk s g (slotsOf st) →
    ∃ t h, exec .rcv s = .next t ∧ grp t s.ctl.cur = some h ∧ JumpedOnly F g h pc m st ∧ OnlyGroup s t)

/-- R321, R322, R391. CALL and CALLX run once for the group, write the address after them to s62 and jump; RET, BRX
and CALLX jump to bits [55:2] of their register, read before the link is written; the stack and the mask stand. The
word 0xE800_0080 is a CALL that goes from 0x0200 to 0x0400. R376. LOOP decrements S modulo 2^64 and jumps to a + 4 *
sext(OFF20) unless the new value is 0; S = 63 traps with ILLEGAL_OPERAND. -/
def Obligations.CallsAndLoops : Prop :=
  ((decodeTableWord 32 0xE8000080 = some (.call ⟨0x80⟩) ∧ offsetFrom 0x200 (0x80 : BitVec 26) = 0x400)
  ∧ (∀ (f : JF) (s : State) (g g1 : Group),
    let F : Form := ⟨.call f, .once, fun _ => ⟨[], [], [(true, 62)]⟩, fun _ => dstS 62⟩
    F.Issues s g g1 → ∃ t h, exec (.call f) s = .next t ∧ grp t s.ctl.cur = some h
      ∧ Jumped F g h (offsetFrom g.pc f.off) g.active g.stack
      ∧ (∀ x, rdS h x = if x = 62 then BitVec.ofNat 64 (g.pc + 4) else rdS g x) ∧ OnlyGroup s t)
  ∧ (∀ (f : KF) (s : State) (g g1 : Group),
    let F : Form := ⟨.callx f, .once, fun _ => ⟨[(true, f.s.toNat)], [], [(true, 62)]⟩, fun _ => dstS 62⟩
    F.Issues s g g1 → ∃ t h, exec (.callx f) s = .next t ∧ grp t s.ctl.cur = some h
      ∧ Jumped F g h (4 * ((rdS g f.s.toNat).extractLsb' 2 54).toNat) g.active g.stack
      ∧ (∀ x, rdS h x = if x = 62 then BitVec.ofNat 64 (g.pc + 4) else rdS g x) ∧ OnlyGroup s t)
  ∧ ∀ (f : KF) (i : Instr) (s : State) (g g1 : Group), (i = .ret f ∨ i = .brx f) →
    let F : Form := ⟨i, .once, fun _ => ⟨[(true, f.s.toNat)], [], []⟩, fun _ => dstNone⟩
    F.Issues s g g1 → ∃ t h, exec i s = .next t ∧ grp t s.ctl.cur = some h
      ∧ JumpedOnly F g h (4 * ((rdS g f.s.toNat).extractLsb' 2 54).toNat) g.active g.stack ∧ OnlyGroup s t)
  ∧ (∀ (f : LPF) (s : State) (g g1 : Group),
    let F : Form := ⟨.loop f, .once, fun _ => ⟨[(true, f.s.toNat)], [], [(true, f.s.toNat)]⟩, fun _ => dstS f.s.toNat⟩
    F.Issues s g g1 →
    let n := rdS g f.s.toNat - 1
    (f.s ≠ 63 → ∃ t h, exec (.loop f) s = .next t ∧ grp t s.ctl.cur = some h
      ∧ Jumped F g h (if n = 0 then pcAfter g.pc 4 else offsetFrom g.pc f.off) g.active g.stack
      ∧ (∀ x, rdS h x = if x = f.s.toNat then n else rdS g x) ∧ OnlyGroup s t)
    ∧ (f.s = 63 → F.TrapsWith s g cOPERAND ((wordOf (.loop f)).setWidth 64) g.active))

/-- R65, R242, R332. EXIT removes its executing lanes from the group and from every DIV and PEND mask. While an active
lane remains, the group goes on after it. Otherwise the entries whose masks are empty are popped, and the first other
entry resumes: a DIV or PEND entry at its PC with its lanes, a TRAP entry as TRET.NEXT resumes it, without the exited
lanes. When no entry is left, the group ends. With no executing lane EXIT has no effect. The spilled slots of the
stack are read back from the spill area, and this is stated where they translate (R66). R383, R423, R375, R244. NOP
changes nothing but what every issue moves. YIELD and LIVE are pre-emption points: with no request pending for the
work item they count a point and change nothing else; with one pending, the group stops there, after the instruction.
Under REPLAY the log decides (R266), so it is left out here. -/
def Obligations.ExitNopAndPoints : Prop :=
  (∀ (s : State) (g g1 : Group),
    let F := plainForm .exit .lanes
    F.Issues s g g1 → g.split = none →
    let x := execLanes g .lanes
    let left := g.active &&& ~~~x
    let gone (e : Entry) : Prop := (∃ p k, e = .div p k ∨ e = .pend p k) ∧ ∀ p k, e = .div p k ∨ e = .pend p k → k &&& ~~~x = 0
    (x ≠ 0 → left = 0 → SpillsOk s g 0) →
    ∃ t h, exec .exit s = .next t ∧ grp t s.ctl.cur = some h ∧ SameBytes s t
      ∧ KeptVs noRegs g h ∧ KeptSs noRegs g h ∧ SameP g h ∧ SameFlags g h ∧ h.exited = g.exited ||| x
      ∧ (x = 0 → h.pc = pcAfter g.pc 4 ∧ h.active = g.active ∧ h.stack = g.stack ∧ h.stat = .run)
      ∧ (x ≠ 0 → left ≠ 0 →
          h.pc = pcAfter g.pc 4 ∧ h.active = left ∧ h.stack = (F.stack s g).map (dropLanes x)
            ∧ h.stat = .run)
      ∧ (x ≠ 0 → left = 0 → ∀ popped rest, F.stack s g = popped ++ rest → (∀ e ∈ popped, gone e) →
          (∀ p k e, rest = e :: rest.drop 1 → (e = .div p k ∨ e = .pend p k) → k &&& ~~~x ≠ 0 →
            h.pc = p ∧ h.active = k &&& ~~~x ∧ h.stack = (rest.drop 1).map (dropLanes x) ∧ h.stat = .run)
          ∧ (∀ e, rest = .trap e :: rest.drop 1 → e.active &&& ~~~(g.exited ||| x) ≠ 0 →
            h.pc = e.next ∧ h.active = e.active &&& ~~~(g.exited ||| x) ∧ h.sig = e.sig
              ∧ h.stack = (rest.drop 1).map (dropLanes x) ∧ h.stat = .run)
          ∧ (rest = [] → h.stat = .ended ∧ h.active = 0
              ∧ ∀ l, kfind s.run.launches g.launch = some l → ∃ l', kfind t.run.launches g.launch = some l'
                ∧ groupNumber l ((kfind s.run.items g.item).getD Item.fresh) g.gidx ∈ l'.gone)))
  ∧ ((∀ (s : State) (g g1 : Group), (plainForm .nop .lanes).Issues s g g1 →
    ∃ t h, exec .nop s = .next t ∧ grp t s.ctl.cur = some h ∧ Retired (plainForm .nop .lanes) g h
      ∧ KeptVs noRegs g h ∧ KeptSs noRegs g h ∧ SameP g h ∧ SameFlags g h ∧ h.kept = g.kept ∧ OnlyGroup s t)
  ∧ ∀ (i : Instr) (p : StopAt) (s : State) (g g1 : Group),
    let F := plainForm i (if p = .yield then .lanes else .none)
    (i = .yield ∧ p = .yield ∨ ∃ f, i = .live f ∧ p = .live f ∧ g.hints = Hints.none) → F.Issues s g g1 →
    replaying (who s s.ctl.cur g).l = false →
    let it := (kfind s.run.items g.item).getD Item.fresh
    ∃ t h, exec i s = .next t ∧ grp t s.ctl.cur = some h
      ∧ KeptVs noRegs g h ∧ KeptSs noRegs g h ∧ SameP g h ∧ SameFlags g h ∧ SameBytes s t
      ∧ (execLanes g .lanes = 0 → i = .yield → Retired F g h ∧ h.kept = g.kept)
      ∧ (execLanes g .lanes ≠ 0 ∨ i ≠ .yield → it.preempt = none →
          Retired F g h ∧ { h.kept with points := g.points } = g.kept ∧ h.points = g.points + 1)
      ∧ (execLanes g .lanes ≠ 0 ∨ i ≠ .yield → it.preempt ≠ none →
          h.stat = .stopped p ∧ h.active = g.active ∧ h.pc = pcAfter g.pc (4 * sizeWords i) ∧ h.opens = []))

/-! ### Traps (11 R232 to R243, R253 to R255; 18 R400, R414, R416) -/

/-- R238, R239, R252, R186, R66. Taking a trap. With a handler and two free slots it is delivered in one action: a TRAP entry
with the resume data, active mask and SIG is pushed, the trap registers are loaded, SIG is cleared, the trapped lanes go on
at TRAPVEC; the slots that the entry pushes out of the core are stored in the spill area. Where one of them does not
translate the group parks on a fault record, with the trap due and nothing loaded. The address of the spill area is the
model's choice (log entry 33). Without a handler or free slots the
group parks with the registers loaded, nothing is pushed, and the execution-halt event is posted with KIND 0 for no handler
and 3 for a full stack; while queue 0's ring can take no record the trap stays due instead, which is the model's reading
(log entry 59). Inside an open
transaction at rung 0 to 2 the attempt is marked to restart at rung 3. Registers and flags stand in every case; outside the
spill area so do HBM and every other group. -/
def Obligations.TrapsAreTaken : Prop :=
  ∀ (s : State) (gid : Nat) (g : Group) (r : TrapReq), grp s gid = some g →
    let it := (kfind s.run.items g.item).getD Item.fresh
    let l := (kfind s.run.launches g.launch).getD Launch.fresh
    let w := who s gid g
    let aborts := it.txOpen = true ∧ it.rung ≤ 2
    let room := slotsOf g.stack + 2 ≤ 32 + l.img.spill
    let t := takeTrap s gid g r
    let loaded (h : Group) : Prop := h.trapcause = r.cause ∧ h.trappc = r.pc ∧ h.traplanes = r.lanes ∧ h.trapdst = r.dst
      ∧ h.trapinfo = r.info ∧ h.gdone = r.gdone ∧ h.hints = Hints.none
    ∃ h, grp t gid = some h
      ∧ (∀ x k, rdVl h x k = rdVl g x k) ∧ (∀ x, rdS h x = rdS g x) ∧ SameP g h ∧ SameFlags g h
      ∧ h.trapres = g.trapres ∧ h.trapvec = g.trapvec ∧ t.part = s.part
      ∧ (slotsOf g.stack ≤ 30 ∨ g.trapvec = 0 ∨ ¬ room ∨ aborts →
          (∀ k, k ≠ gid → grp t k = grp s k) ∧ t.mem.hbm = s.mem.hbm ∧ t.mem.ports = s.mem.ports)
      ∧ (aborts → (kfind s.run.items g.item).isSome → h.pc = g.pc ∧ h.stack = g.stack
          ∧ ∃ it', kfind t.run.items g.item = some it' ∧ it'.abort = some (it.abort.getD ⟨3, false, true, true⟩))
      ∧ (¬ aborts → g.trapvec ≠ 0 → room → spillFault s w g (slotsOf g.stack) (slotsOf g.stack + 2) = none →
          loaded h ∧ h.pc = g.trapvec ∧ h.active = r.lanes ∧ h.ref = r.lanes ∧ h.sig = 0 ∧ h.stat = g.stat
          ∧ h.stack = .trap ⟨r.pc, r.cause, g.active, r.dst, r.restarting, r.gather, g.sig, r.lanes, r.next⟩ :: g.stack
          ∧ t.mem = (spillOut s w g (slotsOf g.stack) h.stack).mem ∧ (slotsOf g.stack ≤ 30 → t = setGrp s gid h))
      ∧ (¬ aborts → g.trapvec ≠ 0 → room → ∀ va k, spillFault s w g (slotsOf g.stack) (slotsOf g.stack + 2) = some (va, k) →
          h.trapDue = some r ∧ h.stack = g.stack ∧ h.active = g.active ∧ h.sig = g.sig ∧ h.pc = g.pc
          ∧ (k ≠ walkBusy → poolFull s w.die w.asid va true = false → h.stat = .parkFault
              ∧ ∃ e ∈ t.mem.faults, (Agent.group gid, va, 6) ∈ e.2.agents)
          ∧ (k = walkBusy ∨ poolFull s w.die w.asid va true = true → h.stat = g.stat ∧ h.wait = some .memory))
      ∧ (¬ aborts → g.trapvec = 0 ∨ ¬ room →
          h.stack = g.stack ∧ h.active = g.active ∧ h.sig = g.sig
          ∧ (canPost s 0 = true → loaded h ∧ h.stat = .parkTrap r.cause ∧ h.pc = (if r.restarting then r.pc else r.next)
              ∧ t = postHalt (setGrp s gid h) l.pkt.launchid.toNat (gid / 32) (gid % 32)
                  (if g.trapvec = 0 then 0 else 3) r.pc r.cause r.info.toNat)
          ∧ (canPost s 0 = false → h.trapDue = some r ∧ h.stat = .run ∧ h.wait = some .other ∧ h.pc = g.pc))

/-- R414, R232. TRAP raises, in its executing lanes, the completing trap SOFTWARE (0x20), or BREAK (0x21) for CODE12
0xFFF: the instruction completes, SIG with it, and a group that can take a trap enters its handler with the executing
lanes, the code in TRAPINFO and the address after the TRAP to resume at. With no executing lane TRAP has no effect.
R400, R254. SIGCHK sets SIG to 0; where SIG was EXP23 it has no other effect, and otherwise it raises the completing
trap SIG_MISMATCH for the active lanes with the old SIG and EXP23 in TRAPINFO. -/
def Obligations.TrapAndSigchkInstructions : Prop :=
  (∀ (f : TRAPF) (s : State) (g g1 : Group),
    let F := plainForm (.trap f) .lanes
    let x := execLanes g .lanes
    F.Issues s g g1 →
    (x = 0 → ∃ t h, exec (.trap f) s = .next t ∧ grp t s.ctl.cur = some h ∧ Retired F g h ∧ h.kept = g.kept ∧ OnlyGroup s t)
    ∧ (x ≠ 0 → CanDeliver s s.ctl.cur g → g.split = none →
      ∃ t h e, exec (.trap f) s = .next t ∧ grp t s.ctl.cur = some h ∧ h.stack = .trap e :: g.stack
        ∧ h.pc = g.trapvec ∧ h.active = x ∧ h.sig = 0
        ∧ h.trapcause = (if f.code = 0xFFF then 0x21 else 0x20) ∧ h.trapinfo = f.code.setWidth 64 ∧ h.traplanes = x
        ∧ h.trapdst = 192 ∧ h.trappc = g.hints.first.getD g.pc ∧ h.gdone = 0
        ∧ e.pc = g.hints.first.getD g.pc ∧ e.next = pcAfter g.pc 4 ∧ e.restarting = false ∧ e.active = g.active
        ∧ e.lanes = x ∧ e.sig = sigNext g.sig (sigKey (wordOf (.trap f)) (decide (g.active ≠ g.ref)))
        ∧ KeptVs noRegs g h ∧ KeptSs noRegs g h ∧ SameP g h ∧ PushedOnly s t g h.stack))
  ∧ (∀ (f : SIGF) (s : State) (g g1 : Group),
    let F := plainForm (.sigchk f) .none
    F.Issues s g g1 →
    (g.sig = f.exp → ∃ t h, exec (.sigchk f) s = .next t ∧ grp t s.ctl.cur = some h ∧ Retired F g h ∧ h.sig = 0
      ∧ KeptVs noRegs g h ∧ KeptSs noRegs g h ∧ SameP g h ∧ SameFlags g h ∧ h.kept = g.kept ∧ OnlyGroup s t)
    ∧ (g.sig ≠ f.exp → g.split = none → CanDeliver s s.ctl.cur g →
      ∃ t h e, exec (.sigchk f) s = .next t ∧ grp t s.ctl.cur = some h ∧ h.stack = .trap e :: g.stack
        ∧ h.pc = g.trapvec ∧ h.trapcause = cSIG ∧ h.trapinfo = (0#9 ++ f.exp ++ 0#9 ++ g.sig).setWidth 64
        ∧ h.traplanes = g.active ∧ h.trapdst = 192 ∧ e.sig = 0 ∧ e.next = pcAfter g.pc 4 ∧ e.restarting = false
        ∧ KeptVs noRegs g h ∧ KeptSs noRegs g h ∧ SameP g h ∧ PushedOnly s t g h.stack))

/-- R241, R253. TRET pops the TRAP entry on top: active without the exited lanes and SIG come from it, and the trap
registers reload from the next TRAP entry below. RETRY goes back to TRAPPC, with only the entry's lanes where it marks
GATHER; NEXT goes on after the instruction; FIX first writes TRAPRES into the register that TRAPDST names. With
another entry on top, TRET traps with ILLEGAL; FIX with no destination, with ILLEGAL_OPERAND. Stated where the slots
it refills translate. R66, R135. A BDIV whose push spills to a page that does not translate, and an RCV or TRET that
refills from one, park the group on a fault record, with its stack, mask, SIG and PC as they were. The address of a
group's spill area is the model's choice (log entry 33). -/
def Obligations.TretReturnsAndSpillsPark : Prop :=
  (∀ (i : Instr) (s : State) (g g1 : Group),
    (i = .tretRetry ∨ i = .tretNext ∨ i = .tretFix) →
    let F : Form := ⟨i, .none, if i = .tretFix then fixRegs else fun _ => noRegs, fun _ => dstNone⟩
    F.Issues s g g1 → g.split = none →
    ((∀ e rest, F.stack s g ≠ .trap e :: rest) → F.TrapsWith s g cILLEGAL ((wordOf i).setWidth 64) g.active)
    ∧ ∀ (e : TrapEntry) (rest : List Entry), F.stack s g = .trap e :: rest →
      (i = .tretFix → 192 ≤ e.dst → F.TrapsWith s g cOPERAND ((wordOf i).setWidth 64) g.active)
      ∧ ((i = .tretFix → e.dst < 192) → SpillsOk s g (slotsOf rest) →
        ∃ t h, exec i s = .next t ∧ grp t s.ctl.cur = some h ∧ h.stack = rest ∧ h.active = e.active &&& ~~~g.exited
          ∧ h.ref = h.active ∧ h.sig = e.sig ∧ h.pc = (if i = .tretRetry then e.pc else e.next)
          ∧ h.replay = (if i = .tretRetry ∧ e.gather = true then some e.lanes else none)
          ∧ h.trapres = g.trapres ∧ h.trapinfo = g.trapinfo ∧ OnlyGroup s t ∧ SameFlags g h
          ∧ ((∀ e', .trap e' ∉ rest) → h.trapcause = g.trapcause ∧ h.trappc = g.trappc ∧ h.traplanes = g.traplanes
              ∧ h.trapdst = g.trapdst ∧ h.gdone = g.gdone)
          ∧ (∀ up e' down, rest = up ++ .trap e' :: down → (∀ y, .trap y ∉ up) →
              h.trapcause = e'.cause ∧ h.trappc = e'.pc ∧ h.traplanes = e'.lanes ∧ h.trapdst = e'.dst
              ∧ h.gdone = if e'.gather then e'.active &&& ~~~e'.lanes else 0)
          ∧ (∀ x l, l < 64 → rdVl h x l = if i = .tretFix ∧ e.dst < 64 ∧ x = e.dst ∧ x ≠ 63 ∧ Mask.has e.lanes l
              then kget 0 g.trapres l else rdVl g x l)
          ∧ (∀ x, rdS h x = if i = .tretFix ∧ 64 ≤ e.dst ∧ e.dst < 128 ∧ x = e.dst - 64 ∧ x ≠ 63
              then (kget 0 g.trapres (Mask.lowest e.lanes)).setWidth 64 else rdS g x)
          ∧ (∀ x l, l < 64 → Mask.has (rdP h x) l = if i = .tretFix ∧ 128 ≤ e.dst ∧ x = e.dst - 128 ∧ x ≠ 7
              ∧ Mask.has e.lanes l then (kget 0 g.trapres l).getLsbD 0 else Mask.has (rdP g x) l)))
  ∧ ((∀ (f : BDF) (s : State) (g g1 : Group),
    let F := plainForm (.bdiv f) .none
    F.Issues s g g1 → g.split = none →
    let c := (if f.neg then ~~~(rdP g f.p.toNat) else rdP g f.p.toNat) &&& g.active
    c ≠ 0 → c ≠ g.active →
    let rpc := offsetFrom g.pc f.roff
    let div : Nat := match F.stack s g with
      | .div a _ :: _ => if a = rpc then 0 else 1
      | _ => 1
    let n := slotsOf g.stack + (if offsetFrom g.pc f.toff = rpc ∨ pcAfter g.pc 4 = rpc then 0 else 1) + div
    n + 4 ≤ 32 + ((kfind s.run.launches g.launch).getD Launch.fresh).img.spill → F.SpillParks s g n)
  ∧ (∀ (s : State) (g g1 : Group) (st : List Entry) (m : Mask) (pc : Nat),
    let F := plainForm .rcv .none
    F.Issues s g g1 → g.split = none → RcvLoop g.pc (pcAfter g.pc 4) (F.stack s g) g.active st m pc →
    F.SpillParks s g (slotsOf st))
  ∧ ∀ (i : Instr) (s : State) (g g1 : Group) (e : TrapEntry) (rest : List Entry),
    (i = .tretRetry ∨ i = .tretNext ∨ i = .tretFix ∧ e.dst < 192) →
    let F : Form := ⟨i, .none, if i = .tretFix then fixRegs else fun _ => noRegs, fun _ => dstNone⟩
    F.Issues s g g1 → F.stack s g = .trap e :: rest → F.SpillParks s g (slotsOf rest))

/-! ### State registers (04 R92, R93; 15 R324; 18 R402 to R404) -/

/-- R30, R35, R54, R93, R123, R179, R228, R259, R260, R402, R403. SRD of a class V register writes its value to the
v-register in each executing lane, SRD of a class S register once to the s-register, zero-extended; v63 and s63
discard it; nothing else changes. An index that R93 does not list for user code traps with ILLEGAL_OPERAND. The
values: the thread's place in the tree and on the part (R54), FPMODE, the trap registers, RSTACKP, SIG, DEADREAD,
CHECKN, LANEID, FPFLAGS, SATF, TRAPRES, RUNG, TXSTAT and TXTILE (R179), TBAND (R30), TIMCLASS (R35), WSWIN (R122,
R123), DETMODE (R259), HEATNO (R260) and PACERQ (R228). The recorded registers are stated outside RECORD and REPLAY.
Where the die's window timer stands is a free value within its bounds (log entry 15). R93, R239, R112, R86, R228,
R404. SWR writes a class V register in each executing lane from the v-register and a class S register once from the
s-register: FPMODE takes bits [8:0], TRAPVEC bits [55:2] with zeros below, CHECKN at most 16; FPFLAGS, SATF and SEEN
lose the bits written as 1; TRAPEN takes bit 8; UNITS of PACERQ is served before the group goes on; a write to a
read-only register leaves everything and does not trap. R324. CLK writes the AC cycle count, modulo 2^64, to the
s-register; the count never goes back. How far it has advanced is a free value (log entry 2). Stated outside RECORD
and REPLAY. -/
def Obligations.StateRegistersReadAndWritten : Prop :=
  (∀ (f : SF) (s : State) (g g1 : Group),
    let idx := f.idx.toNat
    let uni := isClassS idx
    let F : Form := ⟨.srd f, if uni then .once else .lanes, fun _ => ⟨[], [], [(uni, f.d.toNat)]⟩,
      fun _ => if uni then dstS f.d.toNat else dstV f.d.toNat⟩
    let w := who s s.ctl.cur g
    F.Issues s g g1 →
    let it := w.it
    let y := s.part.cryo
    let n := groupNumber w.l it g.gidx
    let fan (k : Nat) : Nat := ((w.l.img.levels.drop (k - 1)).head?.map (·.fan)).getD 0
    let inst (k : Nat) : Nat := n / ((w.l.img.levels.take k).drop 1).foldl (fun a e => a * e.fan) 1
    let D := w.l.img.levels.length
    let heats := w.l.heats.filter fun e => instAt w.l.img e.level n == e.inst
    (∀ val : Nat → W32, (idx, val) ∈ [(0x000, fun l => BitVec.ofNat 32 l), (0x020, fun l => BitVec.ofNat 32 l),
        (0x041, fun l => (kget 0 g.fpflags l).setWidth 32), (0x042, fun l => (kget 0 g.satf l).setWidth 32),
        (0x04D, fun l => kget 0 g.trapres l)] →
      ∃ t h, exec (.srd f) s = .next t ∧ grp t s.ctl.cur = some h ∧ Retired F g h ∧ OnlyGroup s t
        ∧ (∀ x l, l < 64 → rdVl h x l =
            if x = f.d.toNat ∧ x ≠ 63 ∧ Mask.has (execLanes g .lanes) l then val l else rdVl g x l)
        ∧ KeptSs noRegs g h ∧ SameP g h ∧ SameFlags g h ∧ h.kept = g.kept)
    ∧ (∀ val : Nat, (idx, val) ∈ [(0x025, s.part.pkgid), (0x026, s.part.nodeid), (0x027, w.l.pkt.launchid.toNat),
        (0x028, w.l.img.levels.length), (0x040, g.fpmode.toNat), (0x048, g.trapvec), (0x049, g.trapcause),
        (0x04A, g.trappc), (0x04B, g.traplanes.toNat), (0x04C, g.trapdst), (0x04E, g.trapinfo.toNat),
        (0x04F, g.gdone.toNat), (0x050, slotsOf g.stack), (0x051, g.sig.toNat), (0x053, deadreadOf g),
        (0x071, w.l.pkt.prio), (0x0B0, g.checkn), (0x060, it.rung + 4 * it.pred), (0x062, it.index),
        (0x090, w.l.pkt.det + 4 * w.l.logfull.toNat + 8 * w.l.diverged.toNat)]
          ∨ (1 ≤ idx ∧ idx < 0x10 ∧ val = if idx < D then inst idx % fan (idx + 1) else if idx = D then inst D else 0)
          ∨ (idx = 0x10 ∧ val = 1)
          ∨ (0x10 < idx ∧ idx < 0x20
              ∧ val = if idx - 0x10 ≤ D then fan (idx - 0x10) else if idx - 0x10 = D + 1 then w.l.pkt.lcount else 0)
          ∨ (idx = 0x091 ∧ heats = [] ∧ val = 0)
          ∨ (idx = 0x091 ∧ ∃ e ∈ heats, (∀ x ∈ heats, x ≠ e → e.level < x.level) ∧ val = e.count) →
      ∃ t h, exec (.srd f) s = .next t ∧ grp t s.ctl.cur = some h ∧ Retired F g h ∧ OnlyGroup s t
        ∧ (∀ x, rdS h x = if x = f.d.toNat ∧ x ≠ 63 then BitVec.ofNat 64 val else rdS g x)
        ∧ KeptVs noRegs g h ∧ SameP g h ∧ SameFlags g h ∧ h.kept = g.kept)
    ∧ (∀ val : Nat, (idx, val) ∈ [(0x021, s.ctl.cur % 32), (0x022, s.ctl.cur / 32), (0x052, footprintOf g),
        (0x023, if w.l.img.levels.any (fun e => e.bind == 3) then it.cores.headD 0 else 0xFFFFFFFF), (0x024, w.die),
        (0x061, it.txOpen.toNat + 2 * it.trip.toNat + 4 * it.range.toNat + 8 * it.canc.toNat + 16 * it.ord.toNat
          + 2 ^ 8 * it.attempt + 2 ^ 16 * it.clvl),
        (0x080, y.band + 4 * y.ramp.toNat + 8 * y.sensflt.toNat + 16 * (y.temp / 100 % 2 ^ 12)),
        (0x081, y.cls + 4 * y.change.isSome.toNat + 16 * y.state + 2 ^ 8 * y.chg),
        (0x0A0, g.pq.units + 2 ^ 16 * g.pq.pend.isSome.toNat + 2 ^ 17 * g.pq.held.isSome.toNat
          + 2 ^ 32 * (g.pq.held.getD 0 / 2 ^ 16 % 2 ^ 16))] →
      w.l.pkt.det = 0 →
      ∃ t h, exec (.srd f) s = .next t ∧ grp t s.ctl.cur = some h ∧ Retired F g h
        ∧ (∀ x, rdS h x = if x = f.d.toNat ∧ x ≠ 63 then BitVec.ofNat 64 val else rdS g x)
        ∧ KeptVs noRegs g h ∧ SameP g h ∧ SameFlags g h ∧ SameBytes s t)
    ∧ (idx = 0x082 → w.l.pkt.det = 0 →
      let x := s.part.ws.getD w.die WsWin.idle
      ∃ t h next left, exec (.srd f) s = .next t ∧ grp t s.ctl.cur = some h ∧ Retired F g h ∧ OnlyGroup s t
        ∧ (f.d ≠ 63 → rdS h f.d.toNat = BitVec.ofNat 64 (next + 2 ^ 32 * x.next + 2 ^ 36 * x.openBg.isSome.toNat
            + 2 ^ 40 * x.openBg.getD 0 + 2 ^ 48 * left))
        ∧ (x.openBg = none → left = 0 ∧ next ≤ windowSpacing (longCadence y))
        ∧ (x.openBg.isSome → left ≤ windowLength x ∧ next = left + windowGap x (longCadence y))
        ∧ (∀ z, z ≠ f.d.toNat → rdS h z = rdS g z) ∧ KeptVs noRegs g h ∧ SameP g h ∧ SameFlags g h ∧ h.kept = g.kept)
    ∧ (isClassV idx = false → uni = false → F.TrapsWith s g cOPERAND ((wordOf (.srd f)).setWidth 64) g.active))
  ∧ (∀ (f : SF) (s : State) (g g1 : Group),
    let idx := f.idx.toNat
    let uni := isClassS idx
    let F : Form := ⟨.swr f, if uni then .once else .lanes, fun _ => ⟨[(uni, f.d.toNat)], [], []⟩, fun _ => dstNone⟩
    F.Issues s g g1 → (isClassV idx = true ∨ uni = true) → deadRead g (F.regs g).reads = none →
    let x := rdS g f.d.toNat
    let xl (l : Nat) : W32 := rdVl g f.d.toNat l
    let on (l : Nat) : Bool := Mask.has (execLanes g .lanes) l
    ∃ t h, exec (.swr f) s = .next t ∧ grp t s.ctl.cur = some h ∧ Retired F g h ∧ OnlyGroup s t
      ∧ KeptVs noRegs g h ∧ KeptSs noRegs g h ∧ SameP g h
      ∧ h.fpmode = (if idx = 0x040 then x.setWidth 9 else g.fpmode)
      ∧ h.trapvec = (if idx = 0x048 then 4 * (x.extractLsb' 2 54).toNat else g.trapvec)
      ∧ h.checkn = (if idx = 0x0B0 then min 16 (x.extractLsb' 0 5).toNat else g.checkn)
      ∧ h.seen = (if idx = 0x053 then g.seen && !(x.getLsbD 0) else g.seen)
      ∧ h.trapen = (if idx = 0x053 then x.getLsbD 8 else g.trapen)
      ∧ h.pq = (if idx = 0x0A0 then { g.pq with write := some (x.extractLsb' 0 16).toNat } else g.pq)
      ∧ (∀ l, l < 64 → kget 0 h.fpflags l =
          if idx = 0x041 ∧ on l then kget 0 g.fpflags l &&& ~~~((xl l).setWidth 5) else kget 0 g.fpflags l)
      ∧ (∀ l, l < 64 → kget 0 h.satf l =
          if idx = 0x042 ∧ on l then kget 0 g.satf l &&& ~~~((xl l).setWidth 2) else kget 0 g.satf l)
      ∧ (∀ l, l < 64 → kget 0 h.trapres l = if idx = 0x04D ∧ on l then xl l else kget 0 g.trapres l)
      ∧ h.trapcause = g.trapcause ∧ h.trappc = g.trappc ∧ h.traplanes = g.traplanes ∧ h.trapdst = g.trapdst
      ∧ h.trapinfo = g.trapinfo ∧ h.gdone = g.gdone ∧ h.stack = g.stack ∧ h.firstreg = g.firstreg ∧ h.dfile = g.dfile)
  ∧ (∀ (f : CLKF) (s : State) (g g1 : Group),
    let F : Form := ⟨.clk f, .once, fun _ => ⟨[], [], [(true, f.d.toNat)]⟩, fun _ => dstS f.d.toNat⟩
    F.Issues s g g1 → (who s s.ctl.cur g).l.pkt.det = 0 →
    ∃ t h, exec (.clk f) s = .next t ∧ grp t s.ctl.cur = some h ∧ Retired F g h ∧ s.ctl.clk ≤ t.ctl.clk
      ∧ (∀ x, rdS h x = if x = f.d.toNat ∧ x ≠ 63 then BitVec.ofNat 64 t.ctl.clk else rdS g x)
      ∧ KeptVs noRegs g h ∧ SameP g h ∧ SameFlags g h ∧ h.kept = g.kept ∧ OnlyGroup s t)

/-! ### Barriers and heats (15 R314 to R316; 16 R348, R349) -/

/-- R315, R316, R251. A BAR or BARW whose group has no arrival outstanding arrives. When that completes the phase
(every other group of the instance has arrived or is gone), the next phase opens with nobody in it, the group leaves
and goes on, and PD in the executing lanes says whether barrier-abandoned status was pending at that level; that a BAR
counts as a pre-emption point also where it does not wait is the model's choice (log entry 60). Otherwise the group
waits, its arrival counted, and no register changes. R316. BARA arrives in the open phase and goes on, and writes no
register; a BARA whose group has an arrival in a phase not yet complete waits with nothing changed. A BAR or BARW that
waits in a phase by now complete leaves it. R349, R224, R160. A first HEAT arrives and waits; when every participant
of the instance has arrived or is gone and the communication step has ended, HEAT_BOUNDARY performs the participants'
writes as a release at the level does, empties their cores' L1s and advances the heat count modulo 2^32; a group that
waits for a heat already past leaves, with its registers as they were. -/
def Obligations.BarriersAndHeats : Prop :=
  (∀ (i : Instr) (f : YF) (s : State) (g g1 : Group) (l : Launch), (i = .bar f ∨ i = .barw f) →
    let F : Form := ⟨i, .lanes, fun _ => noRegs, fun _ => dstP f.pd.toNat⟩
    F.Issues s g g1 →
    let c := F.ctx s g
    let id := f.id.toNat
    let lvl := f.lvl.toNat
    let inst := instOf c lvl
    let b := openBarrier l id lvl inst
    let key := barKey id lvl
    barPre lvl id c = none → kfind s.run.launches g.launch = some l → kfind g.barArr key = none →
    ∃ t h l', exec i s = .next t ∧ grp t s.ctl.cur = some h ∧ kfind t.run.launches g.launch = some l' ∧ Drained s t
      ∧ (allArrived l lvl inst (b.arrived ++ [selfNumber c]) = true →
          Retired F g h ∧ kfind h.barArr key = none ∧ barrierOf l' id lvl inst = ⟨id, lvl, inst, b.phase + 1, []⟩
          ∧ PredLeaves F c f.pd.toNat (fun _ => !(abandonedAt c lvl).isEmpty) g
              { h with
                barArr := g.barArr
                abandoned := g.abandoned
                readLines := g.readLines
                readOver := g.readOver
                mon := g.mon
                points := g.points }
          ∧ h.points = g.points + (if g.pointed then 0 else 1)
          ∧ h.abandoned = g.abandoned.filter (fun n => !(instAt c.w.l.img lvl n == inst)))
      ∧ (allArrived l lvl inst (b.arrived ++ [selfNumber c]) = false → pointDue c = false → h.wait = some .barrier
          ∧ kfind h.barArr key = some (b.phase, 1) ∧ h.pc = g.pc ∧ h.active = g.active ∧ h.hints = g.hints
          ∧ barrierOf l' id lvl inst = ⟨id, lvl, inst, b.phase, b.arrived ++ [selfNumber c]⟩
          ∧ KeptVs noRegs g h ∧ KeptSs noRegs g h ∧ SameP g h ∧ SameFlags g h))
  ∧ ((∀ (f : YA) (s : State) (g g1 : Group) (l : Launch),
    let F : Form := ⟨.bara f, .lanes, fun _ => noRegs, fun _ => dstNone⟩
    F.Issues s g g1 →
    let c := F.ctx s g
    let id := f.id.toNat
    let lvl := f.lvl.toNat
    let inst := instOf c lvl
    let b := openBarrier l id lvl inst
    let key := barKey id lvl
    barPre lvl id c = none → kfind s.run.launches g.launch = some l →
    (kfind g.barArr key = none → ∃ t h l', exec (.bara f) s = .next t ∧ grp t s.ctl.cur = some h ∧ Retired F g h
      ∧ kfind h.barArr key = some (b.phase, 0) ∧ kfind t.run.launches g.launch = some l' ∧ Drained s t
      ∧ barrierOf l' id lvl inst = (if allArrived l lvl inst (b.arrived ++ [selfNumber c])
          then ⟨id, lvl, inst, b.phase + 1, []⟩ else ⟨id, lvl, inst, b.phase, b.arrived ++ [selfNumber c]⟩)
      ∧ KeptVs noRegs g h ∧ KeptSs noRegs g h ∧ SameP g h ∧ SameFlags g h)
    ∧ (∀ k, kfind g.barArr key = some (b.phase, k) →
        exec (.bara f) s = .next (modGrp (delayed s g) s.ctl.cur fun h => { h with wait := some .barrier })))
  ∧ ∀ (i : Instr) (f : YF) (n : Nat) (s : State) (g g1 : Group) (l : Launch),
    (i = .bar f ∨ i = .barw f) →
    let F : Form := ⟨i, .lanes, fun _ => noRegs, fun _ => dstP f.pd.toNat⟩
    F.Issues s g g1 →
    let c := F.ctx s g
    let id := f.id.toNat
    let lvl := f.lvl.toNat
    barPre lvl id c = none → kfind s.run.launches g.launch = some l → kfind g.barArr (barKey id lvl) = some (n, 1) →
    n < (openBarrier l id lvl (instOf c lvl)).phase →
    ∃ t h, exec i s = .next t ∧ grp t s.ctl.cur = some h ∧ Retired F g h ∧ kfind h.barArr (barKey id lvl) = none
      ∧ KeptVs noRegs g h ∧ KeptSs noRegs g h ∧ SameFlags g h
      ∧ (∀ x j, j < 64 → Mask.has (rdP h x) j = if x = f.pd.toNat ∧ x ≠ 7 ∧ Mask.has c.x j
          then !(abandonedAt c lvl).isEmpty else Mask.has (rdP g x) j))
  ∧ ((∀ (f : YH) (s : State) (g g1 : Group) (l : Launch),
    let F : Form := ⟨.heat f, .lanes, fun _ => noRegs, fun _ => dstNone⟩
    F.Issues s g g1 →
    let c := F.ctx s g
    let lvl := f.lvl.toNat
    let inst := instOf c lvl
    heatPre f c = none → kfind s.run.launches g.launch = some l →
    (g.heatArr = none → pointDue c = false → ∃ t h l', exec (.heat f) s = .next t ∧ grp t s.ctl.cur = some h
      ∧ h.wait = some .barrier ∧ h.heatArr = some (lvl, (heatOf l lvl inst).count) ∧ h.pc = g.pc
      ∧ kfind t.run.launches g.launch = some l'
      ∧ (heatOf l' lvl inst).arrived = (heatOf l lvl inst).arrived ++ [selfNumber c] ∧ Drained s t
      ∧ KeptVs noRegs g h ∧ KeptSs noRegs g h ∧ SameP g h ∧ SameFlags g h)
    ∧ (∀ k n, g.heatArr = some (k, n) → (heatOf l lvl inst).count ≠ n →
      ∃ t h, exec (.heat f) s = .next t ∧ grp t s.ctl.cur = some h ∧ Retired F g h ∧ h.heatArr = none
        ∧ KeptVs noRegs g h ∧ KeptSs noRegs g h ∧ SameP g h ∧ SameFlags g h ∧ SameBytes s t))
  ∧ ∀ (lid lvl inst : Nat) (s : State) (l : Launch), kfind s.run.launches lid = some l →
    let hs := heatOf l lvl inst
    hs.arrived ≠ [] → allArrived l lvl inst hs.arrived = true → commOver s lid lvl inst = true →
    ∃ t l', exec (.heatBoundary lid lvl inst) s = .next t ∧ kfind t.run.launches lid = some l'
      ∧ heatOf l' lvl inst = ⟨lvl, inst, (hs.count + 1) % 2 ^ 32, []⟩ ∧ Drained s t
      ∧ (∀ e ∈ instGroups s lid lvl inst, Released l.img lvl e.1 t ∧ ∀ x ∈ t.mem.l1, x.1 / 2 ^ 49 ≠ e.1 / 32))

/-! ### Matrix engine (08 R163 to R173; 05 R109, R111; 18 R409, R412, R413, R415, R420) -/

/-- R415, R420, R170, R172, R84. TZERO zeroes its whole tile; TRD writes tile columns 8c to 8c + 7 of the executing lanes' rows
to eight v-registers; TWR writes eight v-registers to those columns in those rows; each only once no open TMMA and no
unfinished batch names the tile, and otherwise the group waits, an open TMMA that names it closing its batch. A tile
number from AFOOT on, c above 7 or a first register above v56 traps with ILLEGAL_OPERAND. No other tile and no flag
changes. -/
def Obligations.TileInstructions : Prop :=
  ∀ (i : Instr) (F : Form) (a : Nat) (ok : Bool) (s : State) (g g1 : Group),
    let c (f : TRW) : Nat := f.c.toNat
    ((∃ f : TZ, i = .tzero f ∧ F = plainForm i .once ∧ a = f.acc.toNat ∧ ok = true)
      ∨ (∃ f : TRW, i = .trd f ∧ F = ⟨i, .lanes, fun _ => ⟨[], [], regRun false f.x.toNat 8⟩, fun _ => dstV f.x.toNat⟩
          ∧ a = f.acc.toNat ∧ ok = decide (c f < 8 ∧ f.x.toNat ≤ 56))
      ∨ (∃ f : TRW, i = .twr f ∧ F = ⟨i, .lanes, fun _ => ⟨regRun false f.x.toNat 8, [], []⟩, fun _ => dstNone⟩
          ∧ a = f.acc.toNat ∧ ok = decide (c f < 8 ∧ f.x.toNat ≤ 56))) →
    F.Issues s g g1 →
    let fits := ok && decide (a < (who s s.ctl.cur g).l.img.afoot)
    let x := execLanes g F.pol
    let open_ := g.opens.any fun t => t.acc == a
    let busy := open_ || g.batches.any fun b => b.tm.any fun t => t.acc == a
    (fits = false → F.TrapsWith s g cOPERAND ((wordOf i).setWidth 64) g.active)
    ∧ (fits = true → busy = true → ∃ t h, exec i s = .next t ∧ grp t s.ctl.cur = some h ∧ h.wait = some .batch
        ∧ (open_ = true → h.opens = []) ∧ h.pc = g.pc ∧ h.tile = g.tile ∧ h.v = g.v ∧ t.mem = s.mem)
    ∧ (fits = true → busy = false → ∃ t h, exec i s = .next t ∧ grp t s.ctl.cur = some h ∧ Retired F g h
        ∧ OnlyGroup s t ∧ SameP g h ∧ SameFlags g h ∧ KeptSs (F.regs g) g h
        ∧ (∀ b, b ≠ a → ∀ r j, rdTile h b r j = rdTile g b r j)
        ∧ (∀ r j, r < 64 → j < 64 → rdTile h a r j =
            if i matches .tzero _ then 0
            else match i with
              | .twr f => if Mask.has x r ∧ j / 8 = c f then rdVl g (f.x.toNat + j % 8) r else rdTile g a r j
              | _ => rdTile g a r j)
        ∧ (∀ y l, l < 64 → rdVl h y l = match i with
            | .trd f => if f.x.toNat ≤ y ∧ y < f.x.toNat + 8 ∧ y ≠ 63 ∧ Mask.has x l
                then rdTile g a l (8 * c f + (y - f.x.toNat)) else rdVl g y l
            | _ => rdVl g y l))

/-- R412, R169, R170, R409, R171. A TMMA that passes its checks becomes open, capturing its tile, format word,
executing rows, A registers and the address of B (64 open ones are closed into a batch first); with no executing lane
it has no effect. TBATCH closes the open TMMAs into a batch whose number it writes, counting from 1 and wrapping from
0xFFFF_FFFF to 1, or writes the number of the last batch; TWAIT goes on once its batch and those before it have
finished, and waits until then. No tile and no memory changes. R167, R170, R109, R111, R413. The group's first batch
not yet in the engine enters when it has leave and no line of its B spans is owned or in its window, and reads B then.
A batch of one TMMA that finishes, as the oldest, updates each element (i, j) of its tile with i an executing row
below M and j below N: for INT8 to c + the sum over k of A(i, k) * B(k, j) modulo 2^32, for every other format block
by block in ascending k with one rounding to nearest even per block; every other element, tile and register, and
memory, stand. -/
def Obligations.BatchesOpenCloseAndRun : Prop :=
  ((∀ (f : TM) (s : State) (g g1 : Group),
    let F : Form := ⟨.tmma f, .lanes, tmmaRegs f, fun _ => dstNone⟩
    let x := execLanes g .lanes
    F.Issues s g g1 → tmmaPre f (F.ctx s g) = none →
    ∃ t h, exec (.tmma f) s = .next t ∧ grp t s.ctl.cur = some h ∧ Retired F g h ∧ KeptVs (F.regs g) g h
      ∧ KeptSs (F.regs g) g h ∧ SameP g h ∧ SameFlags g h ∧ h.tile = g.tile ∧ t.mem = s.mem ∧ t.run.items = s.run.items
      ∧ (x = 0 → h.kept = g.kept ∧ OnlyGroup s t)
      ∧ (x ≠ 0 → ∃ m : Tmma, m.acc = f.acc.toNat ∧ m.shape = f.shape.toNat ∧ m.rows = x
          ∧ (∀ l, l < 64 → Mask.has x l → m.word = rdVl g (56 + f.f.toNat) l)
          ∧ m.b = (rdS g f.bs.toNat).toNat ∧ (∀ k, k < m.a.length → m.a.getD k [] = rdV g (f.a.toNat + k))
          ∧ m.a.length = aRegs m.word.toNat m.shape
          ∧ (if g.opens.length < 64 then h.opens = g.opens ++ [m] ∧ h.batches = g.batches
             else h.opens = [m] ∧ ∃ b, h.batches = g.batches ++ [b] ∧ b.tm = g.opens ∧ b.entered = none)))
  ∧ (∀ (f : TB) (s : State) (g g1 : Group),
    let F : Form := ⟨.tbatch f, .once, fun _ => ⟨[], [], [(true, f.x.toNat)]⟩, fun _ => dstS f.x.toNat⟩
    F.Issues s g g1 →
    let n := if g.opens = [] then g.lastBatch else if g.lastBatch = 0xFFFFFFFF then 1 else g.lastBatch + 1
    ∃ t h, exec (.tbatch f) s = .next t ∧ grp t s.ctl.cur = some h ∧ Retired F g h ∧ h.opens = [] ∧ h.lastBatch = n
      ∧ (∀ x, rdS h x = if x = f.x.toNat ∧ x ≠ 63 then BitVec.ofNat 64 n else rdS g x)
      ∧ (g.opens = [] → h.batches = g.batches)
      ∧ (g.opens ≠ [] → ∃ b, h.batches = g.batches ++ [b] ∧ b.num = n ∧ b.tm = g.opens ∧ b.entered = none)
      ∧ KeptVs noRegs g h ∧ SameP g h ∧ SameFlags g h ∧ h.tile = g.tile ∧ t.mem = s.mem)
  ∧ ∀ (f : TW) (s : State) (g g1 : Group),
    let F : Form := ⟨.twait f, .once, fun _ => ⟨[(true, f.y.toNat)], [], []⟩, fun _ => dstNone⟩
    F.Issues s g g1 →
    let wait := batchPending g ((rdS g f.y.toNat).toNat % 2 ^ 32)
    (wait = false → ∃ t h, exec (.twait f) s = .next t ∧ grp t s.ctl.cur = some h ∧ Retired F g h ∧ OnlyGroup s t
      ∧ KeptVs noRegs g h ∧ KeptSs noRegs g h ∧ SameP g h ∧ SameFlags g h ∧ h.kept = g.kept)
    ∧ (wait = true → exec (.twait f) s
        = .next (modGrp (delayed s g) s.ctl.cur fun h => { h with wait := some .batch })))
  ∧ ((∀ (s : State) (gid : Nat) (g : Group) (pre post : List Batch) (b : Batch),
    grp s gid = some g → g.batches = pre ++ b :: post → (∀ x ∈ pre, x.entered.isSome) → b.entered = none →
    let w := who s gid g
    exec (.batchEnter gid) s = .next (if b.granted = true ∧ (∀ m ∈ b.tm, bReady s w m = true)
      then setGrp s gid { g with batches := pre ++ { b with entered := some (b.tm.map (bRead s w)) } :: post } else s))
  ∧ ∀ (s : State) (gid : Nat) (g : Group) (b : Batch) (rest : List Batch) (m : Tmma) (bs : List Byte),
    grp s gid = some g → g.batches = b :: rest → b.tm = [m] → b.entered = some [bs] →
    let kk := (tmmaShape m.word.toNat m.shape).2.2
    let kb := blockLen m.word.toNat
    let byte (r j : Nat) : BitVec 8 := BitVec.ofNat 8 ((laneOf 0 (m.a.getD (j / 4) []) r).toNat / 2 ^ (8 * (j % 4)))
    ∃ t h, exec (.batchFinish gid) s = .next t ∧ grp t gid = some h ∧ h.batches = rest ∧ h.v = g.v ∧ h.s = g.s ∧ h.p = g.p
      ∧ h.pc = g.pc ∧ h.opens = g.opens ∧ t.mem = s.mem ∧ (∀ k, k ≠ gid → grp t k = grp s k)
      ∧ (∀ a, a ≠ m.acc → ∀ r j, rdTile h a r j = rdTile g a r j)
      ∧ ∀ r j, r < 64 → j < 64 →
        let on := Mask.has m.rows r ∧ r < (tmmaShape m.word.toNat m.shape).1 ∧ j < (tmmaShape m.word.toNat m.shape).2.1
        (¬ on → rdTile h m.acc r j = rdTile g m.acc r j)
        ∧ (on → m.word = 0x177 → rdTile h m.acc r j = rdTile g m.acc r j
            + BitVec.ofInt 32 (((List.range kk).map fun k => (byte r k).toInt * (bs.getD (j * kk + k) 0).toInt).sum))
        ∧ (on → (m.word.toNat / 2 ^ 8) % 4 ≠ 1 → rdTile h m.acc r j = (List.range (kk / kb)).foldl (fun c n =>
            roundNE (exactAdd (decodeF fp32 c.toNat) (exactSum ((List.range kb).map fun k =>
              (mulV (valA m r (n * kb + k)) (valB m bs (n * kb + k) j)).1)))) (rdTile g m.acc r j)))

/-! ### Transactions (08 R175 to R187; 18 R417 to R419; 07 R161) -/

/-- R417, R176. TXBEGIN: outside a launch with TXN, after the item's commit or after the group's own TXBEGIN it traps
with ILLEGAL, and on a descriptor not on a multiple of 64 with MEM_ALIGN; where the descriptor is read and its fields
pass, the first TXBEGIN of the work item opens the transaction with the descriptor's range, level, window and
thresholds (defaults where it gives zeros), with the checker as R113 says; a later one with the same address only
joins, one with another address traps with ILLEGAL_OPERAND. No register and no byte changes. R418, R419, R183, R187.
TXEND inside the open transaction closes the group's batch and waits; after the commit it completes and changes
nothing; elsewhere it traps with ILLEGAL. TXABORT at rung 0 to 2 completes and marks the work item to restart one rung
higher; at rung 3 or with nothing open it traps with ILLEGAL. -/
def Obligations.TransactionsOpenAndEnd : Prop :=
  (∀ (f : TXB) (s : State) (g g1 : Group),
    let F : Form := ⟨.txbegin f, .once, fun _ => ⟨[(true, f.s1.toNat)], [], []⟩, fun _ => dstNone⟩
    F.Issues s g g1 → deadRead g [(true, f.s1.toNat)] = none →
    let w := who s s.ctl.cur g
    let va := (rdS g f.s1.toNat).toNat
    let off := w.l.pkt.txn = false ∨ w.it.committed = true ∨ g.txBegun = true
    (off → F.TrapsWith s g cILLEGAL ((wordOf (.txbegin f)).setWidth 64) g.active)
    ∧ (¬ off → va % 64 ≠ 0 → F.TrapsWith s g cALIGN (BitVec.ofNat 64 va) g.active)
    ∧ ∀ p nc, ¬ off → check s w .load va 64 = .ok p nc → blockedBy s [⟨0, va, .ok p nc⟩] 64 = none →
      let d := natLe (readLoc s w (pageMode (l1ModeOf g false false) nc) p 64)
      let byte (k : Nat) : Nat := d / 2 ^ (8 * k) % 256
      let word (k : Nat) : Nat := d / 2 ^ (8 * k) % 2 ^ 32
      let sbyte (k : Nat) : Int := (BitVec.ofNat 8 (byte k)).toInt
      ∀ it, kfind s.run.items g.item = some it →
      (it.txOpen = true → va ≠ it.desc → F.TrapsWith s g cOPERAND ((wordOf (.txbegin f)).setWidth 64) g.active)
      ∧ (it.txOpen = true → va = it.desc → ∃ t h, exec (.txbegin f) s = .next t ∧ grp t s.ctl.cur = some h
          ∧ Retired F g h ∧ h.txBegun = true ∧ t.run.items = s.run.items ∧ KeptVs noRegs g h ∧ KeptSs noRegs g h
          ∧ SameBytes s t)
      ∧ (it.txOpen = false → ∀ n k, descFail w d = some (k, n) →
          F.TrapsWith s g k (BitVec.ofNat 64 n) g.active)
      ∧ (it.txOpen = false → descFail w d = none → ∃ t h i', exec (.txbegin f) s = .next t
          ∧ grp t s.ctl.cur = some h ∧ Retired F g h ∧ h.txBegun = true ∧ KeptVs noRegs g h ∧ KeptSs noRegs g h
          ∧ SameBytes s t ∧ kfind t.run.items g.item = some i'
          ∧ i'.txOpen = true ∧ i'.desc = va ∧ i'.scrOff = word 4 ∧ i'.scrLen = word 8 ∧ i'.clvl = byte 12
          ∧ i'.ord = tbit (byte 13) 0 ∧ i'.rung = it.rung ∧ i'.scr = it.scr ∧ i'.verScr = it.verScr
          ∧ i'.headLo = (if byte 14 = 0 ∧ byte 15 = 0 then -126 else sbyte 14)
          ∧ i'.headHi = (if byte 14 = 0 ∧ byte 15 = 0 then 127 else sbyte 15)
          ∧ i'.thetas = [if byte 16 = 0 then 3 else byte 16, if byte 17 = 0 then 5 else byte 17,
              if byte 18 = 0 then 8 else byte 18]
          ∧ i'.checked = (decide (it.rung ≤ 2) && (tbit (byte 13) 1
              || (g.checkn != 0 && it.index % 2 ^ (g.checkn - 1) == 0)))))
  ∧ ((∀ (s : State) (g g1 : Group), (plainForm .txend .once).Issues s g g1 →
    let F := plainForm .txend .once
    let it := (kfind s.run.items g.item).getD Item.fresh
    (it.txOpen = true → ∃ t h, exec .txend s = .next t ∧ grp t s.ctl.cur = some h ∧ h.txEnded = true ∧ h.wait = some .other
      ∧ h.opens = [] ∧ h.pc = g.pc ∧ h.v = g.v ∧ h.s = g.s ∧ t.mem = s.mem ∧ t.run.items = s.run.items)
    ∧ (it.txOpen = false → g.txEnded = true → ∃ t h, exec .txend s = .next t ∧ grp t s.ctl.cur = some h ∧ Retired F g h
      ∧ h.txEnded = false ∧ KeptVs noRegs g h ∧ KeptSs noRegs g h ∧ SameP g h ∧ SameFlags g h ∧ OnlyGroup s t)
    ∧ (it.txOpen = false → g.txEnded = false →
      F.TrapsWith s g cILLEGAL ((wordOf .txend).setWidth 64) g.active))
  ∧ ∀ (s : State) (g g1 : Group), (plainForm .txabort .once).Issues s g g1 →
    let F := plainForm .txabort .once
    let it := (kfind s.run.items g.item).getD Item.fresh
    ((it.txOpen = false ∨ it.rung = 3) → F.TrapsWith s g cILLEGAL ((wordOf .txabort).setWidth 64) g.active)
    ∧ (it.txOpen = true → it.rung ≠ 3 → it.abort = none → ∃ t h i', exec .txabort s = .next t
      ∧ grp t s.ctl.cur = some h ∧ Retired F g h ∧ h.kept = g.kept ∧ kfind t.run.items g.item = some i'
      ∧ i' = { it with abort := some ⟨it.rung + 1, false, true, true⟩ } ∧ t.mem = s.mem))

/-- R183, R161, R177, R185. TX_COMMIT of an open transaction whose groups have all executed TXEND or ended, with no batch
and no drain left, not ordered, outside RECORD and REPLAY and unchecked, where no engine transfer owns a line that it
writes: with TRIP 0 or at rung 3 it commits: after the release at its level, each byte that the transaction's stores and
deferred operations leave, applied in program order to what the homes hold, is at its place, so is each versioned byte of
the scratchpad, no other byte of HBM or of its scratchpad differs but by buffered writes performed, OPEN clears and the
item has committed. With TRIP 1 below rung 3 the attempt is discarded: no byte of HBM changes, the item restarts a rung
higher with ATTEMPT one more, and its groups start at the entry point with their registers unwritten; that FPMODE and
CHECKN start at 0 again with the rest is the model's choice (log entry 41). Stated where no
core outside the item's holds a buffered write to a byte that the commit writes (a race). -/
def Obligations.TransactionsCommitOrRestart : Prop :=
  ∀ (s : State) (n : Nat) (it : Item),
    kfind s.run.items n = some it → it.saved = none → it.abort = none → it.txOpen = true → allEnded s it = true →
    it.ord = false → it.checked = false → (launchOf s it.launch).pkt.det = 0 → it.gids.Nodup → commitWaits s it = false →
    (∀ x ∈ s.run.xfers, x.item ≠ n) → (∀ k ∈ it.gids, ((grp s k).bind (·.hostAtom)) = none) →
    let u := commitRelease s it
    let m := commitCells u it
    ((it.trip = false ∨ it.rung = 3) → it.verScr.Pairwise (fun a b => a.1 < b.1) →
      (∀ a b, remapOf s.mem.remap a = remapOf s.mem.remap b → a = b) →
      (∀ w ∈ s.mem.ports, ∀ v ∈ it.vers, w.host = true ∨ w.core ∈ it.cores ∨ VerWrite.meets w v = false) →
      Drained s u ∧ ∃ t i', exec (.txCommit n) s = .next t ∧ kfind t.run.items n = some i' ∧ i'.txOpen = false
        ∧ i'.committed = true ∧ i'.vers = [] ∧ i'.verScr = [] ∧ i'.rung = it.rung
        ∧ (∀ e ∈ m, readHbm t.mem e.1 1 = [e.2]) ∧ (∀ e ∈ it.verScr, kget 0 i'.scr e.1 = e.2)
        ∧ (∀ pa data, .bytes pa data ∈ it.vers → ∀ k, k < data.length → ∃ e ∈ m, e.1 = pa + k)
        ∧ (∀ pa data, it.vers.getLast? = some (.bytes pa data) → readHbm t.mem pa data.length = data)
        ∧ (∀ a, (∀ e ∈ it.verScr, e.1 ≠ a) → kget 0 i'.scr a = kget 0 it.scr a)
        ∧ (∀ a, (∀ e ∈ m, e.1 ≠ a) → byteAt t (.hbm a) = byteAt s (.hbm a)
            ∨ ∃ w ∈ s.mem.ports, w.puts s.mem.remap (.hbm a) (byteAt t (.hbm a))))
    ∧ (it.trip = true → it.rung ≤ 2 → ∃ t i', exec (.txCommit n) s = .next t ∧ kfind t.run.items n = some i'
        ∧ i'.txOpen = false ∧ i'.rung = it.rung + 1 ∧ i'.attempt = min 255 (it.attempt + 1) ∧ i'.vers = []
        ∧ i'.verScr = [] ∧ i'.trip = false ∧ i'.scr = it.scr ∧ t.mem.hbm = s.mem.hbm
        ∧ ∀ k ∈ it.gids, ∀ g, grp s k = some g →
            grp t k = some { startGroup (launchOf t it.launch) it.launch n g.gidx with
              points := g.points
              arrivals := g.arrivals })

/-! ### Engines and relay (09 R193 to R212; 15 R323, R328, R329; 17 R392 to R394; 18 R410, R411) -/

/-- R194, R195, R155, R157, R410. CPY, CHAIN, TDRAIN and TDRAIN.ADD whose record is read and accepted and whose ranges, counter
and core have room issue: without an element out of bounds, one transfer more is in flight under its tag, with the
group's addresses, the record's shape and, for a drain, the tile as it stands; the group's earlier writes have been
performed; the instruction completes and changes no register. With an element out of bounds under CLIP the tag gets
status BOUNDS instead. A core with 96 transfers in flight makes the group wait. Stated where the registration of the
destination waits for no line that an engine owns (R156), and for a record of two blocks where
reading the first pushes nothing out of L1 (log entry 18). -/
def Obligations.EngineInstructionsIssueTransfers : Prop :=
  ∀ (i : Instr) (kind : XKind) (F : Form) (recr src dst : W64) (tag blocks : Nat) (tile : List W32) (s : State)
    (g g1 : Group),
    ((∃ f : CF, (i = .cpy f ∧ kind = .cpy ∧ blocks = 1 ∨ i = .chain f ∧ kind = .chain ∧ blocks = 2)
        ∧ F = ⟨i, .once, cfRegs f, fun _ => dstNone⟩ ∧ recr = rdS g f.recr.toNat ∧ src = rdS g f.srca.toNat
        ∧ dst = rdS g f.dsta.toNat ∧ tag = f.tag.toNat ∧ tile = [])
      ∨ ∃ f : TD, (i = .tdrain f ∧ kind = .drain ∨ i = .tdrainAdd f ∧ kind = .drainAdd) ∧ blocks = 1
        ∧ F = ⟨i, .once, fun g => ⟨[(true, f.x.toNat), (true, f.y.toNat)] ++ countReads g, [], []⟩, fun _ => dstNone⟩
        ∧ recr = rdS g f.y.toNat ∧ src = 0 ∧ dst = rdS g f.x.toNat ∧ tag = f.tag.toNat
        ∧ tile = kget [] g.tile f.acc.toNat ∧ f.acc.toNat < (who s s.ctl.cur g).l.img.afoot
        ∧ (namesTile g.opens f.acc.toNat || g.batches.any fun b => namesTile b.tm f.acc.toNat) = false) →
    F.Issues s g g1 → deadRead g (F.regs g).reads = none →
    let c := F.ctx s g
    let w := who s s.ctl.cur g
    let hs : List LaneHit := (List.range blocks).map fun k =>
      ⟨k, recr.toNat + 64 * k, check s w .load (recr.toNat + 64 * k) 64⟩
    let x0 (sh : Shape) : Xfer := { mkXfer c kind tag sh src.toNat dst.toNat none with tile := tile }
    ∀ (places : List (Loc × Bool)) (sh : Shape) (n : Option (Nat × Nat)),
      hs.map (·.hit) = places.map (fun p => Hit.ok p.1 p.2) → blockedBy s hs 64 = none →
      (kind = .chain → (l1Blocks s w.core).length + 2 ≤ 256) →
      let b := places.flatMap fun p => readLoc s w (pageMode (l1ModeOf g false false) p.2) p.1 64
      parseShape b (if kind = .chain then .chain else .copy) w.l.img.levels.length (ldimOf w.l) = .ok sh →
      (kind = .chain → (sh.side = true → sh.osize = sh.esize)
        ∧ chainFail false 0 ((List.range 8).map fun k => recAt b (64 + 8 * k) 8) = none) →
      (kind = .drain ∨ kind = .drainAdd → sh.side = true ∧ drainUsable sh = true) →
      let sh' := if kind = .chain then sh else { sh with osize := sh.esize }
      windowTrap c s .engWrite (writeRanges (x0 sh')) = none → windowTrap c s .engRead (readRanges (x0 sh')) = none →
      countArg c = .ok n → regBusy (noteAll s w .load hs) w (writeRanges (x0 sh')) = false →
      let old := kget ⟨0, 0⟩ g.tags tag
      (hasRoom s w.core = false → ∃ t h, exec i s = .next t ∧ grp t s.ctl.cur = some h ∧ h.wait = some .other
        ∧ h.pc = g.pc ∧ t.run.xfers = s.run.xfers ∧ SameBytes s t)
      ∧ (hasRoom s w.core = true → sh'.outOfBounds = false → ∃ t h x, exec i s = .next t ∧ grp t s.ctl.cur = some h
        ∧ Retired F g h ∧ KeptVs (F.regs g) g h ∧ KeptSs (F.regs g) g h ∧ SameP g h ∧ SameFlags g h ∧ Drained s t
        ∧ (∀ p ∈ t.mem.ports, p.gid ≠ s.ctl.cur)
        ∧ t.run.xfers = s.run.xfers ++ [x] ∧ x.kind = kind ∧ x.gid = s.ctl.cur ∧ x.item = g.item ∧ x.tag = tag
        ∧ x.src = src.toNat ∧ x.dst = dst.toNat ∧ x.shape = sh' ∧ x.tile = tile ∧ x.count = n ∧ x.parked = false
        ∧ kget ⟨0, 0⟩ h.tags tag = (if old.left = 0 then ⟨1, 0⟩ else ⟨old.left + 1, old.status⟩)
        ∧ ∀ k, k ≠ tag → kget ⟨0, 0⟩ h.tags k = kget ⟨0, 0⟩ g.tags k)
      ∧ (hasRoom s w.core = true → sh'.outOfBounds = true → ∃ t h, exec i s = .next t ∧ grp t s.ctl.cur = some h
        ∧ Retired F g h ∧ KeptVs (F.regs g) g h ∧ KeptSs (F.regs g) g h
        ∧ kget ⟨0, 0⟩ h.tags tag = (if old.left = 0 then ⟨0, 1⟩ else ⟨old.left, max old.status 1⟩))

/-- R195, R198, R157, R329, R394. A copy of one element that has leave, whose two places are reached in HBM and of whose lines no
earlier transfer owns one, completes, outside the pause of a class change: the destination's bytes become the source's as they stood, no other byte of HBM changes, the transfer
and its ownership end, and its tag counts one less with the status kept. Poison gives status 3. CPYWAIT and RLYWAIT wait
while a tag of their mask is not done; then CPYWAIT goes on, and RLYWAIT writes the mask of tags with a status and, above
it, the status of the lowest of them. Stated with no counter on the transfer and no arm waiting. -/
def Obligations.TransfersCompleteAndWaits : Prop :=
  (∀ (s : State) (x : Xfer) (g : Group) (a va : Nat),
    s.run.xfers.find? (fun y => y.id == x.id) = some x → x.coll = none → x.kind = .cpy → x.parked = false →
    x.leave = 0 → x.pos = 0 → x.vals = [] → x.bad = [] → x.old = [] → x.inTx = false → issueStopped s = false → x.count = none → (∀ e ∈ s.run.launches, e.2.armWait = []) → grp s x.gid = some g →
    readVas x = [some a] → writeVas x = [(0, va)] → x.shape.osize = x.shape.esize → x.shape.esize ≤ 8 →
    a % 8 + x.shape.esize ≤ 8 → va % 8 + x.shape.esize ≤ 8 → 0 < x.shape.esize →
    let w := xferWho s x
    let n := x.shape.esize
    (∀ p q ncp ncq, resolve s w .engRead a n = .ok (.hbm p) ncp → resolve s w .engWrite va n = .ok (.hbm q) ncq →
      ownedSince s x x.id (.hbm p, n) = false → ownedSince s x (regOf s x (.hbm q)) (.hbm q, n) = false →
      (∀ k j, k < n → j < n → remapOf s.mem.remap (q + k) = remapOf s.mem.remap (q + j) → k = j) →
      ∃ t h, exec (.engineTransferComplete x.id) s = .next t ∧ readHbm t.mem q n = readHbm s.mem p n
        ∧ (∀ b, (∀ k, k < n → remapOf s.mem.remap b ≠ remapOf s.mem.remap (q + k)) →
            byteAt t (.hbm b) = byteAt s (.hbm b))
        ∧ t.run.xfers = s.run.xfers.filter (fun y => !(y.id == x.id)) ∧ grp t x.gid = some h
        ∧ kget ⟨0, 0⟩ h.tags x.tag = ⟨(kget ⟨0, 0⟩ g.tags x.tag).left - 1, (kget ⟨0, 0⟩ g.tags x.tag).status⟩)
    ∧ (resolve s w .engRead a n = .trap cPOISON → ∃ t h, exec (.engineTransferComplete x.id) s = .next t
        ∧ t.run.xfers = s.run.xfers.filter (fun y => !(y.id == x.id)) ∧ grp t x.gid = some h
        ∧ kget ⟨0, 0⟩ h.tags x.tag
            = ⟨(kget ⟨0, 0⟩ g.tags x.tag).left - 1, max (kget ⟨0, 0⟩ g.tags x.tag).status 3⟩ ∧ t.mem.hbm = s.mem.hbm))
  ∧ ∀ (i : Instr) (F : Form) (mask : BitVec 16) (d : Option Nat) (s : State) (g g1 : Group),
    ((∃ f : WTM, i = .cpywait f ∧ mask = f.mask ∧ d = none ∧ F = plainForm i .once)
      ∨ ∃ f : WTD, i = .rlywait f ∧ mask = f.mask ∧ d = some f.d.toNat
          ∧ F = ⟨i, .once, fun _ => ⟨[], [], [(true, f.d.toNat)]⟩, fun _ => dstS f.d.toNat⟩) →
    F.Issues s g g1 →
    let left (k : Nat) : Nat := (kget ⟨0, 0⟩ g.tags k).left
    let st (k : Nat) : Nat := (kget ⟨0, 0⟩ g.tags k).status
    let done := ∀ k, k < 16 → mask.getLsbD k = true → left k = 0
    (¬ done → exec i s = .next (modGrp (delayed s g) s.ctl.cur fun h => { h with wait := some .tag }))
    ∧ (done → ∃ t h, exec i s = .next t ∧ grp t s.ctl.cur = some h ∧ Retired F g h ∧ OnlyGroup s t
        ∧ KeptVs noRegs g h ∧ SameP g h ∧ SameFlags g h ∧ h.kept = g.kept
        ∧ (∀ y, (∀ r, d = some r → r = y → y = 63) → rdS h y = rdS g y)
        ∧ ∀ r, d = some r → r ≠ 63 →
            (∀ k, k < 16 → (rdS h r).getLsbD k = (mask.getLsbD k && decide (st k ≠ 0)))
            ∧ ∀ k, k < 16 → mask.getLsbD k = true → st k ≠ 0 → st k < 8 →
                (∀ j, j < k → mask.getLsbD j = false ∨ st j = 0) → (rdS h r).toNat / 2 ^ 16 = st k)

/-- R203, R208, R392, R393, R195. RLY and RLYSTART whose record is read and accepted and whose ranges, counter and core have
room. RLY without an element out of bounds issues one transfer of the rank under its next ordinal. RLYSTART of baton 0
traps with ILLEGAL_OPERAND and 0 in TRAPINFO, and of one that LAST has not reached ends at once with status
RELAY_OVERRUN; of LAST + 1 it issues the instance's transfer and LAST advances. Of a baton at or below LAST, while the
instance runs on the rank, it issues a transfer that joins the instance and completes with it; once the instance is done
it ends at once with status RELAY_STALE; LAST stands in both. No register changes. Stated where the registration of the
destination waits for no line that an engine owns (R156). -/
def Obligations.RelayInstructionsJoinCollectives : Prop :=
  ∀ (i : Instr) (f : CF) (s : State) (g g1 : Group) (l : Launch), (i = .rly f ∨ i = .rlystart f) →
    let F : Form := ⟨i, .once, cfRegs f, fun _ => dstNone⟩
    F.Issues s g g1 → deadRead g (F.regs g).reads = none → kfind s.run.launches g.launch = some l →
    let c := F.ctx s g
    let w := who s s.ctl.cur g
    let va := (rdS g f.recr.toNat).toNat
    let tag := f.tag.toNat
    ∀ (p : Loc) (nc : Bool) (sh0 : Shape) (n : Option (Nat × Nat)),
      check s w .load va 64 = .ok p nc → blockedBy s [⟨0, va, .ok p nc⟩] 64 = none →
      parseShape (readLoc s w (pageMode (l1ModeOf g false false) nc) p 64) .rly l.img.levels.length (ldimOf l) = .ok sh0 →
      let sh := { sh0 with osize := sh0.esize }
      let src := if i = .rly f then (rdS g f.srca.toNat).toNat else 0
      let x0 := mkXfer c (if i = .rly f then .rly else .rlystart) tag sh src (rdS g f.dsta.toNat).toNat none
      let baton := (rdS g f.srca.toNat).toNat
      let r := rankAt w sh.clvl
      let key := lastKey va sh.clvl r.own
      let last := kget 0 l.lasts key
      windowTrap c s .engWrite (destRanges sh sh.ranksIn x0.dst) = none → windowTrap c s .engRead (readRanges x0) = none →
      countArg c = .ok n → hasRoom s w.core = true →
      regBusy (noteAll s w .load [⟨0, va, .ok p nc⟩]) w (destRanges sh sh.ranksIn x0.dst) = false →
      let old := kget ⟨0, 0⟩ g.tags tag
      let joined : Tag := if old.left = 0 then ⟨1, 0⟩ else ⟨old.left + 1, old.status⟩
      let runs (k : Coll) : Bool := k.launch == g.launch && k.level == sh.clvl && k.inst == r.inst
        && k.persistent == some va && k.ord == baton && k.parts.any fun q => q.rank == r.rank && !q.done
      let issues (t : State) (h : Group) : Prop := exec i s = .next t ∧ grp t s.ctl.cur = some h ∧ Retired F g h
        ∧ KeptVs (F.regs g) g h ∧ KeptSs (F.regs g) g h ∧ SameP g h ∧ SameFlags g h
      (i = .rlystart f → baton = 0 → F.TrapsWith s g cOPERAND 0 g.active)
      ∧ (i = .rlystart f → 2 ^ 32 ≤ baton → F.TrapsWith s g cOPERAND ((wordOf i).setWidth 64) g.active)
      ∧ (i = .rlystart f → baton ≠ 0 → baton < 2 ^ 32 → last + 1 < baton → sh.outOfBounds = false → ∃ t h, issues t h
          ∧ kget ⟨0, 0⟩ h.tags tag = (if (kget ⟨0, 0⟩ g.tags tag).left = 0 then ⟨0, 6⟩
              else ⟨(kget ⟨0, 0⟩ g.tags tag).left, max (kget ⟨0, 0⟩ g.tags tag).status 6⟩))
      ∧ (i = .rlystart f → baton ≠ 0 → baton < 2 ^ 32 → baton ≤ last → sh.outOfBounds = false →
          (∀ k, s.run.colls.find? runs = some k → ∃ t h x, issues t h ∧ t.run.xfers = s.run.xfers ++ [x]
            ∧ x.coll = some (k.id, r.rank) ∧ x.gid = s.ctl.cur ∧ x.tag = tag ∧ x.shape = sh ∧ x.owned = []
            ∧ kget ⟨0, 0⟩ h.tags tag = joined ∧ t.run.colls = s.run.colls ∧ t.run.launches = s.run.launches)
          ∧ (s.run.colls.find? runs = none → ∃ t h l', issues t h
            ∧ kget ⟨0, 0⟩ h.tags tag = (if old.left = 0 then ⟨0, 7⟩ else ⟨old.left, max old.status 7⟩)
            ∧ kfind t.run.launches g.launch = some l' ∧ l'.lasts = l.lasts))
      ∧ (sh.outOfBounds = false → (i = .rlystart f → baton = last + 1 ∧ baton < 2 ^ 32) →
          ∃ t h l' k, issues t h ∧ Drained s t ∧ kfind t.run.launches g.launch = some l'
          ∧ t.run.xfers.length = s.run.xfers.length + 1
          ∧ (∃ x, t.run.xfers.getLast? = some x ∧ x.gid = s.ctl.cur ∧ x.tag = tag ∧ x.shape = sh ∧ x.dst = x0.dst
              ∧ x.src = src ∧ x.coll = some (k.id, r.rank))
          ∧ k ∈ t.run.colls ∧ k.level = sh.clvl ∧ k.inst = r.inst ∧ k.launch = g.launch
          ∧ (∃ q ∈ k.parts, q.rank = r.rank ∧ q.done = false)
          ∧ (i = .rly f → k.persistent = none
              ∧ k.ord = kget 0 l.ordinals (ordKey sh.clvl r.own) + 1
              ∧ kget 0 l'.ordinals (ordKey sh.clvl r.own) = k.ord)
          ∧ (i = .rlystart f → k.persistent = some va ∧ k.ord = baton ∧ kget 0 l'.lasts key = baton))

/-- R204, R206 to R209. An instance starts on a rank once the one before it is done there. A chunk of a reducing collective that
all ranks here have joined, and that stays on this package, is counted once while a relay slot is free: its counter goes
down by one and the arrival is noted in order; with no slot and no block of the spill region free its sender waits. A
reduce block whose counter is at zero is run by an idle core, outside the pause of a class change: it writes the
reduction of the contributions, in arrival order, to its destination once, and notes it. That a core counts as idle when
none of its groups is ready is the model's choice (log entry 25). Stated outside RECORD and REPLAY, for contributions already read, and for a reduce block whose chunks lie in relay slots and whose result is at
most 128 bytes in one HBM line. -/
def Obligations.CollectivesAdvance : Prop :=
  (∀ (s : State) (id rank : Nat) (k : Coll) (p : RankPart), collOf s id = some k → k.part rank = some p →
    p.started = false → prevDone s k.launch k.level k.inst k.persistent k.ord rank = true →
    ∃ t k' p', exec (.relayInstanceStart id rank) s = .next t ∧ collOf t id = some k' ∧ k'.part rank = some p'
      ∧ p' = { p with started := true } ∧ t.mem = s.mem ∧ t.run.xfers = s.run.xfers ∧ t.run.groups = s.run.groups)
  ∧ (∀ (s : State) (id dst chunk src : Nat) (data : List Byte) (k : Coll) (p : RankPart),
    collOf s id = some k → k.partAt src = some p → k.here.contains src = true → k.mismatch = false → k.joined = true →
    reduces k.shape = true → k.names dst chunk src = true → k.has dst chunk src = false → p.started = true →
    p.done = false → k.hasRead p = true → k.spilled = [] → (launchOf s k.launch).pkt.det = 0 → k.lands dst = true →
    Coll.targets s k dst src = [] →
    (slotsTaken s < 2048 → ∃ t k', exec (.relayChunkArrive id dst chunk ⟨src, data⟩) s = .next t ∧ collOf t id = some k'
      ∧ k'.chunk dst chunk = { k.chunk dst chunk with
          left := (k.chunk dst chunk).left - 1, arrived := (k.chunk dst chunk).arrived ++ [src] }
      ∧ (∀ d c, (d ≠ dst ∨ c ≠ chunk) → k'.chunk d c = k.chunk d c) ∧ t.mem = s.mem ∧ t.run.xfers = s.run.xfers
      ∧ exec (.relayChunkArrive id dst chunk ⟨src, data⟩) t = .next t)
    ∧ (2048 ≤ slotsTaken s → regionFree s k.launch = none → (∀ e ∈ k.region, e.1 ≠ (dst, chunk, src)) →
      exec (.relayChunkArrive id dst chunk ⟨src, data⟩) s = .next s))
  ∧ ∀ (s : State) (id dst chunk : Nat) (k : Coll) (p : RankPart) (x : Xfer) (q : Nat) (nc : Bool),
    collOf s id = some k → k.partAt dst = some p → partXfer s p = some x → x.coll = some (k.id, p.rank) →
    k.mismatch = false → p.started = true → reduces k.shape = true → k.shape.rop ≠ 6 → p.done = false →
    x.parked = false → x.inTx = false → k.region = [] → k.progress = [] → issueStopped s = false → idleCore s = true →
    let cd := counterDst k.shape dst
    (k.chunk cd chunk).left = 0 → chunk < destChunks k → (k.chunk cd chunk).written.contains dst = false →
    k.part p.rank = some p →
    let bs := reduceBytes k.shape ((k.chunk cd chunk).arrived.map fun n => k.bytesOf cd chunk n)
    let va := x.dst + 16384 * chunk
    bs ≠ [] → va % 128 + bs.length ≤ 128 → resolve s (xferWho s x) .engWrite va bs.length = .ok (.hbm q) nc →
    ownedSince s x (regOf s x (.hbm q)) (.hbm q, bs.length) = false →
    (∀ i j, i < bs.length → j < bs.length → remapOf s.mem.remap (q + i) = remapOf s.mem.remap (q + j) → i = j) →
    ∃ t k', exec (.reduceBlockComplete id dst chunk) s = .next t ∧ readHbm t.mem q bs.length = bs
      ∧ collOf t id = some k' ∧ (k'.chunk cd chunk).written = (k.chunk cd chunk).written ++ [dst]
      ∧ (∀ b, (∀ n, n < bs.length → remapOf s.mem.remap b ≠ remapOf s.mem.remap (q + n)) →
          byteAt t (.hbm b) = byteAt s (.hbm b))
      ∧ t.run.xfers.map (·.id) = s.run.xfers.map (·.id)

/-! ### Management requests (13 R278 to R280 and the rules they name) -/

/-- R156, R227, R229, R190, R114, R258, R257, R215, R30, R33, R279. Settings: within its limits each request writes the named setting
and completes with OK, outside them with BAD_REQ and nothing written: CAP from 500 W to the grade's dissipation, DIDT 1 to
100, ORDER 0 or 1, WDOG 1 ms to 60 s, TELEMETRY at a multiple of 64 (its count restarts), ERR_THRESH of the six
histograms, FRAME_POOL of 2 MiB frames with a home, which waits while an engine owns a line of its list (R156), COUNTDOWN of
a node, NODECFG outside launches that span packages (the links
whose other end runs another mode then go down), a request that is malformed BAD_REQ with RESULT 0, or the RECID for
FAULT_ANSWER, HISTORY_CLEAR and RAMP_CLEAR always; WARM_UP, CANCEL and SAFE_EXIT wait for the next sample where the table has a row for
the state, and otherwise complete with BAD_STATE. The model's choices: COUNTDOWN of node 0 completes with OK and of a node from
2^18 on with BAD_REQ (log entry 48); a FRAME_POOL list in a poisoned region is BAD_REQ (log entry 28); a TELEMETRY
registration restarts its count (log entry 62). -/
def Obligations.SettingsTakeEffect : Prop :=
  ∀ (src : Src) (s : State),
    let sets (i : Instr) (ok : Prop) (t : State) : Prop :=
      (ok → exec i s = .next (mgmtDone t src 0 0)) ∧ (¬ ok → exec i s = .next (mgmtDone s src 6 0))
    let host (f : HostIf → HostIf) : State := { s with host := f s.host }
    let part (f : Part → Part) : State := { s with part := f s.part }
    let maxW : Nat := if s.part.inv.grade = 1104 then 3400 else if s.part.inv.grade = 1008 then 3200 else 2600
    (∀ v, sets (.pacerCap src v) (500 ≤ v ∧ v ≤ maxW) (host fun h => { h with capW := v }))
    ∧ (∀ v, sets (.pacerDidt src v) (1 ≤ v ∧ v ≤ 100) (host fun h => { h with didt := v }))
    ∧ (∀ v, sets (.pacerOrder src v) (v ≤ 1) (host fun h => { h with order := v }))
    ∧ (∀ v, sets (.wdog src v) (1 ≤ v ∧ v ≤ 60000) (host fun h => { h with wdogMs := v }))
    ∧ sets (.historyClear src) True (host fun h => { h with history := [] })
    ∧ (∀ b n, sets (.telemetry src b n) (b % 64 = 0) (host fun h => { h with telBase := b, telSlots := n, telCount := 0 }))
    ∧ sets (.rampClear src) True (part fun p => { p with cryo := { p.cryo with ramp := false } })
    ∧ (∀ n v h, s.part.hists[n]? = some h → n < 6 → exec (.errThresh src n v) s
        = .next (mgmtDone (part fun p => { p with hists := p.hists.set n { h with thresh := v } }) src 0 0))
    ∧ (∀ n v, 6 ≤ n → exec (.errThresh src n v) s = .next (mgmtDone s src 6 0))
    ∧ (∀ a n, let fr := (List.range n).map fun k => natLe (readHbm s.mem (a + 8 * k) 8)
        (ownedLoc s (.hbm a) (8 * n) = true → exec (.framePool src a n) s = .next s)
        ∧ (ownedLoc s (.hbm a) (8 * n) = false → sets (.framePool src a n) (a + 8 * n ≤ hbmSize s.part.dies
          ∧ (∀ k ∈ linesOf a (8 * n), poisoned s.mem (k * 128) = false)
          ∧ ∀ f ∈ fr, f % 2 ^ 21 = 0 ∧ f + 2 ^ 21 ≤ hbmSize s.part.dies)
          (part fun p => { p with pool := fr.map (· / 2 ^ 21) })))
    ∧ (∀ n, sets (.countdown src n) (n < 2 ^ 18) (if n = 0 then s else countdownNode s n false))
    ∧ (∀ p n c, (p ≤ 127 ∧ n ≤ 511) → (∀ e ∈ s.run.launches, spansPackages e.2 = false) → exec (.nodecfg src p n c) s
        = .next (mgmtDone (modeChange (part fun x => { x with pkgid := p, nodeid := n, compat := c })) src 0 0))
    ∧ (∀ p n c, (p ≤ 127 ∧ n ≤ 511) → (∃ e ∈ s.run.launches, spansPackages e.2 = true) →
        exec (.nodecfg src p n c) s = .next (mgmtDone s src 3 0))
    ∧ (∀ p n c, ¬ (p ≤ 127 ∧ n ≤ 511) → exec (.nodecfg src p n c) s = .next (mgmtDone s src 6 0))
    ∧ (∀ n, exec (.mgmtBadReq ⟨src, n⟩) s = .next (mgmtDone s src 6 (if src.req = 7 then n else 0)))
    ∧ ∀ i r, (i, r) ∈ [(Instr.warmUp src, ColdReq.warmup), (.cancel src, .cancel), (.safeExit src, .safeExit)] →
        let st := s.part.cryo.state
        let row := s.part.cryo.started = true ∧ (match r with
          | .warmup => st = 2 ∨ st = 3 ∨ st = 4
          | .cancel => st = 5
          | .safeExit => st = 6)
        (row → exec i s = .next (part fun p => { p with cryo := { p.cryo with reqs := p.cryo.reqs ++ [(r, src)] } }))
        ∧ (¬ row → exec i s = .next (mgmtDone s src 5 0))

/-- R272, R279, R130, R134. Queues and address spaces. A queue or ASID in use answers BUSY, values outside their limits BAD_REQ,
with nothing changed. Otherwise REG_QUEUE leaves an empty queue with its rings, its unregistration none; REG_ASID sets
the root; ASID_RELEASE removes it with every translation of the ASID; INVALIDATE removes the translations its range
overlaps at once, and INVALIDATE_COMPLETE, once no walk of the range, no AtomicOp to it and no window on it is under way and
its ring can take a record, performs the ASID's buffered writes and answers. -/
def Obligations.QueuesAndAddressSpaces : Prop :=
  (∀ (src : Src) (r : QueueReg) (s : State),
    let ok := r.queue < 32768 ∧ 4 ≤ r.size ∧ r.size ≤ 16 ∧ 4 ≤ r.csize ∧ r.csize ≤ 16 ∧ r.ceil ≤ 127 ∧ r.asid ≤ 255
      ∧ r.ring % 4096 = 0
    (¬ ok → exec (.regQueue src r) s = .next (mgmtDone s src 6 0))
    ∧ (ok → queueInUse s r.queue = true → exec (.regQueue src r) s = .next (mgmtDone s src 3 0))
    ∧ (ok → queueInUse s r.queue = false → ∃ u q, exec (.regQueue src r) s = .next (mgmtDone u src 0 0)
        ∧ kfind u.host.queues r.queue = some q ∧ q.size = r.size ∧ q.csize = r.csize ∧ q.ceil = r.ceil
        ∧ q.asid = r.asid ∧ q.mgmt = r.mgmt ∧ q.ring = r.ring ∧ q.cring = r.cring ∧ q.ridx = 0 ∧ q.widx = 0
        ∧ q.seq = 0 ∧ q.head = 0 ∧ q.held = [] ∧ (∀ k, k ≠ r.queue → kfind u.host.queues k = kfind s.host.queues k)
        ∧ u.mem = s.mem ∧ u.run = s.run ∧ u.part = s.part))
  ∧ (∀ (src : Src) (q : Nat) (s : State),
    (32768 ≤ q → exec (.queueUnregister src q) s = .next (mgmtDone s src 6 0))
    ∧ (q < 32768 → queueInUse s q = true → exec (.queueUnregister src q) s = .next (mgmtDone s src 3 0))
    ∧ (q < 32768 → queueInUse s q = false → ∃ u, exec (.queueUnregister src q) s = .next (mgmtDone u src 0 0)
        ∧ kfind u.host.queues q = none ∧ (∀ k, k ≠ q → kfind u.host.queues k = kfind s.host.queues k) ∧ u.mem = s.mem))
  ∧ (∀ (src : Src) (a root : Nat) (s : State),
    let ok := a ≤ 255 ∧ root % 2 ^ 15 = 0 ∧ root + 2 ^ 15 ≤ hbmSize s.part.dies
    (¬ ok → exec (.regAsid src a root) s = .next (mgmtDone s src 6 0))
    ∧ (ok → asidInUse s a = true → exec (.regAsid src a root) s = .next (mgmtDone s src 3 0))
    ∧ (ok → asidInUse s a = false → ∃ u, exec (.regAsid src a root) s = .next (mgmtDone u src 0 0)
        ∧ kfind u.mem.asids a = some root ∧ (∀ k, k ≠ a → kfind u.mem.asids k = kfind s.mem.asids k)
        ∧ SameBytes s u ∧ u.run = s.run ∧ u.host = s.host)
    ∧ (255 < a → exec (.asidRelease src a) s = .next (mgmtDone s src 6 0))
    ∧ (a ≤ 255 → asidInUse s a = true → exec (.asidRelease src a) s = .next (mgmtDone s src 3 0))
    ∧ (a ≤ 255 → asidInUse s a = false → ∃ u, exec (.asidRelease src a) s = .next (mgmtDone u src 0 0)
        ∧ kfind u.mem.asids a = none ∧ u.mem.tlb = s.mem.tlb.filter (fun e => !(e.asid == a)) ∧ SameBytes s u
        ∧ u.run = s.run ∧ u.host = s.host))
  ∧ (∀ (src : Src) (a va len : Nat) (s : State),
    let hits (e : Tlb) : Bool := len == 0 || (decide (va < e.va + e.size) && decide (e.va < va + len))
    (255 < a → exec (.invalidate src a va len) s = .next (mgmtDone s src 6 0))
    ∧ (a ≤ 255 → kfind s.mem.asids a = none → exec (.invalidate src a va len) s = .next (mgmtDone s src 0 0))
    ∧ (a ≤ 255 → kfind s.mem.asids a ≠ none → ∃ u, exec (.invalidate src a va len) s = .next u
        ∧ u.mem.tlb = s.mem.tlb.filter (fun e => !(e.asid == a && hits e))
        ∧ u.mem.invals = s.mem.invals ++ [⟨s.ctl.serial, a, va, len, src⟩] ∧ SameBytes s u ∧ u.run = s.run
        ∧ u.host = s.host))
  ∧ ∀ (n : Nat) (i : Inval) (s : State), s.mem.invals.find? (fun x => x.id == n) = some i →
    ((invalWaits s i = true ∨ srcCan s i.src = false) → exec (.invalidateComplete n) s = .next s)
    ∧ (invalWaits s i = false → srcCan s i.src = true → ∃ u, exec (.invalidateComplete n) s = .next (mgmtDone u i.src 0 0) ∧ Drained s u
        ∧ (∀ w ∈ u.mem.ports, writeOfAsid s i.asid w = false)
        ∧ u.mem.invals = s.mem.invals.filter (fun x => !(x.id == n)))

/-- R121, R135, R136, R279, R280. LOAD_WINDOW without a registered queue or ASID, beyond the 1 GiB of a weight store or for
a die that does not exist answers BAD_REQ, for an offline die BAD_DIE; behind another window it waits its turn; otherwise it
begins: where every page of its source translates, all are held for the copy; a page outside the global window ends it with
BAD_REQ; a page that faults parks it on a fault record of KIND 7, and while no record is free, or the walk meets a line that
an engine owns, it waits, and LOAD_WINDOW_COPY translates on. Its copy,
once every page is translated, no work item is resident on the named dies and no engine transfer owns a line of the
source, writes the source's bytes to the offset in each named die's weight store and nowhere else (of a poisoned region
the bytes as they stand, which is the model's choice, log entry 8); a host page that aborts ends it with XLATE instead, and
nothing is written; its close answers OK, and the next one has its turn. -/
def Obligations.LoadWindowFillsWeightStores : Prop :=
  let holds (s : State) (w : Option LoadWin) : State := { s with part := { s.part with win := w } }
  let begins (i : Instr) (w : LoadWin) (s : State) : Prop :=
    let count := if w.len = 0 then 0 else (w.va + w.len - 1) / 4096 - w.va / 4096 + 1
    let at_ (k : Nat) : Nat := w.va / 4096 * 4096 + 4096 * k
    let good (k : Nat) : Prop := at_ k < 0xF0000000000000 ∧ ∃ r, translate s 0 w.asid (at_ k) .load = .ok r
    (∀ ps : List Nat, ps.length = count →
      (∀ k, k < count → at_ k < 0xF0000000000000 ∧ ∃ r, translate s 0 w.asid (at_ k) .load = .ok r
        ∧ ps.getD k 0 = (if r.host then 2 ^ 62 else 0) + r.base + (at_ k - r.va)) →
      exec i s = .next (holds s (some { w with pages := ps, phase := 1 })))
    ∧ ∀ k, k < count → (∀ j, j < k → good j) →
      (0xF0000000000000 ≤ at_ k → exec i s = .next (mgmtDone { s with part := { s.part with
        win := s.part.winQ.head?, winQ := s.part.winQ.tail } } w.src 6 0))
      ∧ (at_ k < 0xF0000000000000 → ∀ c h, translate s 0 w.asid (at_ k) .load = .error (c, h) →
        (c = walkBusy ∨ poolFull s 0xFF w.asid (at_ k) false = true → exec i s = .next (holds s (some w)))
        ∧ (c ≠ walkBusy → poolFull s 0xFF w.asid (at_ k) false = false →
          ∃ u, exec i s = .next u ∧ u.part.win = some { w with parked := true } ∧ u.mem.hbm = s.mem.hbm
            ∧ u.mem.ws = s.mem.ws ∧ u.run = s.run
            ∧ ∃ e ∈ u.mem.faults, (Agent.window, at_ k, 7) ∈ e.2.agents ∧ e.2.asid = w.asid ∧ e.2.va = at_ k
              ∧ (recordOf s 0xFF w.asid (at_ k) false = none → e.2.kind = 7 ∧ e.2.cause = c)))
  (∀ (src : Src) (ds va off len : Nat) (s : State),
    let q := kfind s.host.queues (src.queue.getD 0)
    let a := (q.map (·.asid)).getD 0
    let bad := q = none ∨ 2 ^ s.part.dies.length ≤ ds ∨ 2 ^ 30 < off + len ∨ kfind s.mem.asids a = none
    let dead := ∃ d, d < s.part.dies.length ∧ tbit ds d = true ∧ (dieAt s d).state = 2
    let w : LoadWin := ⟨src, ds, va, off, len, a, 0, false, []⟩
    (bad → exec (.loadWindow src ds va off len) s = .next (mgmtDone s src 6 0))
    ∧ (¬ bad → dead → exec (.loadWindow src ds va off len) s = .next (mgmtDone s src 4 0))
    ∧ (¬ bad → ¬ dead → s.part.win ≠ none → exec (.loadWindow src ds va off len) s = .next { s with part := { s.part with
        winQ := s.part.winQ ++ [w] } })
    ∧ (¬ bad → ¬ dead → s.part.win = none → begins (.loadWindow src ds va off len) w s))
  ∧ (∀ (w : LoadWin) (s : State), s.part.win = some w → w.parked = false → w.phase = 0 → srcCan s w.src = true →
    begins .loadWindowCopy w s)
  ∧ (∀ (w : LoadWin) (s : State), s.part.win = some w → w.parked = false → w.phase = 1 → srcCan s w.src = true →
    let place (k : Nat) : Nat := w.pages.getD ((w.va + k) / 4096 - w.va / 4096) 0 + (w.va + k) % 4096
    let byte (k : Nat) : Byte := byteAt s (if 2 ^ 62 ≤ place k then .host (place k - 2 ^ 62) else .hbm (place k))
    let next : State := { s with part := { s.part with win := s.part.winQ.head?, winQ := s.part.winQ.tail } }
    let idle := ∀ d, d < s.part.dies.length → tbit w.dies d = true → dieBusy s d = false
    let owned := ∃ k, k < w.len ∧ place k < 2 ^ 62 ∧ ownedLoc s (.hbm (place k)) 1 = true
    (¬ idle ∨ owned → exec .loadWindowCopy s = .next s)
    ∧ (idle → ¬ owned → (∃ p ∈ w.pages, 2 ^ 62 ≤ p ∧ (p - 2 ^ 62) / 4096 ∈ s.mem.aborts) →
      exec .loadWindowCopy s = .next (mgmtDone next w.src 7 0))
    ∧ (idle → ¬ owned → (∀ p ∈ w.pages, 2 ^ 62 ≤ p → (p - 2 ^ 62) / 4096 ∉ s.mem.aborts) → w.off + w.len ≤ 2 ^ 30 →
      ∃ t, exec .loadWindowCopy s = .next t ∧ t.part = { s.part with win := some { w with phase := 2 } } ∧ t.run = s.run
        ∧ t.host = s.host ∧ t.mem.hbm = s.mem.hbm ∧ t.mem.host = s.mem.host
        ∧ (∀ d k, d < s.part.dies.length → tbit w.dies d = true → k < w.len →
            kget 0 t.mem.ws (d * 2 ^ 30 + w.off + k) = byte k)
        ∧ ∀ a, (∀ d k, d < s.part.dies.length → tbit w.dies d = true → k < w.len → a ≠ d * 2 ^ 30 + w.off + k) →
            kget 0 t.mem.ws a = kget 0 s.mem.ws a))
  ∧ ∀ (w : LoadWin) (s : State), s.part.win = some w → w.phase = 2 → srcCan s w.src = true → exec .loadWindowClose s
      = .next (mgmtDone { s with part := { s.part with win := s.part.winQ.head?, winQ := s.part.winQ.tail } } w.src 0 0)

/-- R68, R137, R135, R136, R186, R231, R255. A walk that ends in a translation with the permission it needs is held, and the
parked group issues again; one that fails again opens a record of the group's own access, with its event, or joins the one
pending for the page, and the group stays parked; while no record is free, or the walk meets a line that an engine owns, it
waits. FAULT_ANSWER RESOLVE of a pending record removes it and starts
a walk for each of its agents, for the agent's own access; DECLINE of a record of a group's access removes it, and the group
takes the trap XLATE, or for a record of a permission PERM (stated for a group whose access
waits, not a trap's delivery); an unknown RECID answers BAD_STATE. PARK_ANSWER for a place the part has not
answers BAD_REQ, for a group that is not parked BAD_STATE; RESUME lets a parked group run again but not one parked on a
fault record; KILL_GROUP ends it; KILL_LAUNCH ends every group of its launch; RESUME_SPLIT takes a parked SIG_MISMATCH
into split mode, and where that needs more than eight subgroups parks the group with DIVERGE, or inside an open transaction
at rung 0 to 2 marks the attempt to restart at rung 3. The parent identifier 0 of those subgroups and the parking are the
model's choice (log entry 22). -/
def Obligations.FaultsAndParksAnswered : Prop :=
  (∀ (s : State) (n gid : Nat) (w : Walk) (t : Tlb) (g : Group),
    s.mem.walks.find? (fun x => x.id == n) = some w → w.agent = .group gid → grp s gid = some g → g.stat = .parkFault →
    walk s (coreDie s.part.dies (gid / 32)) w.asid w.va = .ok t → permFault (walkAcc w) t = none →
    ∃ u h, exec (.walkComplete n) s = .next u ∧ grp u gid = some h ∧ h.stat = .run ∧ h.pc = g.pc ∧ h.v = g.v
      ∧ h.hints = g.hints ∧ SameBytes s u ∧ u.mem.walks = s.mem.walks.filter (fun x => !(x.id == w.id)))
  ∧ (∀ (s : State) (n gid c : Nat) (hostat : Bool) (w : Walk) (g : Group),
    let die := coreDie s.part.dies (gid / 32)
    s.mem.walks.find? (fun x => x.id == n) = some w → w.agent = .group gid → grp s gid = some g →
    (walk s die w.asid w.va = .error c ∧ hostat = false
      ∨ ∃ t, walk s die w.asid w.va = .ok t ∧ permFault (walkAcc w) t = some c ∧ hostat = (t.host && w.kind == 2)) →
    (c = walkBusy ∨ poolFull s die w.asid w.va w.wr = true → exec (.walkComplete n) s = .next s)
    ∧ (c ≠ walkBusy → poolFull s die w.asid w.va w.wr = false →
      ∃ u, exec (.walkComplete n) s = .next u ∧ grp u gid = some g ∧ u.mem.hbm = s.mem.hbm
        ∧ u.mem.walks = s.mem.walks.filter (fun x => !(x.id == w.id))
        ∧ (∀ id r, recordOf s die w.asid w.va w.wr = some (id, r) → ∃ e ∈ u.mem.faults, e.1 = id
            ∧ e.2 = { r with agents := r.agents ++ [(.group gid, w.va, w.kind)] })
        ∧ (recordOf s die w.asid w.va w.wr = none → ∃ id, kfind u.mem.faults id = some ⟨w.asid, w.va / 4096 * 4096, w.wr,
              w.kind, c, hostat, gid / 32, [(.group gid, w.va, w.kind)]⟩ ∧ id / 2 ^ 24 = die
            ∧ Told s u 4 (bytesLe 4 id ++ bytesLe 1 w.asid ++ bytesLe 1 w.kind ++ bytesLe 1 c ++ bytesLe 1 hostat.toNat
                ++ bytesLe 8 (w.va / 4096 * 4096) ++ bytesLe 2 (gid / 32)))))
  ∧ (∀ (src : Src) (n : Nat) (s : State), kfind s.mem.faults n = none →
    exec (.faultAnswerResolve src n) s = .next (mgmtDone s src 5 n)
    ∧ exec (.faultAnswerDecline src n) s = .next (mgmtDone s src 5 n))
  ∧ (∀ (src : Src) (n : Nat) (r : FaultRec) (s : State), kfind s.mem.faults n = some r →
    ∃ u, exec (.faultAnswerResolve src n) s = .next (mgmtDone u src 0 n) ∧ kfind u.mem.faults n = none ∧ u.run = s.run
      ∧ SameBytes s u ∧ ∀ e ∈ r.agents, ∃ w ∈ u.mem.walks, w.agent = e.1 ∧ w.asid = r.asid ∧ w.wr = r.wr
        ∧ (w.agent, w.va, w.kind) ∈ r.agents)
  ∧ (∀ (src : Src) (n gid va kind : Nat) (r : FaultRec) (g : Group) (s : State), kfind s.mem.faults n = some r →
    r.agents = [(.group gid, va, kind)] → grp s gid = some g → g.stat = .parkFault → g.trapDue = none →
    CanDeliver s gid g →
    ∃ u h e, exec (.faultAnswerDecline src n) s = .next (mgmtDone u src 0 n) ∧ kfind u.mem.faults n = none
      ∧ grp u gid = some h ∧ h.stat = .run ∧ h.pc = g.trapvec
      ∧ h.trapcause = (if r.cause ≤ 1 then cXLATE else cPERM) ∧ h.trapinfo = BitVec.ofNat 64 va
      ∧ h.traplanes = g.parkLanes ∧ h.active = g.parkLanes ∧ h.trapdst = g.parkDst ∧ h.stack = .trap e :: g.stack
      ∧ e.restarting = true ∧ e.gather = g.parkBit ∧ e.next = g.parkNext)
  ∧ ∀ (src : Src) (core slot : Nat) (s : State),
    let gid := core * 32 + slot
    let all : List Instr := [.resume src core slot, .killGroup src core slot, .killLaunch src core slot,
      .resumeSplit src core slot]
    ((coreCount s.part.dies ≤ core ∨ 32 ≤ slot) → ∀ i ∈ all, exec i s = .next (mgmtDone s src 6 0))
    ∧ (core < coreCount s.part.dies → slot < 32 →
      ((∀ g, grp s gid = some g → isParked g = false) → ∀ i ∈ all, exec i s = .next (mgmtDone s src 5 0))
      ∧ ∀ g, grp s gid = some g → isParked g = true →
        (g.stat = .parkFault → exec (.resume src core slot) s = .next (mgmtDone s src 5 0))
        ∧ (g.stat ≠ .parkFault → exec (.resume src core slot) s
            = .next (mgmtDone (setGrp (askedAgain s gid) gid { g with stat := .run, idle := 0 }) src 0 0))
        ∧ (g.stat ≠ .parkTrap cSIG → exec (.resumeSplit src core slot) s = .next (mgmtDone s src 5 0))
        ∧ (g.stat = .parkTrap cSIG →
            (∃ h, splitGroup g = h ∧ h.stat = .run ∧ h.pc = g.pc ∧ h.active = g.active ∧ (∀ e ∈ h.stack, e ∈ g.stack)
              ∧ ∃ l, h.split = some (⟨g.pc, g.active, 0, none⟩ :: l, 0)
                ∧ (l.length ≤ 7 → exec (.resumeSplit src core slot) s
                    = .next (mgmtDone (setGrp (askedAgain s gid) gid h) src 0 0)))
            ∧ ∀ l, (splitGroup g).split = some l → 8 < l.1.length →
              let it := (kfind s.run.items g.item).getD Item.fresh
              let aborts := it.txOpen = true ∧ it.rung ≤ 2
              (aborts → (kfind s.run.items g.item).isSome → ∃ u it', exec (.resumeSplit src core slot) s
                  = .next (mgmtDone u src 0 0) ∧ kfind u.run.items g.item = some it'
                  ∧ it'.abort = some (it.abort.getD ⟨3, false, true, true⟩))
              ∧ (¬ aborts → canPost s 0 = true →
                ∃ u h, exec (.resumeSplit src core slot) s = .next (mgmtDone u src 0 0) ∧ grp u gid = some h
                  ∧ h.stat = .parkTrap cDIVERGE ∧ h.pc = g.pc))
        ∧ ((∀ i, kfind s.run.items g.item = some i → gid ∈ i.gids) →
            ∃ u, exec (.killGroup src core slot) s = .next (mgmtDone u src 0 0)
            ∧ (∀ h, grp u gid = some h → h.stat = .ended ∧ h.active = 0)
            ∧ (∀ l, kfind s.run.launches g.launch = some l → ∃ l', kfind u.run.launches g.launch = some l'
                ∧ l'.killed = true))
        ∧ ∃ u, exec (.killLaunch src core slot) s = .next (mgmtDone u src 0 0)
            ∧ ∀ k h, grp u k = some h → h.launch = g.launch → h.stat = .ended ∧ h.active = 0)

/-! ### The host's side (10 R213 to R216; 13 R271 to R276) -/

/-- R273, R274, R275. A submission doorbell takes V as WIDX only when (V − RIDX) mod 2^32 lies from (WIDX − RIDX) mod 2^32 to
2^SIZE, and otherwise posts a queue error with REASON 0; one for a queue that is not registered posts REASON 1. A
completion-head doorbell takes H from the last head to the records posted, and held records move onto the ring as far as
it has room; otherwise REASON 2. A management completion stands on its queue's ring, that of the mailbox in MSTAT. That
the queue error of a discarded doorbell waits, behind those that wait already, while queue 0's buffer holds 4,096 records
is the model's choice (log entry 59). -/
def Obligations.DoorbellsAndRecords : Prop :=
  let discards (i : Instr) (s : State) (q v reason : Nat) (more : State → Prop) : Prop :=
    (canPost s 0 = false → exec i s = .next { s with host := { s.host with
      doors := s.host.doors ++ [(q, v, reason)] } })
    ∧ (canPost s 0 = true → s.host.doors = [] → ∃ t, exec i s = .next t
      ∧ Posted s t 0 0x000A q (bytesLe 4 v ++ bytesLe 1 reason ++ List.replicate 19 0) ∧ t.run = s.run ∧ t.part = s.part
      ∧ more t)
  (∀ (q : Nat) (v : W64) (x : Queue) (s : State), q < 32768 → kfind s.host.queues q = some x →
    let n := v.toNat % 2 ^ 32
    let ahead (k : Nat) : Nat := (k + 2 ^ 32 - x.ridx) % 2 ^ 32
    (ahead x.widx ≤ ahead n → ahead n ≤ 2 ^ x.size → ∃ t y, exec (.submissionDoorbell q v) s = .next t
      ∧ kfind t.host.queues q = some y ∧ y = { x with widx := n, since := y.since } ∧ t.mem = s.mem ∧ t.run = s.run
      ∧ t.part = s.part ∧ ∀ k, k ≠ q → kfind t.host.queues k = kfind s.host.queues k)
    ∧ (ahead n < ahead x.widx ∨ 2 ^ x.size < ahead n → discards (.submissionDoorbell q v) s q n 0 fun t =>
      ∀ k, k ≠ 0 → kfind t.host.queues k = kfind s.host.queues k))
  ∧ (∀ (q : Nat) (v : W64) (s : State), q < 32768 → kfind s.host.queues q = none → ∀ i : Instr,
    i = .submissionDoorbell q v ∨ i = .completionHeadDoorbell q v →
      discards i s q (v.toNat % 2 ^ 32) 1 fun _ => True)
  ∧ (∀ (q : Nat) (v : W64) (x : Queue) (s : State), q < 32768 → kfind s.host.queues q = some x →
    (x.head ≤ v.toNat → v.toNat ≤ x.seq → x.seq - x.head ≤ 2 ^ x.csize → ∃ t y,
      exec (.completionHeadDoorbell q v) s = .next t ∧ kfind t.host.queues q = some y ∧ y.head = v.toNat
      ∧ (let n := min x.held.length (2 ^ x.csize - (x.seq - v.toNat))
         y.seq = x.seq + n ∧ y.held = x.held.drop n) ∧ y.ridx = x.ridx ∧ y.widx = x.widx ∧ t.run = s.run
      ∧ t.part = s.part)
    ∧ (v.toNat < x.head ∨ x.seq < v.toNat →
      discards (.completionHeadDoorbell q v) s q (v.toNat % 2 ^ 32) 2 fun _ => True))
  ∧ (∀ (src : Src) (q status result : Nat) (s : State), src.queue = some q → q < 65536 → ∃ t,
      t = mgmtDone s src status result ∧ t.run = s.run ∧ t.part = s.part ∧ Posted s t q 2 q
        (bytesLe 4 src.lid.toNat ++ bytesLe 1 src.req ++ bytesLe 1 status ++ bytesLe 2 0 ++ bytesLe 8 result
          ++ bytesLe 8 0))
  ∧ ∀ (src : Src) (s : State), src.queue = none →
      ∀ n, exec (.mgmtBadReq ⟨src, n⟩) s = .next { s with host := { s.host with busy := false, mstatus := 6 } }

/-- R271, R139, R140. GO with 1 hands the mailbox packet to the management controller and sets BUSY; another value, or BUSY, is
discarded. A host write to BAR0 is the doorbell, the mailbox bytes, GO or APBASE that its offset names, and nothing at an
unlisted offset. A read through BAR2 returns the bytes at their home, a write puts them there, an AtomicOp performs ADD,
EXCH or CAS there and returns the old value; a 128-bit one is answered with Unsupported Request (1), poison with a
completer abort (2), with no bytes and no change; an access to a line that an engine transfer owns waits. That an address
without a home is answered with a completer abort too, and the numbers of the answers, are the model's choice (log entry
11). -/
def Obligations.MailboxAndAperture : Prop :=
  (∀ (v : W64) (s : State),
    (v ≠ 1 ∨ s.host.busy = true → exec (.go v) s = .next s)
    ∧ (v = 1 → s.host.busy = false → ∃ m, exec (.go v) s
        = .next { s with host := { s.host with busy := true, mgmt := s.host.mgmt ++ [m] } }
        ∧ m.src.queue = none ∧ m.src.req = (s.host.mailbox.getD 5 0).toNat ∧ m.args = s.host.mailbox.drop 8
        ∧ (m.ok = true ↔ s.host.mailbox.getD 4 0 = 1 ∧ s.host.mailbox.getD 6 0 = 0 ∧ s.host.mailbox.getD 7 0 = 0)))
  ∧ (∀ (off : Nat) (v : W64) (s : State), let w := exec (.barRegisterWrite off (bytesLe 8 v.toNat)) s
    (∀ q, q < 32768 → off = 8 * q → w = exec (.submissionDoorbell q v) s)
    ∧ (∀ q, q < 32768 → off = 0x80000 + 8 * q → w = exec (.completionHeadDoorbell q v) s)
    ∧ (off = 0x50040 → w = exec (.go v) s)
    ∧ (off = 0x50080 → v.toNat % 2 ^ 36 = 0 → w = .next { s with host := { s.host with apbase := v.toNat } }))
  ∧ (∀ (off : Nat) (d : List Byte) (s : State),
    (0x50000 ≤ off → off < 0x50040 → ∃ mb, exec (.barRegisterWrite off d) s
        = .next { s with host := { s.host with mailbox := mb } }
        ∧ ∀ k, k < 64 → mb.getD k 0 = if off ≤ 0x50000 + k ∧ 0x50000 + k < off + d.length then
            d.getD (0x50000 + k - off) 0 else s.host.mailbox.getD k 0)
    ∧ ((0x40000 ≤ off ∧ off < 0x50000) ∨ (0x50048 ≤ off ∧ off < 0x50080) ∨ (0x50088 ≤ off ∧ off < 0x80000)
        ∨ 0xC0000 ≤ off → exec (.barRegisterWrite off d) s = .next s))
  ∧ ∀ (off : Nat) (s : State), s.host.stalled = [] →
    let pa := s.host.apbase + off
    let free (n : Nat) : Prop := ownedBy s.run.xfers 0 pa n = false
    let homed (n : Nat) : Prop := pa + n ≤ hbmSize s.part.dies ∧ ∀ k ∈ linesOf pa n, poisoned s.mem (k * 128) = false
    (∀ d : List Byte, off + d.length ≤ 2 ^ 36 →
      (free d.length → homed d.length → exec (.bar2Access false off d) s
          = .next { s with host := { s.host with barOut := readHbm s.mem pa d.length, barStat := 0 } })
      ∧ (free d.length → homed d.length → Apart s pa d.length → ∃ t, exec (.bar2Access true off d) s = .next t
          ∧ HbmHolds s t pa d ∧ t.part = s.part ∧ SameHost s t ∧ t.run.xfers = s.run.xfers)
      ∧ (free d.length → ¬ homed d.length → ∀ wr, exec (.bar2Access wr off d) s
          = .next { s with host := { s.host with barOut := [], barStat := 2 } })
      ∧ (¬ free d.length → ∀ wr, ∃ a, exec (.bar2Access wr off d) s
          = .next { s with host := { s.host with stalled := [a] } } ∧ a.span = (pa, d.length)))
    ∧ (∀ (op : HostOp) (wide : Bool) (x y : W64), let n := if wide then 8 else 4
      off + n ≤ 2 ^ 36 → off % n = 0 → s.host.apbase % 2 ^ 36 = 0 → free n → homed n →
      let old := natLe (readHbm s.mem pa n)
      ∃ t, exec (.bar2Atomic op (if wide then .w64 else .w32) off x y) s = .next t ∧ t.host.barOut = readHbm s.mem pa n
        ∧ t.host.barStat = 0
        ∧ HbmHolds s t pa (bytesLe n (match op with
          | .add => old + x.toNat
          | .exch => x.toNat
          | .cas => if old = x.toNat % 2 ^ (8 * n) then y.toNat else old)))
    ∧ ∀ (op : HostOp) (x y : W64), exec (.bar2Atomic op .w128 off x y) s
        = .next { s with host := { s.host with barOut := [], barStat := 1 } }

/-- R213, R214, R215, R276. A head packet that names a graph node registers at once: NPRED is added to the node's counter,
which makes it WAITING above 0 and otherwise READY, with EXTRA below 0; with FAIL set a node that becomes ready completes
its launch with PRED_FAILED and is FREE again; a node already registered completes the packet with NODE_BUSY. A countdown
subtracts 1; at 0 a WAITING node is READY. Counters are signed 32-bit values. A packet whose KIND is neither 0 nor 1 completes as a management packet with
BAD_REQ, once its ring's buffer can take a record (R275). In SAFE neither happens. -/
def Obligations.HeadPacketsAndGraphNodes : Prop :=
  let wrap (n : Int) : Int := (n + 2 ^ 31) % 2 ^ 32 - 2 ^ 31
  (∀ (q : Nat) (x : Queue) (bs : List Byte) (s : State), headPacket s q = some (x, bs) →
    let p := packetOf bs
    let old := nodeAt s p.gnode
    let c := wrap (old.count + Int.ofNat p.npred)
    (s.part.cryo.state = 6 ∨ packetKind bs ≠ 0 ∨ p.gnode = 0 → exec (.graphNodeRegister q) s = .next s)
    ∧ (s.part.cryo.state ≠ 6 → packetKind bs = 0 → p.gnode ≠ 0 → ∃ t y l, exec (.graphNodeRegister q) s = .next t
      ∧ kfind t.host.queues q = some y ∧ y.ridx = (x.ridx + 1) % 2 ^ 32 ∧ kfind t.run.launches s.ctl.serial = some l
      ∧ l.pkt = p ∧ l.queue = q ∧ l.asid = x.asid ∧ l.pktIdx = x.ridx ∧ SameBytes s t
      ∧ (old.state ≠ 0 → nodeAt t p.gnode = old ∧ l.stat = .finished ∧ l.status = 10)
      ∧ (old.state = 0 → 0 < c → nodeAt t p.gnode = ⟨c, 1, old.fail, s.ctl.serial⟩ ∧ l.stat = .node
          ∧ l.ready = false)
      ∧ (old.state = 0 → c ≤ 0 → l.extra = decide (c < 0)
          ∧ (old.fail = false → nodeAt t p.gnode = ⟨c, 2, false, s.ctl.serial⟩ ∧ l.stat = .node ∧ l.ready = true)
          ∧ (old.fail = true → nodeAt t p.gnode = Node.free ∧ l.stat = .finished ∧ l.status = 9))))
  ∧ (∀ (src : Src) (n : Nat) (l : Launch) (s : State), 0 < n → n < 2 ^ 18 →
    let old := nodeAt s n
    kfind s.run.launches old.launch = some l → ∃ u, exec (.countdown src n) s = .next (mgmtDone u src 0 0)
      ∧ SameBytes s u ∧ u.part = s.part
      ∧ (old.state = 0 → nodeAt u n = { old with count := wrap (old.count - 1) } ∧ u.run = s.run)
      ∧ (old.state = 1 → wrap (old.count - 1) ≠ 0 → nodeAt u n = { old with count := wrap (old.count - 1) } ∧ u.run = s.run)
      ∧ (old.state = 1 → wrap (old.count - 1) = 0 → old.fail = false → nodeAt u n = ⟨0, 2, false, old.launch⟩
          ∧ ∃ m, kfind u.run.launches old.launch = some m ∧ m.ready = true ∧ m.stat = l.stat)
      ∧ (old.state = 1 → wrap (old.count - 1) = 0 → old.fail = true → nodeAt u n = Node.free
          ∧ ∃ m, kfind u.run.launches old.launch = some m ∧ m.stat = .finished ∧ m.status = 9)
      ∧ (old.state = 2 → old.fail = false → nodeAt u n = { old with count := wrap (old.count - 1) }
          ∧ kfind u.run.launches old.launch = some { l with extra := true }))
  ∧ ∀ (q : Nat) (x : Queue) (bs : List Byte) (s : State), headPacket s q = some (x, bs) →
    (s.part.cryo.state = 6 ∨ x.busy = true ∨ packetKind bs < 2 ∨ canPost s q = false →
      exec (.packetBadKind q) s = .next s)
    ∧ (s.part.cryo.state ≠ 6 → x.busy = false → 2 ≤ packetKind bs → canPost s q = true → ∃ u y src, exec (.packetBadKind q) s
        = .next (mgmtDone u src 6 0) ∧ kfind u.host.queues q = some y ∧ y.ridx = (x.ridx + 1) % 2 ^ 32
        ∧ src.queue = some q ∧ src.idx = x.ridx ∧ src.req = (bs.getD 5 0).toNat ∧ src.lid.toNat = natLe (bs.take 4)
        ∧ u.mem = s.mem ∧ u.run = s.run ∧ u.part = s.part)

/-! ### Launches, placement and pre-emption (10 R213 to R230; 11 R244 to R249) -/

/-- R213, R214, R276, R49, R53, R52, R14, R45, R280. LAUNCH, while no launch is being read, takes, of the eligible head packets
and the ready graph nodes, the one of highest EPRIO and among equal ones the one whose queue follows most closely; never
in SAFE (R45). That nothing is chosen before the first full sample is the model's choice (log entry 7: R32 speaks of
placing), and so is that a launch binds when it is chosen, whatever room there is (log entry 43). The queue moves past a
chosen packet. A management packet goes to the management controller. A launch whose part has no valid inventory ends with
LF_SPAN (R14), one whose packet breaks its limits or whose ASID has no tables (R280) with LF_RESOURCE, one of no instances
with OK; one that binds has a tree of 1 to 12 levels in order that fits the part. -/
def Obligations.PacketsAreChosenAndBind : Prop :=
  ∀ s : State, (∀ e ∈ s.run.launches, e.2.stat ≠ .reading false) →
    let cs := headCands s ++ nodeCands s
    let may := s.part.cryo.started = true ∧ s.part.cryo.state ≠ 6
    (¬ may ∨ cs = [] → exec .launch s = .next s)
    ∧ (may → cs ≠ [] → ∃ c ∈ cs, (∀ d ∈ cs, d.ep < c.ep ∨ (d.ep = c.ep ∧ c.dist ≤ d.dist))
      ∧ (c.queue = none → ∃ t, exec .launch s = .next t ∧ nodeAt t (launchOf s c.lid).pkt.gnode = Node.free)
      ∧ ∀ q, c.queue = some q → ∃ x bs t y, headPacket s q = some (x, bs) ∧ x.busy = false ∧ exec .launch s = .next t
        ∧ kfind t.host.queues q = some y ∧ y.ridx = (x.ridx + 1) % 2 ^ 32 ∧ y.busy = true
        ∧ (packetKind bs = 1 → t.run = s.run ∧ t.mem = s.mem ∧ ∃ m, t.host.mgmt = s.host.mgmt ++ [m]
            ∧ m.src.queue = some q ∧ m.src.idx = x.ridx ∧ m.src.req = (bs.getD 5 0).toNat ∧ m.args = bs.drop 8)
        ∧ (packetKind bs = 0 → let p := packetOf bs
          ∃ l, kfind t.run.launches s.ctl.serial = some l ∧ l.pkt = p ∧ l.queue = q ∧ l.asid = x.asid
          ∧ (s.part.inv.valid = false → l.stat = .finished ∧ l.status = 5 ∧ l.faultK = 0)
          ∧ (s.part.inv.valid = true → p.clean = false ∨ p.mode = 3 ∨ p.image % 4096 ≠ 0 ∨ p.ext % 64 ≠ 0
              ∨ kfind s.mem.asids x.asid = none → l.stat = .finished ∧ l.status = 7 ∧ l.faultK = 0)
          ∧ (s.part.inv.valid = true → p.clean = true → p.mode ≠ 3 → p.image % 4096 = 0 →
              p.image + 128 ≤ 0xF0000000000000 → p.ext = 0 → p.lcount = 0 → kfind s.mem.asids x.asid ≠ none →
              l.stat = .finished ∧ l.status = 0)
          ∧ (l.stat = .bound → 1 ≤ l.img.levels.length ∧ l.img.levels.length ≤ 12 ∧ ∀ k ∈ levelNums l.img,
              orderBad l.img k = false ∧ fanoutBad s l.img k = false ∧ shapeBad s l.img k = false
              ∧ spanBad s l.img k = false)))

/-- R217, R79, R214. WORK_ITEM_PLACE makes the first waiting item of the first launch in order resident when it has room: on
cores that all have room for its shares, on a die that is online; its groups stand at the entry point with the lanes that
their thread level has, s60 at ARGS and every other register unwritten. Nothing is placed in SAFE or before the first
full sample. Stated for a unit of one item not yet placed, with no blocked candidate ahead and no replay that lost a
placement. -/
def Obligations.WorkItemsBecomeResident : Prop :=
  ∀ s : State,
    (s.part.cryo.started = false ∨ s.part.cryo.state = 6 → exec .workItemPlace s = .next s)
    ∧ (s.part.cryo.started = true → s.part.cryo.state ≠ 6 → ∀ (lid idx die last : Nat) (ms : List Nat) (sp : Spot),
      (∀ e ∈ s.run.launches, placeLost e.2 = false) →
      firstFit s (placeCands s) = some (lid, ms, [(idx, die, sp)], last) → isSavedUnit s lid ms = false →
      blockedCands s (placeCands s) = [] →
      let l := launchOf s lid
      (dieAt s die).state = 0 ∧ (∀ p ∈ sp, roomOn s l.img [] p.1 p.2 = true)
      ∧ ∃ t it i m, exec .workItemPlace s = .next t ∧ kfind t.run.items it = some i ∧ i.launch = lid ∧ i.index = idx
        ∧ i.die = die ∧ i.cores = sp.map (·.1) ∧ i.gids.length = groupsPerItem l.img ∧ t.host.lastQueue = l.queue
        ∧ kfind t.run.launches lid = some m ∧ m.nextItem = max l.nextItem (ms.foldl max 0 + 1) ∧ m.lastDie = last
        ∧ t.mem.hbm = s.mem.hbm ∧ t.mem.host = s.mem.host ∧ t.mem.ws = s.mem.ws
        ∧ ∀ gid ∈ i.gids, ∃ h, grp t gid = some h ∧ h.launch = lid ∧ h.item = it ∧ h.gidx < groupsPerItem l.img
          ∧ gid / 32 = coreOn l.img sp h.gidx ∧ h.stat = .run ∧ h.pc = l.img.entry ∧ h.active = presentLanes l.img
          ∧ h.stack = [] ∧ (∀ r k, rdVl h r k = 0) ∧ (∀ r, rdS h r = if r = 60 then l.pkt.args else 0)
          ∧ ∀ r, r ≠ 7 → rdP h r = 0)

/-- R333, R216, R215, R148, R275. A group that has ended gives its slot back once its batches, loads, atomics and transfers
are over: its writes are performed, and a work item without groups has ended. A launch with nothing left completes while
its ring's buffer has room: its record stands on its queue's ring with its status (8 where a group of it was killed, else
its own), the queue goes on, and its successors are counted down, with FAIL unless the status is OK; where the record
waits for a full ring, all this happens once it is posted. Stated outside RECORD and REPLAY, for at most one successor,
which is FREE and was read when the launch was bound. -/
def Obligations.GroupsAndLaunchesEnd : Prop :=
  (∀ (s : State) (gid : Nat) (g : Group), grp s gid = some g →
    (mayEnd s gid g = false → exec (.groupEnd gid) s = .next s)
    ∧ (mayEnd s gid g = true → ∃ t, exec (.groupEnd gid) s = .next t ∧ grp t gid = none ∧ HomesDrained s t
      ∧ (∀ w ∈ t.mem.ports, w.gid ≠ gid) ∧ t.part = s.part ∧ t.run.xfers = s.run.xfers
      ∧ ∀ i, kfind s.run.items g.item = some i → let left := i.gids.filter fun k => !(k == gid)
        (left = [] → i.saved = none → kfind t.run.items g.item = none ∧ ∀ l, kfind s.run.launches i.launch = some l →
          replaying l = false →
          kfind t.run.launches i.launch = some { l with endedItems := l.endedItems ++ [i.index] })
        ∧ (left ≠ [] → kfind t.run.items g.item = some { i with gids := left })))
  ∧ ∀ (s : State) (lid : Nat) (l : Launch), kfind s.run.launches lid = some l →
    let st := if l.stat = .bound then (if l.killed then 8 else 0) else l.status
    let wrap (n : Int) : Int := (n + 2 ^ 31) % 2 ^ 32 - 2 ^ 31
    let closed (t : State) : Prop := kfind t.run.launches lid = none ∧ t.run.items = s.run.items
      ∧ t.run.groups = s.run.groups
      ∧ (∀ x y, kfind s.host.queues l.queue = some x → l.pktIdx = (x.ridx + 2 ^ 32 - 1) % 2 ^ 32 →
          kfind t.host.queues l.queue = some y → y.busy = false)
      ∧ ∀ n, nodeAt t n = if l.succs = [n] then { nodeAt s n with
          count := wrap ((nodeAt s n).count - 1)
          fail := (nodeAt s n).fail || decide (st ≠ 0) } else nodeAt s n
    (l.succs = [] ∨ ∃ n, l.succs = [n] ∧ (nodeAt s n).state = 0) → (l.succs ≠ [] ∨ st = 0 ∨ st = 8) →
    (l.record = none → launchDone s lid l = false ∨ canPost s l.queue = false → exec (.launchComplete lid) s = .next s)
    ∧ (l.record = none → launchDone s lid l = true → canPost s l.queue = true → l.pkt.det ≠ 1 → l.queue < 65536 →
      ∃ t, exec (.launchComplete lid) s = .next t
        ∧ Posted s t l.queue 1 l.queue (bytesLe 4 l.pkt.launchid.toNat ++ bytesLe 1 st ++ bytesLe 1 l.faultK
            ++ bytesLe 1 (l.extra.toNat + 2 * l.logfull.toNat + 4 * l.armfail.toNat) ++ bytesLe 1 0
            ++ bytesLe 8 l.pktIdx ++ bytesLe 8 0)
        ∧ ((∀ x, kfind s.host.queues l.queue = some x → x.seq - x.head ≠ 2 ^ x.csize ∧ x.held = []) → closed t)
        ∧ ∀ x, kfind s.host.queues l.queue = some x → (x.seq - x.head = 2 ^ x.csize ∨ x.held ≠ []) →
            (∃ r, kfind t.run.launches lid = some { l with record := some r }) ∧ t.host.nodes = s.host.nodes)
    ∧ ∀ r, l.record = some r →
      ((∃ x, kfind s.host.queues l.queue = some x ∧ r ∈ x.held) → exec (.launchComplete lid) s = .next s)
      ∧ ((∀ x, kfind s.host.queues l.queue = some x → r ∉ x.held) →
        ∃ t, exec (.launchComplete lid) s = .next t ∧ closed t ∧ t.mem = s.mem)

/-- R221, R244, R246, R248, R229, R230. A QUANTUM item whose slice of 2^20 AC cycles is over while another item of its
launch waits, none of whose groups is parked and whose image the reserved memory can hold, is asked to be pre-empted,
and its batches have leave at once; that every slice that is over is swapped, whichever item waits, is the model's
choice (log entry 43). A group whose item was asked 50 µs of SI time ago, outside REPLAY and while it is not within a
read of WORK, stops at its instruction boundary, before the hints of its next instruction. A group continuously not
ready for WDOG parks, and the event of R230 is posted, once queue 0's ring can take it; what it waits for counts with
what stands behind it, and waits for leave, for a weight-store window or for a turn in the log, and SAFE, do not
count; that the time is counted in steps of 100 microseconds is the model's choice (log entry 2). The slice is stated
for an item that is its own gang. R245, R246, R249, R228, R244. A save is complete when its groups are at rest and
nothing of the item is under way: the item leaves its cores, and its image holds of a group stopped at LIVE the
registers and tiles that the LIVE names, otherwise all of them; its writes are performed, the save engine writes the
image's bytes to its place in the reserved memory (what each byte holds the spec leaves open, log entry 20), and it
waits as a candidate. A request on an item with a parked group is withdrawn, and its stopped groups go on. A restore
puts the groups on cores with room, as they were, a MONWAIT as if woken, with their L1s empty. Stated outside REPLAY
for an item of one group that is its own gang, with a stack of at most 32 slots, and for reserved memory that
translates. -/
def Obligations.SlicesSavesAndRestores : Prop :=
  ((∀ (s : State) (it : Nat) (i : Item), kfind s.run.items it = some i →
    let l := launchOf s i.launch
    (l.pkt.mode ≠ 2 ∨ i.saved ≠ none ∨ s.ctl.clk < i.placed + 2 ^ 20 ∨ othersWait s i = false →
      exec (.quantumSliceExpiry it) s = .next s)
    ∧ (l.pkt.mode = 2 → i.saved = none → i.placed + 2 ^ 20 ≤ s.ctl.clk → othersWait s i = true →
      itemsPerGang l.img ≤ 1 →
      (mayAsk s i 1 = false ∨ reservedHolds s i.launch l 0 1 = false → exec (.quantumSliceExpiry it) s = .next s)
      ∧ (mayAsk s i 1 = true → reservedHolds s i.launch l 0 1 = true →
        ∃ t, exec (.quantumSliceExpiry it) s = .next t ∧ t.mem = s.mem
        ∧ kfind t.run.items it = some { i with
            preempt := some 1
            asked := s.ctl.si
            waiters := (l.waiting, l.nextItem) }
        ∧ ∀ gid g, gid ∈ i.gids → grp s gid = some g → ∃ h, grp t gid = some h
          ∧ h = { g with batches := g.batches.map fun b => { b with granted := true } })))
  ∧ (∀ (s : State) (gid : Nat) (g : Group), grp s gid = some g →
    let i := (kfind s.run.items g.item).getD Item.fresh
    let due := i.preempt ≠ none ∧ i.asked + 50 * siUnits ≤ s.ctl.si
    replaying (launchOf s g.launch) = false →
    (g.stat ≠ .run ∨ ¬ due → exec (.preemptFallback gid) s = .next s)
    ∧ (g.stat = .run → due → readsWork s gid g = false → ∃ t h, exec (.preemptFallback gid) s = .next t
      ∧ grp t gid = some h ∧ h.stat = .stopped .boundary ∧ h.pc = g.hints.first.getD g.pc ∧ h.hints = Hints.none
      ∧ h.v = g.v ∧ h.s = g.s ∧ h.p = g.p ∧ h.stack = g.stack ∧ h.active = g.active ∧ h.opens = [] ∧ t.mem = s.mem))
  ∧ ∀ (s : State) (gid : Nat) (g : Group), grp s gid = some g →
    (∀ w, g.stat = .run → waitNow s gid g = some w → w ≠ .pacer → w ≠ .window → w ≠ .forced → s.part.cryo.state ≠ 6 →
      10 * s.host.wdogMs ≤ g.idle → canPost s 0 = true → ∃ t, exec (.watchdogPark gid) s = .next t
        ∧ grp t gid = some { g with stat := .parkDog }
        ∧ Told s t 5 (bytesLe 4 (launchIdOf s g) ++ bytesLe 2 (gid / 32) ++ bytesLe 1 (gid % 32)
            ++ bytesLe 1 (match w with
              | .queue => 0
              | .barrier => 1
              | .memory => 2
              | .tag => 3
              | .batch => 4
              | .renaming => 5
              | .monwait => 6
              | _ => 7) ++ bytesLe 8 g.pc))
    ∧ (g.stat ≠ .run ∨ g.wait = none ∨ waitNow s gid g = some .pacer ∨ waitNow s gid g = some .window
        ∨ waitNow s gid g = some .forced ∨ s.part.cryo.state = 6 ∨ g.idle < 10 * s.host.wdogMs ∨ canPost s 0 = false →
      exec (.watchdogPark gid) s = .next s))
  ∧ ((∀ (s : State) (it : Nat) (i : Item) (gid : Nat) (g : Group) (p : StopAt), kfind s.run.items it = some i →
    i.gids = [gid] → grp s gid = some g → g.stat = .stopped p → slotsOf g.stack ≤ 32 → i.preempt ≠ none →
    i.saved = none → i.saveParked = false → saveReady s it i = true → readsWork s gid g = false →
    let l := launchOf s i.launch
    replaying l = false → itemsPerGang l.img ≤ 1 → saveFault s l i.launch i.die = none →
    ∃ t j h u bs, exec (.saveComplete it) s = .next t
      ∧ kfind t.run.items it = some j ∧ j.saved = some [h] ∧ j.gids = [] ∧ j.cores = [] ∧ j.preempt = none
      ∧ grp t gid = none ∧ HomesDrained s u ∧ (∀ w ∈ t.mem.ports, w.gid ≠ gid) ∧ bs.length = imageBytes l.img
      ∧ (let v := storeVas u i.die l.asid (imageVa l j.area) bs
         t.mem.hbm = v.mem.hbm ∧ t.mem.host = v.mem.host ∧ t.mem.ws = v.mem.ws)
      ∧ (∀ m, kfind s.run.launches i.launch = some m → i.index ∈ (launchOf t i.launch).waiting)
      ∧ h.pc = g.pc ∧ h.active = g.active ∧ h.stack = g.stack ∧ h.p = g.p ∧ h.sig = g.sig ∧ h.tags = g.tags
      ∧ h.fpflags = g.fpflags ∧ h.lastBatch = g.lastBatch ∧ h.pq.held = none
      ∧ (∀ f, p = .live f → (∀ r l, rdVl h r l = if liveNames f false r then rdVl g r l else 0)
          ∧ (∀ r, rdS h r = if liveNames f true r then rdS g r else 0)
          ∧ (∀ a x y, rdTile h a x y = if f.acc.toNat.testBit a then rdTile g a x y else 0))
      ∧ ((∀ f, p ≠ .live f) → h.v = g.v ∧ h.s = g.s ∧ h.tile = g.tile ∧ j.scr = i.scr))
  ∧ (∀ (s : State) (it c : Nat) (i : Item), kfind s.run.items it = some i → i.preempt = some c → c ≠ 0 →
    i.saved = none → i.saveParked = false → itemParked s i = true → replaying (launchOf s i.launch) = false →
    ∃ t, exec (.saveComplete it) s = .next t ∧ kfind t.run.items it = some { i with preempt := none }
      ∧ t.mem = s.mem ∧ ∀ gid g p, gid ∈ i.gids → grp s gid = some g → g.stat = .stopped p → ∃ h, grp t gid = some h
        ∧ h = { g with stat := .run, wait := none, idle := 0 })
  ∧ ∀ (s : State) (it : Nat) (i : Item) (g : Group) (p : StopAt) (die last : Nat) (ms : List Nat) (sp : Spot),
    kfind s.run.items it = some i → i.saved = some [g] → g.stat = .stopped p → i.saveParked = false → i.gids = [] →
    s.part.cryo.started = true → s.part.cryo.state ≠ 6 → i.index ∈ ms →
    firstFit s (placeCands s) = some (i.launch, ms, [(i.index, die, sp)], last) → slotsOf g.stack ≤ 32 →
    savedItem s i.launch i.index = some (it, i) → loadFault s (launchOf s i.launch) i.launch die i = none →
    ∃ t j gid h, exec (.workItemRestore it) s = .next t ∧ kfind t.run.items it = some j ∧ j.saved = none
      ∧ j.gids = [gid] ∧ j.die = die ∧ j.cores = sp.map (·.1)
      ∧ gid / 32 = coreOn (launchOf s i.launch).img sp g.gidx ∧ grp t gid = some h ∧ h.stat = .run ∧ h.wait = none
      ∧ h.v = g.v ∧ h.s = g.s ∧ h.p = g.p ∧ h.tile = g.tile ∧ h.pc = g.pc ∧ h.active = g.active ∧ h.stack = g.stack
      ∧ (∀ l, g.mon = .armed l → h.mon = .fired l 1) ∧ SameBytes s t
      ∧ ∀ c ∈ sp, ∀ pa, pa < 2 ^ 56 → l1Line t c.1 pa = none)

/-- R226, R227, R228. A write to PACERQ returns what the group holds or asks for; UNITS other than 0 asks its die's
account for UNITS × 2^16. PACERQ_RESERVATION_EXPIRY of a held reservation returns it, 2^16 AC cycles or more after it
was last used. An account serves its requests by PRIO, then arrival, or with ORDER 0 by arrival alone (stated outside
SAFE); it grants one that it covers, or one above 2^25 when it is full, within the di/dt limit, and is debited by it;
the leave reaches the batch, the reservation or the transfer that asked. F is 1 at the default cap in class 0. R222,
R223. The oldest read of WORK of a launch is served: without a distribution and past the item's range it returns DONE
alone; under SPLIT the next segment of the item's range, from KBEGIN for KCOUNT steps within one tile; under POOL the
next whole tile of the launch's counter, DONE alone when none is left, and in a restarted attempt the tile that the
earlier attempt popped there. Under POOL stated outside REPLAY. -/
def Obligations.LeaveAndWorkAreGranted : Prop :=
  ((∀ (s : State) (gid u : Nat) (g : Group), grp s gid = some g → g.pq.write = some u →
    let die := coreDie s.part.dies (gid / 32)
    let rest := s.host.asks.filter fun r => !(r.who == .reserve gid)
    ∃ t h, exec (.pacerqWrite gid) s = .next t ∧ grp t gid = some h ∧ h.pq.units = u ∧ h.pq.held = none
      ∧ h.pq.write = none ∧ h.pc = g.pc ∧ h.v = g.v ∧ h.s = g.s ∧ t.mem = s.mem
      ∧ accountOf t die = (match g.pq.held with
        | some w => min accountCap (accountOf s die + Int.ofNat w)
        | none => accountOf s die)
      ∧ (u = 0 → h.pq.pend = none ∧ t.host.asks = rest)
      ∧ (u ≠ 0 → h.pq.pend = some (u * 65536) ∧ t.host.asks
          = rest ++ [⟨die, .reserve gid, u * 65536, (launchOf s g.launch).pkt.prio⟩]))
  ∧ (∀ (s : State) (gid w : Nat) (g : Group), grp s gid = some g → g.pq.held = some w →
    ∃ t h, exec (.pacerqReservationExpiry gid) s = .next t ∧ grp t gid = some h ∧ h.pq.held = none
      ∧ g.pq.since + 2 ^ 16 ≤ t.ctl.clk ∧ accountOf t (coreDie s.part.dies (gid / 32))
        = min accountCap (accountOf s (coreDie s.part.dies (gid / 32)) + Int.ofNat w))
  ∧ (∀ (s : State) (die : Nat) (r : PacerReq), nextAsk s die = some r → s.part.cryo.state ≠ 6 →
    let full := if accountCap < Int.ofNat r.weight then accountOf s die = accountCap
      else Int.ofNat r.weight ≤ accountOf s die
    r ∈ s.host.asks ∧ r.die = die
    ∧ (s.host.order ≠ 0 → (∀ x ∈ s.host.asks, x.die = die → x.prio ≤ r.prio)
      ∧ s.host.asks.find? (fun x => x.die == die && x.prio == r.prio) = some r)
    ∧ (s.host.order = 0 → s.host.asks.find? (fun x => x.die == die) = some r)
    ∧ (¬ full → exec (.pacerGrant die) s = .next s)
    ∧ (didtAllows s die r.weight = false → exec (.pacerGrant die) s = .next s)
    ∧ (full → didtAllows s die r.weight = true → ∃ t, exec (.pacerGrant die) s = .next t
      ∧ t.host.asks = s.host.asks.erase r ∧ accountOf t die = accountOf s die - Int.ofNat r.weight ∧ t.mem = s.mem
      ∧ (∀ gid num g, r.who = .batch gid num → grp s gid = some g → ∃ h, grp t gid = some h
          ∧ h = { g with batches := g.batches.map fun b => if b.num = num then { b with granted := true } else b })
      ∧ (∀ gid g, r.who = .reserve gid → grp s gid = some g → ∃ h, grp t gid = some h ∧ h.pq.held = some r.weight
          ∧ h.pq.pend = none)
      ∧ ∀ n x, r.who = .xfer n → s.run.xfers.find? (fun y => y.id == n) = some x →
          t.run.xfers.find? (fun y => y.id == n) = some { x with leave := x.leave - 1 }))
  ∧ ∀ s : State, ∃ t, exec .pacerRecompute s = .next t ∧ t.mem = s.mem ∧ t.run = s.run ∧ t.part = s.part
      ∧ t.host = { s.host with f := t.host.f }
      ∧ (s.host.capW = dissipation s.part.inv.grade → s.part.cryo.cls = 0 → t.host.f = 65536))
  ∧ (∀ (s : State) (lid : Nat) (l : Launch) (r : WorkReq) (rest : List WorkReq) (g : Group) (i : Item),
    kfind s.run.launches lid = some l → l.workQ = r :: rest → grp s r.gid = some g → kfind s.run.items g.item = some i →
    r.d ≠ 63 → (l.ext.dkind = 2 → replaying l = false) →
    let e := l.ext
    let owns (v : Nat) : Nat := v * (e.ntiles * e.iters) / itemCount l
    let k := owns i.index + i.cursor
    let tile := k / e.iters
    let stop := min (owns (i.index + 1)) ((tile + 1) * e.iters)
    let meets (v : Nat) : Bool := decide (max (tile * e.iters) (owns v) < min ((tile + 1) * e.iters) (owns (v + 1)))
    ∃ t h m, exec (.workRead lid) s = .next t ∧ grp t r.gid = some h ∧ kfind t.run.launches lid = some m
      ∧ m.workQ = rest ∧ h.pc = g.pc ∧ h.v = g.v ∧ h.p = g.p ∧ (∀ x, x ≠ r.d → rdS h x = rdS g x) ∧ t.mem = s.mem
      ∧ (e.dkind ≠ 1 → e.dkind ≠ 2 → rdS h r.d = 2 ^ 34)
      ∧ (e.dkind = 1 → owns (i.index + 1) ≤ k → rdS h r.d = 2 ^ 34)
      ∧ (e.dkind = 1 → 1 ≤ e.iters → k < owns (i.index + 1) →
          rdS h r.d = BitVec.ofNat 64 (tile + 2 ^ 22 * ((List.range i.index).filter meets).length
            + 2 ^ 28 * (((List.range (itemCount l)).filter meets).length - 1) + 2 ^ 36 * (k % e.iters)
            + 2 ^ 50 * (stop - k))
          ∧ kfind t.run.items g.item = some { i with cursor := i.cursor + (stop - k) })
      ∧ (e.dkind = 2 → i.popped.length ≤ i.poppedPos → l.pool < e.ntiles →
          rdS h r.d = BitVec.ofNat 64 (l.pool + 2 ^ 50 * e.iters) ∧ m.pool = l.pool + 1
          ∧ kfind t.run.items g.item = some { i with popped := i.popped ++ [l.pool], poppedPos := i.poppedPos + 1 })
      ∧ (e.dkind = 2 → i.popped.length ≤ i.poppedPos → e.ntiles ≤ l.pool →
          rdS h r.d = 2 ^ 34)
      ∧ (e.dkind = 2 → i.poppedPos < i.popped.length →
          rdS h r.d = BitVec.ofNat 64 (i.popped.getD i.poppedPos 0 + 2 ^ 50 * e.iters) ∧ m.pool = l.pool
          ∧ kfind t.run.items g.item = some { i with poppedPos := i.poppedPos + 1 }))

/-! ### The part (01, 02, 11 R250, R256, R258; 13 R281 to R284) -/

/-- R28, R29, R30, R31, R32, R33. FIRST_FULL_SAMPLE before the part has started, with a reading of every sensor,
records the hottest reading T and its band, and chooses the state: band 0 SETTLE, band 1 COOLDOWN, band 2 WARM, band 3
or two readings of one die more than 10 K apart SAFE; otherwise it does nothing. SENSOR_SAMPLE after that records T,
its band and a ramp above 20 K/min; band 3, a ramp above 30 K/min, such a pair of readings or a sensor still silent
leads to SAFE; then a request whose row holds; then the rows of R33 without a hold. SENSOR_TIMEOUT of a sensor of the
part sets SENSFLT and leads to SAFE, at once or after the class change under way. A row with a hold (WARM at BAND 0 or
1; COOLDOWN and WARMUP at BAND 2; SETTLE at TEMP up to 92.0 K with a ramp below 1 K/min and the recalibration done;
RETREAT at TEMP up to 92.0 K) counts each sample that leaves the state and meets its condition, restarts at one that
does not, and starts with the sample or hold that enters the state, in SETTLE at 0; COLD_HOLD_EXPIRY applies the row
once the count exceeds the hold. SENSOR_SAMPLE is stated for a sample with a reading, while no class change is under
way. R34, R36, R38, R39, R40, R44, R122, R438, R258. CLASS_CHANGE_ISSUE_STOP of a class change stops issue;
CLASS_CHANGE_ISSUE_RESUME of a stopped one ends it: CLASS is the new class, CHG counts on, refresh is off only in
class 0, and the class event is posted. PSEUDO_CHANNEL_RETRAIN_DONE leaves one pseudo-channel less to some stack that
has one left (which, the spec leaves open, log entry 18). WS_WINDOW_BEGIN opens the next of 16 bank groups in turn,
and WS_WINDOW_END closes it, or opens the next where the decision to leave class 0 left that to its end.
RETENTION_PATROL, while refresh is off, counts a corrected row in the HBM histogram of its stack, in a bucket of its
64 pseudo-channels (their number is presumed, log entry 7). Each does nothing where its condition does not hold. The
end of a change is stated with no decision waiting, the patrol while queue 0's ring has room for an event. -/
def Obligations.ColdOperation : Prop :=
  (let bandAt (T : Nat) : Nat :=
    if T < 65000 ∨ 330000 < T then 3 else if T ≤ 95000 then 0 else if T ≤ 160000 then 1 else 2
  let first (b : Nat) : Nat := if b = 0 then 2 else if b = 1 then 1 else if b = 2 then 0 else 6
  let hottest (v : List Reading) (T : Nat) : Prop := (∃ r ∈ v, r.temp = T) ∧ ∀ r ∈ v, r.temp ≤ T
  let clash (v : List Reading) : Prop := ∃ a ∈ v, ∃ b ∈ v, a.pos = b.pos ∧ a.idx < b.idx
    ∧ (a.temp + 10000 < b.temp ∨ b.temp + 10000 < a.temp)
  let held (st b T : Nat) (ramp : Int) (recal : Prop) : Prop := (st = 0 ∧ b ≤ 1) ∨ (st = 1 ∧ b = 2)
    ∨ (st = 2 ∧ T < 92100 ∧ ramp.natAbs < 1000 ∧ recal) ∨ (st = 4 ∧ T < 92100) ∨ (st = 5 ∧ b = 2)
  let enters (c : Cryo) : Prop := let meets := c.state ≠ 2 ∧ held c.state c.band c.temp 0 True
    (meets → c.hold = 1) ∧ (¬ meets → c.hold = 0)
  (∀ (s : State) (rs : List Reading), let v := validReadings s rs
    (s.part.cryo.started = true ∨ fullSample s v = false → exec (.firstFullSample rs) s = .next s)
    ∧ ∀ T, s.part.cryo.started = false → fullSample s v = true → hottest v T →
      ∃ t, exec (.firstFullSample rs) s = .next t ∧ t.part.cryo.started = true ∧ t.part.cryo.temp = T
        ∧ t.part.cryo.band = bandAt T ∧ t.part.cryo.cls = classOf t.part.cryo.state ∧ t.run = s.run
        ∧ (clash v → t.part.cryo.state = 6 ∧ t.part.cryo.sensflt = true)
        ∧ (¬ clash v → t.part.cryo.state = first (bandAt T)) ∧ enters t.part.cryo)
  ∧ (∀ (s : State) (rs : List Reading), let c := s.part.cryo
    let v := validReadings s rs
    (c.started = false → exec (.sensorSample rs) s = .next s)
    ∧ ∀ T, c.started = true → c.change = none → hottest v T →
      let b := bandAt T
      let ramp := rampOf c T
      let quiet := ∃ x ∈ c.silent, x.1 ∈ sensedPos s ∧ ∀ r ∈ v, (r.pos, r.idx) ≠ x
      let fault := clash v ∨ quiet
      let safe := c.state ≠ 6 ∧ (b = 3 ∨ 30000 < ramp.natAbs ∨ fault)
      ∃ t, exec (.sensorSample rs) s = .next t ∧ t.part.cryo.temp = T ∧ t.part.cryo.band = b ∧ t.part.cryo.reqs = []
        ∧ t.part.cryo.ramp = (c.ramp || decide (20000 < ramp.natAbs))
        ∧ (safe → t.part.cryo.state = 6)
        ∧ (¬ safe → c.reqs = [] → t.part.cryo.state =
            if c.state = 1 ∧ b = 0 then 2 else if (c.state = 2 ∨ c.state = 3) ∧ 1 ≤ b then 4
            else if c.state = 4 ∧ b = 2 then 5 else c.state)
        ∧ (∀ src, ¬ safe →
          (c.reqs = [(.warmup, src)] → (c.state = 2 ∨ c.state = 3) ∧ b = 0 ∨ c.state = 4 → t.part.cryo.state = 5)
          ∧ (c.reqs = [(.cancel, src)] → c.state = 5 → b ≤ 1 → t.part.cryo.state = 1)
          ∧ (c.reqs = [(.safeExit, src)] → c.state = 6 → b ≤ 2 → ¬ fault → ramp.natAbs ≤ 20000 →
              t.part.cryo.state = first b ∧ t.part.cryo.sensflt = false))
        ∧ (t.part.cryo.state = c.state →
          (held c.state b T ramp (c.retrain = []) → t.part.cryo.hold = c.hold + 1)
          ∧ (¬ held c.state b T ramp (c.retrain = []) → t.part.cryo.hold = 0))
        ∧ (t.part.cryo.state ≠ c.state → enters t.part.cryo))
  ∧ (∀ (s : State) (pos idx : Nat),
    (¬ (pos ∈ sensedPos s ∧ idx < sensorsAt pos) → exec (.sensorTimeout pos idx) s = .next s)
    ∧ (pos ∈ sensedPos s → idx < sensorsAt pos → ∃ t, exec (.sensorTimeout pos idx) s = .next t
      ∧ t.part.cryo.sensflt = true ∧ t.part.cryo.started = true ∧ (pos, idx) ∈ t.part.cryo.silent
      ∧ (s.part.cryo.change = none ∨ s.part.cryo.started = false → t.part.cryo.state = 6)
      ∧ (s.part.cryo.started = true → s.part.cryo.change ≠ none → s.part.cryo.state ≠ 6 →
          ∃ e ∈ t.part.cryo.waiting, e.1 = 6)))
  ∧ ∀ s : State, let c := s.part.cryo
    (c.state = 3 ∨ 5 < c.state → exec .coldHoldExpiry s = .next s)
    ∧ ∀ st new k, (st, new, k) ∈ [(0, 1, 600000), (1, 0, 600000), (2, 3, 3000000), (4, 2, 600000), (5, 0, 600000)] →
      c.state = st →
      (c.started = false ∨ c.hold ≤ k ∨ c.change ≠ none → exec .coldHoldExpiry s = .next s)
      ∧ (c.started = true → k < c.hold → c.change = none → ∃ t, exec .coldHoldExpiry s = .next t
        ∧ t.part.cryo.state = new ∧ t.part.cryo.chg = (c.chg + 1) % 2 ^ 24 ∧ enters t.part.cryo ∧ t.run = s.run
        ∧ (classOf new ≠ c.cls → t.part.cryo.change = some ⟨classOf new, false⟩)
        ∧ (classOf new = c.cls → t.part.cryo.change = none)))
  ∧ ((∀ s : State, let c := s.part.cryo
    (c.change = none → exec .classChangeIssueStop s = .next s ∧ exec .classChangeIssueResume s = .next s)
    ∧ ∀ k, c.change = some k →
      exec .classChangeIssueStop s = .next { s with part := { s.part with cryo := { c with
        change := some { k with stopped := true } } } }
      ∧ issueStopped { s with part := { s.part with cryo := { c with change := some { k with stopped := true } } } }
        = true
      ∧ (k.stopped = false → exec .classChangeIssueResume s = .next s)
      ∧ (k.stopped = true → c.waiting = [] → ∃ t, exec .classChangeIssueResume s = .next t
        ∧ t.part.cryo = { c with
            cls := k.target
            chg := (c.chg + 1) % 2 ^ 24
            change := none
            refreshOn := !(k.target == 0) }
        ∧ t.run = s.run ∧ Posted s t 0 3 0 (bytesLe 1 1 ++ bytesLe 1 c.state ++ bytesLe 1 c.state ++ bytesLe 1 c.cls
            ++ bytesLe 1 k.target ++ bytesLe 1 c.band ++ bytesLe 2 (c.temp / 100) ++ bytesLe 4 ((c.chg + 1) % 2 ^ 24)
            ++ bytesLe 4 0)))
  ∧ (∀ s : State, let r := s.part.cryo.retrain
    (r = [] → exec .pseudoChannelRetrainDone s = .next s)
    ∧ (r ≠ [] → ∃ t, ∃ e ∈ r, exec .pseudoChannelRetrainDone s = .next t ∧ t.mem = s.mem ∧ t.run = s.run
      ∧ t.part = { s.part with cryo := { s.part.cryo with retrain := kput 0 r e.1 (e.2 - 1) } }))
  ∧ (∀ (s : State) (d : Nat) (w : WsWin), s.part.ws[d]? = some w →
    let put (x : WsWin) : State := { s with part := { s.part with ws := s.part.ws.set d x } }
    (w.openBg = none → exec (.wsWindowBegin d) s
      = .next (put ⟨(w.next + 1) % 16, some w.next, longCadence s.part.cryo, false⟩))
    ∧ (w.openBg ≠ none → exec (.wsWindowBegin d) s = .next s)
    ∧ (w.again = false → exec (.wsWindowEnd d) s = .next (put { w with openBg := none }))
    ∧ (w.again = true → exec (.wsWindowEnd d) s = .next (put ⟨(w.next + 1) % 16, some w.next, true, false⟩)))
  ∧ ∀ (s : State) (stack : Nat) (corrected : Bool),
    (s.part.cryo.refreshOn = true ∨ corrected = false → exec (.retentionPatrol stack corrected) s = .next s)
    ∧ ∀ h, s.part.cryo.refreshOn = false → corrected = true → canPost s 0 = true → s.part.hists[5]? = some h →
      ∃ t h' b, exec (.retentionPatrol stack corrected) s = .next t ∧ t.run = s.run ∧ t.part.hists[5]? = some h'
        ∧ b < 64 ∧ kget 0 h'.counts (stack % 65536 * 65536 + b)
          = (if 65535 ≤ kget 0 h.counts (stack % 65536 * 65536 + b) then
              kget 0 h.counts (stack % 65536 * 65536 + b) else kget 0 h.counts (stack % 65536 * 65536 + b) + 1)
        ∧ ∀ k, k ≠ stack % 65536 * 65536 + b → kget 0 h'.counts k = kget 0 h.counts k)

/-- R250, R251, R252, R258. ERROR_DETECTED counts in its bucket of its unit, saturating at 16 bits, and at the
threshold the event of R274 is posted; a bucket outside the table is no event. HISTOGRAM_WRITE puts every count into
the signed store. UNCORRECTABLE_ERROR of a group, whether it runs, waits or has ended while a batch of its reads: it
halts at its instruction and keeps its registers, its launch will complete with KILLED, the event of R252 carries KIND
1, and where its work item is in no transaction the other groups of its launch learn of it. Of a copy, a chain or an
add-mode drain: the element that it comes to next will stay unwritten. Of a host read: it is answered with a completer
abort (2). That a count or a halt whose event queue 0's ring cannot take waits is the model's choice (log entry 59),
as is that the HBM histogram has 64 buckets, one for each pseudo-channel of a stack (log entry 7). R22, R23, R25,
R119, R274, R279. Requests for a die that does not exist answer BAD_REQ, for an offline one BAD_DIE, for one whose
evacuation runs BUSY. OFFLINE of the last online die and one without enough free frames are refused with their status;
otherwise the die drains and its used regions are to be moved; repeated on a draining die it is answered again with
EVAC_NOSPACE, or begins. That frames which running evacuations still need do not count as free is the model's choice
(log entry 28), and so is that a link that goes down, and a die that is to be offline, wait while queue 0's ring
cannot take their events (log entry 59). A forced request on a draining die takes what frames there are and poisons
the rest. RESTORE puts a draining die online. A moved region's bytes read as before at their addresses, and no other
byte changes; the frame leaves the pool. When all have moved, the die is idle and its ring can take the completion, it
is offline, without translations. A die link that goes down and every change of a die count in GEN. -/
def Obligations.ErrorsAndDies : Prop :=
  ((∀ (s : State) (n unit b : Nat) (h : Hist), s.part.hists[n]? = some h →
    let size := if n = 0 then 64 else if n = 1 then 8 else if n = 2 then 16 else if n = 3 then 16
      else if n = 4 then 256 else if n = 5 then 64 else 0
    (size ≤ b → exec (.errorDetected n unit b) s = .next s)
    ∧ (b < size → unit < 65536 →
      let key := unit * 65536 + b
      let old := kget 0 h.counts key
      (65535 ≤ old ∨ old + 1 = h.thresh ∧ canPost s 0 = false → exec (.errorDetected n unit b) s = .next s)
      ∧ (old < 65535 → old + 1 ≠ h.thresh ∨ canPost s 0 = true → ∃ t h', exec (.errorDetected n unit b) s = .next t ∧ t.run = s.run ∧ t.part.hists[n]? = some h'
        ∧ kget 0 h'.counts key = old + 1 ∧ (∀ k, k ≠ key → kget 0 h'.counts k = kget 0 h.counts k)
        ∧ h'.written = h.written
        ∧ (old + 1 ≠ h.thresh → t.mem = s.mem ∧ t.host = s.host)
        ∧ (old + 1 = h.thresh → Told s t 9 (bytesLe 1 n ++ bytesLe 1 0 ++ bytesLe 2 unit ++ bytesLe 2 b
            ++ bytesLe 2 (old + 1))))))
  ∧ (∀ s : State, ∃ t, exec .histogramWrite s = .next t ∧ t.mem = s.mem ∧ t.run = s.run ∧ t.host = s.host
    ∧ t.part.hists = s.part.hists.map fun h => { h with written := h.counts })
  ∧ (∀ (s : State) (gid unit : Nat) (g : Group), grp s gid = some g →
    (7 ≤ unit ∨ canPost s 0 = false → exec (.uncorrectableError (.group gid) unit) s = .next s)
    ∧ (unit < 7 → canPost s 0 = true → (∀ i, kfind s.run.items g.item = some i → gid ∈ i.gids) →
      ∃ t h, exec (.uncorrectableError (.group gid) unit) s = .next t ∧ grp t gid = some h ∧ h.stat = .ended
        ∧ h.active = 0 ∧ h.v = g.v ∧ h.s = g.s ∧ h.p = g.p ∧ t.run.xfers = s.run.xfers
        ∧ (∀ l, kfind s.run.launches g.launch = some l → ∃ m, kfind t.run.launches g.launch = some m
            ∧ m.killed = true)
        ∧ Told s t 6 (bytesLe 4 (launchIdOf s g) ++ bytesLe 2 (gid / 32) ++ bytesLe 1 (gid % 32) ++ bytesLe 1 1
            ++ bytesLe 7 g.pc ++ bytesLe 1 0x30 ++ bytesLe 8 unit)
        ∧ ∀ i, kfind s.run.items g.item = some i → i.txOpen = false → i.abort = none → ∃ n,
            ∀ k x, k ≠ gid → grp s k = some x → x.launch = g.launch →
              grp t k = some { x with abandoned := x.abandoned ++ [n] }))
  ∧ (∀ (s : State) (n unit : Nat) (x : Xfer), s.run.xfers.find? (fun y => y.id == n) = some x →
    ∀ bad, (x.kind = .cpy ∨ x.kind = .chain) ∧ bad = [x.pos + x.vals.length]
      ∨ x.kind = .drainAdd ∧ bad = (nextAdd x).toList →
    ∃ t, exec (.uncorrectableError (.xfer n) unit) s = .next t ∧ t.mem = s.mem
      ∧ t.run.xfers.find? (fun y => y.id == n) = some { x with bad := x.bad ++ bad })
  ∧ ∀ (s : State) (unit : Nat), ∃ t, exec (.uncorrectableError .hostRead unit) s = .next t ∧ t.mem = s.mem
      ∧ t.run = s.run ∧ t.host.barOut = [] ∧ t.host.barStat = 2)
  ∧ ((∀ (s : State) (src : Src) (d : Nat) (i : Instr),
    i = .offline src d ∨ i = .offlineForced src d ∨ i = .restore src d →
    let die := dieAt s d
    let there := d < s.part.dies.length ∧ die.state ≠ 2 ∧ offRuns s d = false
    let rs := usedRegions s d
    (s.part.dies.length ≤ d → exec i s = .next (mgmtDone s src 6 0))
    ∧ (d < s.part.dies.length → die.state = 2 → exec i s = .next (mgmtDone s src 4 0))
    ∧ (d < s.part.dies.length → die.state ≠ 2 → offRuns s d = true → exec i s = .next (mgmtDone s src 3 0))
    ∧ (there → i = .restore src d → die.state ≠ 1 → exec i s = .next (mgmtDone s src 5 0))
    ∧ (there → i = .restore src d → die.state = 1 → ∃ u, exec i s = .next (mgmtDone u src 0 0)
      ∧ (dieAt u d).state = 0 ∧ u.part.gen = (s.part.gen + 1) % 2 ^ 32 ∧ u.run = s.run)
    ∧ (there → i ≠ .restore src d → die.state = 0 → (onlineDies s).length = 1 → exec i s = .next (mgmtDone s src 2 0))
    ∧ (there → i ≠ .restore src d → die.state = 0 → (onlineDies s).length ≠ 1 → framesLeft s d < rs.length →
      ∃ u, exec i s = .next (mgmtDone u src 1 0) ∧ (dieAt u d).state = 1 ∧ u.part.off = s.part.off)
    ∧ (there → i ≠ .restore src d → die.state = 0 → (onlineDies s).length ≠ 1 → rs.length ≤ framesLeft s d →
      ∃ u, exec i s = .next u ∧ (dieAt u d).state = 1 ∧ u.part.off = s.part.off ++ [⟨d, false, src, rs⟩]
        ∧ u.part.gen = (s.part.gen + 1) % 2 ^ 32 ∧ u.run = s.run ∧ u.mem.hbm = s.mem.hbm)
    ∧ (there → i = .offline src d → die.state = 1 → framesLeft s d < rs.length → exec i s = .next (mgmtDone s src 1 0))
    ∧ (there → i = .offline src d → die.state = 1 → rs.length ≤ framesLeft s d →
      ∃ u, exec i s = .next u ∧ u.part.off = s.part.off ++ [⟨d, false, src, rs⟩] ∧ u.run = s.run
        ∧ u.mem.hbm = s.mem.hbm)
    ∧ (there → i = .offlineForced src d → die.state = 1 → dieBusy s d = true → exec i s = .next (mgmtDone s src 3 0))
    ∧ (there → i = .offlineForced src d → die.state = 1 → dieBusy s d = false →
      ∃ u, exec i s = .next u ∧ u.part.off = s.part.off ++ [⟨d, true, src, rs.take (framesLeft s d)⟩]
        ∧ (∀ r ∈ homedRegions s d, r ∉ rs.take (framesLeft s d) → poisoned u.mem (r * 2 ^ 21) = true)
        ∧ u.run = s.run ∧ u.mem.hbm = s.mem.hbm))
  ∧ (∀ (s : State) (r f : Nat) (o : Offlining) (rest : List Nat), kwf 0 s.mem.hbm = true →
    s.part.off.find? (fun o => o.regions.contains r) = some o → freeFrames s = f :: rest →
    (∀ q, q ≠ r → kget q s.mem.remap q ≠ f ∧ kget q s.mem.remap q ≠ kget r s.mem.remap r) →
    ∃ t, exec (.regionMoveComplete r) s = .next t ∧ (∀ a, byteAt t (.hbm a) = byteAt s (.hbm a))
      ∧ t.mem.host = s.mem.host ∧ t.mem.ws = s.mem.ws ∧ kget r t.mem.remap r = f
      ∧ (∀ q, q ≠ r → kget q t.mem.remap q = kget q s.mem.remap q) ∧ f ∉ t.part.pool
      ∧ (∀ x ∈ t.part.off, x.die = o.die → r ∉ x.regions) ∧ t.run = s.run ∧ t.host = s.host)
  ∧ (∀ s : State, s.part.off.find? (fun o => offReady s o && srcCan s o.src && canPosts s 0 2) = none → exec .dieOfflineComplete s = .next s)
  ∧ (∀ (s : State) (o : Offlining), s.part.off.find? (fun o => offReady s o && srcCan s o.src && canPosts s 0 2) = some o → o.die < s.part.dies.length →
    ∃ u, exec .dieOfflineComplete s = .next (mgmtDone u o.src 0 0) ∧ (dieAt u o.die).state = 2
      ∧ (∀ t ∈ u.mem.tlb, t.die ≠ o.die) ∧ offRuns u o.die = false ∧ u.part.gen = (s.part.gen + 1) % 2 ^ 32
      ∧ u.run = s.run ∧ u.mem.hbm = s.mem.hbm)
  ∧ ∀ (s : State) (k : Nat) (l : Link), s.part.links[k]? = some l →
    (l.down = true ∨ canPost s 0 = false → exec (.dieLinkDown k) s = .next s)
    ∧ (l.down = false → canPost s 0 = true → ∃ t, exec (.dieLinkDown k) s = .next t ∧ t.part.links[k]? = some { l with down := true }
      ∧ t.part.gen = (s.part.gen + 1) % 2 ^ 32 ∧ t.run = s.run
      ∧ Told s t 7 (bytesLe 4 ((s.part.gen + 1) % 2 ^ 32) ++ bytesLe 1 0xFF ++ bytesLe 1 k)))

/-- R256, R257, R281, R282, R274. STRIDE_PORT_DOWN of a port that is up, and STRIDE_PORT_UP of a port that is down, whose ends
run one mode, flood one new update of this package over every port that is then up and post the link event; a link whose
ends run different modes stays down. LINK_STATE_UPDATE of another package is taken and flooded once, when its number
exceeds the last seen. STRIDE_RESEND_TIMEOUT of a packet to a reachable destination sends it again in its next round
where a route leads there; after round 15 (the sixteenth, log entry 10) its destination is unreachable and the event is
posted. STRIDE_FLIT_RECEIVE: a flit with a bad CRC is counted as retried; one for another package goes on along its
route; a link-state flit is kept for its update; an acknowledgement settles its packet; the next flit of a source is
delivered once and acknowledged, and a repeated one only acknowledged. ULTRA_ETHERNET_PACKET outside the supported options
is dropped and counted; otherwise it is counted, and a send is received, an RMA read answered, an RMA write writes its
bytes, and a relay chunk over ROD of at most 16 KiB arrives at its collective, or stays on the link while the part has no
room for it (that addresses are physical, and how a chunk names its collective, are the model's choice, log entry 10; that
it stays on the link is log entry 25's). That an event which queue 0's ring cannot take holds back what it tells of is the
model's choice (log entry 59). Ports that come up and updates are stated while no destination is given up, deliveries
while no flit waits for its turn. -/
def Obligations.StrideAndUltraEthernet : Prop :=
  let floods (s t : State) (u : LinkUpdate) : Prop := let x := s.part.stride
    t.part.stride.mySeq = x.mySeq + 1 ∧ u ∈ t.part.stride.routes ∧ t.run = s.run
    ∧ (∀ e, e ∈ t.part.stride.outbox ↔ e ∈ x.outbox
        ∨ e.1 < 24 ∧ e.1 ∉ t.part.stride.downPorts ∧ e.2 = updateFlit s.part.pkgid u)
  (∀ (s : State) (port : Nat), let x := s.part.stride
    (24 ≤ port ∨ port ∈ x.downPorts ∨ canPost s 0 = false → exec (.stridePortDown port) s = .next s)
    ∧ (port < 24 → port ∉ x.downPorts → canPost s 0 = true → ∃ t, exec (.stridePortDown port) s = .next t
      ∧ floods s t ⟨s.part.pkgid, port, x.mySeq + 1, false⟩
      ∧ (∀ p, p ∈ t.part.stride.downPorts ↔ p = port ∨ p ∈ x.downPorts)
      ∧ Told s t 8 (bytesLe 1 port ++ bytesLe 1 0 ++ bytesLe 1 0xFF)))
  ∧ (∀ (s : State) (port : Nat) (mode : Bool), let x := s.part.stride
    (port ∉ x.downPorts ∨ mode ≠ s.part.compat → exec (.stridePortUp ⟨port, mode⟩) s
      = .next { s with part := { s.part with stride := { x with modes := kput 0 x.modes port mode.toNat } } })
    ∧ (port ∈ x.downPorts → mode = s.part.compat → canPost s 0 = false →
      exec (.stridePortUp ⟨port, mode⟩) s = .next s)
    ∧ (port < 24 → port ∈ x.downPorts → mode = s.part.compat → canPost s 0 = true → x.unreachable = [] →
      ∃ t, exec (.stridePortUp ⟨port, mode⟩) s = .next t ∧ floods s t ⟨s.part.pkgid, port, x.mySeq + 1, true⟩
      ∧ (∀ p, p ∈ t.part.stride.downPorts ↔ p ≠ port ∧ p ∈ x.downPorts)
      ∧ Told s t 8 (bytesLe 1 port ++ bytesLe 1 2 ++ bytesLe 1 0xFF)))
  ∧ (∀ (s : State) (u : LinkUpdate), let x := s.part.stride
    let new := u.origin ≠ s.part.pkgid ∧ ∀ n, kfind x.seen u.origin = some n → n < u.seq
    (¬ new → exec (.linkStateUpdate u) s = .next s)
    ∧ (new → x.unreachable = [] → ∃ t, exec (.linkStateUpdate u) s = .next t ∧ t.run = s.run ∧ t.mem = s.mem
      ∧ kfind t.part.stride.seen u.origin = some u.seq ∧ u ∈ t.part.stride.routes
      ∧ (∀ e, e ∈ t.part.stride.outbox ↔ e ∈ x.outbox
          ∨ e.1 < 24 ∧ e.1 ∉ x.downPorts ∧ e.2 = updateFlit s.part.pkgid u)
      ∧ exec (.linkStateUpdate u) t = .next t))
  ∧ (∀ (s : State) (seq : Nat), let x := s.part.stride
    let due := x.unacked.find? fun q => q.seq == seq && !(x.unreachable.contains q.dst)
    (due = none → exec (.strideResendTimeout seq) s = .next s)
    ∧ ∀ p, due = some p →
      (p.round < 15 → ∃ t q, exec (.strideResendTimeout seq) s = .next t
        ∧ q ∈ t.part.stride.unacked ∧ q.seq = seq ∧ q.dst = p.dst
        ∧ q.round = p.round + 1 ∧ flitGood q.flit = true ∧ flitRound q.flit = p.round + 1
        ∧ flitSeq q.flit = flitSeq p.flit ∧ t.run = s.run ∧ t.mem = s.mem
        ∧ (∀ port, routePort s.part (flitDst p.flit) = some port →
            t.part.stride.outbox = x.outbox ++ [(port, q.flit)])
        ∧ (routePort s.part (flitDst p.flit) = none → t.part.stride.outbox = x.outbox))
      ∧ (15 ≤ p.round → canPost s 0 = false → exec (.strideResendTimeout seq) s = .next s)
      ∧ (15 ≤ p.round → canPost s 0 = true → ∃ t port, exec (.strideResendTimeout seq) s = .next t
        ∧ t.part.stride.unreachable = x.unreachable ++ [p.dst] ∧ t.run = s.run
        ∧ Told s t 8 (bytesLe 1 port ++ bytesLe 1 1 ++ bytesLe 1 p.dst)))
  ∧ (∀ (s : State) (port : Nat) (f : List Byte), let x := s.part.stride
    let put (y : Stride) : State := { s with part := { s.part with stride := y } }
    (24 ≤ port ∨ port ∈ x.downPorts → exec (.strideFlitReceive port f) s = .next s)
    ∧ (port < 24 → port ∉ x.downPorts →
      (flitGood f = false → exec (.strideFlitReceive port f) s = .next (put { x with retried := x.retried + 1 }))
      ∧ (flitGood f = true → 5 ≤ flitKind f → exec (.strideFlitReceive port f) s = .next s)
      ∧ (flitGood f = true → flitKind f = 3 →
        exec (.strideFlitReceive port f) s = .next (put { x with inbox := x.inbox ++ [f] }))
      ∧ (flitGood f = true → flitKind f < 5 → flitKind f ≠ 3 → flitDst f ≠ s.part.pkgid →
        (routePort s.part (flitDst f) = none → exec (.strideFlitReceive port f) s = .next s)
        ∧ ∀ out, routePort s.part (flitDst f) = some out → exec (.strideFlitReceive port f) s
            = .next (put { x with outbox := x.outbox ++ [(out, f)], spray := x.spray + 1 }))
      ∧ (flitGood f = true → flitKind f = 4 → flitDst f = s.part.pkgid → ∃ t,
        exec (.strideFlitReceive port f) s = .next t
        ∧ ∀ p, p ∈ t.part.stride.unacked ↔ p ∈ x.unacked ∧ ¬ (p.seq = flitSeq f ∧ p.dst = flitSrc f))
      ∧ (flitGood f = true → flitKind f < 3 → flitDst f = s.part.pkgid → x.early = [] → ∃ t ack,
        exec (.strideFlitReceive port f) s = .next t
        ∧ flitGood ack = true ∧ flitKind ack = 4 ∧ flitDst ack = flitSrc f ∧ flitSeq ack = flitSeq f
        ∧ (∀ out, routePort s.part (flitSrc f) = some out → t.part.stride.outbox = x.outbox ++ [(out, ack)])
        ∧ (flitSeq f = kget 0 x.expect (flitSrc f) → t.part.stride.inbox = x.inbox ++ [f]
            ∧ kget 0 t.part.stride.expect (flitSrc f) = (flitSeq f + 1) % 2 ^ 24)
        ∧ (flitSeq f < kget 0 x.expect (flitSrc f) → kget 0 x.expect (flitSrc f) < 2 ^ 23 →
            t.part.stride.inbox = x.inbox ∧ t.part.stride.expect = x.expect))))
  ∧ ∀ (s : State) (p : UePacket), let ok := p.delivery < 3 ∧ p.semantic < 4 ∧ p.tss = false
    let u : Part := { s.part with ueAccepted := s.part.ueAccepted + 1 }
    let reach : Prop := hostReach s p.addr p.data.length = true
    (¬ ok → exec (.ultraEthernetPacket p) s
      = .next { s with part := { s.part with ueDropped := s.part.ueDropped + 1 } })
    ∧ (ok → p.semantic < 2 → exec (.ultraEthernetPacket p) s
      = .next { s with part := { u with ueInbox := s.part.ueInbox ++ [p] } })
    ∧ (ok → p.semantic = 3 → reach → exec (.ultraEthernetPacket p) s = .next { s with
        part := { u with ueAnswers := s.part.ueAnswers ++ [readHbm s.mem p.addr p.data.length] } })
    ∧ (ok → p.semantic = 2 → p.relay = none → reach → Apart s p.addr p.data.length →
      ∃ t, exec (.ultraEthernetPacket p) s = .next t ∧ HbmHolds s t p.addr p.data ∧ t.part = u)
    ∧ (ok → (p.semantic = 3 ∨ p.semantic = 2 ∧ p.relay = none) → ¬ reach →
      exec (.ultraEthernetPacket p) s = .next { s with part := u })
    ∧ ∀ n, ok → p.semantic = 2 → p.relay = some n →
      (p.delivery = 1 → p.data.length ≤ 16384 → exec (.ultraEthernetPacket p) s
        = .next ((takeNamed { s with part := u } n p.data).getD s))
      ∧ (p.delivery ≠ 1 ∨ 16384 < p.data.length → exec (.ultraEthernetPacket p) s = .next { s with part := u })

/-- R14, R15, R283, R284. Each SPDM request is answered once, with the response of DMTF SPDM 1.3 that belongs to it (the codes
and the layout of the bodies are the model's, log entry 17), and any other with ERROR UnsupportedRequest; VERSION begins
with 1.3, and MEASUREMENTS with what the index asks for. RE_HARVEST stores a record of a higher sequence number; a staged
firmware image takes effect at a part reset unless its signature does not verify or it is below the minimum; that the
running version boots again then is the model's choice (log entry 6). A part reset builds the part from the stored record,
with no launch, queue or translation left, and keeps the error counts last written; that the thresholds become 0 (log
entry 9) and that HBM, host memory and weight stores keep their bytes (log entry 29) are the model's choices. -/
def Obligations.AttestationServicesAndReset : Prop :=
  (∀ (s : State) (a b c : Nat), ∀ i code known, (i, code, known) ∈ [(Instr.getVersion, (0x04 : Byte), ([0x00, 0x13] : List Byte)),
      (.getCapabilities, 0x61, []), (.negotiateAlgorithms, 0x63, []), (.getDigests, 0x01, []),
      (.getCertificate a b c, 0x02, []), (.challenge a, 0x03, []),
      (.getMeasurements a, 0x60, measuresAt s.part a)] →
    ∃ t body, exec i s = .next t ∧ t.part = { s.part with spdm := s.part.spdm ++ [(code, known ++ body)] }
      ∧ t.mem = s.mem ∧ t.run = s.run ∧ t.host = s.host)
  ∧ (∀ (s : State) (code : Byte), exec (.spdmUnsupportedRequest code) s
      = .next { s with part := { s.part with spdm := s.part.spdm ++ [(0x7F, [0x07, code])] } })
  ∧ (∀ (s : State) (r : InvRecord),
    (s.part.store.seq < r.seq → exec (.reHarvestService r) s = .next { s with part := { s.part with store := r } })
    ∧ (r.seq ≤ s.part.store.seq → exec (.reHarvestService r) s = .next s))
  ∧ (∀ (s : State) (fw : Firmware), exec (.firmwareUpdate fw) s
      = .next { s with part := { s.part with fwStaged := some fw } })
  ∧ ∀ s : State, ∃ t, exec .partReset s = .next t ∧ t.run.launches = [] ∧ t.run.items = [] ∧ t.run.groups = []
    ∧ t.run.xfers = [] ∧ t.host.queues = [] ∧ t.mem.tlb = [] ∧ t.mem.remap = [] ∧ t.mem.poison = []
    ∧ t.mem.ports = [] ∧ t.part.inv = s.part.store ∧ t.part.dies = diesOf s.part.store ∧ t.part.cryo.started = false
    ∧ t.part.fwVersion = (match s.part.fwStaged with
        | some fw => if fw.signed = true ∧ s.part.fwMin ≤ fw.version then fw.version else s.part.fwVersion
        | none => s.part.fwVersion)
    ∧ t.part.hists = s.part.hists.map (fun h => { h with counts := h.written, thresh := 0 })
    ∧ t.mem.hbm = s.mem.hbm ∧ t.mem.host = s.mem.host ∧ t.mem.ws = s.mem.ws
end

