-- ==== Sys2Proof/Laws/Store.lean ====
section
/-! SUPPORT. What the operations on sparse data, lanes and bytes do, each said once. -/

namespace Sys2Proof.Machine

variable {α : Type}

/-! ### Sparse data -/

@[simp] theorem kfind_nil (i : Nat) : kfind ([] : KMap α) i = none := rfl

theorem kfind_cons (k : Nat) (v : α) (t : KMap α) (i : Nat) :
    kfind ((k, v) :: t) i = if k = i then some v else kfind t i := rfl

/-- An insertion is read back, and every other key reads as before. -/
theorem kfind_kins (m : KMap α) (i j : Nat) (v : α) :
    kfind (kins m i v) j = if i = j then some v else kfind m j := by
  induction m with
  | nil => rfl
  | cons e t ih =>
    obtain ⟨k, w⟩ := e
    simp only [kins]
    split
    · simp [kfind_cons]
    · split
      · subst_vars; by_cases h : k = j <;> simp [kfind_cons, h]
      · simp only [kfind_cons, ih]
        by_cases h : k = j <;> by_cases h' : i = j <;> simp_all

@[simp] theorem kfind_kins_self (m : KMap α) (i : Nat) (v : α) : kfind (kins m i v) i = some v := by
  simp [kfind_kins]

theorem kfind_kins_ne (m : KMap α) {i j : Nat} (v : α) (h : i ≠ j) : kfind (kins m i v) j = kfind m j := by
  simp [kfind_kins, h]

/-- A deletion removes its key and no other. -/
theorem kfind_kdel (m : KMap α) (i j : Nat) : kfind (kdel m i) j = if i = j then none else kfind m j := by
  induction m with
  | nil => simp [kdel]
  | cons e t ih =>
    obtain ⟨k, w⟩ := e
    simp only [kdel] at ih ⊢
    by_cases h : k = i
    · subst h; by_cases h' : k = j <;> simp_all [kfind_cons]
    · by_cases h' : k = j
      · subst h'; simp [h, kfind_cons, Ne.symm h]
      · simp [h, h', kfind_cons, ih]

theorem kfind_kmod (m : KMap α) (i j : Nat) (f : α → α) :
    kfind (kmod m i f) j = if i = j then (kfind m j).map f else kfind m j := by
  unfold kmod
  cases h : kfind m i with
  | none => by_cases h' : i = j <;> simp_all
  | some v => by_cases h' : i = j <;> simp_all [kfind_kins]

theorem kfind_kput [DecidableEq α] (d : α) (m : KMap α) (i j : Nat) (v : α) :
    kfind (kput d m i v) j = if i = j then (if v = d then none else some v) else kfind m j := by
  unfold kput
  split <;> simp [kfind_kdel, kfind_kins, *]

theorem kget_kins (d : α) (m : KMap α) (i j : Nat) (v : α) :
    kget d (kins m i v) j = if i = j then v else kget d m j := by
  unfold kget; rw [kfind_kins]; split <;> simp

theorem kget_kdel (d : α) (m : KMap α) (i j : Nat) :
    kget d (kdel m i) j = if i = j then d else kget d m j := by
  unfold kget; rw [kfind_kdel]; split <;> simp

/-- A write is read back, the default too, and every other key reads as before. -/
theorem kget_kput [DecidableEq α] (d : α) (m : KMap α) (i j : Nat) (v : α) :
    kget d (kput d m i v) j = if i = j then v else kget d m j := by
  unfold kput
  split
  · rw [kget_kdel]; split <;> simp_all
  · rw [kget_kins]

/-! ### The canonical form -/

/-- Every key of a map lies above a bound. -/
def above (b : Nat) (m : KMap α) : Prop := ∀ e ∈ m, b < e.1

theorem kwf_cons [DecidableEq α] (d : α) (k : Nat) (v : α) (t : KMap α) :
    kwf d ((k, v) :: t) = true ↔ v ≠ d ∧ above k t ∧ kwf d t = true := by
  induction t generalizing k v with
  | nil => simp [kwf, above]
  | cons e t ih =>
    obtain ⟨k', v'⟩ := e
    have h := ih k' v'
    simp only [kwf, Bool.and_eq_true, decide_eq_true_eq, Bool.not_eq_true', decide_eq_false_iff_not]
    rw [h]
    constructor
    · rintro ⟨⟨hk, hv⟩, hv', ha, ht⟩
      refine ⟨hv, ?_, hv', ha, ht⟩
      intro e he
      rcases List.mem_cons.1 he with rfl | he
      · exact hk
      · exact Nat.lt_trans hk (ha e he)
    · rintro ⟨hv, ha, h2⟩
      exact ⟨⟨ha _ (List.mem_cons_self ..), hv⟩, h2⟩

theorem above_kins (b : Nat) (m : KMap α) (i : Nat) (v : α) (hb : b < i) (h : above b m) :
    above b (kins m i v) := by
  induction m with
  | nil => simp [kins, above, hb]
  | cons e t ih =>
    obtain ⟨k, w⟩ := e
    have ht : above b t := fun e he => h e (List.mem_cons_of_mem _ he)
    have hk : b < k := h (k, w) (List.mem_cons_self ..)
    simp only [kins]
    split
    · intro e he
      rcases List.mem_cons.1 he with rfl | he
      · exact hb
      · exact h e he
    · split
      · intro e he
        rcases List.mem_cons.1 he with rfl | he
        · exact hb
        · exact ht e he
      · intro e he
        rcases List.mem_cons.1 he with rfl | he
        · exact hk
        · exact ih ht e he

/-- Inserting a value that is not the default keeps the canonical form. -/
theorem kwf_kins [DecidableEq α] (d : α) (m : KMap α) (i : Nat) (v : α) (hv : v ≠ d) (h : kwf d m = true) :
    kwf d (kins m i v) = true := by
  induction m with
  | nil => simp [kins, kwf, hv]
  | cons e t ih =>
    obtain ⟨k, w⟩ := e
    obtain ⟨hw, ha, ht⟩ := (kwf_cons d k w t).1 h
    simp only [kins]
    split
    · rename_i hlt
      refine (kwf_cons ..).2 ⟨hv, ?_, h⟩
      intro e he
      rcases List.mem_cons.1 he with rfl | he
      · exact hlt
      · exact Nat.lt_trans hlt (ha e he)
    · split
      · subst_vars; exact (kwf_cons ..).2 ⟨hv, ha, ht⟩
      · exact (kwf_cons ..).2 ⟨hw, above_kins k t i v (by omega) ha, ih ht⟩

/-- Dropping entries keeps the canonical form. -/
theorem kwf_filter [DecidableEq α] (d : α) (m : KMap α) (p : Nat × α → Bool) (h : kwf d m = true) :
    kwf d (m.filter p) = true := by
  induction m with
  | nil => rfl
  | cons e t ih =>
    obtain ⟨k, w⟩ := e
    obtain ⟨hw, ha, ht⟩ := (kwf_cons d k w t).1 h
    simp only [List.filter_cons]
    split
    · exact (kwf_cons ..).2 ⟨hw, fun e he => ha e (List.mem_filter.1 he).1, ih ht⟩
    · exact ih ht

theorem kwf_kdel [DecidableEq α] (d : α) (m : KMap α) (i : Nat) (h : kwf d m = true) : kwf d (kdel m i) = true :=
  kwf_filter d m _ h

/-- A write keeps the canonical form. -/
theorem kwf_kput [DecidableEq α] (d : α) (m : KMap α) (i : Nat) (v : α) (h : kwf d m = true) :
    kwf d (kput d m i v) = true := by
  unfold kput
  split
  · exact kwf_kdel d m i h
  · exact kwf_kins d m i v ‹_› h

/-! ### Lanes -/

theorem laneOf_mkLanes (d : α) (f : Nat → α) (l : Nat) (h : l < 64) : laneOf d (mkLanes f) l = f l := by
  simp [laneOf, mkLanes, lanes, h]

theorem laneOf_mkLanes_out (d : α) (f : Nat → α) (l : Nat) (h : 64 ≤ l) : laneOf d (mkLanes f) l = d := by
  simp [laneOf, mkLanes, lanes, h]

theorem testBit_natOfBits (n : Nat) (f : Nat → Bool) (i : Nat) :
    (natOfBits n f).testBit i = (decide (i < n) && f i) := by
  induction n generalizing f i with
  | zero => simp [natOfBits]
  | succ n ih =>
    cases i with
    | zero => simp [natOfBits, Nat.testBit_zero]; cases f 0 <;> simp
    | succ i =>
      simp only [natOfBits, Nat.testBit_succ]
      have h : ((f 0).toNat + 2 * natOfBits n fun i => f (i + 1)) / 2 = natOfBits n fun i => f (i + 1) := by
        cases f 0 <;> simp; omega
      rw [h, ih]; simp

theorem natOfBits_lt (n : Nat) (f : Nat → Bool) : natOfBits n f < 2 ^ n := by
  apply Nat.lt_pow_two_of_testBit
  intro i hi
  rw [testBit_natOfBits]
  simp [Nat.not_lt.2 hi]

theorem Mask.has_maskOf (f : Nat → Bool) (l : Nat) (h : l < 64) : Mask.has (maskOf f) l = f l := by
  have hl : natOfBits 64 f < 2 ^ 64 := natOfBits_lt 64 f
  unfold Mask.has maskOf
  rw [BitVec.toNat_ofNat, Nat.mod_eq_of_lt hl, testBit_natOfBits]
  simp [h]

theorem Mask.has_out (m : Mask) (l : Nat) (h : 64 ≤ l) : Mask.has m l = false := by
  unfold Mask.has
  exact Nat.testBit_lt_two_pow (Nat.lt_of_lt_of_le m.isLt (Nat.pow_le_pow_right (by decide) h))

/-- Two masks with the same lanes are equal. -/
theorem Mask.ext_lanes (m k : Mask) (h : ∀ l, l < 64 → Mask.has m l = Mask.has k l) : m = k := by
  apply BitVec.eq_of_toNat_eq
  apply Nat.eq_of_testBit_eq
  intro i
  by_cases hi : i < 64
  · exact h i hi
  · rw [show m.toNat.testBit i = Mask.has m i from rfl, show k.toNat.testBit i = Mask.has k i from rfl,
      Mask.has_out m i (by omega), Mask.has_out k i (by omega)]

@[simp] theorem Mask.has_zero (l : Nat) : Mask.has 0#64 l = false := by simp [Mask.has]

theorem Mask.has_and (m k : Mask) (l : Nat) : Mask.has (m &&& k) l = (Mask.has m l && Mask.has k l) := by
  simp [Mask.has, BitVec.toNat_and, Nat.testBit_and]

theorem Mask.has_or (m k : Mask) (l : Nat) : Mask.has (m ||| k) l = (Mask.has m l || Mask.has k l) := by
  simp [Mask.has, BitVec.toNat_or, Nat.testBit_or]

theorem Mask.has_not (m : Mask) (l : Nat) (h : l < 64) : Mask.has (~~~m) l = !(Mask.has m l) := by
  unfold Mask.has
  rw [BitVec.testBit_toNat, BitVec.testBit_toNat, BitVec.getLsbD_not]
  simp [h]

theorem Mask.has_all (l : Nat) (h : l < 64) : Mask.has allLanes l = true := by
  unfold Mask.has allLanes
  rw [BitVec.testBit_toNat, BitVec.getLsbD_allOnes]
  simp [h]

theorem Mask.mem_list (m : Mask) (l : Nat) : l ∈ Mask.list m ↔ l < 64 ∧ Mask.has m l = true := by
  simp [Mask.list, lanes]

theorem Mask.list_zero : Mask.list 0 = [] := by decide

/-- The lowest lane of a mask that holds one. -/
theorem Mask.lowest_mem (m : Mask) (h : m ≠ 0) : Mask.lowest m < 64 ∧ Mask.has m (Mask.lowest m) = true := by
  have hne : Mask.list m ≠ [] := by
    intro he
    apply h
    apply Mask.ext_lanes
    intro l hl
    by_contra hc
    have : l ∈ Mask.list m := (Mask.mem_list m l).2 ⟨hl, by rw [show Mask.has 0 l = false from Mask.has_zero l] at hc; simpa using hc⟩
    rw [he] at this
    exact absurd this (List.not_mem_nil)
  have hm : Mask.lowest m ∈ Mask.list m := by
    unfold Mask.lowest
    rw [List.head?_eq_some_head hne]
    exact List.head_mem hne
  exact (Mask.mem_list m _).1 hm

/-! ### Bytes -/

@[simp] theorem length_bytesLe (n x : Nat) : (bytesLe n x).length = n := by
  induction n generalizing x with
  | zero => rfl
  | succ n ih => simp [bytesLe, ih]

/-- Bytes of a number read back as that number modulo their range (05 R95). -/
theorem natLe_bytesLe (n x : Nat) : natLe (bytesLe n x) = x % 256 ^ n := by
  induction n generalizing x with
  | zero => simp [bytesLe, natLe, Nat.mod_one]
  | succ n ih =>
    simp only [bytesLe, natLe, ih, BitVec.toNat_ofNat]
    have h : (256 : Nat) ^ (n + 1) = 256 * 256 ^ n := by rw [Nat.pow_succ, Nat.mul_comm]
    rw [h, Nat.mod_mul]

theorem natLe_lt (bs : List Byte) : natLe bs < 256 ^ bs.length := by
  induction bs with
  | nil => simp [natLe]
  | cons b t ih =>
    have hb : b.toNat < 256 := b.isLt
    simp only [natLe, List.length_cons, Nat.pow_succ]
    omega

theorem bytesLe_natLe (bs : List Byte) : bytesLe bs.length (natLe bs) = bs := by
  induction bs with
  | nil => rfl
  | cons b t ih =>
    have hb : b.toNat < 256 := b.isLt
    have h1 : (b.toNat + 256 * natLe t) / 256 = natLe t := by omega
    simp only [List.length_cons, natLe, bytesLe, h1, ih]
    congr 1
    apply BitVec.eq_of_toNat_eq
    simp [BitVec.toNat_ofNat]
    omega

/-! ### Numbers and bit vectors -/

theorem sextNat_eq_toInt (n x : Nat) : sextNat n x = (BitVec.ofNat n x).toInt := by
  unfold sextNat
  rw [BitVec.toInt_eq_toNat_cond]
  simp only [BitVec.toNat_ofNat]
  split <;> simp

theorem wrapNat_eq_ofInt (n : Nat) (z : Int) : wrapNat n z = (BitVec.ofInt n z).toNat := by
  unfold wrapNat
  rw [BitVec.toNat_ofInt]
  simp

theorem tbit_eq_testBit (x k : Nat) : tbit x k = x.testBit k := by
  rw [tbit, Nat.testBit_eq_decide_div_mod_eq]
  rfl

end Sys2Proof.Machine
end

