-- ==== Sys2Proof/Laws/State.lean ====
section
/-! SUPPORT. What each update of the state leaves in each of its fields, so that no proof unfolds a record update. -/

namespace Sys2Proof.Machine

variable (s : State)

@[simp] theorem setGrp_ctl (k : Nat) (g : Group) : (setGrp s k g).ctl = s.ctl := rfl
@[simp] theorem setGrp_mem (k : Nat) (g : Group) : (setGrp s k g).mem = s.mem := rfl
@[simp] theorem setGrp_part (k : Nat) (g : Group) : (setGrp s k g).part = s.part := rfl
@[simp] theorem setGrp_host (k : Nat) (g : Group) : (setGrp s k g).host = s.host := rfl
@[simp] theorem setGrp_launches (k : Nat) (g : Group) : (setGrp s k g).run.launches = s.run.launches := rfl
@[simp] theorem setGrp_items (k : Nat) (g : Group) : (setGrp s k g).run.items = s.run.items := rfl
@[simp] theorem setGrp_groups (k : Nat) (g : Group) : (setGrp s k g).run.groups = kins s.run.groups k g := rfl
@[simp] theorem setGrp_flights (k : Nat) (g : Group) : (setGrp s k g).run.flights = s.run.flights := rfl
@[simp] theorem setGrp_xfers (k : Nat) (g : Group) : (setGrp s k g).run.xfers = s.run.xfers := rfl
@[simp] theorem setGrp_colls (k : Nat) (g : Group) : (setGrp s k g).run.colls = s.run.colls := rfl
@[simp] theorem delGrp_ctl (k : Nat) : (delGrp s k).ctl = s.ctl := rfl
@[simp] theorem delGrp_mem (k : Nat) : (delGrp s k).mem = s.mem := rfl
@[simp] theorem delGrp_part (k : Nat) : (delGrp s k).part = s.part := rfl
@[simp] theorem delGrp_host (k : Nat) : (delGrp s k).host = s.host := rfl
@[simp] theorem delGrp_launches (k : Nat) : (delGrp s k).run.launches = s.run.launches := rfl
@[simp] theorem delGrp_items (k : Nat) : (delGrp s k).run.items = s.run.items := rfl
@[simp] theorem delGrp_groups (k : Nat) : (delGrp s k).run.groups = kdel s.run.groups k := rfl
@[simp] theorem delGrp_flights (k : Nat) : (delGrp s k).run.flights = s.run.flights := rfl
@[simp] theorem delGrp_xfers (k : Nat) : (delGrp s k).run.xfers = s.run.xfers := rfl
@[simp] theorem delGrp_colls (k : Nat) : (delGrp s k).run.colls = s.run.colls := rfl
@[simp] theorem modGrp_ctl (k : Nat) (f : Group → Group) : (modGrp s k f).ctl = s.ctl := rfl
@[simp] theorem modGrp_mem (k : Nat) (f : Group → Group) : (modGrp s k f).mem = s.mem := rfl
@[simp] theorem modGrp_part (k : Nat) (f : Group → Group) : (modGrp s k f).part = s.part := rfl
@[simp] theorem modGrp_host (k : Nat) (f : Group → Group) : (modGrp s k f).host = s.host := rfl
@[simp] theorem modGrp_launches (k : Nat) (f : Group → Group) : (modGrp s k f).run.launches = s.run.launches := rfl
@[simp] theorem modGrp_items (k : Nat) (f : Group → Group) : (modGrp s k f).run.items = s.run.items := rfl
@[simp] theorem modGrp_groups (k : Nat) (f : Group → Group) : (modGrp s k f).run.groups = kmod s.run.groups k f := rfl
@[simp] theorem modGrp_flights (k : Nat) (f : Group → Group) : (modGrp s k f).run.flights = s.run.flights := rfl
@[simp] theorem modGrp_xfers (k : Nat) (f : Group → Group) : (modGrp s k f).run.xfers = s.run.xfers := rfl
@[simp] theorem modGrp_colls (k : Nat) (f : Group → Group) : (modGrp s k f).run.colls = s.run.colls := rfl
@[simp] theorem modItem_ctl (k : Nat) (f : Item → Item) : (modItem s k f).ctl = s.ctl := rfl
@[simp] theorem modItem_mem (k : Nat) (f : Item → Item) : (modItem s k f).mem = s.mem := rfl
@[simp] theorem modItem_part (k : Nat) (f : Item → Item) : (modItem s k f).part = s.part := rfl
@[simp] theorem modItem_host (k : Nat) (f : Item → Item) : (modItem s k f).host = s.host := rfl
@[simp] theorem modItem_launches (k : Nat) (f : Item → Item) : (modItem s k f).run.launches = s.run.launches := rfl
@[simp] theorem modItem_items (k : Nat) (f : Item → Item) : (modItem s k f).run.items = kmod s.run.items k f := rfl
@[simp] theorem modItem_groups (k : Nat) (f : Item → Item) : (modItem s k f).run.groups = s.run.groups := rfl
@[simp] theorem modItem_flights (k : Nat) (f : Item → Item) : (modItem s k f).run.flights = s.run.flights := rfl
@[simp] theorem modItem_xfers (k : Nat) (f : Item → Item) : (modItem s k f).run.xfers = s.run.xfers := rfl
@[simp] theorem modItem_colls (k : Nat) (f : Item → Item) : (modItem s k f).run.colls = s.run.colls := rfl
@[simp] theorem modLaunch_ctl (k : Nat) (f : Launch → Launch) : (modLaunch s k f).ctl = s.ctl := rfl
@[simp] theorem modLaunch_mem (k : Nat) (f : Launch → Launch) : (modLaunch s k f).mem = s.mem := rfl
@[simp] theorem modLaunch_part (k : Nat) (f : Launch → Launch) : (modLaunch s k f).part = s.part := rfl
@[simp] theorem modLaunch_host (k : Nat) (f : Launch → Launch) : (modLaunch s k f).host = s.host := rfl
@[simp] theorem modLaunch_launches (k : Nat) (f : Launch → Launch) : (modLaunch s k f).run.launches = kmod s.run.launches k f := rfl
@[simp] theorem modLaunch_items (k : Nat) (f : Launch → Launch) : (modLaunch s k f).run.items = s.run.items := rfl
@[simp] theorem modLaunch_groups (k : Nat) (f : Launch → Launch) : (modLaunch s k f).run.groups = s.run.groups := rfl
@[simp] theorem modLaunch_flights (k : Nat) (f : Launch → Launch) : (modLaunch s k f).run.flights = s.run.flights := rfl
@[simp] theorem modLaunch_xfers (k : Nat) (f : Launch → Launch) : (modLaunch s k f).run.xfers = s.run.xfers := rfl
@[simp] theorem modLaunch_colls (k : Nat) (f : Launch → Launch) : (modLaunch s k f).run.colls = s.run.colls := rfl
@[simp] theorem setMem_ctl (m : Mem) : (setMem s m).ctl = s.ctl := rfl
@[simp] theorem setMem_mem (m : Mem) : (setMem s m).mem = m := rfl
@[simp] theorem setMem_part (m : Mem) : (setMem s m).part = s.part := rfl
@[simp] theorem setMem_host (m : Mem) : (setMem s m).host = s.host := rfl
@[simp] theorem setMem_launches (m : Mem) : (setMem s m).run.launches = s.run.launches := rfl
@[simp] theorem setMem_items (m : Mem) : (setMem s m).run.items = s.run.items := rfl
@[simp] theorem setMem_groups (m : Mem) : (setMem s m).run.groups = s.run.groups := rfl
@[simp] theorem setMem_flights (m : Mem) : (setMem s m).run.flights = s.run.flights := rfl
@[simp] theorem setMem_xfers (m : Mem) : (setMem s m).run.xfers = s.run.xfers := rfl
@[simp] theorem setMem_colls (m : Mem) : (setMem s m).run.colls = s.run.colls := rfl
@[simp] theorem setPart_ctl (p : Part) : (setPart s p).ctl = s.ctl := rfl
@[simp] theorem setPart_mem (p : Part) : (setPart s p).mem = s.mem := rfl
@[simp] theorem setPart_part (p : Part) : (setPart s p).part = p := rfl
@[simp] theorem setPart_host (p : Part) : (setPart s p).host = s.host := rfl
@[simp] theorem setPart_launches (p : Part) : (setPart s p).run.launches = s.run.launches := rfl
@[simp] theorem setPart_items (p : Part) : (setPart s p).run.items = s.run.items := rfl
@[simp] theorem setPart_groups (p : Part) : (setPart s p).run.groups = s.run.groups := rfl
@[simp] theorem setPart_flights (p : Part) : (setPart s p).run.flights = s.run.flights := rfl
@[simp] theorem setPart_xfers (p : Part) : (setPart s p).run.xfers = s.run.xfers := rfl
@[simp] theorem setPart_colls (p : Part) : (setPart s p).run.colls = s.run.colls := rfl
@[simp] theorem setHost_ctl (h : HostIf) : (setHost s h).ctl = s.ctl := rfl
@[simp] theorem setHost_mem (h : HostIf) : (setHost s h).mem = s.mem := rfl
@[simp] theorem setHost_part (h : HostIf) : (setHost s h).part = s.part := rfl
@[simp] theorem setHost_host (h : HostIf) : (setHost s h).host = h := rfl
@[simp] theorem setHost_launches (h : HostIf) : (setHost s h).run.launches = s.run.launches := rfl
@[simp] theorem setHost_items (h : HostIf) : (setHost s h).run.items = s.run.items := rfl
@[simp] theorem setHost_groups (h : HostIf) : (setHost s h).run.groups = s.run.groups := rfl
@[simp] theorem setHost_flights (h : HostIf) : (setHost s h).run.flights = s.run.flights := rfl
@[simp] theorem setHost_xfers (h : HostIf) : (setHost s h).run.xfers = s.run.xfers := rfl
@[simp] theorem setHost_colls (h : HostIf) : (setHost s h).run.colls = s.run.colls := rfl
@[simp] theorem bumpNonce_mem : (bumpNonce s).mem = s.mem := rfl
@[simp] theorem bumpNonce_part : (bumpNonce s).part = s.part := rfl
@[simp] theorem bumpNonce_host : (bumpNonce s).host = s.host := rfl
@[simp] theorem bumpNonce_run : (bumpNonce s).run = s.run := rfl
@[simp] theorem bumpNonce_agenda : (bumpNonce s).ctl.agenda = s.ctl.agenda := rfl
@[simp] theorem bumpNonce_cur : (bumpNonce s).ctl.cur = s.ctl.cur := rfl
@[simp] theorem bumpNonce_rr : (bumpNonce s).ctl.rr = s.ctl.rr := rfl
@[simp] theorem bumpNonce_nonce : (bumpNonce s).ctl.nonce = s.ctl.nonce + 1 := rfl
@[simp] theorem bumpNonce_serial : (bumpNonce s).ctl.serial = s.ctl.serial := rfl
@[simp] theorem bumpNonce_clk : (bumpNonce s).ctl.clk = s.ctl.clk := rfl
@[simp] theorem bumpNonce_acct : (bumpNonce s).ctl.acct = s.ctl.acct := rfl
@[simp] theorem bumpSerial_mem : (bumpSerial s).mem = s.mem := rfl
@[simp] theorem bumpSerial_part : (bumpSerial s).part = s.part := rfl
@[simp] theorem bumpSerial_host : (bumpSerial s).host = s.host := rfl
@[simp] theorem bumpSerial_run : (bumpSerial s).run = s.run := rfl
@[simp] theorem bumpSerial_agenda : (bumpSerial s).ctl.agenda = s.ctl.agenda := rfl
@[simp] theorem bumpSerial_cur : (bumpSerial s).ctl.cur = s.ctl.cur := rfl
@[simp] theorem bumpSerial_rr : (bumpSerial s).ctl.rr = s.ctl.rr := rfl
@[simp] theorem bumpSerial_nonce : (bumpSerial s).ctl.nonce = s.ctl.nonce := rfl
@[simp] theorem bumpSerial_serial : (bumpSerial s).ctl.serial = s.ctl.serial + 1 := rfl
@[simp] theorem bumpSerial_clk : (bumpSerial s).ctl.clk = s.ctl.clk := rfl
@[simp] theorem bumpSerial_acct : (bumpSerial s).ctl.acct = s.ctl.acct := rfl
@[simp] theorem timeAt_mem (n : Nat) : (timeAt s n).mem = s.mem := rfl
@[simp] theorem timeAt_part (n : Nat) : (timeAt s n).part = s.part := rfl
@[simp] theorem timeAt_host (n : Nat) : (timeAt s n).host = s.host := rfl
@[simp] theorem timeAt_run (n : Nat) : (timeAt s n).run = s.run := rfl
@[simp] theorem timeAt_agenda (n : Nat) : (timeAt s n).ctl.agenda = s.ctl.agenda := rfl
@[simp] theorem timeAt_cur (n : Nat) : (timeAt s n).ctl.cur = s.ctl.cur := rfl
@[simp] theorem timeAt_rr (n : Nat) : (timeAt s n).ctl.rr = s.ctl.rr := rfl
@[simp] theorem timeAt_nonce (n : Nat) : (timeAt s n).ctl.nonce = s.ctl.nonce := rfl
@[simp] theorem timeAt_serial (n : Nat) : (timeAt s n).ctl.serial = s.ctl.serial := rfl
@[simp] theorem timeAt_clk (n : Nat) : (timeAt s n).ctl.clk = max s.ctl.clk n := rfl
@[simp] theorem timeAt_acct (n : Nat) : (timeAt s n).ctl.acct = s.ctl.acct := rfl

/-! ### Groups -/

theorem grp_setGrp (k j : Nat) (g : Group) : grp (setGrp s k g) j = if k = j then some g else grp s j := by
  simp [grp, kfind_kins]

@[simp] theorem grp_setGrp_self (k : Nat) (g : Group) : grp (setGrp s k g) k = some g := by simp [grp]

theorem grp_modGrp (k j : Nat) (f : Group → Group) :
    grp (modGrp s k f) j = if k = j then (grp s j).map f else grp s j := by
  simp [grp, kfind_kmod]

theorem grp_delGrp (k j : Nat) : grp (delGrp s k) j = if k = j then none else grp s j := by
  simp [grp, kfind_kdel]

@[simp] theorem grp_modItem (k j : Nat) (f : Item → Item) : grp (modItem s k f) j = grp s j := rfl
@[simp] theorem grp_modLaunch (k j : Nat) (f : Launch → Launch) : grp (modLaunch s k f) j = grp s j := rfl
@[simp] theorem grp_setMem (m : Mem) (j : Nat) : grp (setMem s m) j = grp s j := rfl
@[simp] theorem grp_setPart (p : Part) (j : Nat) : grp (setPart s p) j = grp s j := rfl
@[simp] theorem grp_setHost (h : HostIf) (j : Nat) : grp (setHost s h) j = grp s j := rfl
@[simp] theorem grp_timeAt (n j : Nat) : grp (timeAt s n) j = grp s j := rfl
@[simp] theorem grp_bumpSerial (j : Nat) : grp (bumpSerial s) j = grp s j := rfl
@[simp] theorem grp_bumpNonce (j : Nat) : grp (bumpNonce s) j = grp s j := rfl

end Sys2Proof.Machine
end

