-- ==== Sys2Proof/Laws/Group.lean ====
section
/-! SUPPORT. What reading and writing the registers of a group do (04 R77), and what renaming does (04 R81 to R83). -/

namespace Sys2Proof.Machine

variable (g : Group)

/-! ### Reading after writing -/

@[simp] theorem rdV_zero : rdV g 63 = [] := rfl
@[simp] theorem rdVl_zero (l : Nat) : rdVl g 63 l = 0 := by simp [rdVl, laneOf]
@[simp] theorem rdS_zero : rdS g 63 = 0 := rfl
@[simp] theorem rdP_true : rdP g 7 = allLanes := rfl

/-- Reading a v-register after its lanes were written. -/
theorem rdVl_wrV (r x l : Nat) (m : Mask) (f : Nat → W32) (h : l < 64) :
    rdVl (wrV g r m f) x l = if x = r ∧ r ≠ 63 ∧ Mask.has m l then f l else rdVl g x l := by
  unfold wrV
  by_cases hr : r = 63
  · simp [hr]
  · by_cases hx : x = r
    · subst hx
      simp only [hr, if_false, rdVl, rdV, kget_kins, if_true, laneOf_mkLanes _ _ _ h]
      simp [hr]
    · have hrx : ¬ r = x := fun e => hx e.symm
      simp [hr, rdVl, rdV, kget_kins, hrx, hx]

theorem rdS_wrS (r x : Nat) (v : W64) : rdS (wrS g r v) x = if x = r ∧ r ≠ 63 then v else rdS g x := by
  unfold wrS
  by_cases hr : r = 63
  · simp [hr]
  · by_cases hx : x = r
    · subst hx; simp [hr, rdS, kget_kins]
    · have hrx : ¬ r = x := fun e => hx e.symm
      simp [hr, rdS, kget_kins, hrx, hx]

theorem has_rdP_wrP (r x l : Nat) (m : Mask) (f : Nat → Bool) (h : l < 64) :
    Mask.has (rdP (wrP g r m f) x) l = if x = r ∧ r ≠ 7 ∧ Mask.has m l then f l else Mask.has (rdP g x) l := by
  unfold wrP
  by_cases hr : r = 7
  · simp [hr]
  · by_cases hx : x = r
    · subst hx
      simp only [hr, if_false, rdP, kget_kins, if_true, Mask.has_maskOf _ _ h]
      simp [hr]
    · have hrx : ¬ r = x := fun e => hx e.symm
      simp [hr, rdP, kget_kins, hrx, hx]

/-- A register file's write leaves the other files and everything else. -/
theorem wrV_kept (r : Nat) (m : Mask) (f : Nat → W32) : (wrV g r m f).kept = g.kept := by
  unfold wrV; split <;> rfl
theorem wrS_kept (r : Nat) (v : W64) : (wrS g r v).kept = g.kept := by unfold wrS; split <;> rfl
theorem wrP_kept (r : Nat) (m : Mask) (f : Nat → Bool) : (wrP g r m f).kept = g.kept := by
  unfold wrP; split <;> rfl
@[simp] theorem wrV_s (r : Nat) (m : Mask) (f : Nat → W32) : (wrV g r m f).s = g.s := by unfold wrV; split <;> rfl
@[simp] theorem wrV_p (r : Nat) (m : Mask) (f : Nat → W32) : (wrV g r m f).p = g.p := by unfold wrV; split <;> rfl
@[simp] theorem wrS_v (r : Nat) (v : W64) : (wrS g r v).v = g.v := by unfold wrS; split <;> rfl
@[simp] theorem wrS_p (r : Nat) (v : W64) : (wrS g r v).p = g.p := by unfold wrS; split <;> rfl
@[simp] theorem wrP_v (r : Nat) (m : Mask) (f : Nat → Bool) : (wrP g r m f).v = g.v := by unfold wrP; split <;> rfl
@[simp] theorem wrP_s (r : Nat) (m : Mask) (f : Nat → Bool) : (wrP g r m f).s = g.s := by unfold wrP; split <;> rfl
@[simp] theorem wrV_fpflags (r : Nat) (m : Mask) (f : Nat → W32) : (wrV g r m f).fpflags = g.fpflags := by
  unfold wrV; split <;> rfl
@[simp] theorem wrS_fpflags (r : Nat) (v : W64) : (wrS g r v).fpflags = g.fpflags := by unfold wrS; split <;> rfl
@[simp] theorem wrP_fpflags (r : Nat) (m : Mask) (f : Nat → Bool) : (wrP g r m f).fpflags = g.fpflags := by
  unfold wrP; split <;> rfl
@[simp] theorem wrV_satf (r : Nat) (m : Mask) (f : Nat → W32) : (wrV g r m f).satf = g.satf := by
  unfold wrV; split <;> rfl
@[simp] theorem wrS_satf (r : Nat) (v : W64) : (wrS g r v).satf = g.satf := by unfold wrS; split <;> rfl
@[simp] theorem wrP_satf (r : Nat) (m : Mask) (f : Nat → Bool) : (wrP g r m f).satf = g.satf := by
  unfold wrP; split <;> rfl

/-- Reads depend on their own file only. -/
theorem rdVl_congr {g h : Group} (e : g.v = h.v) (x l : Nat) : rdVl g x l = rdVl h x l := by simp [rdVl, rdV, e]
theorem rdS_congr {g h : Group} (e : g.s = h.s) (x : Nat) : rdS g x = rdS h x := by simp [rdS, e]
theorem rdP_congr {g h : Group} (e : g.p = h.p) (x : Nat) : rdP g x = rdP h x := by simp [rdP, e]

/-! ### Sticky flags -/

theorem foldl_kput_get {n : Nat} (fl : Nat → Nat) (ls : List Nat) (hn : ls.Nodup) (m : KMap (BitVec n)) (l : Nat) :
    kget 0 (ls.foldl (fun m l => kput 0 m l (kget 0 m l ||| BitVec.ofNat n (fl l))) m) l =
      if l ∈ ls then kget 0 m l ||| BitVec.ofNat n (fl l) else kget 0 m l := by
  induction ls generalizing m with
  | nil => simp
  | cons k t ih =>
    obtain ⟨hk, ht⟩ := List.nodup_cons.1 hn
    rw [List.foldl_cons, ih ht, kget_kput]
    by_cases h : k = l
    · subst h; simp [hk]
    · have h' : ¬ l = k := fun e => h e.symm
      simp [h, h']

theorem Mask.nodup_list (m : Mask) : (Mask.list m).Nodup := List.Nodup.filter _ (List.nodup_range)

theorem kget_setFlags (x : Mask) (fl : Nat → Nat) (l : Nat) (h : l < 64) :
    kget 0 (setFlags g x fl).fpflags l =
      if Mask.has x l then kget 0 g.fpflags l ||| BitVec.ofNat 5 (fl l) else kget 0 g.fpflags l := by
  have e := foldl_kput_get (n := 5) fl (Mask.list x) (Mask.nodup_list x) g.fpflags l
  simpa [Mask.mem_list, h, setFlags] using e

theorem kget_setSat (x : Mask) (fl : Nat → Nat) (l : Nat) (h : l < 64) :
    kget 0 (setSat g x fl).satf l =
      if Mask.has x l then kget 0 g.satf l ||| BitVec.ofNat 2 (fl l) else kget 0 g.satf l := by
  have e := foldl_kput_get (n := 2) fl (Mask.list x) (Mask.nodup_list x) g.satf l
  simpa [Mask.mem_list, h, setSat] using e

/-! ### Renaming -/

theorem kget_nil {α : Type} (d : α) (i : Nat) : kget d ([] : KMap α) i = d := rfl

@[simp] theorem noteDead_v (d : Option (Bool × Nat)) : (noteDead g d).v = g.v := by
  unfold noteDead; split <;> (try split) <;> rfl
@[simp] theorem noteDead_s (d : Option (Bool × Nat)) : (noteDead g d).s = g.s := by
  unfold noteDead; split <;> (try split) <;> rfl
@[simp] theorem noteDead_p (d : Option (Bool × Nat)) : (noteDead g d).p = g.p := by
  unfold noteDead; split <;> (try split) <;> rfl
theorem noteDead_kept (d : Option (Bool × Nat)) : (noteDead g d).kept = g.kept := by
  unfold noteDead; split <;> (try split) <;> rfl
@[simp] theorem markLive_v (r : Bool × Nat) : (markLive g r).v = g.v := by
  unfold markLive; split <;> (try split) <;> rfl
@[simp] theorem markLive_s (r : Bool × Nat) : (markLive g r).s = g.s := by
  unfold markLive; split <;> (try split) <;> rfl
@[simp] theorem markLive_p (r : Bool × Nat) : (markLive g r).p = g.p := by
  unfold markLive; split <;> (try split) <;> rfl
theorem markLive_kept (r : Bool × Nat) : (markLive g r).kept = g.kept := by
  unfold markLive; split <;> (try split) <;> rfl
@[simp] theorem markKilled_p (r : Bool × Nat) : (markKilled g r).p = g.p := by
  unfold markKilled; split <;> (try split) <;> rfl
theorem markKilled_kept (r : Bool × Nat) : (markKilled g r).kept = g.kept := by
  unfold markKilled; split <;> (try split) <;> rfl

/-- A killed name reads zero in every lane (04 R82); every other reads as before. -/
theorem rdVl_markKilled (r : Bool × Nat) (x l : Nat) :
    rdVl (markKilled g r) x l = if r = (false, x) then 0 else rdVl g x l := by
  obtain ⟨u, n⟩ := r
  unfold markKilled
  by_cases hn : n = 63
  · subst hn
    by_cases h : (u, 63) = (false, x)
    · obtain ⟨-, rfl⟩ := Prod.mk.inj h; simp
    · simp only [if_true, if_neg h]
  · cases u
    · simp only [hn, if_false, Bool.false_eq_true, Prod.mk.injEq, true_and]
      by_cases hx : n = x
      · subst hx; simp [rdVl, rdV, kget_kdel, laneOf, hn]
      · simp [rdVl, rdV, kget_kdel, hx]
    · simp [hn, rdVl, rdV]

theorem rdS_markKilled (r : Bool × Nat) (x : Nat) :
    rdS (markKilled g r) x = if r = (true, x) then 0 else rdS g x := by
  obtain ⟨u, n⟩ := r
  unfold markKilled
  by_cases hn : n = 63
  · subst hn
    by_cases h : (u, 63) = (true, x)
    · obtain ⟨-, rfl⟩ := Prod.mk.inj h; simp
    · simp only [if_true, if_neg h]
  · cases u
    · simp [hn, rdS]
    · simp only [hn, if_false, if_true, Prod.mk.injEq, true_and]
      by_cases hx : n = x
      · subst hx; simp [rdS, kget_kdel]
      · simp [rdS, kget_kdel, hx]

/-- A list of kills: the killed names that are no destination read zero (04 R82). -/
theorem rdVl_applyKills (ks ws : List (Bool × Nat)) (x l : Nat) :
    rdVl (applyKills g ks ws) x l =
      if ks.contains (false, x) && !(ws.contains (false, x)) then 0 else rdVl g x l := by
  induction ks generalizing g with
  | nil => simp [applyKills]
  | cons r t ih =>
    have e : applyKills g (r :: t) ws = applyKills (if ws.contains r then g else markKilled g r) t ws := rfl
    rw [e, ih]
    by_cases hw : ws.contains r
    · by_cases hr : (false, x) = r
      · subst hr; simp_all
      · rw [if_pos hw, List.contains_cons, beq_false_of_ne hr, Bool.false_or]
    · by_cases hr : r = (false, x)
      · subst hr; simp_all [rdVl_markKilled]
      · have h' : ¬ (false, x) = r := fun e => hr e.symm
        rw [if_neg hw, rdVl_markKilled, if_neg hr, List.contains_cons, beq_false_of_ne h', Bool.false_or]

theorem rdS_applyKills (ks ws : List (Bool × Nat)) (x : Nat) :
    rdS (applyKills g ks ws) x =
      if ks.contains (true, x) && !(ws.contains (true, x)) then 0 else rdS g x := by
  induction ks generalizing g with
  | nil => simp [applyKills]
  | cons r t ih =>
    have e : applyKills g (r :: t) ws = applyKills (if ws.contains r then g else markKilled g r) t ws := rfl
    rw [e, ih]
    by_cases hw : ws.contains r
    · by_cases hr : (true, x) = r
      · subst hr; simp_all
      · rw [if_pos hw, List.contains_cons, beq_false_of_ne hr, Bool.false_or]
    · by_cases hr : r = (true, x)
      · subst hr; simp_all [rdS_markKilled]
      · have h' : ¬ (true, x) = r := fun e => hr e.symm
        rw [if_neg hw, rdS_markKilled, if_neg hr, List.contains_cons, beq_false_of_ne h', Bool.false_or]

theorem applyKills_p (ks ws : List (Bool × Nat)) : (applyKills g ks ws).p = g.p := by
  induction ks generalizing g with
  | nil => rfl
  | cons r t ih =>
    have e : applyKills g (r :: t) ws = applyKills (if ws.contains r then g else markKilled g r) t ws := rfl
    rw [e, ih]; split <;> simp

theorem applyKills_kept (ks ws : List (Bool × Nat)) : (applyKills g ks ws).kept = g.kept := by
  induction ks generalizing g with
  | nil => rfl
  | cons r t ih =>
    have e : applyKills g (r :: t) ws = applyKills (if ws.contains r then g else markKilled g r) t ws := rfl
    rw [e, ih]; split <;> simp [markKilled_kept]

theorem foldl_markLive_v (ws : List (Bool × Nat)) : (ws.foldl markLive g).v = g.v := by
  induction ws generalizing g with
  | nil => rfl
  | cons r t ih => rw [List.foldl_cons, ih, markLive_v]
theorem foldl_markLive_s (ws : List (Bool × Nat)) : (ws.foldl markLive g).s = g.s := by
  induction ws generalizing g with
  | nil => rfl
  | cons r t ih => rw [List.foldl_cons, ih, markLive_s]
theorem foldl_markLive_p (ws : List (Bool × Nat)) : (ws.foldl markLive g).p = g.p := by
  induction ws generalizing g with
  | nil => rfl
  | cons r t ih => rw [List.foldl_cons, ih, markLive_p]
theorem foldl_markLive_kept (ws : List (Bool × Nat)) : (ws.foldl markLive g).kept = g.kept := by
  induction ws generalizing g with
  | nil => rfl
  | cons r t ih => rw [List.foldl_cons, ih, markLive_kept]

/-- What two groups that differ in registers, names and issue alone share. -/
structure Group.Kin (g h : Group) : Prop where
  kept : h.kept = g.kept
  flags : h.fpflags = g.fpflags
  satf : h.satf = g.satf
  pc : h.pc = g.pc
  active : h.active = g.active
  ref : h.ref = g.ref
  sig : h.sig = g.sig
  split : h.split = g.split
  hints : h.hints = g.hints
  replay : h.replay = g.replay
  wait : h.wait = g.wait
  idle : h.idle = g.idle
  issued : h.issued = g.issued

theorem Group.Kin.refl : Group.Kin g g := ⟨rfl, rfl, rfl, rfl, rfl, rfl, rfl, rfl, rfl, rfl, rfl, rfl, rfl⟩
theorem Group.Kin.trans {g h k : Group} (a : Group.Kin g h) (b : Group.Kin h k) : Group.Kin g k := by
  constructor <;> first
    | exact b.kept.trans a.kept | exact b.flags.trans a.flags | exact b.satf.trans a.satf | exact b.pc.trans a.pc
    | exact b.active.trans a.active | exact b.ref.trans a.ref | exact b.sig.trans a.sig
    | exact b.split.trans a.split | exact b.hints.trans a.hints | exact b.replay.trans a.replay
    | exact b.wait.trans a.wait | exact b.idle.trans a.idle | exact b.issued.trans a.issued

theorem noteDead_kin (d : Option (Bool × Nat)) : Group.Kin g (noteDead g d) := by
  unfold noteDead; split
  · exact .refl g
  · split <;> (constructor <;> rfl)
theorem markLive_kin (r : Bool × Nat) : Group.Kin g (markLive g r) := by
  unfold markLive; split
  · exact .refl g
  · split <;> (constructor <;> rfl)
theorem markKilled_kin (r : Bool × Nat) : Group.Kin g (markKilled g r) := by
  unfold markKilled; split
  · exact .refl g
  · split <;> (constructor <;> rfl)
theorem applyKills_kin (ks ws : List (Bool × Nat)) : Group.Kin g (applyKills g ks ws) := by
  induction ks generalizing g with
  | nil => exact .refl g
  | cons r t ih =>
    have e : applyKills g (r :: t) ws = applyKills (if ws.contains r then g else markKilled g r) t ws := rfl
    rw [e]
    refine Group.Kin.trans ?_ (ih _)
    split
    · exact .refl g
    · exact markKilled_kin g r
theorem foldl_markLive_kin (ws : List (Bool × Nat)) : Group.Kin g (ws.foldl markLive g) := by
  induction ws generalizing g with
  | nil => exact .refl g
  | cons r t ih => rw [List.foldl_cons]; exact (markLive_kin g r).trans (ih _)
theorem wrV_kin (r : Nat) (m : Mask) (f : Nat → W32) : Group.Kin g (wrV g r m f) := by
  unfold wrV; split
  · exact .refl g
  · constructor <;> rfl
theorem wrS_kin (r : Nat) (v : W64) : Group.Kin g (wrS g r v) := by
  unfold wrS; split
  · exact .refl g
  · constructor <;> rfl
theorem wrP_kin (r : Nat) (m : Mask) (f : Nat → Bool) : Group.Kin g (wrP g r m f) := by
  unfold wrP; split
  · exact .refl g
  · constructor <;> rfl

/-- Everything renaming does to the registers: killed sources that are no destination read zero, nothing else
changes (04 R81, R82). -/
theorem rename_spec {g g1 : Group} {l : Launch} {r : Regs} (h : rename g l r = .ok g1) :
    (∀ x k, rdVl g1 x k = keptV r g x k) ∧ (∀ x, rdS g1 x = keptS r g x) ∧ g1.p = g.p ∧ Group.Kin g g1 := by
  unfold rename at h
  simp only at h
  split at h
  · cases h
  · split at h
    · cases h
    · injection h with h
      subst h
      refine ⟨?_, ?_, ?_, ?_⟩
      · intro x k
        rw [rdVl_congr (foldl_markLive_v _ _), rdVl_applyKills, rdVl_congr (noteDead_v g _)]; rfl
      · intro x
        rw [rdS_congr (foldl_markLive_s _ _), rdS_applyKills, rdS_congr (noteDead_s g _)]; rfl
      · rw [foldl_markLive_p, applyKills_p, noteDead_p]
      · exact ((noteDead_kin g _).trans (applyKills_kin _ _ _)).trans (foldl_markLive_kin _ _)

end Sys2Proof.Machine
end

