-- ==== Sys2Proof/Laws/Issue.lean ====
section
/-! SUPPORT. What the issue of an instruction does, said once: the equation of an instruction whose checks pass, and
what retirement leaves of the state. -/

namespace Sys2Proof.Machine

variable {s : State} {g g1 : Group}

@[simp] theorem delayed_mem (s : State) (g : Group) : (delayed s g).mem = s.mem := by unfold delayed; split <;> rfl
@[simp] theorem delayed_run (s : State) (g : Group) : (delayed s g).run = s.run := by unfold delayed; split <;> rfl
@[simp] theorem delayed_part (s : State) (g : Group) : (delayed s g).part = s.part := by unfold delayed; split <;> rfl
@[simp] theorem delayed_host (s : State) (g : Group) : (delayed s g).host = s.host := by unfold delayed; split <;> rfl
@[simp] theorem delayed_cur (s : State) (g : Group) : (delayed s g).ctl.cur = s.ctl.cur := by
  unfold delayed; split <;> rfl
@[simp] theorem delayed_agenda (s : State) (g : Group) : (delayed s g).ctl.agenda = s.ctl.agenda := by
  unfold delayed; split <;> rfl
@[simp] theorem grp_delayed (s : State) (g : Group) (k : Nat) : grp (delayed s g) k = grp s k := by
  simp [grp]
@[simp] theorem who_delayed (s : State) (g h : Group) (k : Nat) : who (delayed s g) k h = who s k h := by
  simp [who]

@[simp] theorem Form.ctx_g (f : Form) : (f.ctx s g).g = g := rfl
@[simp] theorem Form.ctx_gid (f : Form) : (f.ctx s g).gid = s.ctl.cur := rfl
@[simp] theorem Form.ctx_x (f : Form) : (f.ctx s g).x = execLanes g f.pol := rfl
@[simp] theorem Form.ctx_s0 (f : Form) : (f.ctx s g).s0 = delayed s g := rfl
@[simp] theorem Form.ctx_dst (f : Form) : (f.ctx s g).dst = f.dst g := rfl
@[simp] theorem Form.ctx_word (f : Form) : (f.ctx s g).word = wordOf f.i := rfl
@[simp] theorem Form.ctx_w_g (f : Form) : (f.ctx s g).w.g = g := rfl
@[simp] theorem Form.ctx_w_gid (f : Form) : (f.ctx s g).w.gid = s.ctl.cur := rfl

/-- The form of a meaning. -/
def Meaning.form (m : Meaning) : Form := ⟨m.i, m.pol, m.regs, m.dst⟩

theorem Meaning.ctxOf_eq (m : Meaning) (s : State) (g : Group) :
    ctxOf m (delayed s g) s.ctl.cur g = m.form.ctx s g := rfl

/-- The issue of an instruction that issues and whose own checks pass is its effect, settled. -/
theorem Form.Issues.issue_eq {m : Meaning} (h : m.form.Issues s g g1) (hp : m.pre (m.form.ctx s g) = none) :
    issue m s = .next (settle (m.form.ctx s g) (m.body (m.form.ctx s g) (m.form.begun s g g1))) := by
  have hc := h.cur
  have hr := h.run
  have hf := h.free
  have hfr := h.front
  have hx := h.exec
  have hn := h.names
  simp only [Meaning.form] at hf hfr hx hn
  unfold issue
  rw [hc]
  simp only [issueAt, hr, ne_eq, not_true_eq_false, if_false, hf]
  have hfr' : frontCheck g m.pol (ctxOf m (delayed s g) s.ctl.cur g).word
      (ctxOf m (delayed s g) s.ctl.cur g).dst = none := hfr
  rw [hfr']
  have hx' : ¬ (m.pol = .once ∧ (ctxOf m (delayed s g) s.ctl.cur g).x = 0) := fun e => hx e.1 e.2
  simp only [hx', if_false]
  rw [Meaning.ctxOf_eq]
  congr 2
  unfold perform
  rw [hp]
  simp only [Form.ctx_g]
  have hn' : rename g (m.form.ctx s g).w.l (m.regs g) = .ok g1 := by
    have : (m.form.ctx s g).w.l = (who s s.ctl.cur g).l := by
      show (who (delayed s g) s.ctl.cur g).l = _
      rw [who_delayed]
    rw [this]; exact hn
  rcases h.live with ht | hd
  · rw [ht, hn']; cases deadRead g (m.regs g).reads <;> rfl
  · simp only [Meaning.form] at hd
    rw [hd, hn']; rfl

/-- The front checks turn an instruction away with their trap before anything else of it happens. -/
theorem issue_front {m : Meaning} (hc : grp s s.ctl.cur = some g) (hr : g.stat = .run)
    (hf : heldBack s s.ctl.cur g (m.regs g) = none) {t : Tr}
    (hfr : frontCheck g m.pol (wordOf m.i) (m.dst g) = some t) :
    issue m s = .next (settle (m.form.ctx s g) (.trap t)) := by
  unfold issue
  rw [hc]
  simp only [issueAt, hr, ne_eq, not_true_eq_false, if_false, hf]
  have hfr' : frontCheck g m.pol (ctxOf m (delayed s g) s.ctl.cur g).word
      (ctxOf m (delayed s g) s.ctl.cur g).dst = some t := hfr
  rw [hfr']
  rfl

/-- An instruction's own checks turn it away with their outcome. -/
theorem issue_pre {m : Meaning} (hc : grp s s.ctl.cur = some g) (hr : g.stat = .run)
    (hf : heldBack s s.ctl.cur g (m.regs g) = none) (hfr : frontCheck g m.pol (wordOf m.i) (m.dst g) = none)
    (hx : m.pol = .once → execLanes g m.pol ≠ 0) {o : Out} (hp : m.pre (m.form.ctx s g) = some o) :
    issue m s = .next (settle (m.form.ctx s g) o) := by
  unfold issue
  rw [hc]
  simp only [issueAt, hr, ne_eq, not_true_eq_false, if_false, hf]
  have hfr' : frontCheck g m.pol (ctxOf m (delayed s g) s.ctl.cur g).word
      (ctxOf m (delayed s g) s.ctl.cur g).dst = none := hfr
  rw [hfr']
  have hx' : ¬ (m.pol = .once ∧ (ctxOf m (delayed s g) s.ctl.cur g).x = 0) := fun e => hx e.1 e.2
  simp only [hx', if_false]
  rw [Meaning.ctxOf_eq]
  unfold perform
  rw [hp]

/-! ### Retirement -/

@[simp] theorem countIssue_mem (s : State) (k : Nat) : (countIssue s k).mem = s.mem := rfl
@[simp] theorem countIssue_part (s : State) (k : Nat) : (countIssue s k).part = s.part := rfl
@[simp] theorem countIssue_host (s : State) (k : Nat) : (countIssue s k).host = s.host := rfl
@[simp] theorem countIssue_ctl (s : State) (k : Nat) : (countIssue s k).ctl = s.ctl := rfl
@[simp] theorem countIssue_items (s : State) (k : Nat) : (countIssue s k).run.items = s.run.items := rfl
@[simp] theorem countIssue_launches (s : State) (k : Nat) : (countIssue s k).run.launches = s.run.launches := rfl
@[simp] theorem countIssue_groups (s : State) (k : Nat) : (countIssue s k).run.groups = s.run.groups := rfl
@[simp] theorem countIssue_xfers (s : State) (k : Nat) : (countIssue s k).run.xfers = s.run.xfers := rfl
@[simp] theorem countIssue_colls (s : State) (k : Nat) : (countIssue s k).run.colls = s.run.colls := rfl
@[simp] theorem grp_countIssue (s : State) (k j : Nat) : grp (countIssue s k) j = grp s j := rfl

/-- The group that retirement leaves, before the next subgroup is chosen. -/
def retireGrp (c : Ctx) (pc clk : Nat) (g : Group) : Group :=
  { sigStep c g with
    pc := pc
    hints := Hints.none
    replay := none
    wait := none
    idle := 0
    issued := clk
    pointed := false }

/-- The group after the next subgroup is chosen (03 R68). -/
def turnGrp (g : Group) : Group := if g.split.isSome && g.stat == .run then rotateSplit g else g

/-- Everything a completed instruction leaves: its effect with the current group retired; no other group, no memory
and no other part of the machine changes but the lookahead of the group's flights. -/
structure Settled (c : Ctx) (pc : Nat) (s' t : State) (g' : Group) : Prop where
  cur : grp t c.gid = some (turnGrp (retireGrp c pc s'.ctl.clk g'))
  others : ∀ k, k ≠ c.gid → grp t k = grp s' k
  mem : t.mem = s'.mem
  part : t.part = s'.part
  host : t.host = s'.host
  ctl : t.ctl = s'.ctl
  items : t.run.items = s'.run.items
  launches : t.run.launches = s'.run.launches
  xfers : t.run.xfers = s'.run.xfers
  colls : t.run.colls = s'.run.colls
  flights : t.run.flights = if majOf c.word = 0x3F then s'.run.flights
    else s'.run.flights.map fun f => if f.gid = c.gid then { f with left := f.left - 1 } else f

theorem settled_aux (c : Ctx) (pc : Nat) (s' : State) (g' : Group) (h : grp s' c.gid = some g') :
    Settled c pc s' (nextSubgroup (retire c pc s') c.gid) g' := by
  unfold nextSubgroup retire
  by_cases hm : majOf c.word = 0x3F
  · simp only [hm, if_true]
    constructor <;> try rfl
    · rw [grp_modGrp, grp_modGrp]; simp [h, retireGrp, turnGrp]
    · intro k hk
      have hk' : ¬ c.gid = k := fun e => hk e.symm
      rw [grp_modGrp, grp_modGrp]; simp [hk']
    · simp [hm]
  · simp only [hm, if_false]
    constructor <;> try rfl
    · rw [grp_modGrp, grp_modGrp]; simp [h, retireGrp, turnGrp]
    · intro k hk
      have hk' : ¬ c.gid = k := fun e => hk e.symm
      rw [grp_modGrp, grp_modGrp]; simp [hk']
    · simp [hm, countIssue]

/-- What a completed instruction leaves. -/
theorem settle_done (c : Ctx) (s' : State) (g' : Group) (h : grp s' c.gid = some g') :
    Settled c c.next s' (settle c (.done s')) g' := settled_aux c c.next s' g' h

/-- What a completed jump leaves. -/
theorem settle_jump (c : Ctx) (s' : State) (pc : Nat) (g' : Group) (h : grp s' c.gid = some g') :
    Settled c pc s' (settle c (.jump s' pc)) g' := settled_aux c pc s' g' h

/-! ### The retired group -/

theorem sigStep_same (c : Ctx) (g : Group) :
    (sigStep c g).v = g.v ∧ (sigStep c g).s = g.s ∧ (sigStep c g).p = g.p ∧ (sigStep c g).fpflags = g.fpflags
    ∧ (sigStep c g).satf = g.satf ∧ (sigStep c g).kept = g.kept ∧ (sigStep c g).stat = g.stat
    ∧ (sigStep c g).active = g.active ∧ (sigStep c g).split = g.split := by
  unfold sigStep
  split
  · exact ⟨rfl, rfl, rfl, rfl, rfl, rfl, rfl, rfl, rfl⟩
  · split <;> exact ⟨rfl, rfl, rfl, rfl, rfl, rfl, rfl, rfl, rfl⟩

theorem rotateSplit_same (g : Group) :
    (rotateSplit g).v = g.v ∧ (rotateSplit g).s = g.s ∧ (rotateSplit g).p = g.p
    ∧ (rotateSplit g).fpflags = g.fpflags ∧ (rotateSplit g).satf = g.satf ∧ (rotateSplit g).kept = g.kept
    ∧ (rotateSplit g).hints = g.hints ∧ (rotateSplit g).wait = g.wait ∧ (rotateSplit g).stat = g.stat := by
  unfold rotateSplit
  split
  · exact ⟨rfl, rfl, rfl, rfl, rfl, rfl, rfl, rfl, rfl⟩
  · simp only
    split <;> exact ⟨rfl, rfl, rfl, rfl, rfl, rfl, rfl, rfl, rfl⟩

/-- The registers, flags and everything else but issue's own state pass retirement unchanged; the hints are used up. -/
theorem turn_retire_same (c : Ctx) (pc clk : Nat) (g : Group) :
    let h := turnGrp (retireGrp c pc clk g)
    h.v = g.v ∧ h.s = g.s ∧ h.p = g.p ∧ h.fpflags = g.fpflags ∧ h.satf = g.satf ∧ h.kept = g.kept
    ∧ h.hints = Hints.none ∧ h.wait = none ∧ h.stat = g.stat := by
  obtain ⟨a1, a2, a3, a4, a5, a6, a7, a8, a9⟩ := sigStep_same c g
  have hk : (retireGrp c pc clk g).kept = g.kept := by rw [← a6]; rfl
  simp only [turnGrp]
  split
  · obtain ⟨b1, b2, b3, b4, b5, b6, b7, b8, b9⟩ := rotateSplit_same (retireGrp c pc clk g)
    exact ⟨b1.trans a1, b2.trans a2, b3.trans a3, b4.trans a4, b5.trans a5, b6.trans hk, b7, b8, b9.trans a7⟩
  · exact ⟨a1, a2, a3, a4, a5, hk, rfl, rfl, a7⟩

/-- Outside split mode PC goes where the retirement says, the active mask stands and no lanes are left to reissue. -/
theorem turn_retire_plain (c : Ctx) (pc clk : Nat) (g : Group) (hs : g.split = none) :
    let h := turnGrp (retireGrp c pc clk g)
    h.split = none ∧ h.replay = none ∧ h.active = g.active ∧ h.pc = pc := by
  obtain ⟨a1, a2, a3, a4, a5, a6, a7, a8, a9⟩ := sigStep_same c g
  have hsp : (retireGrp c pc clk g).split = none := a9.trans hs
  simp only [turnGrp, hsp]
  exact ⟨hsp, rfl, a8, rfl⟩

end Sys2Proof.Machine
end

