-- ==== Sys2Proof/Laws/Alu.lean ====
section
/-! SUPPORT. What an arithmetic instruction does, said once for every operand form and every operation. -/

namespace Sys2Proof.Machine

variable {s : State} {g g1 : Group}

theorem Alu.meaning_form (i : Instr) (al : Alu) (op : LaneOp) : (al.meaning i op).form = al.form i := rfl

/-- The list of results holds a lane's result in every executing lane. -/
theorem Alu.results_lane (al : Alu) (op : LaneOp) (c : Ctx) (l : Nat) (hl : l < 64) (hx : Mask.has c.x l = true) :
    laneOf ⟨0, 0, 0, none⟩ (al.results op c) l = al.laneRes op c l := by
  unfold Alu.results Alu.laneRes
  cases al.u
  · simp [laneOf_mkLanes _ _ _ hl, hx]
  · simp [laneOf_mkLanes _ _ _ hl]

/-- The results in the lowest lane. -/
theorem Alu.results_low (al : Alu) (op : LaneOp) (c : Ctx) (hx : c.x ≠ 0) :
    laneOf ⟨0, 0, 0, none⟩ (al.results op c) (Mask.lowest c.x) = al.laneRes op c (Mask.lowest c.x) := by
  obtain ⟨h1, h2⟩ := Mask.lowest_mem c.x hx
  exact al.results_lane op c _ h1 h2

theorem setFlags_same (g : Group) (x : Mask) (f : Nat → Nat) :
    (setFlags g x f).v = g.v ∧ (setFlags g x f).s = g.s ∧ (setFlags g x f).p = g.p ∧ (setFlags g x f).satf = g.satf
    ∧ (setFlags g x f).kept = g.kept := ⟨rfl, rfl, rfl, rfl, rfl⟩

theorem setSat_same (g : Group) (x : Mask) (f : Nat → Nat) :
    (setSat g x f).v = g.v ∧ (setSat g x f).s = g.s ∧ (setSat g x f).p = g.p ∧ (setSat g x f).fpflags = g.fpflags
    ∧ (setSat g x f).kept = g.kept := ⟨rfl, rfl, rfl, rfl, rfl⟩

/-- The destination of an arithmetic instruction written, before its flags. -/
def Alu.put (al : Alu) (c : Ctx) (r : Nat → LaneOut) (g : Group) : Group :=
  match al.dst with
  | .reg d =>
    if (marks c.g).1 then g
    else if al.u then wrS g d (BitVec.ofNat 64 (r (Mask.lowest c.x)).v)
    else
      let new := mkLanes fun l => if Mask.has c.x l then BitVec.ofNat 32 (r l).v else rdVl c.g d l
      if d = 63 then g else { g with v := kins g.v d new }
  | .pred pd cmb => wrP g pd c.x fun l => combine cmb (Mask.has (rdP c.g pd) l) ((r l).v == 1)

theorem Alu.write_eq (al : Alu) (c : Ctx) (rs : List LaneOut) (g1 : Group) :
    al.write c rs g1 =
      let r' (l : Nat) : LaneOut := laneOf ⟨0, 0, 0, none⟩ rs l
      let gb := setSat (setFlags (al.put c r' g1) c.x fun l => (r' l).fl) c.x fun l => (r' l).sat
      if ((r' (Mask.lowest c.x)).cy).isSome then wrP gb 6 c.x fun l => ((r' l).cy).getD false else gb := rfl

theorem Alu.put_vec (al : Alu) (c : Ctx) (r : Nat → LaneOut) (g1 : Group)
    (hd : ∀ d, al.u = false → al.dst = .reg d → (marks c.g).1 = false → ∀ l, rdVl c.g d l = rdVl g1 d l) (x l : Nat) (hl : l < 64) :
    rdVl (al.put c r g1) x l =
      if al.putsV c.g x && Mask.has c.x l then BitVec.ofNat 32 (r l).v else rdVl g1 x l := by
  obtain ⟨dst, a, ra, ka, b, rd, u, pp⟩ := al
  cases dst with
  | pred pd cmb =>
    have : rdVl (wrP g1 pd c.x fun l => combine cmb (Mask.has (rdP c.g pd) l) ((r l).v == 1)) x l = rdVl g1 x l :=
      rdVl_congr (wrP_v ..) x l
    simpa [Alu.put, Alu.putsV] using this
  | reg d =>
    simp only [Alu.put, Alu.putsV]
    by_cases hm : (marks c.g).1 = true
    · simp [hm]
    · have hm' : (marks c.g).1 = false := by simpa using hm
      cases u
      · have e := hd d rfl rfl hm' l
        by_cases hd63 : d = 63
        · subst hd63
          by_cases hx63 : (63 : Nat) = x
          · simp [hm', ← hx63]
          · simp [hm', hx63]
        · by_cases hdx : d = x
          · subst hdx
            by_cases hx : Mask.has c.x l = true
            · simp [hm', hd63, rdVl, rdV, kget_kins, laneOf_mkLanes _ _ _ hl, hx]
            · simp only [rdVl, rdV, hd63, if_false] at e
              simp [hm', hd63, rdVl, rdV, kget_kins, laneOf_mkLanes _ _ _ hl, hx]
              exact e
          · simp [hm', hd63, rdVl, rdV, kget_kins, hdx]
      · have : rdVl (wrS g1 d (BitVec.ofNat 64 (r (Mask.lowest c.x)).v)) x l = rdVl g1 x l :=
          rdVl_congr (wrS_v ..) x l
        simp [hm', this]

theorem Alu.put_uni (al : Alu) (c : Ctx) (r : Nat → LaneOut) (g1 : Group) (x : Nat) :
    rdS (al.put c r g1) x = if al.putsS c.g x then BitVec.ofNat 64 (r (Mask.lowest c.x)).v else rdS g1 x := by
  obtain ⟨dst, a, ra, ka, b, rd, u, pp⟩ := al
  cases dst with
  | pred pd cmb =>
    have : rdS (wrP g1 pd c.x fun l => combine cmb (Mask.has (rdP c.g pd) l) ((r l).v == 1)) x = rdS g1 x :=
      rdS_congr (wrP_s ..) x
    simpa [Alu.put, Alu.putsS] using this
  | reg d =>
    simp only [Alu.put, Alu.putsS]
    by_cases hm : (marks c.g).1 = true
    · simp [hm]
    · have hm' : (marks c.g).1 = false := by simpa using hm
      cases u
      · by_cases hd63 : d = 63 <;> simp [hm', hd63, rdS]
      · simp only [hm', Bool.false_eq_true, if_false, if_true, rdS_wrS]
        by_cases hdx : d = x
        · subst hdx; by_cases hd63 : d = 63 <;> simp [hd63]
        · have : ¬ x = d := fun e => hdx e.symm
          simp [hdx, this]

theorem Alu.put_pred (al : Alu) (c : Ctx) (r : Nat → LaneOut) (g1 : Group) (hp : g1.p = c.g.p) (x l : Nat)
    (hl : l < 64) :
    Mask.has (rdP (al.put c r g1) x) l = match al.dst with
      | .pred pd cmb =>
        if x = pd ∧ pd ≠ 7 ∧ Mask.has c.x l then combine cmb (Mask.has (rdP c.g x) l) ((r l).v == 1)
        else Mask.has (rdP c.g x) l
      | .reg _ => Mask.has (rdP c.g x) l := by
  have hpg : ∀ x, rdP g1 x = rdP c.g x := fun x => rdP_congr hp x
  obtain ⟨dst, a, ra, ka, b, rd, u, pp⟩ := al
  cases dst with
  | pred pd cmb =>
    simp only [Alu.put, has_rdP_wrP _ _ _ _ _ _ hl, hpg]
    by_cases hx : x = pd ∧ pd ≠ 7 ∧ Mask.has c.x l = true
    · obtain ⟨rfl, h7, hx⟩ := hx; simp [h7, hx]
    · simp only [if_neg hx]
  | reg d =>
    simp only [Alu.put]
    have key : ∀ k : Group, k.p = g1.p → Mask.has (rdP k x) l = Mask.has (rdP c.g x) l := by
      intro k hk; rw [rdP_congr (hk.trans hp)]
    apply key
    split
    · rfl
    · split
      · simp
      · split <;> rfl

theorem Alu.put_rest (al : Alu) (c : Ctx) (r : Nat → LaneOut) (g1 : Group) :
    (al.put c r g1).kept = g1.kept ∧ (al.put c r g1).fpflags = g1.fpflags ∧ (al.put c r g1).satf = g1.satf := by
  obtain ⟨dst, a, ra, ka, b, rd, u, pp⟩ := al
  cases dst with
  | pred pd cmb => exact ⟨wrP_kept .., wrP_fpflags .., wrP_satf ..⟩
  | reg d =>
    simp only [Alu.put]
    split
    · exact ⟨rfl, rfl, rfl⟩
    · split
      · exact ⟨wrS_kept .., wrS_fpflags .., wrS_satf ..⟩
      · split <;> exact ⟨rfl, rfl, rfl⟩

/-- The destination depends only on the results of the executing lanes. -/
theorem Alu.put_congr (al : Alu) (c : Ctx) (r r' : Nat → LaneOut) (g1 : Group) (hu : al.u = true → c.x ≠ 0)
    (h : ∀ l, l < 64 → Mask.has c.x l = true → r l = r' l) : al.put c r g1 = al.put c r' g1 := by
  obtain ⟨dst, a, ra, ka, b, rd, u, pp⟩ := al
  cases dst with
  | pred pd cmb =>
    simp only [Alu.put, wrP]
    split
    · rfl
    · have e : (maskOf fun l => if Mask.has c.x l then combine cmb (Mask.has (rdP c.g pd) l) ((r l).v == 1)
            else Mask.has (kget 0 g1.p pd) l)
          = maskOf fun l => if Mask.has c.x l then combine cmb (Mask.has (rdP c.g pd) l) ((r' l).v == 1)
            else Mask.has (kget 0 g1.p pd) l := by
        apply Mask.ext_lanes
        intro l hl
        rw [Mask.has_maskOf _ _ hl, Mask.has_maskOf _ _ hl]
        by_cases hx : Mask.has c.x l = true
        · simp [hx, h l hl hx]
        · simp [hx]
      rw [e]
  | reg d =>
    simp only [Alu.put]
    split
    · rfl
    · cases u
      · have : (mkLanes fun l => if Mask.has c.x l then BitVec.ofNat 32 (r l).v else rdVl c.g d l)
            = mkLanes fun l => if Mask.has c.x l then BitVec.ofNat 32 (r' l).v else rdVl c.g d l := by
          apply List.map_congr_left
          intro l hl
          have hl' : l < 64 := by simpa [lanes] using hl
          by_cases hx : Mask.has c.x l = true
          · simp [hx, h l hl' hx]
          · simp [hx]
        simp only [Bool.false_eq_true, if_false]
        rw [this]
      · obtain ⟨h1, h2⟩ := Mask.lowest_mem c.x (hu rfl)
        simp [h _ h1 h2]

theorem setFlags_congr (g : Group) (x : Mask) (f f' : Nat → Nat)
    (h : ∀ l, l < 64 → Mask.has x l = true → f l = f' l) : setFlags g x f = setFlags g x f' := by
  have e : (Mask.list x).foldl (fun m l => kput 0 m l (kget 0 m l ||| BitVec.ofNat 5 (f l))) g.fpflags
      = (Mask.list x).foldl (fun m l => kput 0 m l (kget 0 m l ||| BitVec.ofNat 5 (f' l))) g.fpflags := by
    apply List.foldl_ext
    intro m l hl
    obtain ⟨h1, h2⟩ := (Mask.mem_list x l).1 hl
    rw [h l h1 h2]
  simp only [setFlags, e]

theorem setSat_congr (g : Group) (x : Mask) (f f' : Nat → Nat)
    (h : ∀ l, l < 64 → Mask.has x l = true → f l = f' l) : setSat g x f = setSat g x f' := by
  have e : (Mask.list x).foldl (fun m l => kput 0 m l (kget 0 m l ||| BitVec.ofNat 2 (f l))) g.satf
      = (Mask.list x).foldl (fun m l => kput 0 m l (kget 0 m l ||| BitVec.ofNat 2 (f' l))) g.satf := by
    apply List.foldl_ext
    intro m l hl
    obtain ⟨h1, h2⟩ := (Mask.mem_list x l).1 hl
    rw [h l h1 h2]
  simp only [setSat, e]

theorem wrP_congr (g : Group) (p : Nat) (x : Mask) (f f' : Nat → Bool)
    (h : ∀ l, l < 64 → Mask.has x l = true → f l = f' l) : wrP g p x f = wrP g p x f' := by
  unfold wrP
  split
  · rfl
  · have e : (maskOf fun l => if Mask.has x l then f l else Mask.has (kget 0 g.p p) l)
        = maskOf fun l => if Mask.has x l then f' l else Mask.has (kget 0 g.p p) l := by
      apply Mask.ext_lanes
      intro l hl
      rw [Mask.has_maskOf _ _ hl, Mask.has_maskOf _ _ hl]
      by_cases hx : Mask.has x l = true
      · simp [hx, h l hl hx]
      · simp [hx]
    rw [e]

/-- What the write of an arithmetic instruction's results leaves in its group: r gives the result of every executing
lane. -/
theorem Alu.write_leaves (al : Alu) (c : Ctx) (rs : List LaneOut) (r : Nat → LaneOut) (g1 : Group)
    (hr : ∀ l, l < 64 → Mask.has c.x l = true → laneOf ⟨0, 0, 0, none⟩ rs l = r l)
    (hu : al.u = true → c.x ≠ 0)
    (h0 : c.x = 0 → (laneOf ⟨0, 0, 0, none⟩ rs 0).cy = none)
    (hv : ∀ x l, rdVl g1 x l = keptV (al.regs c.g) c.g x l) (hs : ∀ x, rdS g1 x = keptS (al.regs c.g) c.g x)
    (hp : g1.p = c.g.p) (hk : Group.Kin c.g g1) :
    al.Leaves c r c.g (al.write c rs g1) := by
  have hd : ∀ d, al.u = false → al.dst = .reg d → (marks c.g).1 = false → ∀ l, rdVl c.g d l = rdVl g1 d l := by
    intro d hu' hdst hm l
    rw [hv d l]
    unfold keptV
    have : (al.regs c.g).writes.contains (false, d) = true := by simp [Alu.regs, hdst, hm, hu']
    simp only [this]
    simp
  rw [Alu.write_eq]
  simp only
  have h1 : al.put c (fun l => laneOf ⟨0, 0, 0, none⟩ rs l) g1 = al.put c r g1 := al.put_congr c _ _ g1 hu hr
  have h2 : ∀ k : Group, setFlags k c.x (fun l => (laneOf ⟨0, 0, 0, none⟩ rs l).fl) = setFlags k c.x fun l => (r l).fl :=
    fun k => setFlags_congr k c.x _ _ fun l a b => by rw [hr l a b]
  have h3 : ∀ k : Group, setSat k c.x (fun l => (laneOf ⟨0, 0, 0, none⟩ rs l).sat) = setSat k c.x fun l => (r l).sat :=
    fun k => setSat_congr k c.x _ _ fun l a b => by rw [hr l a b]
  have h4 : ∀ k : Group, wrP k 6 c.x (fun l => ((laneOf ⟨0, 0, 0, none⟩ rs l).cy).getD false)
      = wrP k 6 c.x fun l => ((r l).cy).getD false :=
    fun k => wrP_congr k 6 c.x _ _ fun l a b => by rw [hr l a b]
  rw [h1, h2, h3, h4]
  obtain ⟨pk, pf, ps⟩ := al.put_rest c r g1
  have bf : ∀ l, l < 64 → kget 0 (setSat (setFlags (al.put c r g1) c.x fun l => (r l).fl) c.x fun l => (r l).sat).fpflags l =
      if Mask.has c.x l then kget 0 c.g.fpflags l ||| BitVec.ofNat 5 (r l).fl else kget 0 c.g.fpflags l := by
    intro l hl
    have := kget_setFlags (al.put c r g1) c.x (fun l => (r l).fl) l hl
    rw [pf, hk.flags] at this
    exact this
  have bs : ∀ l, l < 64 → kget 0 (setSat (setFlags (al.put c r g1) c.x fun l => (r l).fl) c.x fun l => (r l).sat).satf l =
      if Mask.has c.x l then kget 0 c.g.satf l ||| BitVec.ofNat 2 (r l).sat else kget 0 c.g.satf l := by
    intro l hl
    have := kget_setSat (setFlags (al.put c r g1) c.x fun l => (r l).fl) c.x (fun l => (r l).sat) l hl
    have e : (setFlags (al.put c r g1) c.x fun l => (r l).fl).satf = c.g.satf := ps.trans hk.satf
    rw [e] at this
    exact this
  have bv : ∀ x l, l < 64 → rdVl (al.put c r g1) x l =
      if al.putsV c.g x && Mask.has c.x l then BitVec.ofNat 32 (r l).v else keptV (al.regs c.g) c.g x l := by
    intro x l hl; rw [al.put_vec c r g1 hd x l hl, hv]
  have bu : ∀ x, rdS (al.put c r g1) x =
      if al.putsS c.g x then BitVec.ofNat 64 (r (Mask.lowest c.x)).v else keptS (al.regs c.g) c.g x := by
    intro x; rw [al.put_uni, hs]
  have hcond : ((laneOf ⟨0, 0, 0, none⟩ rs (Mask.lowest c.x)).cy).isSome = true ↔
      c.x ≠ 0 ∧ ((r (Mask.lowest c.x)).cy).isSome = true := by
    by_cases hx : c.x = 0
    · have h00 : Mask.lowest c.x = 0 := by rw [hx]; decide
      rw [h00, h0 hx]; simp [hx]
    · obtain ⟨l1, l2⟩ := Mask.lowest_mem c.x hx
      rw [hr _ l1 l2]; exact ⟨fun e => ⟨hx, e⟩, fun e => e.2⟩
  by_cases hcy : ((laneOf ⟨0, 0, 0, none⟩ rs (Mask.lowest c.x)).cy).isSome = true
  · rw [if_pos hcy]
    obtain ⟨hx0, hcy'⟩ := hcond.1 hcy
    constructor
    · intro x l hl; rw [rdVl_congr (wrP_v ..)]; exact bv x l hl
    · intro x; rw [rdS_congr (wrP_s ..)]; exact bu x
    · intro x l hl
      rw [has_rdP_wrP _ _ _ _ _ _ hl]
      by_cases hx : x = 6 ∧ Mask.has c.x l = true
      · obtain ⟨rfl, hx⟩ := hx; simp [hx, hcy']
      · have n1 : ¬ (x = 6 ∧ (6 : Nat) ≠ 7 ∧ Mask.has c.x l = true) := fun e => hx ⟨e.1, e.2.2⟩
        have n2 : ¬ (x = 6 ∧ Mask.has c.x l = true ∧ ((r (Mask.lowest c.x)).cy).isSome = true) :=
          fun e => hx ⟨e.1, e.2.1⟩
        rw [if_neg n1, if_neg n2]
        exact al.put_pred c r g1 hp x l hl
    · intro l hl; rw [wrP_fpflags]; exact bf l hl
    · intro l hl; rw [wrP_satf]; exact bs l hl
    · rw [wrP_kept]; exact pk.trans hk.kept
  · rw [if_neg hcy]
    constructor
    · exact bv
    · exact bu
    · intro x l hl
      have n2 : ¬ (x = 6 ∧ Mask.has c.x l = true ∧ ((r (Mask.lowest c.x)).cy).isSome = true) := by
        rintro ⟨-, hx, hs'⟩
        apply hcy
        refine hcond.2 ⟨?_, hs'⟩
        intro e; rw [e] at hx; simp at hx
      rw [if_neg n2]
      exact al.put_pred c r g1 hp x l hl
    · exact bf
    · exact bs
    · exact pk.trans hk.kept

/-! ### The whole instruction -/

/-- The queue work of an arithmetic instruction (03 R69 to R71): the queues it pops and the entry it pushes. -/
def Alu.pops (al : Alu) (g : Group) : List Nat :=
  (if (marks g).2.1 then [al.a] else []) ++ (if (marks g).2.2 then [al.bnum] else [])
def Alu.pushOf (al : Alu) (c : Ctx) (rs : List LaneOut) : Option (Nat × List W32) :=
  if (marks c.g).1 then some (al.dnum, Alu.entry c rs) else none

/-- What a pop leaves of the group that pops: the loads after it are not yet performed (07 R146). -/
def popGrp (pops : List Nat) (g : Group) : Group := if pops.isEmpty then g else { g with ahead := [] }

@[simp] theorem popGrp_v (pops : List Nat) (g : Group) : (popGrp pops g).v = g.v := by unfold popGrp; split <;> rfl
@[simp] theorem popGrp_s (pops : List Nat) (g : Group) : (popGrp pops g).s = g.s := by unfold popGrp; split <;> rfl
@[simp] theorem popGrp_p (pops : List Nat) (g : Group) : (popGrp pops g).p = g.p := by unfold popGrp; split <;> rfl
@[simp] theorem popGrp_fpflags (pops : List Nat) (g : Group) : (popGrp pops g).fpflags = g.fpflags := by
  unfold popGrp; split <;> rfl
@[simp] theorem popGrp_satf (pops : List Nat) (g : Group) : (popGrp pops g).satf = g.satf := by
  unfold popGrp; split <;> rfl
@[simp] theorem popGrp_kept (pops : List Nat) (g : Group) : (popGrp pops g).kept = g.kept := by
  unfold popGrp; split <;> rfl
@[simp] theorem popGrp_split (pops : List Nat) (g : Group) : (popGrp pops g).split = g.split := by
  unfold popGrp; split <;> rfl
@[simp] theorem popGrp_active (pops : List Nat) (g : Group) : (popGrp pops g).active = g.active := by
  unfold popGrp; split <;> rfl
@[simp] theorem popGrp_stat (pops : List Nat) (g : Group) : (popGrp pops g).stat = g.stat := by
  unfold popGrp; split <;> rfl

/-- The groups after queue work: the popping group is changed by the pop, no other group is. -/
theorem grp_queueEffects (s : State) (w : Who) (pops : List Nat) (push : Option (Nat × List W32)) (k : Nat) :
    grp (queueEffects s w pops push) k = if w.gid = k then (grp s k).map (popGrp pops) else grp s k := by
  have key : grp (if pops.isEmpty then s else dropAhead (seeWrites s w.core w.gid) w.gid) k
      = if w.gid = k then (grp s k).map (popGrp pops) else grp s k := by
    cases hp : pops.isEmpty
    · have : popGrp pops = fun g => { g with ahead := [] } := by funext g; simp [popGrp, hp]
      simp only [Bool.false_eq_true, if_false, dropAhead, grp_modGrp, this]
      rfl
    · have : popGrp pops = id := by funext g; simp [popGrp, hp]
      simp [this]
  unfold queueEffects
  rw [← key]
  cases push <;> simp only <;> (try split) <;> rfl

/-- What queue work leaves alone. -/
theorem queueEffects_same (s : State) (w : Who) (pops : List Nat) (push : Option (Nat × List W32)) :
    let t := queueEffects s w pops push
    t.part = s.part ∧ t.host = s.host ∧ t.ctl = s.ctl ∧ t.run.xfers = s.run.xfers
    ∧ t.run.colls = s.run.colls ∧ t.run.flights = s.run.flights ∧ t.mem.hbm = s.mem.hbm ∧ t.mem.host = s.mem.host
    ∧ t.mem.ws = s.mem.ws ∧ t.mem.remap = s.mem.remap := by
  unfold queueEffects
  cases pops.isEmpty <;> cases push <;> simp only <;> (try split) <;>
    exact ⟨rfl, rfl, rfl, rfl, rfl, rfl, rfl, rfl, rfl, rfl⟩

/-- What marks buffered writes as seen changes nothing of what those sent on say. -/
theorem overlay_sent_map (f : PortWrite → PortWrite)
    (hf : ∀ w, (f w).core = w.core ∧ (f w).host = w.host ∧ (f w).addr = w.addr ∧ (f w).data = w.data
      ∧ (f w).sent = w.sent) (ws : List PortWrite) (core : Nat) (host : Bool) (a : Nat) (b : Byte) :
    overlay ((ws.map f).filter (·.sent)) core host a b = overlay (ws.filter (·.sent)) core host a b := by
  induction ws generalizing b with
  | nil => rfl
  | cons w ws ih =>
    obtain ⟨h1, h2, h3, h4, h5⟩ := hf w
    cases hs : w.sent
    · simpa [h5, hs] using ih b
    · simp only [List.map_cons, List.filter_cons, h5, hs, if_true]
      simp only [overlay, List.foldl_cons, h1, h2, h3, h4, h5] at ih ⊢
      exact ih _

/-- Queue work sends nothing on to the host. -/
theorem queueEffects_sent (s : State) (w : Who) (pops : List Nat) (push : Option (Nat × List W32)) (a : Nat) (b : Byte) :
    overlay ((queueEffects s w pops push).mem.ports.filter (·.sent)) 0 true a b
      = overlay (s.mem.ports.filter (·.sent)) 0 true a b := by
  have key : (queueEffects s w pops push).mem.ports
      = (if pops.isEmpty then s else dropAhead (seeWrites s w.core w.gid) w.gid).mem.ports := by
    unfold queueEffects
    cases push <;> simp only <;> (try split) <;> rfl
  rw [key]
  split
  · rfl
  · refine overlay_sent_map _ (fun w => ?_) _ _ _ _ _
    split <;> exact ⟨rfl, rfl, rfl, rfl, rfl⟩

/-- The queue work keeps every byte of every work item's scratchpad. -/
theorem queueRun_scr (w : Who) (pops : List Nat) (push : Option (Nat × List W32)) (it : Item) :
    (queueRun w pops push it).scr = it.scr := by
  unfold queueRun; cases push <;> rfl

theorem items_queueEffects (s : State) (w : Who) (pops : List Nat) (push : Option (Nat × List W32)) :
    (queueEffects s w pops push).run.items = kmod s.run.items w.item (queueRun w pops push) := by
  unfold queueEffects
  cases pops.isEmpty <;> cases push <;> simp only <;> (try split) <;> rfl

/-- Two states with the same memories, writes sent on to the host, remapping, part and scratchpads read the same bytes. -/
theorem sameBytes_of (s t : State) (hh : t.mem.hbm = s.mem.hbm) (ho : t.mem.host = s.mem.host)
    (hw : t.mem.ws = s.mem.ws) (hr : t.mem.remap = s.mem.remap) (hp : t.part = s.part)
    (hq : ∀ a b, overlay (t.mem.ports.filter (·.sent)) 0 true a b = overlay (s.mem.ports.filter (·.sent)) 0 true a b)
    (hi : ∀ k, ((kfind t.run.items k).getD Item.fresh).scr = ((kfind s.run.items k).getD Item.fresh).scr) :
    SameBytes s t := by
  intro l
  unfold byteAt readNow
  cases l with
  | scr it o => simp only [hi it]
  | hbm pa => simp only [readHbm, hh, hr]
  | host a => simp only [ho, hq]
  | weight a => simp only [hw]
  | enum o => simp only [hp]

/-- The effect of an arithmetic instruction, whatever its result. -/
theorem Alu.run_eq (al : Alu) (op : LaneOp) (c : Ctx) (s : State) :
    al.run op c s =
      let rs := al.results op c
      let s1 := modGrp s c.gid (al.write c rs)
      let s2 := if (marks c.g).1 || (marks c.g).2.1 || (marks c.g).2.2 then
        queueEffects s1 c.w (al.pops c.g) (al.pushOf c rs) else s1
      match fpTrap c.g c.x (fun l => (laneOf ⟨0, 0, 0, none⟩ rs l).fl) c.dst with
      | some t => .late s2 t
      | none => .done s2 := rfl

theorem fpTrap_congr (g : Group) (x : Mask) (f f' : Nat → Nat) (dst : Nat)
    (h : ∀ l, l < 64 → Mask.has x l = true → f l = f' l) : fpTrap g x f dst = fpTrap g x f' dst := by
  have e : (Mask.list x).foldl (fun u l => Nat.lor u (Nat.land (f l) (tenOf g))) 0
      = (Mask.list x).foldl (fun u l => Nat.lor u (Nat.land (f' l) (tenOf g))) 0 := by
    apply List.foldl_ext
    intro m l hl
    obtain ⟨h1, h2⟩ := (Mask.mem_list x l).1 hl
    rw [h l h1 h2]
  have e2 : ∀ b, (maskOf fun l => Mask.has x l && tbit (Nat.land (f l) (tenOf g)) b)
      = maskOf fun l => Mask.has x l && tbit (Nat.land (f' l) (tenOf g)) b := by
    intro b
    apply Mask.ext_lanes
    intro l hl
    rw [Mask.has_maskOf _ _ hl, Mask.has_maskOf _ _ hl]
    by_cases hx : Mask.has x l = true
    · rw [h l hl hx]
    · simp [hx]
  simp only [fpTrap, e, e2]

/-- Every arithmetic instruction that issues, whose queue operands are ready and which raises no enabled exception,
completes: r gives each executing lane's result, and what it leaves is said by `Alu.Leaves` and `OutsideKept`. -/
theorem Alu.issue_spec (i : Instr) (al : Alu) (op : LaneOp) (r : Nat → LaneOut)
    (h : (al.form i).Issues s g g1) (hc : al.check ((al.form i).ctx s g) = none)
    (hr : ∀ l, l < 64 → Mask.has (execLanes g (al.form i).pol) l = true →
      al.laneRes op ((al.form i).ctx s g) l = r l)
    (ht : fpTrap g (execLanes g (al.form i).pol) (fun l => (r l).fl) (al.dstOf g) = none)
    (hm : majOf (wordOf i) ≠ 0x3F) :
    ∃ t h', issue (al.meaning i op) s = .next t ∧ grp t s.ctl.cur = some h' ∧ Retired (al.form i) g h'
      ∧ al.Leaves ((al.form i).ctx s g) r g h' ∧ OutsideKept s t g := by
  have hi := Form.Issues.issue_eq (m := al.meaning i op) h hc
  rw [Alu.meaning_form] at hi
  let c := (al.form i).ctx s g
  let rs := al.results op c
  have hcx : c.x = execLanes g (al.form i).pol := rfl
  have hrs : ∀ l, l < 64 → Mask.has c.x l = true → laneOf ⟨0, 0, 0, none⟩ rs l = r l := by
    intro l hl hx; rw [al.results_lane op c l hl hx]; exact hr l hl hx
  have hu : al.u = true → c.x ≠ 0 := by
    intro hu; exact h.exec (by simp [Alu.form, hu])
  have h0 : c.x = 0 → (laneOf ⟨0, 0, 0, none⟩ rs 0).cy = none := by
    intro hx
    have hu' : al.u = false := by
      cases hu' : al.u
      · rfl
      · exact absurd hx (hu hu')
    simp [rs, Alu.results, hu', laneOf_mkLanes, hx]
  obtain ⟨rv, rsu, rp, rk⟩ := rename_spec h.names
  have hL : al.Leaves c r g (al.write c rs g1) := al.write_leaves c rs r g1 hrs hu h0 rv rsu rp rk
  have htr : fpTrap c.g c.x (fun l => (laneOf ⟨0, 0, 0, none⟩ rs l).fl) c.dst = none := by
    rw [fpTrap_congr _ _ _ (fun l => (r l).fl) _ fun l a b => by rw [hrs l a b]]
    exact ht
  let s0 := (al.form i).begun s g g1
  let s1 := modGrp s0 s.ctl.cur (al.write c rs)
  let q := (marks g).1 || (marks g).2.1 || (marks g).2.2
  let s2 := if q then queueEffects s1 c.w (al.pops g) (al.pushOf c rs) else s1
  have hrun : (al.meaning i op).body c s0 = .done s2 := by
    show al.run op c s0 = _
    rw [Alu.run_eq]
    simp only
    rw [htr]
    rfl
  have hg1 : grp s1 s.ctl.cur = some (al.write c rs g1) := by
    simp only [s1, grp_modGrp, s0, Form.begun, grp_setGrp_self, if_true, Option.map_some]
  have hs1 : (∀ k, k ≠ s.ctl.cur → grp s1 k = grp s k) ∧ s1.mem = s.mem ∧ s1.part = s.part ∧ s1.host = s.host
      ∧ s1.run.items = s.run.items ∧ s1.run.launches = s.run.launches ∧ s1.run.xfers = s.run.xfers
      ∧ s1.run.colls = s.run.colls ∧ s1.run.flights = s.run.flights := by
    refine ⟨?_, ?_, ?_, ?_, ?_, ?_, ?_, ?_, ?_⟩ <;> try (simp [s1, s0, Form.begun]; done)
    intro k hk
    have hk' : ¬ s.ctl.cur = k := fun e => hk e.symm
    simp [s1, s0, Form.begun, grp_modGrp, grp_setGrp, hk']
  let P := if q then al.pops g else []
  have hs2 : (∀ k, grp s2 k = if s.ctl.cur = k then (grp s1 k).map (popGrp P) else grp s1 k) ∧ s2.part = s1.part ∧ s2.host = s1.host ∧ s2.run.xfers = s1.run.xfers
      ∧ s2.run.colls = s1.run.colls ∧ SameBytes s1 s2 := by
    by_cases hq : q = true
    · have a1 := grp_queueEffects s1 c.w (al.pops g) (al.pushOf c rs)
      obtain ⟨a2, a3, a4, a5, a6, a7, a8, a9, a10, a11⟩ := queueEffects_same s1 c.w (al.pops g) (al.pushOf c rs)
      have e : s2 = queueEffects s1 c.w (al.pops g) (al.pushOf c rs) := by simp only [s2, hq, if_true]
      have eP : P = al.pops g := by simp only [P, hq, if_true]
      rw [e, eP]
      refine ⟨a1, a2, a3, a5, a6, sameBytes_of _ _ a8 a9 a10 a11 a2 (fun _ _ => queueEffects_sent ..) ?_⟩
      intro k
      rw [items_queueEffects, kfind_kmod]
      split
      · cases kfind s1.run.items k <;> simp [queueRun_scr]
      · rfl
    · have e : s2 = s1 := by simp only [s2, hq, Bool.false_eq_true, if_false]
      have eP : P = [] := by simp only [P, hq, Bool.false_eq_true, if_false]
      have eI : popGrp [] = id := by funext k; rfl
      rw [e, eP, eI]; exact ⟨fun _ => by simp, rfl, rfl, rfl, rfl, fun _ => rfl⟩
  let W := popGrp P (al.write c rs g1)
  have hset := settle_done c s2 W (by rw [show c.gid = s.ctl.cur from rfl, hs2.1, if_pos rfl, hg1]; rfl)
  obtain ⟨t1, t2, t3, t4, t5, t6, t7, t8, t9⟩ := turn_retire_same c c.next s2.ctl.clk W
  refine ⟨settle c (.done s2), turnGrp (retireGrp c c.next s2.ctl.clk W), ?_, hset.cur, ?_, ?_, ?_⟩
  · rw [hi]; exact congrArg _ (congrArg _ hrun)
  · refine ⟨t7, t8, ?_⟩
    intro hsp
    have hw : W.split = none ∧ W.active = g.active := by
      rw [popGrp_split, popGrp_active]
      have e1 : (al.write c rs g1).split = g1.split ∧ (al.write c rs g1).active = g1.active := by
        rw [Alu.write_eq]
        have key : ∀ k : Group, (wrP k 6 c.x fun l => ((laneOf ⟨0, 0, 0, none⟩ rs l).cy).getD false).split = k.split
            ∧ (wrP k 6 c.x fun l => ((laneOf ⟨0, 0, 0, none⟩ rs l).cy).getD false).active = k.active :=
          fun k => ⟨(wrP_kin k _ _ _).split, (wrP_kin k _ _ _).active⟩
        have kp : (al.put c (fun l => laneOf ⟨0, 0, 0, none⟩ rs l) g1).split = g1.split
            ∧ (al.put c (fun l => laneOf ⟨0, 0, 0, none⟩ rs l) g1).active = g1.active := by
          unfold Alu.put
          split
          · split
            · exact ⟨rfl, rfl⟩
            · split
              · exact ⟨(wrS_kin ..).split, (wrS_kin ..).active⟩
              · dsimp only; split <;> exact ⟨rfl, rfl⟩
          · exact ⟨(wrP_kin ..).split, (wrP_kin ..).active⟩
        simp only
        split
        · exact ⟨(key _).1.trans kp.1, (key _).2.trans kp.2⟩
        · exact kp
      exact ⟨e1.1.trans (rk.split.trans hsp), e1.2.trans rk.active⟩
    obtain ⟨p1, p2, p3, p4⟩ := turn_retire_plain c c.next s2.ctl.clk W hw.1
    exact ⟨p1, p2, p3.trans hw.2, p4⟩
  · constructor
    · intro x l hl; rw [rdVl_congr (t1.trans (popGrp_v ..))]; exact hL.vector x l hl
    · intro x; rw [rdS_congr (t2.trans (popGrp_s ..))]; exact hL.uniform x
    · intro x l hl; rw [rdP_congr (t3.trans (popGrp_p ..))]; exact hL.preds x l hl
    · intro l hl; rw [t4, popGrp_fpflags]; exact hL.flags l hl
    · intro l hl; rw [t5, popGrp_satf]; exact hL.sat l hl
    · exact t6.trans ((popGrp_kept ..).trans hL.rest)
  · obtain ⟨o1, o2, o3, o4, o5, o6, o7, o8, o9⟩ := hs1
    obtain ⟨u1, u2, u3, u4, u5, u6⟩ := hs2
    constructor
    · intro l
      have a : byteAt (settle c (.done s2)) l = byteAt s2 l :=
        sameBytes_of s2 _ (by rw [hset.mem]) (by rw [hset.mem]) (by rw [hset.mem]) (by rw [hset.mem]) hset.part
          (by rw [hset.mem]; intros; rfl) (by intro k; rw [hset.items]) l
      have b : byteAt s1 l = byteAt s l :=
        sameBytes_of s _ (by rw [o2]) (by rw [o2]) (by rw [o2]) (by rw [o2]) o3 (by rw [o2]; intros; rfl)
          (by intro k; rw [o5]) l
      exact a.trans ((u6 l).trans b)
    · intro k hk; rw [hset.others k hk, u1, if_neg fun e => hk e.symm, o1 k hk]
    · rw [hset.part, u2, o3]
    · rw [hset.host, u3, o4]
    · exact ⟨by rw [hset.xfers, u4, o7], by rw [hset.colls, u5, o8]⟩
    · intro hmk
      have e : s2 = s1 := by simp only [s2, q, hmk]; rfl
      rw [e] at hset ⊢
      refine ⟨⟨?_, ?_, ?_, ?_, ?_, ?_, ?_, ?_⟩, ?_⟩
      · intro k hk; rw [hset.others k hk, o1 k hk]
      · rw [hset.launches, o6]
      · rw [hset.items, o5]
      · rw [hset.xfers, o7]
      · rw [hset.colls, o8]
      · rw [hset.part, o3]
      · rw [hset.host, o4]
      · rw [hset.flights, if_neg (show ¬ majOf c.word = 0x3F from hm), o9]; rfl
      · rw [hset.mem, o2]

end Sys2Proof.Machine
end

