-- ==== Sys2Proof/Laws/Mem.lean ====
section
/-! SUPPORT. Every operation on HBM, host memory and the weight stores keeps their canonical form, and what the small
ones do to a byte. -/

namespace Sys2Proof.Machine

/-! ### Lists of cells -/

theorem writeCells_wf (m : List Host.Cell) (a : Nat) (bs : List Byte) (h : kwf 0 m = true) :
    kwf 0 (writeCells m a bs) = true := by
  induction bs generalizing m a with
  | nil => exact h
  | cons b t ih => exact ih _ _ (kwf_kput 0 m a b h)

/-- A byte after a write: the written byte inside the range, the old one outside. -/
theorem kget_writeCells (m : List Host.Cell) (a x : Nat) (bs : List Byte) :
    kget 0 (writeCells m a bs) x = if a ≤ x ∧ x < a + bs.length then bs.getD (x - a) 0 else kget 0 m x := by
  induction bs generalizing m a with
  | nil => simp [writeCells, show ¬ (a ≤ x ∧ x < a) by omega]
  | cons b t ih =>
    simp only [writeCells, ih, kget_kput, List.length_cons]
    by_cases h1 : a = x
    · subst h1; simp [show ¬ (a + 1 ≤ a) by omega]
    · by_cases h2 : a + 1 ≤ x ∧ x < a + 1 + t.length
      · have : x - a = (x - (a + 1)) + 1 := by omega
        simp [h2, this, show a ≤ x ∧ x < a + (t.length + 1) by omega]
      · rw [if_neg h2, if_neg h1, if_neg (by omega)]

/-! ### The three memories -/

theorem Mem.wf_iff (m : Mem) : m.wf = true ↔ kwf 0 m.hbm = true ∧ kwf 0 m.host = true ∧ kwf 0 m.ws = true := by
  simp [Mem.wf, and_assoc]

/-- The form depends on the three memories alone. -/
theorem Mem.wf_congr {m n : Mem} (h1 : n.hbm = m.hbm) (h2 : n.host = m.host) (h3 : n.ws = m.ws) : n.wf = m.wf := by
  simp [Mem.wf, h1, h2, h3]

theorem writeHbm_host (m : Mem) (pa : Nat) (bs : List Byte) : (writeHbm m pa bs).host = m.host := by
  induction bs generalizing m pa with
  | nil => rfl
  | cons b t ih => simp [writeHbm, ih]

theorem writeHbm_ws (m : Mem) (pa : Nat) (bs : List Byte) : (writeHbm m pa bs).ws = m.ws := by
  induction bs generalizing m pa with
  | nil => rfl
  | cons b t ih => simp [writeHbm, ih]

theorem writeHbm_remap (m : Mem) (pa : Nat) (bs : List Byte) : (writeHbm m pa bs).remap = m.remap := by
  induction bs generalizing m pa with
  | nil => rfl
  | cons b t ih => simp [writeHbm, ih]

theorem writeHbm_ports (m : Mem) (pa : Nat) (bs : List Byte) : (writeHbm m pa bs).ports = m.ports := by
  induction bs generalizing m pa with
  | nil => rfl
  | cons b t ih => simp [writeHbm, ih]

theorem writeHbm_wf (m : Mem) (pa : Nat) (bs : List Byte) (h : m.wf = true) : (writeHbm m pa bs).wf = true := by
  induction bs generalizing m pa with
  | nil => exact h
  | cons b t ih =>
    refine ih _ _ ?_
    rw [Mem.wf_iff] at h ⊢
    exact ⟨kwf_kput 0 _ _ _ h.1, h.2⟩

/-- One HBM byte after a write of one byte, through the remap. -/
theorem kget_writeHbm_one (m : Mem) (pa x : Nat) (b : Byte) :
    kget 0 (writeHbm m pa [b]).hbm (remapOf m.remap x)
      = if remapOf m.remap pa = remapOf m.remap x then b else kget 0 m.hbm (remapOf m.remap x) := by
  simp [writeHbm, kget_kput]

theorem ringWrite_wf (m : Mem) (q : Queue) (r : Record) (h : m.wf = true) : (ringWrite m q r).wf = true := by
  rw [Mem.wf_iff] at h ⊢
  exact ⟨h.1, writeCells_wf _ _ _ h.2.1, h.2.2⟩

theorem host_wf (m : Mem) (a : Nat) (bs : List Byte) (h : m.wf = true) :
    ({ m with host := writeCells m.host a bs } : Mem).wf = true := by
  rw [Mem.wf_iff] at h ⊢
  exact ⟨h.1, writeCells_wf _ _ _ h.2.1, h.2.2⟩

/-! ### Operations that write no byte -/


theorem fireLine_mem (s : State) (l : MonLine) : (fireLine s l).mem = s.mem := by
  unfold fireLine
  generalize s.mem.mons = ms
  induction ms generalizing s with
  | nil => rfl
  | cons e t ih => simp only [List.foldl_cons]; rw [ih]; split <;> rfl

theorem fireLines_mem (ks : List Nat) (f : Nat → MonLine) (s : State) :
    (ks.foldl (fun s k => fireLine s (f k)) s).mem = s.mem := by
  induction ks generalizing s with
  | nil => rfl
  | cons k t ih => simp only [List.foldl_cons]; rw [ih, fireLine_mem]

theorem fireHbm_mem (s : State) (pa n : Nat) : (fireHbm s pa n).mem = s.mem := fireLines_mem _ _ _
theorem fireScr_mem (s : State) (it o n : Nat) : (fireScr s it o n).mem = s.mem := fireLines_mem _ _ _

theorem l2Write_wf (s : State) (die pa : Nat) : (l2Write s die pa).mem.wf = s.mem.wf := rfl
theorem l2Read_wf (s : State) (die pa : Nat) (a : Bool) : (l2Read s die pa a).mem.wf = s.mem.wf := rfl
theorem flashL1_wf (s : State) (c : Nat) : (flashL1 s c).mem.wf = s.mem.wf := rfl
theorem dropL1_wf (s : State) (c : Nat) (ls : List Nat) : (dropL1 s c ls).mem.wf = s.mem.wf := rfl
theorem dropMon_wf (s : State) (gid : Nat) : (dropMon s gid).mem.wf = s.mem.wf := rfl
theorem seeWrites_wf (s : State) (c gid : Nat) : (seeWrites s c gid).mem.wf = s.mem.wf := rfl
theorem fillTlb_wf (s : State) (t : Tlb) : (fillTlb s t).mem.wf = s.mem.wf := rfl
theorem storeL1_wf (s : State) (c pa : Nat) (bs : List Byte) : (storeL1 s c pa bs).mem.wf = s.mem.wf := by
  unfold storeL1; dsimp only; split <;> rfl
theorem noteTlb_wf (s : State) (die asid va : Nat) (acc : Acc) : (noteTlb s die asid va acc).mem.wf = s.mem.wf := by
  unfold noteTlb
  split
  · split
    · split <;> rfl
    · rfl
  · rfl
theorem takeTag_wf (s : State) (c l : Nat) : (takeTag s c l).mem.wf = s.mem.wf := by
  unfold takeTag; dsimp only; split <;> rfl
theorem touchLoad_wf (s : State) (w : Who) (md : L1Mode) (l : Loc) (nc : Bool) :
    (touchLoad s w md l nc).mem.wf = s.mem.wf := by
  unfold touchLoad
  split
  · split
    · rfl
    · dsimp only
      split
      · exact takeTag_wf (l2Read s w.die _ md.guest) _ _
      · rfl
  · rfl
/-- An abort is marked, and its conflict logged, in no memory. -/
theorem markAbort_mem (s : State) (it : Nat) (a : Abort) : (markAbort s it a).mem = s.mem := by
  unfold markAbort
  split
  · rfl
  · split
    · rfl
    · dsimp only; split <;> rfl
theorem markAbort_wf (s : State) (it : Nat) (a : Abort) : (markAbort s it a).mem.wf = s.mem.wf := by
  rw [markAbort_mem]
theorem dropFront_wf (s : State) (ls : List Nat) : (dropFront s ls).mem.wf = s.mem.wf := rfl
theorem dropAhead_wf (s : State) (gid : Nat) : (dropAhead s gid).mem.wf = s.mem.wf := rfl
theorem txClaim_wf (s : State) (item line : Nat) : (txClaim s item line).2.mem.wf = s.mem.wf := by
  unfold txClaim
  split
  · rfl
  · split
    · rfl
    · split <;> exact markAbort_wf _ _ _

/-! ### Operations that write -/

theorem post_wf (s : State) (qi : Nat) (r : Record) (h : s.mem.wf = true) : (post s qi r).mem.wf = true := by
  unfold post
  split
  · exact h
  · split
    · exact h
    · exact ringWrite_wf _ _ _ h

theorem flushHeld_wf (n : Nat) (s : State) (qi : Nat) (h : s.mem.wf = true) : (flushHeld n s qi).mem.wf = true := by
  induction n generalizing s with
  | zero => exact h
  | succ n ih =>
    unfold flushHeld
    split
    · exact h
    · split
      · exact h
      · split
        · exact h
        · exact ih _ (ringWrite_wf _ _ _ h)

theorem postEvent_wf (s : State) (ty q : Nat) (b : List Byte) (h : s.mem.wf = true) :
    (postEvent s ty q b).mem.wf = true := post_wf _ _ _ h

theorem postHalt_wf (s : State) (l c sl k pc ca i : Nat) (h : s.mem.wf = true) :
    (postHalt s l c sl k pc ca i).mem.wf = true := postEvent_wf _ _ _ _ h

theorem performWrite_wf (s : State) (w : PortWrite) (h : s.mem.wf = true) : (performWrite s w).mem.wf = true := by
  unfold performWrite
  split
  · exact host_wf _ _ _ h
  · simp only [fireHbm_mem]
    exact writeHbm_wf _ _ _ h

theorem performAll_wf (us : List (PortWrite × Bool)) (s : State) (h : s.mem.wf = true) :
    (us.foldl (fun s u => performWrite s u.1) s).mem.wf = true := by
  induction us generalizing s with
  | nil => exact h
  | cons u t ih => exact ih _ (performWrite_wf _ _ h)

theorem drainWhere_wf (s : State) (p : PortWrite → Bool) (h : s.mem.wf = true) : (drainWhere s p).mem.wf = true :=
  performAll_wf _ _ h

theorem drainTo_wf (s : State) (sys : Bool) (gid : Nat) (h : s.mem.wf = true) : (drainTo s sys gid).mem.wf = true := by
  unfold drainTo
  split <;> exact drainWhere_wf _ _ h

/-- A write at the host's place follows those sent before it, and keeps the form. -/
theorem writeHost_wf (s : State) (a : Nat) (bs : List Byte) (h : s.mem.wf = true) : (writeHost s a bs).mem.wf = true :=
  host_wf _ _ _ (drainWhere_wf _ _ h)

theorem drainGroup_wf (s : State) (gid : Nat) (h : s.mem.wf = true) : (drainGroup s gid).mem.wf = true :=
  drainTo_wf s true gid h

theorem drainCore_wf (s : State) (c : Nat) (h : s.mem.wf = true) : (drainCore s c).mem.wf = true := drainWhere_wf _ _ h

theorem drainCores_wf (cs : List Nat) (s : State) (h : s.mem.wf = true) : (cs.foldl drainCore s).mem.wf = true := by
  induction cs generalizing s with
  | nil => exact h
  | cons c t ih => exact ih _ (drainCore_wf _ _ h)

theorem noteRelease_wf (s : State) (c pa : Nat) (h : s.mem.wf = true) : (noteRelease s c pa).mem.wf = true := by
  unfold noteRelease
  dsimp only
  split
  · exact h
  · split
    · exact h
    · exact drainCores_wf _ _ h

theorem promoteLine_wf (s : State) (c l : Nat) (h : s.mem.wf = true) : (promoteLine s c l).mem.wf = true :=
  drainCores_wf _ _ h

/-- A store of a thread keeps the form. -/
theorem storeLoc_wf (s : State) (w : Who) (rel : Bool) (l : Loc) (bs : List Byte) (h : s.mem.wf = true) :
    (storeLoc s w rel l bs).mem.wf = true := by
  unfold storeLoc
  dsimp only
  have h0 : (modGrp s w.gid fun g => endAhead g l bs.length).mem.wf = true := h
  generalize modGrp s w.gid (fun g => endAhead g l bs.length) = u at h0
  split
  · split
    · exact h0
    · simpa [fireScr_mem] using h0
  · split
    · split <;> exact (txClaim_wf u _ _).trans h0
    · have h1 := (storeL1_wf u w.core ‹_› bs).trans h0
      split
      · exact noteRelease_wf _ _ _ h1
      · exact h1
  · exact h0
  · exact h0

/-- A write that an engine or the part performs keeps the form. -/
theorem writeNow_wf (s : State) (die : Nat) (l : Loc) (bs : List Byte) (h : s.mem.wf = true) :
    (writeNow s die l bs).mem.wf = true := by
  unfold writeNow
  split
  · simpa [fireScr_mem] using h
  · simp only [fireHbm_mem, l2Write_wf]; exact writeHbm_wf _ _ _ h
  · exact writeHost_wf _ _ _ h
  · exact h

theorem releaseAt_wf (s : State) (w : Who) (lvl : Nat) (h : s.mem.wf = true) : (releaseAt s w lvl).mem.wf = true := by
  unfold releaseAt; split
  · exact drainGroup_wf _ _ h
  · split
    · exact drainTo_wf _ _ _ h
    · exact h

theorem acquireAt_wf (s : State) (w : Who) (lvl : Nat) : (acquireAt s w lvl).mem.wf = s.mem.wf := by
  unfold acquireAt
  dsimp only
  split <;> split <;> rfl

/-- Opening or joining a fault record posts at most one event. -/
theorem openFaultAs_wf (wr : Bool) (s : State) (pool asid va kind cause : Nat) (ha : Bool) (core : Nat) (a : Agent)
    (h : s.mem.wf = true) : (openFaultAs wr s pool asid va kind cause ha core a).mem.wf = true := by
  unfold openFaultAs
  dsimp only
  split
  · exact h
  · exact postEvent_wf _ _ _ _ h

theorem openFault_wf (s : State) (pool asid va kind cause : Nat) (ha : Bool) (core : Nat) (a : Agent)
    (h : s.mem.wf = true) : (openFault s pool asid va kind cause ha core a).mem.wf = true :=
  openFaultAs_wf _ _ _ _ _ _ _ _ _ _ h

theorem storeVa_wf (s : State) (die asid va : Nat) (b : Byte) (h : s.mem.wf = true) :
    (storeVa s die asid va b).mem.wf = true := by
  unfold storeVa
  split
  · exact h
  · dsimp only
    split
    · exact writeHost_wf _ _ _ h
    · split
      · exact h
      · simp only [fireHbm_mem]; exact writeHbm_wf _ _ _ h

theorem storeVas_wf (s : State) (die asid va : Nat) (bs : List Byte) (h : s.mem.wf = true) :
    (storeVas s die asid va bs).mem.wf = true := by
  induction bs generalizing s va with
  | nil => exact h
  | cons b t ih => exact ih _ _ (storeVa_wf _ _ _ _ _ h)

/-- The slots of a stack that go to memory keep the form. -/
theorem spillSlots_wf (s : State) (w : Who) (g : Group) (st : List Entry) (lo n : Nat) (h : s.mem.wf = true) :
    (spillSlots s w g st lo n).mem.wf = true := by
  unfold spillSlots
  generalize List.range n = ks
  induction ks generalizing s with
  | nil => exact h
  | cons k t ih =>
    rw [List.foldl_cons]
    exact ih _ (storeVas_wf _ _ _ _ _ h)

theorem deliverAt_wf (s : State) (gid : Nat) (g : Group) (t : TrapReq) (h : s.mem.wf = true) :
    (deliverAt s gid g t).mem.wf = true := by
  unfold deliverAt
  dsimp only
  split
  · exact spillSlots_wf _ _ _ _ _ _ h
  · split
    · exact h
    · exact openFaultAs_wf _ _ _ _ _ _ _ _ _ _ h

theorem undelivered_wf (s : State) (gid : Nat) (g : Group) (t : TrapReq) (h : s.mem.wf = true) :
    (undelivered s gid g t).mem.wf = true := by
  unfold undelivered haltWith
  split
  · exact h
  · exact postHalt_wf _ _ _ _ _ _ _ _ h

/-- An abort in place of a trap writes no memory. -/
theorem orAbort_wf (s : State) (gid : Nat) (g : Group) (f : State) (h : s.mem.wf = true) (hf : f.mem.wf = true) :
    (orAbort s gid g f).mem.wf = true := by
  unfold orAbort
  dsimp only
  split
  · rw [markAbort_wf]; exact h
  · exact hf

theorem firmwareTrap_wf (s : State) (gid : Nat) (g : Group) (t : TrapReq) (h : s.mem.wf = true) :
    (firmwareTrap s gid g t).mem.wf = true := by
  refine orAbort_wf _ _ _ _ h ?_
  unfold haltWith
  split
  · exact h
  · exact postHalt_wf _ _ _ _ _ _ _ _ h

/-- Taking a trap writes at most the slots that the stack spills and the event of 11 R252. -/
theorem takeTrap_wf (s : State) (gid : Nat) (g : Group) (t : TrapReq) (h : s.mem.wf = true) :
    (takeTrap s gid g t).mem.wf = true := by
  refine orAbort_wf _ _ _ _ h ?_
  split
  · exact deliverAt_wf _ _ _ _ h
  · exact undelivered_wf _ _ _ _ h

theorem placeBytes_wf (s : State) (pa : Nat) (bs : List Byte) (h : s.mem.wf = true) :
    (placeBytes s pa bs).mem.wf = true := writeHbm_wf _ _ _ h

/-- The host's accesses through BAR2 keep the form. -/
theorem hostWriteHbm_wf (s : State) (pa : Nat) (d : List Byte) (h : s.mem.wf = true) :
    (hostWriteHbm s pa d).mem.wf = true := by
  unfold hostWriteHbm
  dsimp only
  have h0 : (setMem (dropFront s (linesOf pa d.length)) (writeHbm s.mem pa d)).mem.wf = true := writeHbm_wf _ _ _ h
  generalize setMem (dropFront s (linesOf pa d.length)) (writeHbm s.mem pa d) = u at h0
  generalize linesOf pa d.length = ks
  induction ks generalizing u with
  | nil => exact h0
  | cons k t ih => exact ih _ (by rw [fireLine_mem]; exact h0)

theorem mgmtDone_wf (s : State) (src : Src) (st r : Nat) (h : s.mem.wf = true) :
    (mgmtDone s src st r).mem.wf = true := by
  unfold mgmtDone
  split
  · exact post_wf _ _ _ h
  · exact h

/-- The copy of a load window keeps the form. -/
theorem windowCopy_wf (s : State) (w : LoadWin) (h : s.mem.wf = true) : (windowCopy s w).mem.wf = true := by
  unfold windowCopy
  split
  · exact mgmtDone_wf _ _ _ _ h
  dsimp only [setPart, setMem]
  rw [Mem.wf_iff] at h ⊢
  refine ⟨h.1, h.2.1, ?_⟩
  have h3 := h.2.2
  revert h3
  generalize s.mem.ws = m
  generalize (List.range s.part.dies.length).filter _ = ds
  intro h3
  induction ds generalizing m with
  | nil => exact h3
  | cons d t ih => exact ih _ (writeCells_wf _ _ _ h3)

/-- A filter keeps the form. -/
theorem moveFrame_wf (m : List Host.Cell) (old new : Nat) (h : kwf 0 m = true) : kwf 0 (moveFrame m old new) = true := by
  unfold moveFrame
  dsimp only
  have h0 := kwf_filter 0 m (fun c => !(c.1 / 2 ^ 21 == old) && !(c.1 / 2 ^ 21 == new)) h
  generalize m.filter (fun c => !(c.1 / 2 ^ 21 == old) && !(c.1 / 2 ^ 21 == new)) = r at h0
  generalize m.filter (fun c => c.1 / 2 ^ 21 == old) = cs
  induction cs generalizing r with
  | nil => exact h0
  | cons c t ih => exact ih _ (kwf_kput 0 _ _ _ h0)

end Sys2Proof.Machine
end

