-- ==== Sys2Proof/Laws/Trap.lean ====
section
/-! SUPPORT. What taking a trap can do (11 R232 to R239), said once. -/

namespace Sys2Proof.Machine

/-- A stack that stays in the core spills nothing (03 R66). -/
theorem spillOut_core (s : State) (w : Who) (g : Group) (a : Nat) (st : List Entry) (h : slotsOf st ≤ 32) :
    spillOut s w g a st = s := by
  have : slotsOf st - 32 - (a - 32) = 0 := by omega
  simp [spillOut, spillSlots, this]

/-- A stack that stays in the core needs no translation (03 R66). -/
theorem spillFault_core (s : State) (w : Who) (g : Group) (a b : Nat) (ha : a ≤ 32) (hb : b ≤ 32) :
    spillFault s w g a b = none := by
  have : max a b - 32 - (min a b - 32) = 0 := by omega
  simp [spillFault, this]

/-- A group that can take a trap enters its handler, the slots that its stack pushes out written to the spill area. -/
theorem takeTrap_deliver (s : State) (gid : Nat) (g : Group) (t : TrapReq) (h : CanDeliver s gid g) :
    takeTrap s gid g t
      = spillOut (setGrp s gid (deliver g t)) (who s gid g) g (slotsOf g.stack) (deliver g t).stack := by
  unfold takeTrap orAbort
  have ha : (((kfind s.run.items g.item).getD Item.fresh).txOpen
      && decide (((kfind s.run.items g.item).getD Item.fresh).rung ≤ 2)) = false := by
    cases hx : ((kfind s.run.items g.item).getD Item.fresh).txOpen with
    | false => rfl
    | true => have := h.closed hx; simp; omega
  have hb : (!(g.trapvec == 0) && decide (slotsOf g.stack + 2
      ≤ stackMax ((kfind s.run.launches g.launch).getD Launch.fresh).img)) = true := by
    simp [h.handler, h.room]
  dsimp only
  rw [ha, if_neg Bool.false_ne_true, if_pos hb]
  unfold deliverAt
  dsimp only
  rw [h.spill]

/-- Where the stack stays in the core, delivery touches nothing but the group. -/
theorem takeTrap_core (s : State) (gid : Nat) (g : Group) (t : TrapReq) (h : CanDeliver s gid g)
    (hs : slotsOf g.stack + 2 ≤ 32) : takeTrap s gid g t = setGrp s gid (deliver g t) := by
  rw [takeTrap_deliver s gid g t h, spillOut_core]
  simp only [deliver, slotsOf] at *
  omega

/-- A trap inside an open transaction at rung 0 to 2 ends the attempt and writes no byte. -/
theorem takeTrap_abort (s : State) (gid : Nat) (g : Group) (t : TrapReq)
    (h1 : ((kfind s.run.items g.item).getD Item.fresh).txOpen = true)
    (h2 : ((kfind s.run.items g.item).getD Item.fresh).rung ≤ 2) :
    takeTrap s gid g t = markAbort (setGrp s gid { g with hints := Hints.none, wait := some .other }) g.item
      ⟨3, false, true, true⟩ := by
  unfold takeTrap orAbort; simp [h1, h2]

/-- What delivery leaves in the group. -/
theorem deliver_pc (g : Group) (t : TrapReq) : (deliver g t).pc = g.trapvec := rfl
theorem deliver_active (g : Group) (t : TrapReq) : (deliver g t).active = t.lanes := rfl
theorem deliver_stack (g : Group) (t : TrapReq) : (deliver g t).stack = .trap (trapEntryOf g t) :: g.stack := rfl
theorem deliver_cause (g : Group) (t : TrapReq) : (deliver g t).trapcause = t.cause := rfl
theorem deliver_info (g : Group) (t : TrapReq) : (deliver g t).trapinfo = t.info := rfl
theorem deliver_trappc (g : Group) (t : TrapReq) : (deliver g t).trappc = t.pc := rfl
theorem deliver_v (g : Group) (t : TrapReq) : (deliver g t).v = g.v := rfl
theorem deliver_s (g : Group) (t : TrapReq) : (deliver g t).s = g.s := rfl
theorem deliver_p (g : Group) (t : TrapReq) : (deliver g t).p = g.p := rfl

/-- A return pops its entry: the lanes and SIG saved there, the address given. -/
theorem popTrap_pc (g : Group) (e : TrapEntry) (st : List Entry) (pc : Nat) : (popTrap g e st pc).pc = pc := by
  unfold popTrap reloadTrap; dsimp only; split <;> rfl
theorem popTrap_active (g : Group) (e : TrapEntry) (st : List Entry) (pc : Nat) :
    (popTrap g e st pc).active = e.active &&& ~~~g.exited := by
  unfold popTrap reloadTrap; dsimp only; split <;> rfl
theorem popTrap_stack (g : Group) (e : TrapEntry) (st : List Entry) (pc : Nat) : (popTrap g e st pc).stack = st := by
  unfold popTrap reloadTrap; dsimp only; split <;> rfl
theorem popTrap_sig (g : Group) (e : TrapEntry) (st : List Entry) (pc : Nat) : (popTrap g e st pc).sig = e.sig := by
  unfold popTrap reloadTrap; dsimp only; split <;> rfl

end Sys2Proof.Machine
end

