-- ==== Sys2Proof/Tests/Slice0.lean ====
section
/-! SUPPORT. Tests of the model, each a named theorem: well-formedness, decoding of words written from the encodings of
14 R294 to R297 and of the examples of the instruction reference, single steps, and a state that meets the hypotheses
of each statement. -/

namespace Sys2Proof.Tests

open Sys2Proof Sys2Proof.Machine

set_option Elab.async false

/-! ### Well-formedness: one refused term for each check (14 R298) -/

theorem test_wellformed_refuses_width_7 : wellFormed (.ld ⟨1, 2, 3, 7, false, 0⟩) = false := by decide
theorem test_wellformed_refuses_width_7_uniform_store : wellFormed (.stUniform ⟨1, 2, 7, 0⟩) = false := by decide
theorem test_wellformed_refuses_order_width_2 : wellFormed (.lda ⟨1, 2, 2, 0, 0, false⟩) = false := by decide
theorem test_wellformed_refuses_combine_3 : wellFormed (.icmp ⟨0, 0, 0, 0, 3, false, false, false⟩) = false := by decide
theorem test_wellformed_refuses_cache_level_3 : wellFormed (.cmntInv ⟨3, 0, 0, 0⟩) = false := by decide
theorem test_wellformed_refuses_pipe_5 : wellFormed (.hsched ⟨0, 5, false, 0⟩) = false := by decide
theorem test_wellformed_refuses_five_ranges :
    wellFormed (.live ⟨none, none, none, none, 0, List.replicate 5 (0, 0)⟩) = false := by decide

/-! ### Decoding: one word for each encoded row of the opcode table, its fields placed as 14 R294 to R297 place them -/

/-- Every word decodes to the instruction beside it. -/
def readsAs (l : List (Nat × Instr)) : Bool := l.all fun p => decodeTableWord 32 p.1 == some p.2

/-! ### States for the witnesses -/

/-- One group of 64 lanes in slot 0 of core 0, running at address 0, its ASID's tables in memory. -/
def base : State := placeTables (placeGroup State.reset)

/-- The same with the group changed. -/
def baseG (f : Group → Group) : State := modGrp base 0 f
/-- The launch changed. -/
def onLaunch (f : Launch → Launch) (s : State) : State :=
  { s with run := { s.run with launches := s.run.launches.map fun e => (e.1, f e.2) } }
def onItem (f : Item → Item) (s : State) : State :=
  { s with run := { s.run with items := s.run.items.map fun e => (e.1, f e.2) } }

/-- A vector register with a value in every lane, and an s-register with a value. -/
def putV (x : Nat) (f : Nat → W32) (g : Group) : Group := { g with v := kins g.v x (mkLanes f) }
def putS (x : Nat) (v : W64) (g : Group) : Group := { g with s := kins g.s x v }
def putP (x : Nat) (m : Mask) (g : Group) : Group := { g with p := kins g.p x m }

/-- The form issues in the state, and the group satisfies a test. -/
def issuesB (F : Form) (s : State) (q : Group → Bool) : Bool :=
  match grp s s.ctl.cur with
  | none => false
  | some g =>
    decide (g.stat = .run) && (heldBack s s.ctl.cur g (F.regs g)).isNone
      && (frontCheck g F.pol (wordOf F.i) (F.dst g)).isNone && (F.pol != .once || execLanes g F.pol != 0)
      && (!g.trapen || (deadRead g (F.regs g).reads).isNone)
      && (match rename g (who s s.ctl.cur g).l (F.regs g) with
        | .ok _ => true
        | .error _ => false) && q g

theorem issues_of {F : Form} {s : State} {P : Group → Prop} [DecidablePred P]
    (h : issuesB F s (fun g => decide (P g)) = true) : ∃ g g1, F.Issues s g g1 ∧ P g := by
  unfold issuesB at h
  split at h
  · simp at h
  · rename_i g hg
    simp only [Bool.and_eq_true, decide_eq_true_eq, Option.isNone_iff_eq_none] at h
    obtain ⟨⟨⟨⟨⟨⟨h1, h2⟩, h3⟩, h4⟩, h5⟩, h6⟩, h7⟩ := h
    split at h6
    · rename_i g1 hr
      refine ⟨g, g1, ⟨hg, h1, h2, h3, ?_, ?_, hr⟩, h7⟩
      · intro hp
        simpa [hp] using h4
      · cases ht : g.trapen <;> simp_all
    · simp at h6

/-- An outcome is a next state that passes a test. -/
def nextB (o : Host.Outcome State Fault Refusal) (q : State → Bool) : Bool :=
  match o with
  | .next t => q t
  | .fault _ => false
  | .refused _ => false

theorem next_of {o : Host.Outcome State Fault Refusal} {P : State → Prop} [DecidablePred P]
    (h : nextB o (fun t => decide (P t)) = true) : ∃ t, o = .next t ∧ P t := by
  cases o with
  | next t => exact ⟨t, rfl, by simpa [nextB] using h⟩
  | fault f => simp [nextB] at h
  | refused r => simp [nextB] at h

/-- A test of the current group. -/
def grpB (s : State) (k : Nat) (q : Group → Bool) : Bool :=
  match grp s k with
  | some g => q g
  | none => false

theorem grp_of {s : State} {k : Nat} {P : Group → Prop} [DecidablePred P]
    (h : grpB s k (fun g => decide (P g)) = true) : ∃ g, grp s k = some g ∧ P g := by
  unfold grpB at h
  split at h
  · rename_i g hg
    exact ⟨g, hg, by simpa using h⟩
  · simp at h

/-- The conditions of CanDeliver, as a test. -/
abbrev Deliverable (s : State) (g : Group) : Prop :=
  g.trapvec ≠ 0 ∧ slotsOf g.stack + 2 ≤ stackMax ((kfind s.run.launches g.launch).getD Launch.fresh).img
  ∧ spillFault s (who s s.ctl.cur g) g (slotsOf g.stack) (slotsOf g.stack + 2) = none
  ∧ (((kfind s.run.items g.item).getD Item.fresh).txOpen = true →
      2 < ((kfind s.run.items g.item).getD Item.fresh).rung)

theorem deliverable_iff (s : State) (g : Group) : Deliverable s g ↔ CanDeliver s s.ctl.cur g :=
  ⟨fun h => ⟨h.1, h.2.1, h.2.2.1, h.2.2.2⟩, fun h => ⟨h.handler, h.room, h.spill, h.closed⟩⟩

/-- A result that is the given value. -/
def okB {ε α : Type} [DecidableEq α] (x : Except ε α) (v : α) : Bool :=
  match x with
  | .ok a => decide (a = v)
  | .error _ => false

theorem ok_of {ε α : Type} [DecidableEq α] {x : Except ε α} {v : α} (h : okB x v = true) : x = .ok v := by
  unfold okB at h
  split at h
  · rw [of_decide_eq_true h]
  · simp at h

theorem test_decode_table_1 :
    readsAs [
      (0x07ABEC02, .iadd ⟨58, 47, 44, false, true, false⟩), (0x07856509, .isub ⟨56, 21, 37, false, false, true⟩),
      (0x05B14713, .imul ⟨27, 5, 7, false, true, true⟩), (0x07D99D1C, .imulh ⟨61, 38, 29, true, false, false⟩),
      (0x055A7B27, .imulhU ⟨21, 41, 59, true, true, true⟩), (0x046A622E, .imin ⟨6, 41, 34, true, true, false⟩),
      (0x04E95030, .iminU ⟨14, 37, 16, false, false, false⟩), (0x0463513F, .imax ⟨6, 13, 17, true, true, true⟩),
      (0x04BA0842, .imaxU ⟨11, 40, 8, false, true, false⟩), (0x077D8048, .iabs ⟨55, 54, false, false⟩),
      (0x04404055, .ineg ⟨4, 1, true, true⟩), (0x049B6A5E, .and ⟨9, 45, 42, true, true, false⟩),
      (0x07CA5264, .or ⟨60, 41, 18, true, false, false⟩), (0x05AF2E69, .xor ⟨26, 60, 46, false, false, true⟩)] = true := by decide +kernel

theorem test_decode_table_2 :
    readsAs [
      (0x0573C871, .andn ⟨23, 15, 8, false, false, true⟩), (0x04C30078, .not ⟨12, 12, false, false⟩),
      (0x073E5383, .shl ⟨51, 57, 19, false, true, true⟩), (0x07D7A288, .shr ⟨61, 30, 34, false, false, false⟩),
      (0x07D7A494, .sar ⟨61, 30, 36, true, false, false⟩), (0x065C079B, .rol ⟨37, 48, 7, false, true, true⟩),
      (0x06A180A4, .clz ⟨42, 6, true, false⟩), (0x073080A8, .popc ⟨51, 2, false, false⟩),
      (0x061840B0, .brev ⟨33, 33, false, false⟩), (0x042F00B9, .mov ⟨2, 60, false, true⟩),
      (0x07825BC5, .iaddc ⟨56, 9, 27, true, false, true⟩), (0x08738F60, .iaddi ⟨7, 14, 492, false, false⟩),
      (0x0C75080C, .andi ⟨7, 20, 257, true, false⟩), (0x12A19CBC, .ori ⟨42, 6, 919, true, false⟩)] = true := by decide +kernel

theorem test_decode_table_3 :
    readsAs [
      (0x14C3741D, .xori ⟨12, 13, 1667, true, true⟩), (0x1BDDC024, .shli ⟨61, 55, 4, true, false⟩),
      (0x198A0150, .shri ⟨24, 40, 10, false, false⟩), (0x18148215, .sari ⟨1, 18, 2, true, true⟩),
      (0x1F0F84D9, .movi ⟨48, 127131, true⟩), (0x21AFF604, .imad ⟨26, 63, 54, true, false, false⟩),
      (0x26C3BE82, .icmp ⟨5, 4, 14, 62, 2, false, true, false⟩),
      (0x28C49300, .bfeU ⟨12, 18, 19, false, false, false⟩), (0x28EC0E0D, .bfeS ⟨14, 48, 14, true, false, true⟩),
      (0x2B34DD11, .bfi ⟨51, 19, 29, false, false, true⟩), (0x2FADE426, .lea ⟨58, 55, 36, 4, true, true, false⟩),
      (0x334CBC86, .sel ⟨52, 50, 60, 4, false, true, true, false⟩),
      (0x43235307, .fadd ⟨50, 13, 19, true, true, true⟩), (0x40EA040C, .fsub ⟨14, 40, 4, true, false, false⟩)] = true := by decide +kernel

theorem test_decode_table_4 :
    readsAs [
      (0x430D5811, .fmul ⟨48, 53, 24, false, false, true⟩), (0x4108CA1C, .fmin ⟨16, 35, 10, true, false, false⟩),
      (0x42C61720, .fmax ⟨44, 24, 23, false, false, false⟩), (0x41C8802C, .fabs ⟨28, 34, true, false⟩),
      (0x43C68035, .fneg ⟨60, 26, true, true⟩), (0x4219C03C, .frndNe ⟨33, 39, true, false⟩),
      (0x42A80045, .frndZ ⟨42, 32, true, true⟩), (0x4302404C, .frndDn ⟨48, 9, true, false⟩),
      (0x42024055, .frndUp ⟨32, 9, true, true⟩), (0x43AA4058, .fclass ⟨58, 41, false, false⟩),
      (0x4304AA61, .fdiv ⟨48, 18, 42, false, false, true⟩), (0x45A3A306, .ffma ⟨26, 14, 35, true, true, false⟩),
      (0x4924B981, .fcmp ⟨2, 2, 18, 57, 2, false, false, true⟩), (0x4D240004, .frcp ⟨18, 16, true, false⟩)] = true := by decide +kernel

theorem test_decode_table_5 :
    readsAs [
      (0x4CA4400C, .frsq ⟨10, 17, true, false⟩), (0x4C950011, .fsqrt ⟨9, 20, false, true⟩),
      (0x4C384019, .fexp2 ⟨3, 33, false, true⟩), (0x4DF68020, .flog2 ⟨31, 26, false, false⟩),
      (0x4F5B802D, .fsin ⟨53, 46, true, true⟩), (0x4FCF8031, .fcos ⟨60, 62, false, true⟩),
      (0x4DDB003C, .ftanh ⟨29, 44, true, false⟩), (0x50C34001, .cvtS32F32 ⟨12, 13, false, true⟩),
      (0x5083400D, .cvtU32F32 ⟨8, 13, true, true⟩), (0x51E14014, .cvtF32S32 ⟨30, 5, true, false⟩),
      (0x53438019, .cvtF32U32 ⟨52, 14, false, true⟩), (0x53838025, .cvtBf16F32 ⟨56, 14, true, true⟩),
      (0x5377C029, .cvtF32Bf16 ⟨55, 31, false, true⟩), (0x52240031, .cvtF16F32 ⟨34, 16, false, true⟩)] = true := by decide +kernel

theorem test_decode_table_6 :
    readsAs [
      (0x5354C038, .cvtF32F16 ⟨53, 19, false, false⟩), (0x516D0044, .cvtE4m3F32 ⟨22, 52, true, false⟩),
      (0x51384048, .cvtF32E4m3 ⟨19, 33, false, false⟩), (0x50C9C050, .cvtE5m2F32 ⟨12, 39, false, false⟩),
      (0x5384805C, .cvtF32E5m2 ⟨56, 18, true, false⟩), (0x56336706, .badd2 ⟨35, 13, 39, true, true⟩),
      (0x55BF2E08, .bmul2 ⟨27, 60, 46, false, false⟩), (0x57633512, .bfma2 ⟨54, 12, 53, false, true⟩),
      (0x62E9E504, .padd2 ⟨46, 39, 37, true, false⟩), (0x610F9208, .padd2S ⟨16, 62, 18, false, false⟩),
      (0x60792D16, .psub2 ⟨7, 36, 45, true, true⟩), (0x616CD018, .psub2S ⟨22, 51, 16, false, false⟩),
      (0x61D1A122, .pmul2 ⟨29, 6, 33, false, true⟩), (0x602E912E, .pmac2 ⟨2, 58, 17, true, true⟩)] = true := by decide +kernel

theorem test_decode_table_7 :
    readsAs [
      (0x63C53F34, .srar ⟨60, 20, 63, true, false⟩), (0x62CE1838, .srarH ⟨44, 56, 24, false, false⟩),
      (0x665C3200, .shfl ⟨37, 48, 50, false, false⟩), (0x64FA450E, .slup ⟨15, 41, 5, true, true⟩),
      (0x6760C112, .sldn ⟨54, 3, 1, false, true⟩), (0x663F051C, .cmprs ⟨35, 60, 5, true⟩),
      (0x6464C724, .expnd ⟨6, 19, 7, true⟩), (0x6461EB2A, .voteAll ⟨6, 7, 43, true⟩),
      (0x64305D30, .voteAny ⟨3, 1, 29, false⟩), (0x64A16938, .voteBal ⟨10, 5, 41, false⟩),
      (0x6700C044, .reduxAdd ⟨48, 3, true⟩), (0x64CAC048, .reduxMin ⟨12, 43, false⟩),
      (0x64C3C054, .reduxMax ⟨12, 15, true⟩), (0x64120058, .reduxAnd ⟨1, 8, false⟩)] = true := by decide +kernel

theorem test_decode_table_8 :
    readsAs [
      (0x67F3C064, .reduxOr ⟨63, 15, true⟩), (0x661A406C, .scanAdd ⟨33, 41, true⟩),
      (0x66B48074, .scanMax ⟨43, 18, true⟩), (0x6861C500, .pand ⟨6, 7, 5⟩), (0x68508308, .por ⟨5, 2, 3⟩),
      (0x68704110, .pxor ⟨7, 1, 1⟩), (0x68704018, .pnot ⟨7, 1⟩), (0x6A114020, .ptos ⟨33, 5⟩),
      (0x6857C028, .pset ⟨5, 31⟩), (0x78CD7F49, .ldUniform ⟨12, 53, 2, false, 9⟩),
      (0x7FFD7F63, .stUniform ⟨63, 53, 3, 3⟩), (0x80AE7FDD, .ld ⟨10, 57, 63, 6, true, 13⟩),
      (0x8472E474, .ldb ⟨7, 11, 36, 3, true, 4⟩), (0x8B8181A0, .lda ⟨56, 6, 0, 1, 10, false⟩)] = true := by decide +kernel

theorem test_decode_table_9 :
    readsAs [
      (0x8E1C7D65, .st ⟨33, 49, 61, 3, 5⟩), (0x918F85C0, .strl ⟨24, 62, 0, 5, 12, false⟩),
      (0x95D055DC, .ldw ⟨29, 1, 21, 6, true, 12⟩), (0x9807F58D, .pref ⟨31, 53, 4, 13⟩),
      (0x9C020C02, .cmntClean ⟨0, 2, 3, 2⟩), (0x9DB75007, .cmntInv ⟨2, 55, 20, 7⟩),
      (0x9E68EC05, .cmntCinv ⟨1, 40, 59, 5⟩), (0xA06D43F7, .atomAddB32 ⟨6, 53, 3, 15, 7⟩),
      (0xA38B851F, .atomAndB32 ⟨56, 46, 1, 1, 15⟩), (0xA1AC495C, .atomOrB32 ⟨26, 49, 1, 5, 12⟩),
      (0xA01FCF9A, .atomXorB32 ⟨1, 63, 3, 9, 10⟩), (0xA351531E, .atomMinB32 ⟨53, 5, 3, 1, 14⟩),
      (0xA15BD587, .atomMinUB32 ⟨21, 47, 1, 8, 7⟩), (0xA0759B1C, .atomMaxB32 ⟨7, 22, 3, 1, 12⟩)] = true := by decide +kernel

theorem test_decode_table_10 :
    readsAs [
      (0xA01B1DFA, .atomMaxUB32 ⟨1, 44, 1, 15, 10⟩), (0xA36AE31F, .atomExchB32 ⟨54, 43, 3, 1, 15⟩),
      (0xA283E646, .atomCasB32 ⟨40, 15, 2, 4, 6⟩), (0xA18929C9, .atomFaddB32 ⟨24, 36, 1, 12, 9⟩),
      (0xA7520324, .atomAddB64 ⟨53, 8, 3, 2, 4⟩), (0xA76D46A8, .atomAndB64 ⟨54, 53, 2, 10, 8⟩),
      (0xA7678A1F, .atomOrB64 ⟨54, 30, 2, 1, 15⟩), (0xA43D0F82, .atomXorB64 ⟨3, 52, 3, 8, 2⟩),
      (0xA4CE91A9, .atomMinB64 ⟨12, 58, 1, 10, 9⟩), (0xA68397AD, .atomMinUB64 ⟨40, 14, 3, 10, 13⟩),
      (0xA67F5B44, .atomMaxB64 ⟨39, 61, 3, 4, 4⟩), (0xA504DD3F, .atomMaxUB64 ⟨16, 19, 1, 3, 15⟩),
      (0xA57FA3EC, .atomExchB64 ⟨23, 62, 3, 14, 12⟩), (0xA6FEA78F, .atomCasB64 ⟨47, 58, 3, 8, 15⟩)] = true := by decide +kernel

theorem test_decode_table_11 :
    readsAs [
      (0xAAF54281, .atomnAddB32 ⟨47, 21, 2, 8, 1⟩), (0xABB50726, .atomnAndB32 ⟨59, 20, 3, 2, 6⟩),
      (0xAB034ADE, .atomnOrB32 ⟨48, 13, 2, 13, 14⟩), (0xA8A9CFCE, .atomnXorB32 ⟨10, 39, 3, 12, 14⟩),
      (0xAB795393, .atomnMinB32 ⟨55, 37, 3, 9, 3⟩), (0xA84E1553, .atomnMinUB32 ⟨4, 56, 1, 5, 3⟩),
      (0xAA20DB1B, .atomnMaxB32 ⟨34, 3, 3, 1, 11⟩), (0xAB11DD28, .atomnMaxUB32 ⟨49, 7, 1, 2, 8⟩),
      (0xA9EF6354, .atomnExchB32 ⟨30, 61, 3, 5, 4⟩), (0xABA12645, .atomnCasB32 ⟨58, 4, 2, 4, 5⟩),
      (0xAB4FEA54, .atomnFaddB32 ⟨52, 63, 2, 5, 4⟩), (0xAD7802B2, .atomnAddB64 ⟨23, 32, 2, 11, 2⟩),
      (0xAFBE854F, .atomnAndB64 ⟨59, 58, 1, 4, 15⟩), (0xACEF8B88, .atomnOrB64 ⟨14, 62, 3, 8, 8⟩)] = true := by decide +kernel

theorem test_decode_table_12 :
    readsAs [
      (0xAF6A8E38, .atomnXorB64 ⟨54, 42, 2, 3, 8⟩), (0xAEB8D221, .atomnMinB64 ⟨43, 35, 2, 2, 1⟩),
      (0xAF12964A, .atomnMinUB64 ⟨49, 10, 2, 4, 10⟩), (0xAE6C1B18, .atomnMaxB64 ⟨38, 48, 3, 1, 8⟩),
      (0xAEE45D29, .atomnMaxUB64 ⟨46, 17, 1, 2, 9⟩), (0xADE0E12B, .atomnExchB64 ⟨30, 3, 1, 2, 11⟩),
      (0xAF3FE53F, .atomnCasB64 ⟨51, 63, 1, 3, 15⟩), (0xB1F00000, .fence ⟨1, 15⟩), (0xB4780000, .monarm ⟨15⟩),
      (0xB6CC4000, .monwait ⟨25, 34⟩), (0xC192C776, .tmma ⟨1, 18, 22, 7, 3, true, 6⟩), (0xC420000C, .tzero ⟨1, 12⟩),
      (0xC4BD6C01, .trd ⟨1, 29, 27, 1⟩), (0xC55FA809, .twr ⟨2, 31, 42, 9⟩)] = true := by decide +kernel

theorem test_decode_table_13 :
    readsAs [
      (0xC580A00C, .tbatch ⟨40, 12⟩), (0xC6000019, .twait ⟨1, 9⟩), (0xC6AC7567, .tdrain ⟨1, 12, 29, 22, 7⟩),
      (0xC6DC6062, .tdrainAdd ⟨2, 12, 24, 6, 2⟩), (0xC8A00000, .txbegin ⟨40⟩), (0xC9000000, .txend),
      (0xCA000000, .txabort), (0xCDA7CC53, .rlystart ⟨26, 31, 12, 5, 3⟩), (0xD05FFEC3, .cpy ⟨5, 63, 62, 12, 3⟩),
      (0xD4327042, .chain ⟨3, 9, 48, 4, 2⟩), (0xDA6F4242, .rly ⟨38, 61, 2, 4, 2⟩), (0xDC548600, .cpywait ⟨21638⟩),
      (0xDD3D560C, .rlywait ⟨15702, 3⟩), (0xE2BAE6CD, .bra ⟨true, 2, 3860173⟩)] = true := by decide +kernel

theorem test_decode_table_14 :
    readsAs [
      (0xE5B60798, .bdiv ⟨false, 6, 1728, 1944⟩), (0xE99385C0, .call ⟨26445248⟩), (0xEC000000, .rcv),
      (0xEC238000, .ret ⟨7⟩), (0xEC4F0000, .brx ⟨30⟩), (0xEC688000, .callx ⟨17⟩), (0xEC800000, .exit),
      (0xECA00000, .nop), (0xECC00000, .yield), (0xF34D54F2, .loop ⟨52, 873714⟩), (0xF4F92000, .bar ⟨15, 18, 2⟩),
      (0xF5E10000, .bara ⟨14, 2⟩), (0xF6669000, .barw ⟨6, 13, 1⟩), (0xF7700000, .heat ⟨7⟩)] = true := by decide +kernel

theorem test_decode_table_15 :
    readsAs [
      (0xF83ADA00, .srd ⟨29, 1744⟩), (0xF8B71940, .swr ⟨27, 2250⟩), (0xF90FE800, .trap ⟨509⟩),
      (0xF9800000, .tretRetry), (0xF9A00000, .tretNext), (0xF9C00000, .tretFix), (0xFA780000, .clk ⟨60⟩),
      (0xFAD0E3A3, .sigchk ⟨5301155⟩), (0xFCD067DA, .himm ⟨13658074⟩), (0xFD00BD43, .hsched ⟨189, 4, false, 3⟩),
      (0xFE000010, .hmodCache ⟨1⟩), (0xFE000031, .hmodRound ⟨3⟩), (0xFE000002, .hmodQueue ⟨false, false, false⟩),
      (0xFE39DDE3, .hmodCount ⟨57, 3550⟩)] = true := by decide +kernel

theorem test_decode_table_16 :
    readsAs [
      (0xFE000094, .hmodScope ⟨9⟩)] = true := by decide +kernel
/-! ### Words that the spec writes out (03 R62, 14 R301, the examples of 15 to 18) -/

theorem test_words_arithmetic : readsAs [
    (0x04304204, .iadd ⟨3, 1, 2, true, false, false⟩), (0x0C100008, .andi ⟨1, 0, 1, false, false⟩),
    (0x08517FC1, .iaddi ⟨5, 5, 0x7F8, false, true⟩), (0x04304280, .shl ⟨3, 1, 2, false, false, false⟩),
    (0x18204220, .sari ⟨2, 1, 4, false, false⟩), (0x24907F00, .icmp ⟨1, 1, 1, 63, 0, false, false, false⟩),
    (0x24610581, .icmp ⟨0, 6, 4, 5, 2, false, false, true⟩), (0x1C200010, .movi ⟨2, 2, false⟩),
    (0x044040B8, .mov ⟨4, 1, false, false⟩), (0x10104400, .ori ⟨1, 1, 0x80, false, false⟩),
    (0x14208008, .xori ⟨2, 2, 1, false, false⟩), (0x30404260, .sel ⟨4, 1, 2, 3, false, false, false, false⟩),
    (0xFC000024, .himm ⟨0x24⟩), (0x0C101A28, .andi ⟨1, 0, 0x345, false, false⟩)] = true := by decide +kernel

theorem test_words_floating_and_packed : readsAs [
    (0x40404200, .fadd ⟨4, 1, 2, false, false, false⟩), (0x44404200, .ffma ⟨4, 1, 2, false, false, false⟩),
    (0x49204240, .fcmp ⟨2, 2, 1, 2, 1, false, false, false⟩), (0x4C308010, .fsqrt ⟨3, 2, false, false⟩),
    (0x50508000, .cvtS32F32 ⟨5, 2, false, false⟩), (0x60608308, .padd2S ⟨6, 2, 3, false, false⟩),
    (0x60808328, .pmac2 ⟨8, 2, 3, false, false⟩), (0x60510630, .srar ⟨5, 4, 6, false, false⟩),
    (0x64508040, .reduxAdd ⟨5, 2, false⟩), (0x64508068, .scanAdd ⟨5, 2, false⟩),
    (0x6440C110, .sldn ⟨4, 3, 1, false, false⟩), (0x64504238, .voteBal ⟨5, 1, 2, false⟩),
    (0x68108300, .pand ⟨1, 2, 3⟩)] = true := by decide +kernel

theorem test_words_memory : readsAs [
    (0x80310560, .ld ⟨3, 4, 5, 3, false, 0⟩), (0x78613FA0, .ldUniform ⟨6, 4, 5, false, 0⟩),
    (0x88208400, .lda ⟨2, 2, 0, 4, 0, false⟩), (0x8C107F80, .st ⟨1, 1, 63, 4, 0⟩),
    (0x7C613FA0, .stUniform ⟨6, 4, 5, 0⟩), (0x9D441400, .cmntInv ⟨1, 4, 5, 0⟩),
    (0xA0408140, .atomAddB32 ⟨4, 2, 1, 4, 0⟩), (0xB4200000, .monarm ⟨4⟩), (0xB628C000, .monwait ⟨5, 6⟩)] = true := by
  decide +kernel

theorem test_words_control : readsAs [
    (0xE4401804, .bdiv ⟨false, 1, 3, 4⟩), (0xE1C00002, .bra ⟨false, 7, 2⟩), (0xEC420000, .brx ⟨4⟩),
    (0xEC800000, .exit), (0xF4313000, .bar ⟨3, 2, 3⟩), (0xF7300000, .heat ⟨3⟩), (0xFA100000, .clk ⟨8⟩),
    (0xF80A0C40, .srd ⟨5, 0x62⟩), (0xF8860800, .swr ⟨3, 0x40⟩), (0xFA80000F, .sigchk ⟨0xF⟩),
    (0xF9091800, .trap ⟨0x123⟩), (0xF97FF800, .trap ⟨0xFFF⟩)] = true := by decide +kernel

theorem test_words_matrix_and_engines : readsAs [
    (0xC1390440, .tmma ⟨1, 7, 8, 4, 2, false, 0⟩), (0xC4822000, .trd ⟨0, 2, 8, 0⟩), (0xC4200000, .tzero ⟨1, 0⟩),
    (0xC5802800, .tbatch ⟨10, 0⟩), (0xC60000A0, .twait ⟨10, 0⟩), (0xC6D51840, .tdrainAdd ⟨2, 5, 6, 4, 0⟩),
    (0xC81C0000, .txbegin ⟨7⟩), (0xD8414620, .rly ⟨4, 5, 6, 2, 0⟩), (0xCC424630, .rlystart ⟨4, 9, 6, 3, 0⟩),
    (0xDD000324, .rlywait ⟨3, 9⟩)] = true := by decide +kernel



/-- Bit by bit (14 R294): MAJ 000001, D 000011, A 000001, B 000010, FN 00000, KA 1, KB 0, U 0. -/
theorem test_decode_bits_iadd : decodeTableWord 32 0b00000100001100000100001000000100
    = some (.iadd ⟨3, 1, 2, true, false, false⟩) := by decide +kernel

theorem test_decode_live : decodeWords [0xFF00000B, 0x0000000F, 0x00000100, 0x50000000]
    = .ok (.live ⟨some 0x0000000F, some 0x00000100, none, some 0x50000000, 0, []⟩, []) := ok_of (by decide +kernel)

theorem test_decode_live_range : decodeWords [0xFF000115, 0x000003FF, 0x0000003F, 0x001FF000]
    = .ok (.live ⟨some 0x3FF, none, some 0x3F, none, 1, [(0, 0x1FF)]⟩, []) := ok_of (by decide +kernel)

theorem test_word_reserved_refused : decodeTableWord 32 0 = none ∧ decodeTableWord 32 0x44404208 = none
    ∧ decodeTableWord 32 0x50508100 = none ∧ decodeTableWord 32 0x803105E0 = none := by decide +kernel

/-! ### The machine -/

def nopAgenda : State := State.reset.withFetchWord 32 0xECA00000
def nopSelf : State := { nopAgenda with ctl := { nopAgenda.ctl with agenda := [] } }

theorem witness_StepRunsDecodedInstruction_agenda : ∃ g, grp nopAgenda 0 = some g ∧ g.stat = .run
    ∧ issueStopped nopAgenda = false ∧ decodeWords [0xECA00000] = .ok (.nop, []) ∧ nopAgenda.ctl.agenda = [.issue 0]
    ∧ fetchWords (setCur nopSelf 0) (who (setCur nopSelf 0) 0 g) 1 g.pc = .ok [0xECA00000] ∧ g.trapDue = none := by
  obtain ⟨g, h1, h2, h3, h4, h5, h6⟩ := grp_of (s := nopAgenda) (k := 0)
    (P := fun g => g.stat = .run ∧ issueStopped nopAgenda = false ∧ nopAgenda.ctl.agenda = [.issue 0]
      ∧ okB (fetchWords (setCur nopSelf 0) (who (setCur nopSelf 0) 0 g) 1 g.pc) [0xECA00000] = true
      ∧ g.trapDue = none) (by decide +kernel)
  exact ⟨g, h1, h2, h3, ok_of (by decide +kernel), h4, ok_of h5, h6⟩

/-- The same with a trap still due. -/
def dueS : State :=
  modGrp nopAgenda 0 fun g => { g with trapDue := some ⟨0x20, 5, 1, false, false, 192, 0, 0, 4⟩ }
theorem witness_StepRunsDecodedInstruction_due : ∃ g, grp dueS 0 = some g ∧ g.stat = .run ∧ issueStopped dueS = false
    ∧ g.trapDue.isSome = true ∧ dueS.ctl.agenda = [.issue 0] := grp_of (by decide +kernel)

theorem witness_StepRunsDecodedInstruction_self : ∃ g, grp nopSelf 0 = some g ∧ g.stat = .run
    ∧ issueStopped nopSelf = false ∧ nopSelf.ctl.agenda = [] ∧ (ownMove nopSelf).isNone = true
    ∧ issueOrder nopSelf = [0] ∧ outranked nopSelf 0 = false ∧ g.trapDue = none
    ∧ (∃ t, exec .nop (setCur nopSelf 0) = .next t ∧ moved nopSelf t = true
        ∧ moved nopSelf (endTurn 0 nopSelf.ctl.rr t) = true)
    ∧ okB (fetchWords (setCur nopSelf 0) (who (setCur nopSelf 0) 0 g) 1 g.pc) [0xECA00000] = true := by
  obtain ⟨g, h1, h2, h3, h4, h5, h6, h8, h9, h7⟩ := grp_of (s := nopSelf) (k := 0)
    (P := fun g => g.stat = .run ∧ issueStopped nopSelf = false ∧ nopSelf.ctl.agenda = [] ∧ (ownMove nopSelf).isNone = true
      ∧ issueOrder nopSelf = [0] ∧ outranked nopSelf 0 = false ∧ g.trapDue = none
      ∧ okB (fetchWords (setCur nopSelf 0) (who (setCur nopSelf 0) 0 g) 1 g.pc) [0xECA00000] = true) (by decide +kernel)
  exact ⟨g, h1, h2, h3, h4, h5, h6, h8, h9, next_of (by decide +kernel), h7⟩

theorem witness_DecodeEncodeRoundTrip : wellFormed (.live ⟨none, some 0xFFFFFFFF, none, none, 15,
    [(0xFFF, 0xFFF), (0, 0), (1, 2), (3, 4)]⟩) = true
    ∧ (encode (.live ⟨none, some 0xFFFFFFFF, none, none, 15, [(0xFFF, 0xFFF), (0, 0), (1, 2), (3, 4)]⟩)).isSome = true
    ∧ wellFormed (.iadd ⟨63, 63, 63, true, true, true⟩) = true
    ∧ encode (.iadd ⟨63, 63, 63, true, true, true⟩) = some [0x07FFFF07] := by decide +kernel

theorem witness_DecodedWordsAreEncodings : decodeWords [0x07FFFF07, 5] = .ok (.iadd ⟨63, 63, 63, true, true, true⟩, [5]) :=
  ok_of (by decide +kernel)

theorem witness_IllegalWords : ∃ g, grp base base.ctl.cur = some g ∧ g.stat = .run
    ∧ heldBack base base.ctl.cur g noRegs = none := grp_of (by decide +kernel)

theorem witness_HintsJoin : ∃ g, grp base base.ctl.cur = some g ∧ g.stat = .run
    ∧ heldBack base base.ctl.cur g noRegs = none
    ∧ hintJoins g.hints (.himm ⟨0xFFFFFF⟩) = some (some { g.hints with himm := some 0xFFFFFF }) := grp_of (by decide +kernel)

theorem witness_HintsRefuse : let s := baseG fun g => { g with hints := { g.hints with himm := some 0, first := some 0 } }
    ∃ g, grp s s.ctl.cur = some g ∧ g.stat = .run ∧ heldBack s s.ctl.cur g noRegs = none
      ∧ hintJoins g.hints (.himm ⟨1⟩) = some none := grp_of (by decide +kernel)

theorem witness_StepKeepsMemoriesCanonical : nopAgenda.mem.wf = true ∧ isNext (step nopAgenda) = true := by decide +kernel

/-! ### Issue and arithmetic -/

/-- IADD v3, v1^, v2, and the uniform form. -/
def tAdd : RRR := ⟨3, 1, 2, true, false, false⟩
def tAddU : RRR := ⟨3, 1, 2, true, false, true⟩
def tAddAlu : Alu := aluRRR tAdd false
def tAddUAlu : Alu := aluRRR tAddU false

/-- A running group with hints. -/
def baseH (h : Hints) : State := baseG fun g => { g with hints := { h with first := some 0 }, pc := 4 }

/-- Lanes 0 and 5 of p1. -/
def guardP1 : Hints := { Hints.none with hsched := some ⟨0, 0, false, 1⟩ }

def partP1 : State := baseG fun g => putP 1 0x21 { g with hints := { guardP1 with first := some 0 }, pc := 4 }

theorem witness_IssueChecksTrap_hints :
    let s := baseH { Hints.none with hmod := some (.round 3) }
    ∃ g, grp s s.ctl.cur = some g ∧ g.stat = .run
      ∧ heldBack s s.ctl.cur g (tAddAlu.regs g) = none ∧ hintsFit g.hints (wordOf (.iadd tAdd)) = false :=
  grp_of (by decide +kernel)

theorem witness_formOf (h : Hints) : formOf h (.iadd tAdd) = some (tAddAlu.form (.iadd tAdd))
    ∧ formOf h (.iadd tAddU) = some (tAddUAlu.form (.iadd tAddU)) := ⟨rfl, rfl⟩

theorem witness_IssueChecksTrap_uniformQueue :
    let s := baseH { Hints.none with hmod := some (.queue true false false) }
    ∃ g, grp s s.ctl.cur = some g ∧ g.stat = .run ∧ heldBack s s.ctl.cur g (tAddUAlu.regs g) = none
      ∧ hintsFit g.hints (wordOf (.iadd tAddU)) = true ∧ queueUniform g.hints (wordOf (.iadd tAddU)) = true :=
  grp_of (by decide +kernel)

theorem witness_IssueChecksTrap_diverge : ∃ g, grp partP1 partP1.ctl.cur = some g ∧ g.stat = .run
    ∧ heldBack partP1 partP1.ctl.cur g (tAddUAlu.regs g) = none
    ∧ hintsFit g.hints (wordOf (.iadd tAddU)) = true ∧ queueUniform g.hints (wordOf (.iadd tAddU)) = false
    ∧ (tAddUAlu.form (.iadd tAddU)).pol = .once ∧ g.replay = none ∧ execLanes g .once ≠ 0
    ∧ execLanes g .once ≠ g.active := grp_of (by decide +kernel)

theorem witness_IssueChecksTrap_skipped : let s := baseH guardP1
    ∃ g, grp s s.ctl.cur = some g ∧ g.stat = .run ∧ heldBack s s.ctl.cur g (tAddUAlu.regs g) = none
      ∧ hintsFit g.hints (wordOf (.iadd tAddU)) = true ∧ queueUniform g.hints (wordOf (.iadd tAddU)) = false
      ∧ g.replay = none ∧ execLanes g .once = 0 := grp_of (by decide +kernel)

/-- v1 killed. -/
def deadV1 : State := baseG fun g => { g with vkilled := [(1, true)], trapen := true }

theorem witness_IssueChecksTrap_deadRead : ∃ g, grp deadV1 deadV1.ctl.cur = some g ∧ g.stat = .run
    ∧ heldBack deadV1 deadV1.ctl.cur g (tAddAlu.regs g) = none
    ∧ frontCheck g .lanes (wordOf (.iadd tAdd)) (tAddAlu.dstOf g) = none ∧ execLanes g .lanes ≠ 0
    ∧ (tAddAlu.check ((tAddAlu.form (.iadd tAdd)).ctx deadV1 g)).isNone = true ∧ g.trapen = true
    ∧ deadRead g (tAddAlu.regs g).reads = some (false, 1) := grp_of (by decide +kernel)

/-- Forty-eight live v-registers, VFOOT 48, none of them v3; sixty-three live s-registers. -/
def fullV : State := baseG fun g => { g with vlive := (List.range 48).map fun k => (k + 4, true) }

theorem witness_IssueChecksTrap_footprint : ∃ g, grp fullV fullV.ctl.cur = some g ∧ g.stat = .run
    ∧ heldBack fullV fullV.ctl.cur g (tAddAlu.regs g) = none
    ∧ frontCheck g .lanes (wordOf (.iadd tAdd)) (tAddAlu.dstOf g) = none ∧ execLanes g .lanes ≠ 0
    ∧ (tAddAlu.check ((tAddAlu.form (.iadd tAdd)).ctx fullV g)).isNone = true ∧ g.trapen = false
    ∧ (match rename g (who fullV fullV.ctl.cur g).l (tAddAlu.regs g) with
      | .ok _ => false
      | .error n => n == 0x0101) = true := grp_of (by decide +kernel)

/-- An arithmetic instruction issues, and its own check passes. -/
abbrev AluWitness (i : Instr) (al : Alu) (op : LaneOp) (s : State) : Prop :=
  (∀ h, h = Hints.none → aluForm h i = some (al, op))
  ∧ ∃ g g1, (al.form i).Issues s g g1 ∧ g.hints = Hints.none ∧ al.check ((al.form i).ctx s g) = none

theorem witness_IntegerResults : AluWitness (.iadd tAdd) tAddAlu iaddOp base ∧ (intFn (.iadd tAdd)).isSome = true :=
  ⟨⟨fun _ _ => rfl, issues_of (by decide +kernel)⟩, rfl⟩
theorem witness_IntegerResults_uniform : AluWitness (.iadd tAddU) tAddUAlu iaddOp base :=
  ⟨fun _ _ => rfl, issues_of (by decide +kernel)⟩

theorem witness_VersionsAndSignature_rename : ∃ g, grp base 0 = some g
    ∧ okB ((rename g Launch.fresh ⟨[(false, 1)], [(false, 1)], []⟩).map fun h => isKilled h (false, 1)) true = true :=
  grp_of (by decide +kernel)

theorem witness_VersionsAndSignature_sig : ∃ g g1, (tAddAlu.form (.iadd tAdd)).Issues base g g1
    ∧ tAddAlu.check ((tAddAlu.form (.iadd tAdd)).ctx base g) = none
    ∧ fpTrap g (execLanes g .lanes) (fun l => (tAddAlu.laneRes iaddOp ((tAddAlu.form (.iadd tAdd)).ctx base g) l).fl)
        (tAddAlu.dstOf g) = none := issues_of (by decide +kernel)

theorem witness_CarriesAndPredicates_iaddc : ∃ g g1,
    ((aluIaddc tAdd).form (.iaddc tAdd)).Issues base g g1
      ∧ (aluIaddc tAdd).check (((aluIaddc tAdd).form (.iaddc tAdd)).ctx base g) = none := issues_of (by decide +kernel)

/-- A uniform IADDC whose carry-in differs among the lanes. -/
theorem witness_CarriesAndPredicates_diverge :
    let s := baseG (putP 6 0x8000000000000001)
    (aluIaddc tAddU).u = true ∧ (aluIaddc tAddU).pp = some (6, false) ∧ ∃ g g1,
      ((aluIaddc tAddU).form (.iaddc tAddU)).Issues s g g1
        ∧ (maskOf fun l => Mask.has (((aluIaddc tAddU).form (.iaddc tAddU)).ctx s g).x l
            && (Mask.has (rdP g 6) l != false)) ≠ 0
        ∧ (maskOf fun l => Mask.has (((aluIaddc tAddU).form (.iaddc tAddU)).ctx s g).x l
            && (Mask.has (rdP g 6) l != false)) ≠ (((aluIaddc tAddU).form (.iaddc tAddU)).ctx s g).x :=
  ⟨rfl, rfl, issues_of (by decide +kernel)⟩

def tCmp : CP := ⟨7, 7, 1, 2, 2, false, false, false⟩
theorem witness_CarriesAndPredicates_icmp : ∃ g g1, ((aluCP tCmp).form (.icmp tCmp)).Issues base g g1
    ∧ (aluCP tCmp).check (((aluCP tCmp).form (.icmp tCmp)).ctx base g) = none := issues_of (by decide +kernel)

def tPk : RRV := ⟨3, 1, 2, false, false⟩
theorem witness_PackedIntegerResults : AluWitness (.padd2S tPk) (aluRRV tPk false) padd2SOp base
    ∧ (packFn (.padd2S tPk)).isSome = true := ⟨⟨fun _ _ => rfl, issues_of (by decide +kernel)⟩, rfl⟩

theorem witness_FloatingResults : floating (.fadd tAdd) = true ∧ ∃ g g1, (tAddAlu.form (.fadd tAdd)).Issues base g g1
    ∧ tAddAlu.check ((tAddAlu.form (.fadd tAdd)).ctx base g) = none
    ∧ fpTrap g (execLanes g .lanes) (fun l => (tAddAlu.laneRes faddOp ((tAddAlu.form (.fadd tAdd)).ctx base g) l).fl)
        (tAddAlu.dstOf g) = none := ⟨rfl, issues_of (by decide +kernel)⟩

/-- 1 / 0 in every lane, with the divide-by-zero trap enabled and a handler. -/
def divZero : State := baseG fun g => putV 1 (fun _ => 0x3F800000) { g with fpmode := 0x1F0, trapvec := 0x1000 }

theorem witness_FloatExceptions : ∃ g g1, (tAddAlu.form (.fdiv tAdd)).Issues divZero g g1
    ∧ tAddAlu.check ((tAddAlu.form (.fdiv tAdd)).ctx divZero g) = none ∧ marks g = (false, false, false)
    ∧ Deliverable divZero g
    ∧ (BitVec.ofNat 5 (tAddAlu.laneRes fdivOp ((tAddAlu.form (.fdiv tAdd)).ctx divZero g) 63).fl
        &&& g.fpmode.extractLsb' 4 5).getLsbD 1 = true
    ∧ ∀ l, l < 64 → (BitVec.ofNat 5 (tAddAlu.laneRes fdivOp ((tAddAlu.form (.fdiv tAdd)).ctx divZero g) l).fl
        &&& g.fpmode.extractLsb' 4 5).getLsbD 0 = false := issues_of (by decide +kernel)

theorem witness_FloatNans : (val32 ⟨.rne, false, false⟩ 0x7F800001).isNan = true
    ∧ (val32 ⟨.rne, false, false⟩ 0x7F800000).isNan = false := by decide +kernel

/-- FFMA with a NaN as its addend alone, and with 0 times infinity beside a quiet NaN (05 R100). -/
theorem witness_FloatNans_ffma : (val32 ⟨.rtz, false, true⟩ 0x3F800000).isNan = false
    ∧ (val32 ⟨.rtz, false, true⟩ 0xFFA00000).isNan = true
    ∧ (val32 ⟨.rtz, true, true⟩ 0x80000001 = .fin true 0 (-149)) ∧ val32 ⟨.rtz, true, true⟩ 0x7F800000 = .inf false
    ∧ (val32 ⟨.rtz, true, true⟩ 0x7FC00001).isNan = true := by decide +kernel
theorem test_ffma_nan_addend : ffmaOp 0 ⟨.rne, false, false⟩ ⟨0x3F800000, 0x3F800000, 0xFFA00000, false⟩
    = ⟨0x7FC00000, 1, 0, none⟩
    ∧ ffmaOp 0 ⟨.rne, false, false⟩ ⟨0, 0x7F800000, 0x7FC00001, false⟩ = ⟨0x7FC00000, 1, 0, none⟩ := by decide +kernel

/-- The hypotheses on FMIN, FMAX and the conditions of FCMP. -/
theorem witness_FloatValues : (codeVal fp32 (inFormat fp32 true 0x80000001)).isNan = false
    ∧ (codeVal fp32 (inFormat fp32 false 0x7F800000)).isNan = false
    ∧ (codeVal fp32 (inFormat fp32 false 0x7F800001)).isNan = true := by decide +kernel
/-! ### Values that the spec works out (05, 15 to 18): v3 in lane 63 after an instruction on v1 = a, v2 = b, v3 = d -/

/-- The current group after an instruction. -/
def after (i : Instr) (s : State) : Option Group :=
  match exec i s with
  | .next t => grp t s.ctl.cur
  | .fault _ => none
  | .refused _ => none

def abd (a b d : W32) (g : Group) : Group := putV 1 (fun _ => a) (putV 2 (fun _ => b) (putV 3 (fun _ => d) g))

def v3Of (i : Instr) (a b d : W32) : Option Nat := (after i (baseG (abd a b d))).map fun g => (rdVl g 3 63).toNat

def flagsOf (i : Instr) (a b d : W32) : Option (Nat × Nat) :=
  (after i (baseG (abd a b d))).map fun g => ((kget 0 g.fpflags 63).toNat, (kget 0 g.satf 63).toNat)

/-- IMUL, IMULH and IMULH.U of 0xFFFF_FFFF and 2 (16 R366). -/
theorem test_value_imul : v3Of (.imul tAdd) 0xFFFFFFFF 2 0 = some 0xFFFFFFFE
    ∧ v3Of (.imulh tAdd) 0xFFFFFFFF 2 0 = some 0xFFFFFFFF ∧ v3Of (.imulhU tAdd) 0xFFFFFFFF 2 0 = some 1 := by
  decide +kernel

/-- BFE.S and BFI (15 R318). -/
theorem test_value_bit_fields : v3Of (.bfeS tAdd) 0x0F30 0x0604 0 = some 0xFFFFFFF3
    ∧ v3Of (.bfi tAdd) 5 0x0308 0xFFFFFFFF = some 0xFFFFFDFF := by decide +kernel

/-- A 64-bit sum by halves: the low words carry into p6 (16 R361). -/
theorem test_value_iaddc : (after (.iaddc tAdd) (baseG (abd 0xFFFFFFFF 1 9))).map
      (fun g => (rdVl g 3 0, Mask.has (rdP g 6) 0, Mask.has (rdP g 6) 63)) = some (0, true, true)
    ∧ (after (.iaddc tAdd) (baseG fun g => putP 6 allLanes (abd 1 2 9 g))).map
      (fun g => (rdVl g 3 0, rdP g 6)) = some (4, 0) := by decide +kernel

/-- FCLASS (16 R337). -/
theorem test_value_fclass : v3Of (.fclass ⟨3, 1, false, false⟩) 0x80000001 0 0 = some 4
    ∧ v3Of (.fclass ⟨3, 1, false, false⟩) 0x7F800001 0 0 = some 0x100 := by decide +kernel

/-- FFMA rounds once, FMUL rounds the product to 1.0 with NX (16 R343). -/
theorem test_value_ffma : v3Of (.ffma tAdd) 0x3F800001 0x3F7FFFFE 0xBF800000 = some 0xA8800000
    ∧ flagsOf (.ffma tAdd) 0x3F800001 0x3F7FFFFE 0xBF800000 = some (0, 0)
    ∧ v3Of (.fmul tAdd) 0x3F800001 0x3F7FFFFE 0 = some 0x3F800000
    ∧ flagsOf (.fmul tAdd) 0x3F800001 0x3F7FFFFE 0 = some (16, 0) := by decide +kernel

/-- CVT.S32.F32 of 2.5, -2.5, 3.0e9 and a NaN (15 R330). -/
theorem test_value_cvt : [0x40200000, 0xC0200000, 0x4F32D05E, 0x7FC00000].map (fun a =>
      v3Of (.cvtS32F32 ⟨3, 1, false, false⟩) a 0 0) = [some 2, some 0xFFFFFFFE, some 0x7FFFFFFF, some 0]
    ∧ [0x40200000, 0x4F32D05E, 0x7FC00000].map (fun a => flagsOf (.cvtS32F32 ⟨3, 1, false, false⟩) a 0 0)
      = [some (16, 0), some (1, 0), some (1, 0)] := by decide +kernel

/-- The same with ROUND RUP (16 R351). -/
theorem test_value_cvt_round_up : (after (.cvtS32F32 ⟨3, 1, false, false⟩) (baseG fun g =>
      { abd 0xC0200000 0 0 g with hints := { Hints.none with hmod := some (.round 3), first := some 0 } })).map
      (fun g => (rdVl g 3 0, g.hints)) = some (0xFFFFFFFE, Hints.none) := by decide +kernel

/-- SRAR and SRAR.H (18 R401). -/
theorem test_value_srar : [(0x180, 8), (0xFFFFFE80, 8), (0xFFFFFE7F, 8), (0x7FFFFFFF, 4), (0x80000000, 0)].map
      (fun p => (v3Of (.srar tPk) p.1 p.2 0, v3Of (.srarH tPk) p.1 p.2 0))
    = [(some 2, some 2), (some 0xFFFFFFFF, some 0xFFFF), (some 0xFFFFFFFE, some 0xFFFE), (some 0x8000000, some 0x7FFF),
        (some 0x80000000, some 0x8000)]
    ∧ flagsOf (.srarH tPk) 0x7FFFFFFF 4 0 = some (0, 1) ∧ flagsOf (.srarH tPk) 0x180 8 0 = some (0, 0) := by decide +kernel

/-- SHL, SHR and SAR by 4 and by 40 (18 R395). -/
theorem test_value_shifts : [4, 40].map (fun k => (v3Of (.shl tAdd) 0x80000010 k 0, v3Of (.shr tAdd) 0x80000010 k 0,
      v3Of (.sar tAdd) 0x80000010 k 0))
    = [(some 0x100, some 0x08000001, some 0xF8000001), (some 0, some 0, some 0xFFFFFFFF)] := by decide +kernel

/-- PADD2, PADD2.S, PSUB2.S, PMUL2 and PMAC2 (17 R385). -/
theorem test_value_packed : v3Of (.padd2 tPk) 0x7FFF0001 0x0001FFFF 0 = some 0x80000000
    ∧ v3Of (.padd2S tPk) 0x7FFF0001 0x0001FFFF 0 = some 0x7FFF0000
    ∧ flagsOf (.padd2S tPk) 0x7FFF0001 0x0001FFFF 0 = some (0, 1)
    ∧ v3Of (.psub2S tPk) 0x7FFF0001 0x0001FFFF 0 = some 0x7FFE0002
    ∧ v3Of (.pmul2 tPk) 0x7FFF0001 0x0001FFFF 0 = some 0x7FFFFFFF
    ∧ v3Of (.pmac2 tPk) 0x7FFF7FFF 0x7FFF7FFF 200000 = some 0x7FFFFFFF
    ∧ flagsOf (.pmac2 tPk) 0x7FFF7FFF 0x7FFF7FFF 200000 = some (0, 2) := by decide +kernel

def v4Row (i : Instr) (s : State) (n : Nat) : Option (List Nat) :=
  (after i s).map fun g => (List.range n).map fun l => (rdVl g 4 l).toNat

/-- CMPRS and EXPND over eight lanes, p2 in lanes 1, 4, 5 and 7 (15 R327). -/
theorem test_value_compress :
    let s := baseG fun g => putP 2 0xB2 (putV 3 (fun l => BitVec.ofNat 32 (10 + l)) { g with active := 0xFF })
    v4Row (.cmprs ⟨4, 3, 2, false⟩) s 8 = some [11, 14, 15, 17, 0, 0, 0, 0]
      ∧ v4Row (.expnd ⟨4, 3, 2, false⟩) s 8 = some [0, 10, 0, 0, 11, 12, 0, 13] := by decide +kernel

/-- SHFL and SLUP with an exited lane (18 R399). -/
theorem test_value_shuffle :
    let s := baseG fun g => putS 1 1 (putV 3 (fun l => BitVec.ofNat 32 (10 + l)) (putV 4 (fun _ => 99)
      (putV 5 (fun l => if l = 0 then 2 else if l = 1 then 3 else 0)
        { g with active := 7, exited := 8, absent := 0xFFFFFFFFFFFFFFF0 })))
    v4Row (.shfl ⟨4, 3, 5, false, false⟩) s 3 = some [12, 0, 10]
      ∧ v4Row (.slup ⟨4, 3, 1, false, false⟩) s 3 = some [99, 10, 11] := by decide +kernel

/-- REDUX over four lanes (17 R390) and SCAN with a waiting lane (18 R397). -/
theorem test_value_reduce :
    let s := baseG fun g => putV 2 (fun l => [5, 0xFFFFFFFD, 7, 2].getD l 0) { g with active := 0xF }
    let s2 := baseG fun g => putV 2 (fun l => [5, 0xFFFFFFFD, 9, 7, 2].getD l 0) { g with active := 0x1B }
    v4Row (.reduxAdd ⟨4, 2, false⟩) s 5 = some [11, 11, 11, 11, 0]
      ∧ v4Row (.reduxMin ⟨4, 2, false⟩) s 1 = some [0xFFFFFFFD] ∧ v4Row (.reduxMax ⟨4, 2, false⟩) s 1 = some [7]
      ∧ v4Row (.scanAdd ⟨4, 2, false⟩) s2 5 = some [5, 2, 0, 9, 11]
      ∧ v4Row (.scanMax ⟨4, 2, false⟩) s2 5 = some [5, 5, 0, 7, 7] := by decide +kernel

/-! ### Cross-lane instructions, votes, predicates, queues -/

theorem witness_LanePermutations :
    (∃ k, crossOf (.slup tPk) = some k ∧ ∃ g g1, (k.form (.slup tPk)).Issues base g g1
        ∧ k.check ((k.form (.slup tPk)).ctx base g) = none)
    ∧ ∃ k, crossOf (.cmprs ⟨4, 3, 2, false⟩) = some k ∧ ∃ g g1, (k.form (.cmprs ⟨4, 3, 2, false⟩)).Issues base g g1
        ∧ k.check ((k.form (.cmprs ⟨4, 3, 2, false⟩)).ctx base g) = none :=
  ⟨⟨_, rfl, issues_of (by decide +kernel)⟩, ⟨_, rfl, issues_of (by decide +kernel)⟩⟩

theorem witness_ReduxAndScanResults : ∃ k, crossOf (.scanMax ⟨4, 2, true⟩) = some k ∧ ∃ g g1,
    (k.form (.scanMax ⟨4, 2, true⟩)).Issues base g g1 ∧ k.check ((k.form (.scanMax ⟨4, 2, true⟩)).ctx base g) = none :=
  ⟨_, rfl, issues_of (by decide +kernel)⟩

theorem witness_Votes : (∃ g g1, (voteForm (.voteAll ⟨1, 2, 3, true⟩) 3 true [] (dstP 1)).Issues base g g1
      ∧ g.hints.hmod = none)
    ∧ ∃ g g1, (voteForm (.voteBal ⟨1, 2, 3, true⟩) 3 true [(true, 1)] (dstS 1)).Issues base g g1
      ∧ g.hints.hmod = none := ⟨issues_of (by decide +kernel), issues_of (by decide +kernel)⟩

/-- An HMOD that marks nothing. -/
theorem witness_Votes_hint : let s := baseH { Hints.none with hmod := some (.queue false false false) }
    (∃ g g1, (voteForm (.voteAny ⟨1, 2, 3, true⟩) 3 true [] (dstP 1)).Issues s g g1
      ∧ g.hints.hmod = some (.queue false false false))
    ∧ ∃ g g1, (voteForm (.voteBal ⟨1, 2, 3, true⟩) 3 true [(true, 1)] (dstS 1)).Issues s g g1
      ∧ g.hints.hmod = some (.queue false false false) := ⟨issues_of (by decide +kernel), issues_of (by decide +kernel)⟩
theorem witness_noQueueHint (g : Group) (h : g.hints.hmod = none) : NoQueueHint g := by intro d a b; simp [h]

theorem witness_PredicateLogic :
    (∃ g g1, Form.Issues ⟨.pand ⟨7, 6, 0⟩, .lanes, fun _ => noRegs, fun _ => dstP 7⟩ base g g1
      ∧ g.hints.hmod = none)
    ∧ (∃ g g1, Form.Issues ⟨.pnot ⟨1, 2⟩, .lanes, fun _ => noRegs, fun _ => dstP 1⟩ base g g1
      ∧ g.hints.hmod = none)
    ∧ (∃ g g1, Form.Issues ⟨.pset ⟨1, 63⟩, .lanes, fun _ => ⟨[(true, 63)], [], []⟩, fun _ => dstP 1⟩ base g g1
      ∧ g.hints.hmod = none)
    ∧ ∃ g g1, Form.Issues ⟨.ptos ⟨63, 7⟩, .lanes, fun _ => ⟨[], [], [(true, 63)]⟩, fun _ => dstS 63⟩ base g g1
      ∧ g.hints.hmod = none :=
  ⟨issues_of (by decide +kernel), issues_of (by decide +kernel), issues_of (by decide +kernel),
    issues_of (by decide +kernel)⟩

/-- Queue 7 between the group and itself, with a mark on A and D; `n` entries stand in it. -/
def queued (hm : HMod) (n : Nat) : State :=
  let s := baseG fun g => { g with hints := { Hints.none with hmod := some hm, first := some 0 }, pc := 4 }
  { s with run := { s.run with
    launches := s.run.launches.map fun e => (e.1, { e.2 with img := { e.2.img with queues := [⟨7, 1, 0, 0⟩] } })
    items := s.run.items.map fun e =>
      (e.1, { e.2 with queues := [(7, (List.range n).map fun k => mkLanes fun _ => BitVec.ofNat 32 k)] }) } }

def tQ : RRR := ⟨7, 7, 2, false, false, false⟩
def tQAlu : Alu := aluRRR tQ false

theorem witness_QueueOperands_passes : let s := queued (.queue true true false) 1
    aluForm { Hints.none with hmod := some (.queue true true false), first := some 0 } (.iadd tQ) = some (tQAlu, iaddOp)
    ∧ tQAlu.pp = none ∧ ∃ g g1, (tQAlu.form (.iadd tQ)).Issues s g g1 ∧ (kfind s.run.items g.item).isSome = true
      ∧ tQAlu.check ((tQAlu.form (.iadd tQ)).ctx s g) = none
      ∧ (coreQueue s g 7).length = 1 := ⟨rfl, rfl, issues_of (by decide +kernel)⟩

theorem witness_QueueOperands_empty : ∃ g g1, (tQAlu.form (.iadd tQ)).Issues (queued (.queue false true false) 0) g g1
    ∧ (tQAlu.check ((tQAlu.form (.iadd tQ)).ctx (queued (.queue false true false) 0) g)).isSome = true
    ∧ coreQueue (queued (.queue false true false) 0) g 7 = []
    ∧ queueOk ((tQAlu.form (.iadd tQ)).ctx (queued (.queue false true false) 0) g).w 7 false = true :=
  issues_of (by decide +kernel)

theorem witness_QueueOperands_full : ∃ g g1, (tQAlu.form (.iadd tQ)).Issues (queued (.queue true false false) 4) g g1
    ∧ (coreQueue (queued (.queue true false false) 4) g 7).length = 4
    ∧ queueOk ((tQAlu.form (.iadd tQ)).ctx (queued (.queue true false false) 4) g).w 7 true = true :=
  issues_of (by decide +kernel)

theorem witness_QueueOperands_bad : ∃ g g1, (tAddAlu.form (.iadd tAdd)).Issues (queued (.queue true false false) 0) g g1
    ∧ queueOk ((tAddAlu.form (.iadd tAdd)).ctx (queued (.queue true false false) 0) g).w 3 true = false :=
  issues_of (by decide +kernel)

/-! ### Memory -/

/-- Lanes 0 and 63 active, s4 at byte 0x1000 of the page, v5 four bytes apart. -/
def ends : Mask := 0x8000000000000001
def memG (g : Group) : Group := { putS 4 0x1000 (putV 5 (fun l => BitVec.ofNat 32 (4 * l)) g) with active := ends }
def memS : State := baseG memG

def tLd : Instr := .ld ⟨3, 4, 5, 4, false, 15⟩
def tLdOp : LoadOp := ⟨3, 4, 5, 4, false, 15, false, false, .load⟩

def hitsOf (s : State) (g : Group) (o : LoadOp) (x : Mask) : List LaneHit :=
  (o.lanes x).map fun l => ⟨l, addrM g o.s o.v l, check s (who s s.ctl.cur g) o.acc (addrM g o.s o.v l) (bytesM o.w)⟩

theorem witness_LoadsReadMemory : loadOf tLd = some tLdOp ∧ ∃ g g1, (tLdOp.form tLd).Issues memS g g1
    ∧ tLdOp.pre ((tLdOp.form tLd).ctx memS g) = none ∧ ((tLdOp.form tLd).ctx memS g).x ≠ 0
    ∧ (∀ e ∈ hitsOf memS g tLdOp ((tLdOp.form tLd).ctx memS g).x, e.loc?.isSome)
    ∧ blockedBy memS ((hitsOf memS g tLdOp ((tLdOp.form tLd).ctx memS g).x).filter fun h =>
        !h.inL1 memS (who memS memS.ctl.cur g) (l1ModeOf g tLdOp.bypass tLdOp.na)) (bytesM tLdOp.w) = none
    ∧ (l1Blocks memS (who memS memS.ctl.cur g).core).length + 2 ≤ 256
    ∧ check memS (who memS memS.ctl.cur g) .load (addrM g 4 5 63) 4 = .ok (.hbm 0x10010FC) false :=
  ⟨rfl, issues_of (by decide +kernel)⟩

def tLdUOp : LoadOp := ⟨6, 4, 63, 5, false, 0, true, false, .load⟩
theorem witness_LoadsReadMemory_uniform : loadOf (.ldUniform ⟨6, 4, 5, false, 0⟩) = some tLdUOp ∧ ∃ g g1,
    (tLdUOp.form (.ldUniform ⟨6, 4, 5, false, 0⟩)).Issues memS g g1
    ∧ tLdUOp.pre ((tLdUOp.form (.ldUniform ⟨6, 4, 5, false, 0⟩)).ctx memS g) = none
    ∧ (∀ e ∈ hitsOf memS g tLdUOp ends, e.loc?.isSome)
    ∧ blockedBy memS ((hitsOf memS g tLdUOp ends).filter fun h =>
        !h.inL1 memS (who memS memS.ctl.cur g) (l1ModeOf g false false)) 8 = none := ⟨rfl, issues_of (by decide +kernel)⟩

/-- Misaligned in every lane: s4 at 0x1001. One lane of a store misaligned among aligned ones stands in gatherS. -/
def oddS2 : State := baseG fun g => { putS 4 0x1001 (memG g) with trapvec := 0x800 }
def tStUOp : StoreOp := ⟨6, 4, 63, 5, true⟩
def tSt : Instr := .st ⟨3, 4, 5, 4, 0⟩
def tStOp : StoreOp := ⟨3, 4, 5, 4, false⟩

theorem witness_AccessesThatTrap_store : storeOf tSt = some tStOp ∧ ∃ g g1, (tStOp.form tSt).Issues oddS2 g g1
    ∧ tStOp.pre ((tStOp.form tSt).ctx oddS2 g) = none ∧ ((tStOp.form tSt).ctx oddS2 g).x ≠ 0
    ∧ (∀ l ∈ Mask.list ((tStOp.form tSt).ctx oddS2 g).x, addrM g 4 5 l % bytesM (storeWidth 4) ≠ 0)
    ∧ ∀ l ∈ Mask.list ((tStOp.form tSt).ctx oddS2 g).x,
        check oddS2 (who oddS2 oddS2.ctl.cur g) .store (addrM g 4 5 l) 4 = .trap cALIGN :=
  ⟨rfl, issues_of (by decide +kernel)⟩

def tLd1Op : LoadOp := ⟨3, 4, 63, 4, false, 0, false, false, .load⟩
theorem witness_AccessesThatTrap_load : loadOf (.ld ⟨3, 4, 63, 4, false, 0⟩) = some tLd1Op ∧ ∃ g g1,
    (tLd1Op.form (.ld ⟨3, 4, 63, 4, false, 0⟩)).Issues oddS2 g g1
    ∧ tLd1Op.pre ((tLd1Op.form (.ld ⟨3, 4, 63, 4, false, 0⟩)).ctx oddS2 g) = none
    ∧ ((tLd1Op.form (.ld ⟨3, 4, 63, 4, false, 0⟩)).ctx oddS2 g).x ≠ 0 ∧ addrM g 4 63 0 % bytesM 4 ≠ 0 :=
  ⟨rfl, issues_of (by decide +kernel)⟩

/-- Lane 63 alone misaligned, with a handler. -/
def gatherS : State := baseG fun g => { putS 4 0x1000 (putV 5 (fun l => if l = 63 then 2 else BitVec.ofNat 32 (4 * l)) g) with
  trapvec := 0x800, active := ends }

theorem witness_AccessesThatTrap_mixed : ∃ g g1, (tStOp.form tSt).Issues gatherS g g1
    ∧ tStOp.pre ((tStOp.form tSt).ctx gatherS g) = none ∧ Mask.list ((tStOp.form tSt).ctx gatherS g).x = [0, 63]
    ∧ addrM g 4 5 63 % 4 ≠ 0 ∧ check gatherS (who gatherS gatherS.ctl.cur g) .store (addrM g 4 5 63) 4 = .trap cALIGN
    ∧ check gatherS (who gatherS gatherS.ctl.cur g) .store (addrM g 4 5 0) 4 = .ok (.hbm 0x1001000) false :=
  issues_of (by decide +kernel)
theorem witness_AccessesThatTrap_uniform : ∃ g g1, (tStUOp.form (.stUniform ⟨6, 4, 5, 0⟩)).Issues oddS2 g g1
    ∧ tStUOp.pre ((tStUOp.form (.stUniform ⟨6, 4, 5, 0⟩)).ctx oddS2 g) = none
    ∧ ((tStUOp.form (.stUniform ⟨6, 4, 5, 0⟩)).ctx oddS2 g).x ≠ 0
    ∧ check oddS2 (who oddS2 oddS2.ctl.cur g) .store (addrM g 4 63 0) 8 = .trap cALIGN := issues_of (by decide +kernel)

theorem witness_AccessesThatTrap_gather : ∃ g g1, (tLdOp.form tLd).Issues gatherS g g1
    ∧ tLdOp.pre ((tLdOp.form tLd).ctx gatherS g) = none
    ∧ blockedBy gatherS ((hitsOf gatherS g tLdOp ends).filter fun h =>
        !h.inL1 gatherS (who gatherS gatherS.ctl.cur g) (l1ModeOf g tLdOp.bypass tLdOp.na)) 4 = none
    ∧ (∀ e ∈ hitsOf gatherS g tLdOp ends, e.isXlate = false ∧ e.hit ≠ .busy)
    ∧ (maskOf fun l => (hitsOf gatherS g tLdOp ends).any fun e => e.lane == l && e.loc?.isNone) = 0x8000000000000000
    ∧ Deliverable gatherS g ∧ slotsOf g.stack ≤ 30 := issues_of (by decide +kernel)

def tLda : OF := ⟨3, 4, 0, 1, 0, false⟩
def ldaForm : Form := ⟨.lda tLda, .lanes, fun _ => ⟨[(true, 4)], [], regRun false 3 1⟩, fun _ => dstV 3⟩

theorem witness_LdaReadsAndAcquires : ∃ g g1, ldaForm.Issues memS g g1 ∧ ldaPre tLda (ldaForm.ctx memS g) = none
    ∧ (ldaForm.ctx memS g).x ≠ 0
    ∧ check memS (who memS memS.ctl.cur g) .load (addrM g 4 63 0) 4 = .ok (.hbm 0x1001000) false
    ∧ blockedBy memS [⟨Mask.lowest (ldaForm.ctx memS g).x, addrM g 4 63 0, .ok (.hbm 0x1001000) false⟩] 4 = none :=
  issues_of (by decide +kernel)

/-- LDA at REMOTE of a line that core 3 has written with release, and LDA with no executing lane. -/
def tLdaR : OF := ⟨3, 4, 0, 14, 0, false⟩
def ldaRForm : Form := ⟨.lda tLdaR, .lanes, fun _ => ⟨[(true, 4)], [], regRun false 3 1⟩, fun _ => dstV 3⟩
def remoteS : State := { memS with mem := { memS.mem with relset := [(0x20020, [3])] } }
theorem witness_LdaReadsAndAcquires_remote : (∃ g g1, ldaRForm.Issues remoteS g g1
      ∧ ldaPre tLdaR (ldaRForm.ctx remoteS g) = none ∧ (ldaRForm.ctx remoteS g).x ≠ 0
      ∧ check remoteS (who remoteS remoteS.ctl.cur g) .load (addrM g 4 63 0) 4 = .ok (.hbm 0x1001000) false
      ∧ blockedBy remoteS [⟨Mask.lowest (ldaRForm.ctx remoteS g).x, addrM g 4 63 0, .ok (.hbm 0x1001000) false⟩] 4 = none
      ∧ kget [] remoteS.mem.relset (0x1001000 / 128) = [3])
    ∧ ∃ g g1, ldaForm.Issues (baseH guardP1) g g1 ∧ ldaPre tLda (ldaForm.ctx (baseH guardP1) g) = none
      ∧ (ldaForm.ctx (baseH guardP1) g).x = 0 := ⟨issues_of (by decide +kernel), issues_of (by decide +kernel)⟩

/-- A load of two registers in flight, an atomic, and an atomic with one lane on a host page. -/
def flightS (fl : Flight) : State := { base with run := { base.run with flights := [fl] } }
def tFlight : Flight := ⟨9, 0, false, false, 62, allLanes, [List.replicate 64 7, List.replicate 64 8], 0, none, 0, none⟩
/-- Lanes 2, 5 and 63 of a CAS on a host page, two of them at one address. -/
def tLanes : List HostLane := [⟨2, 0x2000, 0, 0, 5⟩, ⟨5, 0x2000, 0, 5, 6⟩, ⟨63, 0x2004, 0, 0, 5⟩]
def tHostFlight : Flight := ⟨9, 0, false, true, 3, 1, [[]], 0, some (9, 4, tLanes), 0, none⟩

theorem witness_RepliesWriteRegisters : (∃ g, grp (flightS tFlight) 0 = some g ∧
      (flightS tFlight).run.flights.find? (fun x => x.id == 9) = some tFlight ∧ tFlight.host = none
      ∧ tFlight.reg + tFlight.vals.length ≤ 64)
    ∧ (∃ g, grp (flightS { tFlight with atomic := true, uni := true }) 0 = some g ∧ g.stat = .run)
    ∧ ∃ g, grp (flightS tHostFlight) 0 = some g ∧
      (flightS tHostFlight).run.flights.find? (fun x => x.id == 9 && x.atomic) = some tHostFlight
      ∧ (∀ x ∈ tLanes, x.x < 256 ^ 4 ∧ x.y < 256 ^ 4 ∧ x.lane < 64) ∧ (tLanes.map (·.lane)).Pairwise (· < ·)
      ∧ tHostFlight.reg + tHostFlight.vals.length ≤ 64 ∧ tHostFlight.uni = false
      ∧ (tLanes.filter fun h => !(Mask.has 0x8000000000000000 h.lane)).map (·.lane) = [2, 5]
      ∧ replaying (launchOf (flightS tHostFlight) g.launch) = false :=
  ⟨grp_of (by decide +kernel), grp_of (by decide +kernel), grp_of (by decide +kernel)⟩

/-- A completer takes lanes 2 and 5 in that order, so that lane 5 meets what lane 2 left, and rejects lane 63 (06 R138). -/
theorem test_atomic_reply_lanes : nextB (exec (.atomicReply 9 0x8000000000000000) (flightS tHostFlight)) (fun t =>
    grpB t 0 fun g => decide (rdVl g 3 2 = 0 ∧ rdVl g 3 5 = 5 ∧ g.hostAns = some 0x8000000000000000
      ∧ kget 0 t.mem.host 0x2000 = 6 ∧ kget 0 t.mem.host 0x2004 = 0)) = true := by decide +kernel

def storeHits (s : State) (g : Group) (o : StoreOp) (ls : List Nat) : List LaneHit :=
  ls.map fun l => ⟨l, addrM g o.s o.v l, check s (who s s.ctl.cur g) .store (addrM g o.s o.v l) (bytesM (storeWidth o.w))⟩

theorem witness_StoresWrite : ∃ g g1, (tStOp.form tSt).Issues memS g g1
    ∧ (storeHits memS g tStOp (Mask.list ends)).map LaneHit.loc?
      = [Loc.hbm 0x1001000, Loc.hbm 0x10010FC].map some
    ∧ tStOp.pre ((tStOp.form tSt).ctx memS g) = none ∧ ((tStOp.form tSt).ctx memS g).x = ends
    ∧ blockedBy memS (storeHits memS g tStOp (Mask.list ends)) 4 = none
    ∧ conflictHeld memS (who memS memS.ctl.cur g) (storeHits memS g tStOp (Mask.list ends)) = false :=
  issues_of (by decide +kernel)

theorem witness_StoresWrite_uniform : storeOf (.stUniform ⟨6, 4, 5, 0⟩) = some tStUOp ∧ ∃ g g1,
    (tStUOp.form (.stUniform ⟨6, 4, 5, 0⟩)).Issues memS g g1
    ∧ (storeHits memS g tStUOp [63]).map LaneHit.loc? = [Loc.hbm 0x1001000].map some
    ∧ tStUOp.pre ((tStUOp.form (.stUniform ⟨6, 4, 5, 0⟩)).ctx memS g) = none
    ∧ blockedBy memS (storeHits memS g tStUOp [63]) 8 = none
    ∧ conflictHeld memS (who memS memS.ctl.cur g) (storeHits memS g tStUOp [63]) = false :=
  ⟨rfl, issues_of (by decide +kernel)⟩

theorem witness_StoresReadBack : ∃ g, grp base 0 = some g
    ∧ ((kfind base.run.items (who base 0 g).item).getD Item.fresh).txOpen = false ∧ (who base 0 g).it.txOpen = false
    ∧ (kfind base.run.items g.item).isSome = true := grp_of (by decide +kernel)

def strlForm : Form :=
  ⟨.strl tLda, .lanes, fun _ => ⟨(true, 4) :: regRun false 3 1, [], []⟩, fun _ => dstNone⟩
theorem witness_StoreRelease : ∃ g g1, strlForm.Issues memS g g1 ∧ strlPre tLda (strlForm.ctx memS g) = none
    ∧ (strlForm.ctx memS g).x ≠ 0
    ∧ check memS (who memS memS.ctl.cur g) .store (addrM g 4 63 0) 4 = .ok (.hbm 0x1001000) false
    ∧ blockedBy memS [⟨63, addrM g 4 63 0, .ok (.hbm 0x1001000) false⟩] 4 = none
    ∧ conflictHeld memS (who memS memS.ctl.cur g) [⟨63, addrM g 4 63 0, .ok (.hbm 0x1001000) false⟩] = false :=
  issues_of (by decide +kernel)

def prefForm : Form := ⟨.pref ⟨4, 5, 4, 0⟩, .lanes, fun _ => ⟨[(true, 4), (false, 5)], [], []⟩, fun _ => dstNone⟩
theorem witness_Maintenance_pref : ∃ g g1, prefForm.Issues memS g g1 ∧ execLanes g .lanes ≠ 0
    ∧ memS.run.xfers = [] := issues_of (by decide +kernel)

def cmntForm : Form := ⟨.cmntCinv ⟨1, 4, 6, 0⟩, .once, fun _ => ⟨[(true, 4), (true, 6)], [], []⟩, fun _ => dstNone⟩
def cmntS : State := baseG fun g => putS 6 4096 (memG g)
theorem witness_Maintenance_cmnt : (∃ g g1, cmntForm.Issues memS g g1 ∧ rdS g 6 = 0)
    ∧ (∃ g g1, cmntForm.Issues cmntS g g1 ∧ (rdS g 4).toNat + (rdS g 6).toNat ≤ 0xF0000000000000 ∧ cmntS.run.xfers = []
      ∧ (∃ r, translate (drainGroup cmntS 0) (who cmntS cmntS.ctl.cur g).die (who cmntS cmntS.ctl.cur g).asid 0x1000 .load
          = .ok r ∧ r.va = 0 ∧ r.size = 2 ^ 24 ∧ r.host = false)) := by
  refine ⟨issues_of (by decide +kernel), ?_⟩
  obtain ⟨g, g1, h, h1, h2, h3⟩ := issues_of (F := cmntForm) (s := cmntS) (P := fun g =>
    (rdS g 4).toNat + (rdS g 6).toNat ≤ 0xF0000000000000 ∧ cmntS.run.xfers = []
    ∧ (match translate (drainGroup cmntS 0) (who cmntS cmntS.ctl.cur g).die (who cmntS cmntS.ctl.cur g).asid 0x1000 .load
        with
      | .ok r => decide (r.va = 0 ∧ r.size = 2 ^ 24 ∧ r.host = false)
      | .error _ => false) = true) (by decide +kernel)
  refine ⟨g, g1, h, h1, h2, ?_⟩
  split at h3
  · rename_i r hr
    exact ⟨r, hr, of_decide_eq_true h3⟩
  · simp at h3

def fenceForm (f : FENF) : Form := ⟨.fence f, .lanes, fun _ => noRegs, fun _ => dstNone⟩
theorem witness_Fences : (∃ g g1, (fenceForm ⟨3, 1⟩).Issues base g g1
      ∧ levelTrap ((fenceForm ⟨3, 1⟩).ctx base g) 1 true = none
      ∧ scopeTrap ((fenceForm ⟨3, 1⟩).ctx base g) true 1 = none ∧ ((fenceForm ⟨3, 1⟩).ctx base g).x ≠ 0)
    ∧ ∃ g g1, (fenceForm ⟨0, 0⟩).Issues base g g1 ∧ levelTrap ((fenceForm ⟨0, 0⟩).ctx base g) 0 false = none
      ∧ scopeTrap ((fenceForm ⟨0, 0⟩).ctx base g) false 0 = none ∧ ((fenceForm ⟨0, 0⟩).ctx base g).x ≠ 0 :=
  ⟨issues_of (by decide +kernel), issues_of (by decide +kernel)⟩

/-! ### Atomics and monitors -/

/-- v2 and v3 hold the pair of address 0x1000 in every lane: ATOM v6, [v2]. -/
def atomG (g : Group) : Group := putV 2 (fun _ => 0x1000) { memG g with trapvec := 0x800 }
def atomS : State := baseG atomG
def tAtom : Instr := .atomAddB32 ⟨6, 2, 0, 0, 0⟩
def tAtomOp : AtomOp := ⟨0, false, true, ⟨6, 2, 0, 0, 0⟩⟩
def tAtomn : Instr := .atomnAddB32 ⟨6, 2, 0, 0, 0⟩
def tAtomnOp : AtomOp := ⟨0, false, false, ⟨6, 2, 0, 0, 0⟩⟩

def atomHits (s : State) (g : Group) (o : AtomOp) : List LaneHit :=
  (Mask.list ends).map fun l => ⟨l, 0x1000, check s (who s s.ctl.cur g) .atomic 0x1000 o.bytes⟩

theorem witness_AtomicsPerformEachLane : atomOf tAtom = some tAtomOp ∧ ∃ g g1, (tAtomOp.form tAtom).Issues atomS g g1
    ∧ (rdVl g 2 63).toNat + (rdVl g 3 63).toNat * 2 ^ 32 = 0x1000
    ∧ (atomHits atomS g tAtomOp).map LaneHit.loc? = [Loc.hbm 0x1001000, Loc.hbm 0x1001000].map some
    ∧ tAtomOp.pre ((tAtomOp.form tAtom).ctx atomS g) = none ∧ g.hostAns = none
    ∧ ((tAtomOp.form tAtom).ctx atomS g).x = ends ∧ blockedBy atomS (atomHits atomS g tAtomOp) 4 = none
    ∧ (who atomS atomS.ctl.cur g).l.pkt.det = 0 := ⟨rfl, issues_of (by decide +kernel)⟩

theorem test_remap_empty (a : Nat) : remapOf [] a = a := by
  unfold remapOf kget kfind
  simp
  omega

theorem witness_ReadModifyWrite_scratchpad : (kfind base.run.items 0).isSome = true ∧ base.mem.ports = []
    ∧ (∀ k, k < 8 → ∀ j, j < 8 → remapOf base.mem.remap (0x1001000 + k) = remapOf base.mem.remap (0x1001000 + j) → k = j) := by
  decide +kernel

/-- The same with the work item's transaction open. -/
def atomTx : State := { atomS with run := { atomS.run with
  items := atomS.run.items.map fun e => (e.1, { e.2 with txOpen := true, rung := 3 }) } }

theorem witness_ReadModifyWrite_deferred : atomOf tAtomn = some tAtomnOp ∧ ∃ g g1, (tAtomnOp.form tAtomn).Issues atomTx g g1
    ∧ (atomHits atomTx g tAtomnOp).map LaneHit.loc? = [0x1001000, 0x1001000].map (some ∘ Loc.hbm)
    ∧ tAtomnOp.pre ((tAtomnOp.form tAtomn).ctx atomTx g) = none ∧ g.hostAns = none
    ∧ blockedBy atomTx (atomHits atomTx g tAtomnOp) 4 = none ∧ tAtomnOp.acq = false
    ∧ ((kfind atomTx.run.items g.item).map (·.txOpen)) = some true := ⟨rfl, issues_of (by decide +kernel)⟩

def monarmForm : Form := ⟨.monarm ⟨4⟩, .once, fun _ => ⟨[(true, 4)], [], []⟩, fun _ => dstNone⟩
theorem witness_Monarm : ∃ g g1, monarmForm.Issues memS g g1
    ∧ resolve memS (who memS memS.ctl.cur g) .mon (rdS g 4).toNat 1 = .ok (.hbm 0x1001000) false
    ∧ monLineOf (.hbm 0x1001000) = some (.hbm 0x20020) ∧ ownedLoc memS (.hbm 0x1001000) 1 = false :=
  issues_of (by decide +kernel)

def monwaitForm : Form :=
  ⟨.monwait ⟨5, 6⟩, .once, fun _ => ⟨[(true, 6)], [], [(true, 5)]⟩, fun _ => dstS 5⟩
def monS (m : Monitor) (t : Bool) : State := baseG fun g => { g with
  mon := m
  monTimeout := t
  monEnd := some 5
  wait := some .monwait }
theorem witness_Monwait : (∃ g g1, monwaitForm.Issues (monS .idle false) g g1 ∧ g.mon = .idle
      ∧ (who (monS .idle false) 0 g).l.pkt.det = 0)
    ∧ (∃ g g1, monwaitForm.Issues (monS (.fired (.hbm 1) 1) false) g g1 ∧ g.mon = .fired (.hbm 1) 1)
    ∧ ∃ g g1, monwaitForm.Issues (monS (.armed (.hbm 1)) true) g g1 ∧ g.mon = .armed (.hbm 1) ∧ g.monTimeout = true :=
  ⟨issues_of (by decide +kernel), issues_of (by decide +kernel), issues_of (by decide +kernel)⟩
theorem witness_MonwaitTimeout : ∃ g, grp (monS (.armed (.hbm 1)) false) 0 = some g ∧ g.mon = .armed (.hbm 1)
    ∧ g.monEnd = some 5 ∧ g.stat = .run ∧ g.wait = some .monwait := grp_of (by decide +kernel)

/-! ### Control flow, traps, state registers -/

def braForm (f : BF) : Form := plainForm (.bra f) .none
def ctlG (g : Group) : Group := putP 1 1 { g with active := ends, pc := 0x100 }
def ctlS : State := baseG ctlG

theorem witness_Branches_taken : ∃ g g1, (braForm ⟨false, 7, 2⟩).Issues ctlS g g1 ∧ rdP g 7 &&& g.active = g.active :=
  issues_of (by decide +kernel)
theorem witness_Branches_not : ∃ g g1, (braForm ⟨true, 7, 2⟩).Issues ctlS g g1 ∧ (~~~(rdP g 7)) &&& g.active = 0
    ∧ g.active ≠ 0 := issues_of (by decide +kernel)
theorem witness_Branches_mixed : ∃ g g1, (braForm ⟨false, 1, 2⟩).Issues ctlS g g1 ∧ rdP g 1 &&& g.active ≠ g.active
    ∧ rdP g 1 &&& g.active ≠ 0 ∧ g.split = none := issues_of (by decide +kernel)

/-- Split mode with one subgroup, the last of eight in the table. -/
def splitS (n : Nat) : State := baseG fun g =>
  { ctlG g with split := some ((List.range n).map (fun k => ⟨0x100, if k = 0 then ends else 0, 0, none⟩), 0) }
theorem witness_Branches_split : (∃ g g1, (plainForm .rcv .none).Issues (splitS 1) g g1
      ∧ g.split = some ([⟨0x100, ends, 0, none⟩], 0))
    ∧ (∃ g g1, (plainForm (.bdiv ⟨false, 1, 3, 4⟩) .none).Issues (splitS 7) g g1
      ∧ (g.split.map fun e => (e.1.length, e.2)) = some (7, 0) ∧ rdP g 1 &&& g.active ≠ 0)
    ∧ (∃ g g1, (braForm ⟨false, 7, 3⟩).Issues (splitS 8) g g1 ∧ rdP g 7 &&& g.active = g.active)
    ∧ ∃ g g1, (braForm ⟨false, 1, 3⟩).Issues (splitS 8) g g1 ∧ rdP g 1 &&& g.active ≠ g.active
      ∧ rdP g 1 &&& g.active ≠ 0 ∧ canPost (splitS 8) 0 = true :=
  ⟨issues_of (by decide +kernel), issues_of (by decide +kernel), issues_of (by decide +kernel),
    issues_of (by decide +kernel)⟩
/-- The same with the work item's transaction open at rung 2. -/
def splitTx : State := onItem (fun i => { i with txOpen := true, rung := 2 }) (splitS 8)
theorem witness_Branches_split_abort : ∃ g g1, (braForm ⟨false, 1, 3⟩).Issues splitTx g g1
    ∧ rdP g 1 &&& g.active ≠ g.active ∧ rdP g 1 &&& g.active ≠ 0 ∧ (g.split.map fun e => e.1.length) = some 8
    ∧ ((kfind splitTx.run.items g.item).map fun i => (i.txOpen, i.rung)) = some (true, 2) := issues_of (by decide +kernel)
theorem witness_lanesApart (n : Nat) (hn : n ∈ [1, 7, 8]) : ∃ g, grp (splitS n) 0 = some g
    ∧ (match g.split with
      | none => false
      | some (t, k) => decide ((g.active :: (t.take k ++ t.drop (k + 1)).map (·.mask)).Pairwise fun a b => a &&& b = 0))
        = true := by
  simp only [List.mem_cons, List.not_mem_nil, or_false] at hn
  rcases hn with rfl | rfl | rfl <;> exact grp_of (by decide +kernel)

def bdivForm (f : BDF) : Form := plainForm (.bdiv f) .none
theorem witness_Bdiv_all : ∃ g g1, (bdivForm ⟨false, 7, 3, 4⟩).Issues ctlS g g1 ∧ g.split = none
    ∧ g.active &&& ~~~(rdP g 7 &&& g.active) = 0 := issues_of (by decide +kernel)
theorem witness_Bdiv_none : ∃ g g1, (bdivForm ⟨true, 7, 3, 4⟩).Issues ctlS g g1 ∧ g.split = none
    ∧ (~~~(rdP g 7)) &&& g.active = 0 ∧ g.active ≠ 0 := issues_of (by decide +kernel)
theorem witness_Bdiv_both : ∃ g g1, (bdivForm ⟨false, 1, 3, 4⟩).Issues ctlS g g1 ∧ g.split = none
    ∧ rdP g 1 &&& g.active ≠ 0 ∧ g.active &&& ~~~(rdP g 1 &&& g.active) ≠ 0
    ∧ slotsOf g.stack + 2 + 4 ≤ 32 + ((kfind ctlS.run.launches g.launch).getD Launch.fresh).img.spill
    ∧ spillFault ctlS (who ctlS ctlS.ctl.cur g) g (slotsOf g.stack) 2 = none
    ∧ offsetFrom g.pc (3 : BitVec 11) ≠ offsetFrom g.pc (4 : BitVec 11) := issues_of (by decide +kernel)
theorem witness_Bdiv_same : ∃ g g1, (bdivForm ⟨false, 1, 4, 4⟩).Issues ctlS g g1 ∧ g.split = none
    ∧ rdP g 1 &&& g.active ≠ 0 ∧ g.active &&& ~~~(rdP g 1 &&& g.active) ≠ 0 := issues_of (by decide +kernel)

/-- Twenty-seven entries on the stack: one push fits, two do not. -/
def deepS (n : Nat) : State := baseG fun g => { ctlG g with stack := List.replicate n (.div 0x200 ends) }
theorem witness_Bdiv_full : ∃ g g1, (bdivForm ⟨false, 1, 3, 4⟩).Issues (deepS 27) g g1 ∧ g.split = none
    ∧ rdP g 1 &&& g.active ≠ 0 ∧ g.active &&& ~~~(rdP g 1 &&& g.active) ≠ 0
    ∧ ¬ slotsOf g.stack + 2 + 4 ≤ 32 + ((kfind (deepS 27).run.launches g.launch).getD Launch.fresh).img.spill :=
  issues_of (by decide +kernel)

/-- A stack of 32 slots in an image with 8 spill slots, whose reserved memory at `resv` may not be mapped. -/
def spillS (resv n : Nat) (top : List Entry) : State :=
  onLaunch (fun l => { l with img := { l.img with spill := 8 }, ext := { l.ext with resv := resv } })
    (baseG fun g => { ctlG g with stack := top ++ List.replicate n (.div 0x200 ends) })
theorem witness_Bdiv_spills : ∃ g g1, (bdivForm ⟨false, 1, 3, 4⟩).Issues (spillS 0x4000 32 []) g g1 ∧ g.split = none
    ∧ slotsOf g.stack + 2 + 4 ≤ 32 + ((kfind (spillS 0x4000 32 []).run.launches g.launch).getD Launch.fresh).img.spill
    ∧ spillFault (spillS 0x4000 32 []) (who (spillS 0x4000 32 []) (spillS 0x4000 32 []).ctl.cur g) g (slotsOf g.stack) 34
      = none := issues_of (by decide +kernel)
theorem witness_Bdiv_spill_parks : ∃ g g1, (bdivForm ⟨false, 1, 3, 4⟩).Issues (spillS (2 ^ 40) 32 []) g g1
    ∧ g.split = none ∧ rdP g 1 &&& g.active ≠ 0 ∧ rdP g 1 &&& g.active ≠ g.active
    ∧ (spillFault (spillS (2 ^ 40) 32 []) (who (spillS (2 ^ 40) 32 []) (spillS (2 ^ 40) 32 []).ctl.cur g) g
      (slotsOf g.stack) 34).map (fun e => (e.1 / 2 ^ 39, decide (e.2 = walkBusy),
        poolFull (spillS (2 ^ 40) 32 []) 0 0 e.1 true)) = some (2, false, false) := issues_of (by decide +kernel)
theorem witness_Rcv_refill_parks : ∃ g g1, (plainForm .rcv .none).Issues (spillS (2 ^ 40) 33 [.div 0x100 ends]) g g1
    ∧ g.split = none ∧ g.pc = 0x100
    ∧ (plainForm .rcv .none).stack (spillS (2 ^ 40) 33 [.div 0x100 ends]) g
      = .div 0x100 ends :: .div 0x200 ends :: List.replicate 32 (.div 0x200 ends)
    ∧ (spillFault (spillS (2 ^ 40) 33 [.div 0x100 ends])
      (who (spillS (2 ^ 40) 33 [.div 0x100 ends]) (spillS (2 ^ 40) 33 [.div 0x100 ends]).ctl.cur g) g (slotsOf g.stack)
      33).isSome = true := issues_of (by decide +kernel)
theorem witness_Rcv_refill_loop (t : List Entry) (m : Mask) :
    RcvLoop 0x100 0x104 (.div 0x100 ends :: .div 0x200 ends :: t) m (.div 0x200 ends :: t) ends 0x104 :=
  .div ends m _ _ _ _ (.other _ _ _ (by intro p k h; simp at h) (by intro k h; simp at h))

/-- The slots of an entry as 11 R238 and 03 R62 lay them out: cause 0x10 at 0x200, destination 2, restarting, SIG 5. -/
theorem test_trap_slots : stackSlots [.trap ⟨0x200, 0x10, 3, 2, true, true, 5, 1, 0x204⟩, .pend 0x300 2]
    = [(0x4000000000000300, 2), (0x9000000000000200, 3), (0x8000000000001702, 1)] := by decide +kernel

/-- RCV with a PEND entry whose DIV below is for this address: the lanes that waited run on. -/
def rcvS : State := baseG fun g => { ctlG g with active := 1, stack := [.pend 0x180 ends, .div 0x100 ends] }
theorem witness_Rcv : ∃ g g1, (plainForm .rcv .none).Issues rcvS g g1 ∧ g.split = none
    ∧ SpillsOk rcvS g (slotsOf [.div 0x100 ends])
    ∧ RcvLoop g.pc (pcAfter g.pc 4) ((plainForm .rcv .none).stack rcvS g) g.active [.div 0x100 ends] ends 0x180 := by
  obtain ⟨g, g1, h, h1, h2, h3, h4, h5⟩ := issues_of (F := plainForm .rcv .none) (s := rcvS)
    (P := fun g => g.split = none ∧ g.pc = 0x100 ∧ (plainForm .rcv .none).stack rcvS g = [.pend 0x180 ends, .div 0x100 ends] ∧ g.active = 1
      ∧ spillFault rcvS (who rcvS rcvS.ctl.cur g) g (slotsOf g.stack) (slotsOf [.div 0x100 ends]) = none)
    (by decide +kernel)
  refine ⟨g, g1, h, h1, h5, ?_⟩
  rw [h2, h3]
  exact .pend 0x180 ends g.active [.div 0x100 ends] (by decide) (by decide)

theorem witness_CallsAndLoops :
    (∃ g g1, Form.Issues ⟨.call ⟨1⟩, .once, fun _ => ⟨[], [], [(true, 62)]⟩, fun _ => dstS 62⟩ ctlS g g1 ∧ g.pc = 0x100)
    ∧ (∃ g g1, Form.Issues ⟨.callx ⟨62⟩, .once, fun _ => ⟨[(true, 62)], [], [(true, 62)]⟩, fun _ => dstS 62⟩ ctlS g g1
      ∧ g.pc = 0x100)
    ∧ (∃ g g1, Form.Issues ⟨.ret ⟨62⟩, .once, fun _ => ⟨[(true, 62)], [], []⟩, fun _ => dstNone⟩ ctlS g g1 ∧ g.pc = 0x100)
    ∧ (∃ g g1, Form.Issues ⟨.loop ⟨3, 5⟩, .once, fun _ => ⟨[(true, 3)], [], [(true, 3)]⟩, fun _ => dstS 3⟩ ctlS g g1
      ∧ rdS g 3 - 1 ≠ 0)
    ∧ ∃ g g1, Form.Issues ⟨.loop ⟨63, 5⟩, .once, fun _ => ⟨[(true, 63)], [], [(true, 63)]⟩, fun _ => dstS 63⟩ ctlS g g1
      ∧ g.pc = 0x100 :=
  ⟨issues_of (by decide +kernel), issues_of (by decide +kernel), issues_of (by decide +kernel),
    issues_of (by decide +kernel), issues_of (by decide +kernel)⟩

def exitForm : Form := plainForm .exit .lanes
def exitS (hs : Option HS) (st : List Entry) : State := baseG fun g =>
  { ctlG g with stack := st, hints := { Hints.none with hsched := hs, first := hs.map fun _ => 0xFC } }
def outer : TrapEntry := ⟨0x40, 0x20, allLanes, 192, false, false, 5, ends, 0x44⟩
theorem witness_Exit :
    (∃ g g1, exitForm.Issues (exitS (some ⟨0, 0, true, 7⟩) []) g g1 ∧ g.split = none ∧ execLanes g .lanes = 0)
    ∧ (∃ g g1, exitForm.Issues (exitS (some ⟨0, 0, false, 1⟩) []) g g1 ∧ execLanes g .lanes ≠ 0
      ∧ g.active &&& ~~~(execLanes g .lanes) ≠ 0)
    ∧ (∃ g g1, exitForm.Issues (exitS none [.pend 8 1, .div 12 allLanes]) g g1 ∧ execLanes g .lanes ≠ 0
      ∧ g.active &&& ~~~(execLanes g .lanes) = 0 ∧ exitForm.stack (exitS none [.pend 8 1, .div 12 allLanes]) g = [.pend 8 1] ++ [.div 12 allLanes]
      ∧ (1 : Mask) &&& ~~~(execLanes g .lanes) = 0 ∧ allLanes &&& ~~~(execLanes g .lanes) ≠ 0
      ∧ spillFault (exitS none [.pend 8 1, .div 12 allLanes]) (who (exitS none [.pend 8 1, .div 12 allLanes])
        (exitS none [.pend 8 1, .div 12 allLanes]).ctl.cur g) g (slotsOf g.stack) 0 = none)
    ∧ (∃ g g1, exitForm.Issues (exitS none [.trap outer]) g g1 ∧ g.active &&& ~~~(execLanes g .lanes) = 0
      ∧ exitForm.stack (exitS none [.trap outer]) g = [.trap outer] ∧ outer.active &&& ~~~(g.exited ||| execLanes g .lanes) ≠ 0)
    ∧ ∃ g g1, exitForm.Issues (exitS none [.div 8 ends]) g g1 ∧ g.active &&& ~~~(execLanes g .lanes) = 0
      ∧ ends &&& ~~~(execLanes g .lanes) = 0 :=
  ⟨issues_of (by decide +kernel), issues_of (by decide +kernel), issues_of (by decide +kernel),
    issues_of (by decide +kernel), issues_of (by decide +kernel)⟩

def liveAll : LiveF := ⟨some 0xFFFFFFFF, none, none, none, 0, []⟩
def askedS : State := { ctlS with run := { ctlS.run with
  items := ctlS.run.items.map fun e => (e.1, { e.2 with preempt := some 1 }) } }
theorem witness_NopAndPoints : (∃ g g1, (plainForm .nop .lanes).Issues ctlS g g1 ∧ g.pc = 0x100)
    ∧ (∃ g g1, (plainForm .yield .lanes).Issues ctlS g g1 ∧ replaying (who ctlS ctlS.ctl.cur g).l = false
      ∧ ((kfind ctlS.run.items g.item).getD Item.fresh).preempt = none ∧ execLanes g .lanes ≠ 0)
    ∧ (∃ g g1, (plainForm (.live liveAll) .none).Issues askedS g g1 ∧ g.hints = Hints.none
      ∧ replaying (who askedS askedS.ctl.cur g).l = false
      ∧ ((kfind askedS.run.items g.item).getD Item.fresh).preempt ≠ none)
    ∧ ∃ g g1, (plainForm .yield .lanes).Issues (exitS (some ⟨0, 0, true, 7⟩) []) g g1 ∧ execLanes g .lanes = 0 :=
  ⟨issues_of (by decide +kernel), issues_of (by decide +kernel), issues_of (by decide +kernel),
    issues_of (by decide +kernel)⟩

/-- A group with a handler and `n` entries on its stack; with a transaction open at a rung. -/
def trapS (n : Nat) (rung : Option Nat) : State :=
  let s := baseG fun g => { ctlG g with trapvec := 0x800, stack := List.replicate n (.div 0x200 ends) }
  { s with run := { s.run with items := s.run.items.map fun e =>
    (e.1, { e.2 with txOpen := rung.isSome, rung := rung.getD 0 }) } }
/-- A handler, 32 slots in use, and a spill area that does not translate. -/
def spillTrapS : State := modGrp (spillS (2 ^ 40) 32 []) 0 fun g => { g with trapvec := 0x800 }
theorem witness_TrapsAreTaken :
    (∃ g, grp (trapS 30 none) 0 = some g ∧ g.trapvec ≠ 0
      ∧ slotsOf g.stack + 2 ≤ 32 + ((kfind (trapS 30 none).run.launches g.launch).getD Launch.fresh).img.spill
      ∧ ((kfind (trapS 30 none).run.items g.item).getD Item.fresh).txOpen = false
      ∧ spillFault (trapS 30 none) (who (trapS 30 none) 0 g) g 30 32 = none)
    ∧ (∃ g, grp spillTrapS 0 = some g ∧ g.trapvec ≠ 0
      ∧ slotsOf g.stack + 2 ≤ 32 + ((kfind spillTrapS.run.launches g.launch).getD Launch.fresh).img.spill
      ∧ (spillFault spillTrapS (who spillTrapS 0 g) g (slotsOf g.stack) (slotsOf g.stack + 2)).map (fun e =>
          (decide (e.2 = walkBusy), poolFull spillTrapS 0 0 e.1 true)) = some (false, false))
    ∧ (∃ g, grp (trapS 31 none) 0 = some g ∧ g.trapvec ≠ 0
      ∧ ¬ slotsOf g.stack + 2 ≤ 32 + ((kfind (trapS 31 none).run.launches g.launch).getD Launch.fresh).img.spill)
    ∧ (∃ g, grp ctlS 0 = some g ∧ g.trapvec = 0 ∧ canPost ctlS 0 = true)
    ∧ (∃ g, grp (trapS 0 (some 2)) 0 = some g ∧ (kfind (trapS 0 (some 2)).run.items g.item).isSome = true
      ∧ ((kfind (trapS 0 (some 2)).run.items g.item).getD Item.fresh).txOpen = true
      ∧ ((kfind (trapS 0 (some 2)).run.items g.item).getD Item.fresh).rung ≤ 2)
    ∧ ∃ g, grp (trapS 0 (some 3)) 0 = some g ∧ ((kfind (trapS 0 (some 3)).run.items g.item).getD Item.fresh).rung = 3 :=
  ⟨grp_of (by decide +kernel), grp_of (by decide +kernel), grp_of (by decide +kernel), grp_of (by decide +kernel),
    grp_of (by decide +kernel), grp_of (by decide +kernel)⟩

theorem witness_TrapAndSigchk :
    (∃ g g1, (plainForm (.trap ⟨0xFFF⟩) .lanes).Issues (trapS 0 none) g g1 ∧ execLanes g .lanes ≠ 0
      ∧ Deliverable (trapS 0 none) g ∧ g.split = none)
    ∧ (∃ g g1, (plainForm (.trap ⟨0x123⟩) .lanes).Issues (exitS (some ⟨0, 0, true, 7⟩) []) g g1 ∧ execLanes g .lanes = 0)
    ∧ (∃ g g1, (plainForm (.sigchk ⟨0⟩) .none).Issues ctlS g g1 ∧ g.sig = 0)
    ∧ ∃ g g1, (plainForm (.sigchk ⟨0xF⟩) .none).Issues (trapS 0 none) g g1 ∧ g.sig ≠ 0xF ∧ g.split = none
      ∧ Deliverable (trapS 0 none) g :=
  ⟨issues_of (by decide +kernel), issues_of (by decide +kernel), issues_of (by decide +kernel),
    issues_of (by decide +kernel)⟩

def tretForm (i : Instr) : Form := ⟨i, .none, if i = .tretFix then fixRegs else fun _ => noRegs, fun _ => dstNone⟩
def tretS (dst : Nat) (e2 : List Entry) : State := baseG fun g => { ctlG g with stack := .trap { outer with dst := dst } :: e2 }
theorem witness_TretReturns :
    (∃ g g1, (tretForm .tretNext).Issues (deepS 1) g g1 ∧ g.split = none
      ∧ (tretForm .tretNext).stack (deepS 1) g = [.div 0x200 ends])
    ∧ (∃ g g1, (tretForm .tretFix).Issues (tretS 192 []) g g1 ∧ g.split = none
      ∧ (tretForm .tretFix).stack (tretS 192 []) g = [.trap outer])
    ∧ (∃ g g1, (tretForm .tretFix).Issues (tretS 63 []) g g1
      ∧ (tretForm .tretFix).stack (tretS 63 []) g = [.trap { outer with dst := 63 }]
      ∧ spillFault (tretS 63 []) (who (tretS 63 []) (tretS 63 []).ctl.cur g) g (slotsOf g.stack) 0 = none)
    ∧ (∃ g g1, (tretForm .tretFix).Issues (tretS 133 []) g g1
      ∧ (tretForm .tretFix).stack (tretS 133 []) g = [.trap { outer with dst := 133 }])
    ∧ ∃ g g1, (tretForm .tretRetry).Issues (tretS 192 [.div 4 1, .trap outer]) g g1
      ∧ (tretForm .tretRetry).stack (tretS 192 [.div 4 1, .trap outer]) g
        = .trap outer :: ([.div 4 1] ++ .trap outer :: []) :=
  ⟨issues_of (by decide +kernel), issues_of (by decide +kernel), issues_of (by decide +kernel),
    issues_of (by decide +kernel), issues_of (by decide +kernel)⟩
theorem witness_Tret_refill_parks : ∃ g g1, (tretForm .tretNext).Issues (spillS (2 ^ 40) 33 [.trap outer]) g g1
    ∧ (tretForm .tretNext).stack (spillS (2 ^ 40) 33 [.trap outer]) g
      = .trap outer :: List.replicate 33 (.div 0x200 ends)
    ∧ (spillFault (spillS (2 ^ 40) 33 [.trap outer])
      (who (spillS (2 ^ 40) 33 [.trap outer]) (spillS (2 ^ 40) 33 [.trap outer]).ctl.cur g) g (slotsOf g.stack) 33).isSome
      = true := issues_of (by decide +kernel)

def srdForm (f : SF) : Form := ⟨.srd f, if isClassS f.idx.toNat then .once else .lanes,
  fun _ => ⟨[], [], [(isClassS f.idx.toNat, f.d.toNat)]⟩, fun _ => if isClassS f.idx.toNat then dstS f.d.toNat else dstV f.d.toNat⟩
def swrForm (f : SF) : Form := ⟨.swr f, if isClassS f.idx.toNat then .once else .lanes,
  fun _ => ⟨[(isClassS f.idx.toNat, f.d.toNat)], [], []⟩, fun _ => dstNone⟩
theorem witness_StateRegisters :
    (∃ g g1, (srdForm ⟨63, 0x020⟩).Issues ctlS g g1 ∧ g.split = none)
    ∧ (∃ g g1, (srdForm ⟨5, 0x04E⟩).Issues ctlS g g1 ∧ g.split = none)
    ∧ (∃ g g1, (srdForm ⟨5, 0x052⟩).Issues ctlS g g1 ∧ (who ctlS ctlS.ctl.cur g).l.pkt.det = 0)
    ∧ (∃ g g1, (srdForm ⟨5, 0x082⟩).Issues ctlS g g1 ∧ (who ctlS ctlS.ctl.cur g).l.pkt.det = 0
      ∧ (ctlS.part.ws.getD (who ctlS ctlS.ctl.cur g).die WsWin.idle).openBg = none)
    ∧ (∃ g g1, (srdForm ⟨5, 0x091⟩).Issues ctlS g g1 ∧ (who ctlS ctlS.ctl.cur g).l.heats = [])
    ∧ (∃ g g1, (srdForm ⟨5, 0x00F⟩).Issues ctlS g g1 ∧ (who ctlS ctlS.ctl.cur g).l.img.levels.length = 1)
    ∧ (∃ g g1, (srdForm ⟨5, 0x012⟩).Issues ctlS g g1 ∧ (who ctlS ctlS.ctl.cur g).l.img.levels.length + 1 = 2)
    ∧ (∃ g g1, (srdForm ⟨5, 0x1FF⟩).Issues ctlS g g1 ∧ isClassV 0x1FF = false ∧ isClassS 0x1FF = false)
    ∧ (∃ g g1, (swrForm ⟨3, 0x048⟩).Issues ctlS g g1 ∧ isClassS 0x048 = true
      ∧ deadRead g ((swrForm ⟨3, 0x048⟩).regs g).reads = none)
    ∧ (∃ g g1, (swrForm ⟨3, 0x041⟩).Issues ctlS g g1 ∧ isClassV 0x041 = true
      ∧ deadRead g ((swrForm ⟨3, 0x041⟩).regs g).reads = none)
    ∧ ∃ g g1, Form.Issues ⟨.clk ⟨8⟩, .once, fun _ => ⟨[], [], [(true, 8)]⟩, fun _ => dstS 8⟩ ctlS g g1
      ∧ (who ctlS ctlS.ctl.cur g).l.pkt.det = 0 :=
  ⟨issues_of (by decide +kernel), issues_of (by decide +kernel), issues_of (by decide +kernel),
    issues_of (by decide +kernel), issues_of (by decide +kernel), issues_of (by decide +kernel),
    issues_of (by decide +kernel), issues_of (by decide +kernel), issues_of (by decide +kernel),
    issues_of (by decide +kernel), issues_of (by decide +kernel)⟩

/-- A weight-store window that is open. -/
def windowS : State := { ctlS with part := { ctlS.part with ws := ctlS.part.ws.map fun x => { x with openBg := some 3 } } }
theorem witness_StateRegisters_window : ∃ g g1, (srdForm ⟨5, 0x082⟩).Issues windowS g g1
    ∧ (windowS.part.ws.getD (who windowS windowS.ctl.cur g).die WsWin.idle).openBg = some 3
    ∧ (who windowS windowS.ctl.cur g).l.pkt.det = 0 := issues_of (by decide +kernel)

/-! ### Barriers, heats, tiles, batches, transactions -/

/-- Two levels of two groups, every barrier unit declared; the second group is gone or not. -/
def barS (gone : List Nat) (arr : KMap (Nat × Nat)) (heat : Option (Nat × Nat)) : State :=
  onLaunch (fun l => { l with
    img := { l.img with levels := [⟨1, 64, 1, 64⟩, ⟨1, 2, 1, 2⟩], baruse := 0xFFFF }
    gone := gone
    barriers := [⟨3, 2, 0, 1, []⟩]
    heats := [⟨2, 0, 4, [0]⟩] })
    (baseG fun g => { g with barArr := arr, heatArr := heat })

/-- HEATNO where the group's instance of level 2 has a heat counter. -/
theorem witness_StateRegisters_heats : ∃ g g1, (srdForm ⟨5, 0x091⟩).Issues (barS [] [] none) g g1
    ∧ (who (barS [] [] none) 0 g).l.heats.length = 1
    ∧ (∀ x ∈ (who (barS [] [] none) 0 g).l.heats, x.level = 2 ∧ x.count = 4
      ∧ instAt (who (barS [] [] none) 0 g).l.img x.level (groupNumber (who (barS [] [] none) 0 g).l (who (barS [] [] none) 0 g).it
        g.gidx) = x.inst) := issues_of (by decide +kernel)

def barForm (f : YF) : Form := ⟨.bar f, .lanes, fun _ => noRegs, fun _ => dstP f.pd.toNat⟩
theorem witness_Barriers_bar :
    (∃ g g1, (barForm ⟨2, 15, 7⟩).Issues (barS [1] [] none) g g1
      ∧ barPre 2 15 ((barForm ⟨2, 15, 7⟩).ctx (barS [1] [] none) g) = none
      ∧ (kfind (barS [1] [] none).run.launches g.launch).isSome = true ∧ kfind g.barArr (barKey 15 2) = none
      ∧ allArrived ((kfind (barS [1] [] none).run.launches g.launch).getD Launch.fresh) 2 0 [0] = true)
    ∧ ∃ g g1, (barForm ⟨2, 15, 7⟩).Issues (barS [] [] none) g g1
      ∧ barPre 2 15 ((barForm ⟨2, 15, 7⟩).ctx (barS [] [] none) g) = none ∧ kfind g.barArr (barKey 15 2) = none
      ∧ allArrived ((kfind (barS [] [] none).run.launches g.launch).getD Launch.fresh) 2 0 [0] = false
      ∧ pointDue ((barForm ⟨2, 15, 7⟩).ctx (barS [] [] none) g) = false :=
  ⟨issues_of (by decide +kernel), issues_of (by decide +kernel)⟩

def baraForm : Form := ⟨.bara ⟨2, 3⟩, .lanes, fun _ => noRegs, fun _ => dstNone⟩
theorem witness_Barriers_bara :
    (∃ g g1, baraForm.Issues (barS [] [] none) g g1 ∧ barPre 2 3 (baraForm.ctx (barS [] [] none) g) = none
      ∧ kfind g.barArr (barKey 3 2) = none)
    ∧ (∃ g g1, baraForm.Issues (barS [] [(barKey 3 2, (1, 0))] none) g g1
      ∧ barPre 2 3 (baraForm.ctx (barS [] [(barKey 3 2, (1, 0))] none) g) = none
      ∧ kfind g.barArr (barKey 3 2) = some (1, 0))
    ∧ ∃ g g1, (barForm ⟨2, 3, 1⟩).Issues (barS [] [(barKey 3 2, (0, 1))] none) g g1
      ∧ barPre 2 3 ((barForm ⟨2, 3, 1⟩).ctx (barS [] [(barKey 3 2, (0, 1))] none) g) = none
      ∧ kfind g.barArr (barKey 3 2) = some (0, 1)
      ∧ (openBarrier ((kfind (barS [] [] none).run.launches g.launch).getD Launch.fresh) 3 2 0).phase = 1 :=
  ⟨issues_of (by decide +kernel), issues_of (by decide +kernel), issues_of (by decide +kernel)⟩

def heatForm : Form := ⟨.heat ⟨2⟩, .lanes, fun _ => noRegs, fun _ => dstNone⟩
theorem witness_Heats :
    (∃ g g1, heatForm.Issues (barS [] [] none) g g1 ∧ heatPre ⟨2⟩ (heatForm.ctx (barS [] [] none) g) = none
      ∧ g.heatArr = none ∧ pointDue (heatForm.ctx (barS [] [] none) g) = false)
    ∧ (∃ g g1, heatForm.Issues (barS [] [] (some (2, 3))) g g1
      ∧ heatPre ⟨2⟩ (heatForm.ctx (barS [] [] (some (2, 3))) g) = none ∧ g.heatArr = some (2, 3)
      ∧ (heatOf ((kfind (barS [] [] none).run.launches g.launch).getD Launch.fresh) 2 0).count ≠ 3)
    ∧ ∃ g, grp (barS [1] [] none) 0 = some g
      ∧ (kfind (barS [1] [] none).run.launches g.launch).isSome = true
      ∧ (heatOf (launchOf (barS [1] [] none) g.launch) 2 0).arrived ≠ []
      ∧ allArrived (launchOf (barS [1] [] none) g.launch) 2 0 [0] = true
      ∧ commOver (barS [1] [] none) g.launch 2 0 = true :=
  ⟨issues_of (by decide +kernel), issues_of (by decide +kernel), grp_of (by decide +kernel)⟩

def tTm : Tmma := ⟨1, 7, 0x177, ends, [], 0, false, false⟩
def tileS (opens : List Tmma) : State := baseG fun g => { g with opens := opens }
def trdForm (f : TRW) : Form := ⟨.trd f, .lanes, fun _ => ⟨[], [], regRun false f.x.toNat 8⟩, fun _ => dstV f.x.toNat⟩
def twrForm (f : TRW) : Form := ⟨.twr f, .lanes, fun _ => ⟨regRun false f.x.toNat 8, [], []⟩, fun _ => dstNone⟩
theorem witness_TileInstructions :
    (∃ g g1, (plainForm (.tzero ⟨3, 0⟩) .once).Issues (tileS []) g g1 ∧ (who (tileS []) 0 g).l.img.afoot = 4
      ∧ g.opens = [] ∧ g.batches = [])
    ∧ (∃ g g1, (trdForm ⟨0, 7, 56, 0⟩).Issues (tileS []) g g1 ∧ g.opens = [])
    ∧ (∃ g g1, (trdForm ⟨0, 8, 56, 0⟩).Issues (tileS []) g g1 ∧ g.opens = [])
    ∧ ∃ g g1, (twrForm ⟨1, 0, 8, 0⟩).Issues (tileS [tTm]) g g1 ∧ (g.opens.any fun t => t.acc == 1) = true :=
  ⟨issues_of (by decide +kernel), issues_of (by decide +kernel), issues_of (by decide +kernel),
    issues_of (by decide +kernel)⟩

def tTmma : TM := ⟨1, 7, 8, 4, 2, false, 0⟩
def tmmaForm : Form := ⟨.tmma tTmma, .lanes, tmmaRegs tTmma, fun _ => dstNone⟩
def tmmaG (g : Group) : Group := putS 4 (rdS g 4) (putV 58 (fun _ => 0x177) { g with active := ends })
def tmmaS (n : Nat) (x : Mask) : State := baseG fun g =>
  { putS 4 0xF0000000000000 (tmmaG g) with active := ends, opens := List.replicate n tTm, exited := x }
theorem witness_Tmma : (∃ g g1, tmmaForm.Issues (tmmaS 63 0) g g1 ∧ tmmaPre tTmma (tmmaForm.ctx (tmmaS 63 0) g) = none
      ∧ execLanes g .lanes ≠ 0 ∧ g.opens.length = 63)
    ∧ (∃ g g1, tmmaForm.Issues (tmmaS 64 0) g g1 ∧ tmmaPre tTmma (tmmaForm.ctx (tmmaS 64 0) g) = none
      ∧ g.opens.length = 64)
    ∧ ∃ g g1, tmmaForm.Issues (exitS (some ⟨0, 0, true, 7⟩) []) g g1
      ∧ tmmaPre tTmma (tmmaForm.ctx (exitS (some ⟨0, 0, true, 7⟩) []) g) = none ∧ execLanes g .lanes = 0 :=
  ⟨issues_of (by decide +kernel), issues_of (by decide +kernel), issues_of (by decide +kernel)⟩

def tbatchForm : Form := ⟨.tbatch ⟨10, 0⟩, .once, fun _ => ⟨[], [], [(true, 10)]⟩, fun _ => dstS 10⟩
def twaitForm : Form := ⟨.twait ⟨10, 0⟩, .once, fun _ => ⟨[(true, 10)], [], []⟩, fun _ => dstNone⟩
def batchS (e : Option (List (List Byte))) : State := baseG fun g => putS 10 0xFFFFFFFF { g with
  lastBatch := 0xFFFFFFFF
  issuedBatches := 1
  opens := [tTm]
  batches := [⟨0xFFFFFFFF, [tTm], true, e⟩] }
theorem witness_Batches :
    (∃ g g1, tbatchForm.Issues (batchS none) g g1 ∧ g.opens ≠ [] ∧ g.lastBatch = 0xFFFFFFFF)
    ∧ (∃ g g1, tbatchForm.Issues base g g1 ∧ g.opens = [])
    ∧ (∃ g g1, twaitForm.Issues (batchS none) g g1 ∧ batchPending g ((rdS g 10).toNat % 2 ^ 32) = true)
    ∧ (∃ g g1, twaitForm.Issues base g g1 ∧ batchPending g ((rdS g 10).toNat % 2 ^ 32) = false)
    ∧ (∃ g, grp (batchS none) 0 = some g ∧ g.batches = [] ++ ⟨0xFFFFFFFF, [tTm], true, none⟩ :: [])
    ∧ ∃ g, grp (batchS (some [[5]])) 0 = some g ∧ g.batches = [⟨0xFFFFFFFF, [tTm], true, some [[5]]⟩] :=
  ⟨issues_of (by decide +kernel), issues_of (by decide +kernel), issues_of (by decide +kernel),
    issues_of (by decide +kernel), grp_of (by decide +kernel), grp_of (by decide +kernel)⟩

/-- A launch with TXN whose descriptor at 0x1000 names item 0, 128 scratchpad bytes and level 1; `it` changes the item. -/
def txS (it : Item → Item) (f : Group → Group) : State :=
  onItem it (onLaunch (fun l => { l with pkt := { l.pkt with txn := true } })
    (placeBytes (baseG fun g => f (putS 7 0x1000 { g with active := ends })) 0x1001008 (bytesLe 4 128 ++ [1])))
def txbForm : Form := ⟨.txbegin ⟨7⟩, .once, fun _ => ⟨[(true, 7)], [], []⟩, fun _ => dstNone⟩
def txDesc (s : State) (g : Group) : Nat :=
  natLe (readLoc s (who s s.ctl.cur g) (pageMode (l1ModeOf g false false) false) (.hbm 0x1001000) 64)

theorem witness_Txbegin_open : ∃ g g1, txbForm.Issues (txS id id) g g1 ∧ deadRead g [(true, 7)] = none
    ∧ (who (txS id id) 0 g).l.pkt.txn = true ∧ (who (txS id id) 0 g).it.committed = false ∧ g.txBegun = false
    ∧ check (txS id id) (who (txS id id) 0 g) .load 0x1000 64 = .ok (.hbm 0x1001000) false
    ∧ blockedBy (txS id id) [⟨0, 0x1000, .ok (.hbm 0x1001000) false⟩] 64 = none
    ∧ ((kfind (txS id id).run.items g.item).map (·.txOpen)) = some false
    ∧ descFail (who (txS id id) 0 g) (txDesc (txS id id) g) = none := issues_of (by decide +kernel)

def txBadLevel : State := placeBytes (txS id id) 0x100100C [13]
def txJoin (n : Nat) : State := txS (fun i => { i with txOpen := true, desc := n, rung := 3 }) id
theorem witness_Txbegin_others :
    (∃ g g1, txbForm.Issues base g g1 ∧ (who base 0 g).l.pkt.txn = false ∧ deadRead g [(true, 7)] = none)
    ∧ (∃ g g1, txbForm.Issues (txS id (putS 7 0x1020)) g g1 ∧ (rdS g 7).toNat % 64 ≠ 0)
    ∧ (∃ g g1, txbForm.Issues (txS (fun i => { i with index := 9 }) id) g g1
      ∧ descFail (who (txS (fun i => { i with index := 9 }) id) 0 g) (txDesc (txS (fun i => { i with index := 9 }) id) g)
        = some (cOPERAND, 0))
    ∧ (∃ g g1, txbForm.Issues (txJoin 0x1000) g g1 ∧ ((kfind (txJoin 0x1000).run.items g.item).map (·.desc)) = some 0x1000)
    ∧ ∃ g g1, txbForm.Issues (txJoin 0x1040) g g1 ∧ ((kfind (txJoin 0x1040).run.items g.item).map (·.desc)) = some 0x1040 :=
  ⟨issues_of (by decide +kernel), issues_of (by decide +kernel), issues_of (by decide +kernel),
    issues_of (by decide +kernel), issues_of (by decide +kernel)⟩

theorem witness_TxendAndTxabort :
    (∃ g g1, (plainForm .txend .once).Issues (txJoin 0) g g1
      ∧ ((kfind (txJoin 0).run.items g.item).getD Item.fresh).txOpen = true)
    ∧ (∃ g g1, (plainForm .txend .once).Issues (baseG fun g => { g with txEnded := true }) g g1 ∧ g.txEnded = true)
    ∧ (∃ g g1, (plainForm .txend .once).Issues base g g1 ∧ g.txEnded = false)
    ∧ (∃ g g1, (plainForm .txabort .once).Issues (txJoin 0) g g1
      ∧ ((kfind (txJoin 0).run.items g.item).getD Item.fresh).rung = 3)
    ∧ ∃ g g1, (plainForm .txabort .once).Issues (trapS 0 (some 2)) g g1
      ∧ ((kfind (trapS 0 (some 2)).run.items g.item).getD Item.fresh).rung ≠ 3
      ∧ ((kfind (trapS 0 (some 2)).run.items g.item).getD Item.fresh).txOpen = true
      ∧ ((kfind (trapS 0 (some 2)).run.items g.item).getD Item.fresh).abort = none :=
  ⟨issues_of (by decide +kernel), issues_of (by decide +kernel), issues_of (by decide +kernel),
    issues_of (by decide +kernel), issues_of (by decide +kernel)⟩

/-- A transaction ready to commit: one versioned byte of HBM and one of the scratchpad. -/
def commitS (trip : Bool) (rung : Nat) : State :=
  onItem (fun i => { i with
    txOpen := true
    trip := trip
    rung := rung
    vers := [.bytes 0x1001000 [7], .op ⟨0, 4, 0x1001000, 1, 0⟩]
    verScr := [(0, 8)] }) (baseG fun g => { g with txEnded := true, active := ends })
theorem witness_TransactionsCommitOrRestart : ∀ p ∈ [(false, 0), (true, 3), (true, 2)],
    (match (commitS p.1 p.2).run.items with
    | [(n, it)] => decide (it.saved = none ∧ it.abort = none ∧ it.txOpen = true ∧ it.ord = false ∧ it.checked = false
        ∧ it.gids.Nodup ∧ (launchOf (commitS p.1 p.2) it.launch).pkt.det = 0 ∧ commitWaits (commitS p.1 p.2) it = false
        ∧ (it.gids.all fun k => ((grp (commitS p.1 p.2) k).bind (·.hostAtom)).isNone) = true ∧ it.verScr.length = 1)
      && allEnded (commitS p.1 p.2) it && (commitS p.1 p.2).run.xfers.isEmpty && (commitS p.1 p.2).mem.ports.isEmpty
      && (commitS p.1 p.2).mem.remap.isEmpty && n == 0
    | _ => false) = true := by decide +kernel

/-! ### Engines and relay -/

/-- A record of one four-byte element at 0x1000: its control byte, first origin coordinate and last bytes. -/
def recBytes (ctrl org : Nat) (tail : List Byte) : List Byte :=
  bytesLe 7 0 ++ bytesLe 1 ctrl ++ [0, 0x88, 0x46, 2] ++ bytesLe 10 0 ++ bytesLe 2 org ++ bytesLe 29 0 ++ tail
def recG (g : Group) : Group := putS 4 0x1000 (putS 5 0x2000 (putS 6 0x3000 { g with active := ends }))
def recS (ctrl org : Nat) (xs : List Xfer) : State :=
  let s := placeBytes (baseG recG) 0x1001000 (recBytes ctrl org (bytesLe 75 0))
  { s with run := { s.run with xfers := xs } }
def recShape (ctrl org : Nat) : Shape := rawShape (recBytes ctrl org (bytesLe 75 0))

def tCf : CF := ⟨4, 5, 6, 15, 0⟩
def cpyForm : Form := ⟨.cpy tCf, .once, cfRegs tCf, fun _ => dstNone⟩
def chainForm : Form := ⟨.chain tCf, .once, cfRegs tCf, fun _ => dstNone⟩
def drainForm : Form :=
  ⟨.tdrainAdd ⟨2, 15, 6, 4, 0⟩, .once, fun g => ⟨[(true, 6), (true, 4)] ++ countReads g, [], []⟩, fun _ => dstNone⟩

/-- The hypotheses on a record and its ranges. -/
def recOk (s : State) (F : Form) (kind : XKind) (r : RecFor) (blocks ctrl org : Nat) (g : Group) : Bool :=
  let c := F.ctx s g
  let w := who s s.ctl.cur g
  let hs : List LaneHit := (List.range blocks).map fun k => ⟨k, 0x1000 + 64 * k, check s w .load (0x1000 + 64 * k) 64⟩
  let places := (List.range blocks).map fun k => (Loc.hbm (0x1001000 + 64 * k), false)
  let b := places.flatMap fun p => readLoc s w (pageMode (l1ModeOf g false false) p.2) p.1 64
  let sh := recShape ctrl org
  let x : Xfer := mkXfer c kind 15 sh (if kind = .drainAdd then 0 else 0x2000) 0x3000 none
  (deadRead g (F.regs g).reads).isNone && decide (hs.map (·.hit) = places.map (fun p => Hit.ok p.1 p.2))
    && decide (blockedBy s hs 64 = none) && okB (parseShape b r w.l.img.levels.length (ldimOf w.l)) sh
    && decide (kind = .drainAdd → sh.side = true ∧ drainUsable sh = true)
    && decide (kind = .chain → (sh.side = true → sh.osize = sh.esize)
      ∧ chainFail false 0 ((List.range 8).map fun k => recAt b (64 + 8 * k) 8) = none)
    && decide (windowTrap c s .engWrite (writeRanges x) = none) && decide (windowTrap c s .engRead (readRanges x) = none)
    && okB (countArg c) none && !(regBusy (noteAll s w .load hs) w (writeRanges x))

def tXfer (n : Nat) : Xfer :=
  ⟨n, .cpy, 0, 0, 0, 0, 0, 15, recShape 6 0, 0x2000, 0x3000, [], [], none, false, [], 0, false, none, 0, 0, [], [], []⟩

theorem witness_EngineInstructions :
    (∃ g g1, cpyForm.Issues (recS 6 0 []) g g1 ∧ recOk (recS 6 0 []) cpyForm .cpy .copy 1 6 0 g = true
      ∧ hasRoom (recS 6 0 []) 0 = true ∧ (recShape 6 0).outOfBounds = false)
    ∧ (∃ g g1, cpyForm.Issues (recS 0x46 5 []) g g1 ∧ recOk (recS 0x46 5 []) cpyForm .cpy .copy 1 0x46 5 g = true
      ∧ (recShape 0x46 5).outOfBounds = true)
    ∧ (∃ g g1, chainForm.Issues (recS 6 0 []) g g1 ∧ recOk (recS 6 0 []) chainForm .chain .chain 2 6 0 g = true
      ∧ (l1Blocks (recS 6 0 []) 0).length + 2 ≤ 256)
    ∧ (∃ g g1, drainForm.Issues (recS 0x26 0 []) g g1 ∧ recOk (recS 0x26 0 []) drainForm .drainAdd .copy 1 0x26 0 g = true
      ∧ (namesTile g.opens 2 || g.batches.any fun b => namesTile b.tm 2) = false)
    ∧ hasRoom (recS 6 0 ((List.range 96).map tXfer)) 0 = false ∧ hasRoom (recS 6 0 ((List.range 95).map tXfer)) 0 = true :=
  ⟨issues_of (by decide +kernel), issues_of (by decide +kernel), issues_of (by decide +kernel),
    issues_of (by decide +kernel), by decide +kernel, by decide +kernel⟩

/-- The transfer of one element in flight, and the poison of its source. -/
def xferS (poison : List Nat) : State :=
  let s := recS 6 0 [tXfer 9]
  { s with mem := { s.mem with poison := poison } }
theorem witness_TransfersComplete : readVas (tXfer 9) = [some 0x2000] ∧ writeVas (tXfer 9) = [(0, 0x3000)]
    ∧ (xferS []).run.xfers.find? (fun y => y.id == 9) = some (tXfer 9) ∧ (tXfer 9).shape.osize = (tXfer 9).shape.esize
    ∧ (tXfer 9).old = [] ∧ (tXfer 9).inTx = false ∧ (tXfer 9).pos = 0
    ∧ (∀ e ∈ (xferS []).run.launches, e.2.armWait = []) ∧ (grp (xferS []) 0).isSome = true
    ∧ resolve (xferS []) (xferWho (xferS []) (tXfer 9)) .engRead 0x2000 4 = .ok (.hbm 0x1002000) false
    ∧ resolve (xferS []) (xferWho (xferS []) (tXfer 9)) .engWrite 0x3000 4 = .ok (.hbm 0x1003000) false
    ∧ ownedSince (xferS []) (tXfer 9) 9 (.hbm 0x1002000, 4) = false
    ∧ ownedSince (xferS []) (tXfer 9) (regOf (xferS []) (tXfer 9) (.hbm 0x1003000)) (.hbm 0x1003000, 4) = false
    ∧ issueStopped (xferS []) = false ∧ (xferS []).mem.remap = []
    ∧ resolve (xferS [8]) (xferWho (xferS [8]) (tXfer 9)) .engRead 0x2000 4
      = .trap cPOISON := by decide +kernel

def cpywaitForm : Form := plainForm (.cpywait ⟨0x8000⟩) .once
def rlywaitForm : Form := ⟨.rlywait ⟨0x8001, 9⟩, .once, fun _ => ⟨[], [], [(true, 9)]⟩, fun _ => dstS 9⟩
def tagS (n st : Nat) : State := baseG fun g => { g with tags := [(15, ⟨n, st⟩)] }
theorem witness_Waits : (∃ g g1, cpywaitForm.Issues (tagS 1 0) g g1 ∧ (kget ⟨0, 0⟩ g.tags 15).left ≠ 0)
    ∧ (∃ g g1, rlywaitForm.Issues (tagS 0 7) g g1 ∧ (∀ k, k < 16 → (kget ⟨0, 0⟩ g.tags k).left = 0)
      ∧ (kget ⟨0, 0⟩ g.tags 15).status ≠ 0 ∧ (kget ⟨0, 0⟩ g.tags 0).status = 0) :=
  ⟨issues_of (by decide +kernel), issues_of (by decide +kernel)⟩

/-- RLYWAIT writes the mask of the tags with a status and the status of the lowest of them (17 R394). -/
theorem test_value_rlywait : (after (.rlywait ⟨3, 9⟩) (baseG fun g => { g with tags := [(1, ⟨0, 6⟩)] })).map (rdS · 9)
    = some 0x60002 := by decide +kernel

/-- Two levels, and a record for a collective over level 2 at 0x1000: ROP 1, a grid of 2, 1 and 1 ranks along axis 0,
replicated. -/
def rlyBytes (ctrl org : Nat) : List Byte :=
  bytesLe 7 0 ++ bytesLe 1 ctrl ++ [0, 0x88, 0x46, 2] ++ bytesLe 10 0 ++ bytesLe 2 org ++ bytesLe 29 0
    ++ [1, 2, 1, 1, 9] ++ bytesLe 6 0
def rlyS (lasts : KMap Nat) (baton : W64) : State :=
  onLaunch (fun l => { l with
    img := { l.img with levels := [⟨1, 64, 1, 64⟩, ⟨1, 2, 1, 2⟩] }
    lasts := lasts })
    (placeBytes (baseG fun g => putS 5 baton (recG g)) 0x1001000 (rlyBytes 6 0))
def rlyForm (i : Instr) : Form := ⟨i, .once, cfRegs tCf, fun _ => dstNone⟩
def rlyShape : Shape := { rawShape (rlyBytes 6 0) with osize := 4 }

def rlyOk (s : State) (i : Instr) (src : Nat) (kind : XKind) (g : Group) : Bool :=
  let c := (rlyForm i).ctx s g
  let w := who s s.ctl.cur g
  let x := mkXfer c kind 15 rlyShape src 0x3000 none
  (deadRead g ((rlyForm i).regs g).reads).isNone && decide (check s w .load 0x1000 64 = .ok (.hbm 0x1001000) false)
    && decide (blockedBy s [⟨0, 0x1000, .ok (.hbm 0x1001000) false⟩] 64 = none)
    && okB (parseShape (readLoc s w (pageMode (l1ModeOf g false false) false) (.hbm 0x1001000) 64) .rly
        w.l.img.levels.length (ldimOf w.l)) (rawShape (rlyBytes 6 0))
    && decide (windowTrap c s .engWrite (destRanges rlyShape rlyShape.ranksIn 0x3000) = none)
    && decide (windowTrap c s .engRead (readRanges x) = none) && okB (countArg c) none && hasRoom s w.core
    && (rlyShape.outOfBounds == false) && (kfind s.run.launches g.launch).isSome
    && !(regBusy (noteAll s w .load [⟨0, 0x1000, .ok (.hbm 0x1001000) false⟩]) w
      (destRanges rlyShape rlyShape.ranksIn 0x3000))

/-- LAST is 3 on the group's rank, and the instance of baton 2 runs or is over. -/
def lastS (baton : W64) (colls : List Coll) : State :=
  let w := who (rlyS [] baton) 0 ((grp (rlyS [] baton) 0).getD Group.fresh)
  let s := rlyS [(lastKey 0x1000 2 (rankAt w 2).own, 3)] baton
  { s with run := { s.run with colls := colls } }
def runsColl : Coll :=
  ⟨5, 0, 2, 0, 2, some 0x1000, [0, 1], rlyShape, [⟨0, 0, 8, [], true, false, []⟩], [], [], false, [0, 1], [], [], [], []⟩
def startsFor (s : State) (g : Group) (k : Coll) : Bool :=
  let r := rankAt (who s 0 g) 2
  k.launch == g.launch && k.level == 2 && k.inst == r.inst && k.persistent == some 0x1000
    && k.ord == (rdS g 5).toNat && k.parts.any fun q => q.rank == r.rank && !q.done
theorem witness_RelayInstructions_last :
    (∃ g g1, (rlyForm (.rlystart tCf)).Issues (lastS 2 [runsColl]) g g1
      ∧ rlyOk (lastS 2 [runsColl]) (.rlystart tCf) 0 .rlystart g = true
      ∧ (lastS 2 [runsColl]).run.colls.find? (startsFor (lastS 2 [runsColl]) g) = some runsColl
      ∧ (rdS g 5).toNat ≤ kget 0 (launchOf (lastS 2 []) 0).lasts (lastKey 0x1000 2 (rankAt (who (lastS 2 []) 0 g) 2).own))
    ∧ (∃ g g1, (rlyForm (.rlystart tCf)).Issues (lastS 3 [runsColl]) g g1
      ∧ rlyOk (lastS 3 [runsColl]) (.rlystart tCf) 0 .rlystart g = true
      ∧ (lastS 3 [runsColl]).run.colls.find? (startsFor (lastS 3 [runsColl]) g) = none
      ∧ (rdS g 5).toNat = kget 0 (launchOf (lastS 3 []) 0).lasts (lastKey 0x1000 2 (rankAt (who (lastS 3 []) 0 g) 2).own))
    ∧ ∃ g g1, (rlyForm (.rlystart tCf)).Issues (lastS 5 []) g g1
      ∧ rlyOk (lastS 5 []) (.rlystart tCf) 0 .rlystart g = true
      ∧ kget 0 (launchOf (lastS 5 []) 0).lasts (lastKey 0x1000 2 (rankAt (who (lastS 5 []) 0 g) 2).own) + 1 < 5 :=
  ⟨issues_of (by decide +kernel), issues_of (by decide +kernel), issues_of (by decide +kernel)⟩
/-- RLYSTART of an instance that is over ends with RELAY_STALE (7), and of one that runs joins it (09 R208). -/
theorem test_rlystart_last :
    nextB (exec (.rlystart tCf) (lastS 3 [runsColl])) (fun t => grpB t 0 fun g => decide (kget ⟨0, 0⟩ g.tags 15 = ⟨0, 7⟩)) = true
    ∧ nextB (exec (.rlystart tCf) (lastS 2 [runsColl])) (fun t => grpB t 0 fun g =>
        decide (kget ⟨0, 0⟩ g.tags 15 = ⟨1, 0⟩ ∧ t.run.xfers.map (·.coll) = [some (5, 0)])) = true := by decide +kernel

theorem witness_RelayInstructions :
    (∃ g g1, (rlyForm (.rly tCf)).Issues (rlyS [] 0x2000) g g1 ∧ rlyOk (rlyS [] 0x2000) (.rly tCf) 0x2000 .rly g = true)
    ∧ (∃ g g1, (rlyForm (.rlystart tCf)).Issues (rlyS [] 0) g g1 ∧ rlyOk (rlyS [] 0) (.rlystart tCf) 0 .rlystart g = true
      ∧ (rdS g 5).toNat = 0)
    ∧ (∃ g g1, (rlyForm (.rlystart tCf)).Issues (rlyS [] 1) g g1 ∧ rlyOk (rlyS [] 1) (.rlystart tCf) 0 .rlystart g = true
      ∧ (rdS g 5).toNat = 1)
    ∧ (∃ g g1, (rlyForm (.rlystart tCf)).Issues (rlyS [] 0xFFFFFFFF) g g1 ∧ (rdS g 5).toNat < 2 ^ 32
      ∧ rlyOk (rlyS [] 0xFFFFFFFF) (.rlystart tCf) 0 .rlystart g = true)
    ∧ ∃ g g1, (rlyForm (.rlystart tCf)).Issues (rlyS [] 0x100000000) g g1 ∧ 2 ^ 32 ≤ (rdS g 5).toNat
      ∧ rlyOk (rlyS [] 0x100000000) (.rlystart tCf) 0 .rlystart g = true :=
  ⟨issues_of (by decide +kernel), issues_of (by decide +kernel), issues_of (by decide +kernel),
    issues_of (by decide +kernel), issues_of (by decide +kernel)⟩

/-- A collective of two ranks whose transfers are in flight; `left` is what chunk 0 still awaits. -/
def collS (started : Bool) (left : Nat) (arrived : List Nat) : State :=
  let x (n : Nat) : Xfer := { tXfer n with kind := .rly, shape := rlyShape, coll := some (5, n) }
  let p (n : Nat) : RankPart := ⟨n, n, n, bytesLe 4 (7 + n), started, false, []⟩
  let k : Coll := ⟨5, 0, 2, 0, 1, none, [0, 1], rlyShape, [p 0, p 1], [⟨0, 0, left, arrived, []⟩], [], false, [0, 1], [],
    [], [], []⟩
  { rlyS [] 0 with run := { (rlyS [] 0).run with xfers := [x 0, x 1], colls := [k] } }
def theColl (s : State) : Coll := s.run.colls.headD ⟨0, 0, 0, 0, 0, none, [], rlyShape, [], [], [], false, [], [], [], [], []⟩
theorem witness_CollectivesAdvance :
    (let s := collS false 2 []
     (collOf s 5).isSome = true ∧ ((theColl s).part 1).map (·.started) = some false
      ∧ prevDone s (theColl s).launch (theColl s).level (theColl s).inst (theColl s).persistent (theColl s).ord 1 = true)
    ∧ (let s := collS true 2 []
     let k := theColl s
     (k.partAt 1).map (fun p => (p.started, p.done, p.data.length)) = some (true, false, 4) ∧ k.here.contains 1 = true
      ∧ ((k.partAt 1).map fun p => k.hasRead p) = some true
      ∧ k.mismatch = false ∧ k.joined = true ∧ reduces k.shape = true ∧ k.names 0 0 1 = true
      ∧ k.has 0 0 1 = false ∧ k.spilled = [] ∧ (launchOf s k.launch).pkt.det = 0 ∧ k.lands 0 = true
      ∧ Coll.targets s k 0 1 = [] ∧ slotsTaken s < 2048)
    ∧ (let s := collS true 0 [1, 0]
     let k := theColl s
     let c := k.chunk (counterDst k.shape 1) 0
     let bs := reduceBytes k.shape (c.arrived.map fun n => k.bytesOf (counterDst k.shape 1) 0 n)
     k.mismatch = false ∧ k.shape.rop ≠ 6 ∧ k.region = [] ∧ k.progress = [] ∧ issueStopped s = false ∧ idleCore s = true
      ∧ (k.partAt 1).map (fun p => (p.started, p.done)) = some (true, false)
      ∧ c.left = 0 ∧ 0 < destChunks k ∧ c.written.contains 1 = false ∧ k.part 1 = k.partAt 1
      ∧ bs = bytesLe 4 15
      ∧ ((k.partAt 1).bind (partXfer s)).map (fun x => (x.coll, x.parked)) = some (some (5, 1), false)
      ∧ ((k.partAt 1).bind (partXfer s)).map (fun x => (resolve s (xferWho s x) .engWrite x.dst 4,
          ownedSince s x (regOf s x (.hbm 0x1003000)) (.hbm 0x1003000, 4))) = some (.ok (.hbm 0x1003000) false, false)) := by
  decide +kernel

/-- Every relay slot in use and no spill region: 2,048 chunks of another collective are kept. -/
def slotsS : State :=
  let s := collS true 2 []
  let k := theColl s
  { s with run := { s.run with colls := [k, { k with id := 6, spilled := (List.range 2048).map fun n => (0, n, 0) }] } }
theorem witness_CollectivesAdvance_full : 2048 ≤ slotsTaken slotsS ∧ regionFree slotsS 0 = none
    ∧ (theColl slotsS).region = [] := by decide +kernel

/-! ### Management, the host's side -/

def tQueue : Queue := ⟨4, 4, 127, 0, false, 0x10000, 0x20000, 0xFFFFFFFF, 0xFFFFFFFF, false, 0, 3, 3, []⟩
def tSrc : Src := ⟨some 5, 0, 7, 2⟩
/-- A queue 5, an ASID 3, graph nodes, beside the running launch of queue 0 and ASID 0. -/
def hostS (q : Queue) : State := { base with
  host := { base.host with queues := [(5, q)] }
  mem := { base.mem with asids := [(0, 0), (3, 0x8000)], invals := [⟨1, 3, 0, 0, tSrc⟩, ⟨2, 3, 0, 0x1000, tSrc⟩] } }

theorem witness_Settings : (State.reset.part.hists[5]?).isSome = true ∧ State.reset.run.launches = []
    ∧ 32 * 0 + 8 * 1 ≤ hbmSize State.reset.part.dies ∧ poisoned State.reset.mem 0 = false
    ∧ (let c : Cryo := { State.reset.part.cryo with started := true, state := 4 }
      c.started = true ∧ c.state = 4)
    ∧ (base.run.launches.any fun e => spansPackages e.2) = false
    ∧ ((onLaunch (fun l => { l with img := { l.img with levels := [⟨5, 1, 1, 64⟩, ⟨8, 2, 1, 2⟩] } }) base).run.launches.any
        fun e => spansPackages e.2) = true := by decide +kernel

theorem witness_QueuesAndAddressSpaces : queueInUse (hostS tQueue) 5 = false ∧ queueInUse (hostS tQueue) 0 = true
    ∧ queueInUse (hostS { tQueue with widx := 0 }) 5 = true ∧ asidInUse (hostS tQueue) 3 = false
    ∧ asidInUse (hostS tQueue) 0 = true ∧ kfind (hostS tQueue).mem.asids 255 = none
    ∧ 0x8000 + 2 ^ 15 ≤ hbmSize (hostS tQueue).part.dies
    ∧ ((hostS tQueue).mem.invals.find? fun x => x.id == 2) = some ⟨2, 3, 0, 0x1000, tSrc⟩
    ∧ invalWaits (hostS tQueue) ⟨2, 3, 0, 0x1000, tSrc⟩ = false
    ∧ srcCan (hostS tQueue) tSrc = true
    ∧ invalWaits { hostS tQueue with mem := { (hostS tQueue).mem with walks := [⟨1, 3, 0xFFF, 0, false, .window⟩] } }
        ⟨2, 3, 0, 0x1000, tSrc⟩ = true := by decide +kernel

def tWin (phase : Nat) : LoadWin := ⟨tSrc, 0x80, 0, 0x3FFFFFFC, 4, 0, phase, false, [0x2000000]⟩
def winS (n : Nat) : State := { hostS tQueue with part := { (hostS tQueue).part with win := some (tWin n) } }
theorem witness_LoadWindow : kfind (hostS tQueue).host.queues (tSrc.queue.getD 0) = some tQueue
    ∧ kfind (hostS tQueue).mem.asids tQueue.asid = some 0 ∧ ¬ 2 ^ (hostS tQueue).part.dies.length ≤ 0x80
    ∧ ¬ 2 ^ 30 < 0x3FFFFFFC + 4 ∧ (hostS tQueue).part.win = none ∧ (dieAt (hostS tQueue) 7).state ≠ 2
    ∧ (winS 1).part.win = some (tWin 1) ∧ srcCan (winS 1) tSrc = true ∧ srcCan (winS 2) tSrc = true
    ∧ (∀ k, k < 4 → ownedLoc (winS 1) (.hbm (0x2000000 + k)) 1 = false) ∧ (winS 1).mem.aborts = []
    ∧ dieBusy (winS 1) 7 = false ∧ dieBusy (winS 1) 0 = true
    ∧ (winS 2).part.win = some (tWin 2) := by decide +kernel

/-- A window of two pages of ASID 0: both translate, the second lies outside the global window, or it faults, with a
record free or its first walk met by an engine. -/
def beginS (va : Nat) (xs : List Xfer) : State := { base with
  run := { base.run with xfers := xs }
  host := { base.host with queues := [(5, { tQueue with asid := 0 })] }
  part := { base.part with win := some ⟨tSrc, 0x80, va, 0, 0x1001, 0, 0, false, []⟩ } }
def pageOk (s : State) (va : Nat) : Bool :=
  match translate s 0 0 va .load with
  | .ok _ => decide (va < 0xF0000000000000)
  | .error _ => false
def pageError (s : State) (va : Nat) : Option Nat :=
  match translate s 0 0 va .load with
  | .ok _ => none
  | .error e => some e.1
theorem witness_LoadWindow_begins :
    (srcCan (beginS 0x1000 []) tSrc = true ∧ pageOk (beginS 0x1000 []) 0x1000 = true
      ∧ pageOk (beginS 0x1000 []) 0x2000 = true)
    ∧ ¬ 0xEFFFFFFFFFF000 < 0xF0000000000000 - 0x1000
    ∧ (pageOk (beginS 0xFFF000 []) 0xFFF000 = true ∧ ((pageError (beginS 0xFFF000 []) 0x1000000).map fun c =>
        (decide (c = walkBusy), poolFull (beginS 0xFFF000 []) 0xFF 0 0x1000000 false)) = some (false, false)) := by
  decide +kernel

/-- The group parked on a fault record of its access to 0x5000000, with a walk under way for it. -/
def faultS (st : GStat) : State :=
  let s := baseG fun g => { g with stat := st, trapvec := 0x800, parkLanes := ends, parkDst := 3, parkNext := 4 }
  { s with mem := { s.mem with
    faults := [(9, ⟨0, 0x5000000, false, 0, 1, false, 0, [(.group 0, 0x5000000, 0)]⟩)]
    walks := [⟨4, 0, 0x1000, 0, false, .group 0⟩] } }
theorem witness_Faults : (∃ g, grp (faultS .parkFault) 0 = some g ∧ g.stat = .parkFault
      ∧ (faultS .parkFault).mem.walks.find? (fun x => x.id == 4) = some ⟨4, 0, 0x1000, 0, false, .group 0⟩
      ∧ (match walk (faultS .parkFault) (coreDie (faultS .parkFault).part.dies 0) 0 0x1000 with
        | .ok t => (permFault (accOfKind 0) t).isNone
        | .error _ => false) = true
      ∧ kfind (faultS .parkFault).mem.faults 8 = none ∧ (kfind (faultS .parkFault).mem.faults 9).isSome = true
      ∧ g.trapDue = none ∧ Deliverable (faultS .parkFault) g) := grp_of (by decide +kernel)
/-- The walk of the parked group's access to 0x5000000, which is not mapped; the record of it is free or pending. -/
def failS (recs : KMap FaultRec) : State :=
  let s := faultS .parkFault
  { s with mem := { s.mem with faults := recs, walks := [⟨4, 0, 0x5000000, 0, false, .group 0⟩] } }
def tRec : FaultRec := ⟨0, 0x5000000, false, 0, 1, false, 0, [(.group 3, 0x5000008, 1)]⟩
theorem witness_Faults_again : ∀ recs ∈ [[], [(9, tRec)]],
    (failS recs).mem.walks.find? (fun x => x.id == 4) = some ⟨4, 0, 0x5000000, 0, false, .group 0⟩
    ∧ (match walk (failS recs) (coreDie (failS recs).part.dies 0) 0 0x5000000 with
      | .ok _ => false
      | .error c => decide (c ≠ walkBusy)) = true
    ∧ poolFull (failS recs) (coreDie (failS recs).part.dies 0) 0 0x5000000 false = false
    ∧ recordOf (failS recs) (coreDie (failS recs).part.dies 0) 0 0x5000000 false = recs.head? := by decide +kernel

/-- Nine paths in a parked SIG_MISMATCH: the running one and eight pending. -/
def pathsS (n : Nat) : State := modGrp (faultS (.parkTrap cSIG)) 0 fun g => { g with
  active := 1
  stack := (List.range n).flatMap fun k => [.pend (0x100 + 4 * k) (2 <<< k), .div 0x400 (BitVec.ofNat 64 (2 ^ (k + 2) - 1))] }
theorem witness_Parks_paths : (∃ g, grp (pathsS 7) 0 = some g ∧ ((splitGroup g).split.map fun l => l.1.length) = some 8)
    ∧ ∃ g, grp (pathsS 8) 0 = some g ∧ ((splitGroup g).split.map fun l => l.1.length) = some 9
      ∧ canPost (pathsS 8) 0 = true := ⟨grp_of (by decide +kernel), grp_of (by decide +kernel)⟩
theorem witness_Parks_paths_abort :
    let s := onItem (fun i => { i with txOpen := true, rung := 0 }) (pathsS 8)
    ∃ g, grp s 0 = some g ∧ ((splitGroup g).split.map fun l => l.1.length) = some 9
      ∧ ((kfind s.run.items g.item).map fun i => (i.txOpen, i.rung)) = some (true, 0) := grp_of (by decide +kernel)
theorem witness_Parks : (∃ g, grp (faultS (.parkTrap cSIG)) 0 = some g ∧ isParked g = true ∧ g.stat = .parkTrap cSIG
      ∧ 0 < coreCount (faultS .parkDog).part.dies ∧ ((kfind base.run.items g.item).map (·.gids)) = some [0])
    ∧ (∃ g, grp (faultS .parkDog) 0 = some g ∧ isParked g = true)
    ∧ (∃ g, grp (faultS .run) 0 = some g ∧ isParked g = false) ∧ coreCount base.part.dies ≤ 2047 :=
  ⟨grp_of (by decide +kernel), grp_of (by decide +kernel), grp_of (by decide +kernel), by decide +kernel⟩

/-- Doorbell values at the limits: RIDX and WIDX 0xFFFF_FFFF, 16 entries. -/
theorem witness_Doorbells :
    let ahead (k : Nat) : Nat := (k + 2 ^ 32 - tQueue.ridx) % 2 ^ 32
    kfind (hostS tQueue).host.queues 5 = some tQueue ∧ kfind (hostS tQueue).host.queues 32767 = none
      ∧ ahead tQueue.widx ≤ ahead 15 ∧ ahead 15 ≤ 2 ^ tQueue.size ∧ 2 ^ tQueue.size < ahead 16
      ∧ tQueue.head ≤ 3 ∧ 3 ≤ tQueue.seq ∧ tQueue.seq - tQueue.head ≤ 2 ^ tQueue.csize ∧ tQueue.seq < 4
      ∧ 2 < tQueue.head ∧ canPost (hostS tQueue) 0 = true ∧ (hostS tQueue).host.doors = [] := by decide +kernel

def apS (busy : Bool) (xs : List Xfer) : State := { base with
  host := { base.host with busy := busy }
  run := { base.run with xfers := xs } }
theorem witness_Aperture : (apS false []).host.stalled = [] ∧ (apS true []).host.busy = true
    ∧ ownedBy (apS false []).run.xfers 0 0x1000 8 = false
    ∧ ownedBy (apS false [{ tXfer 1 with owned := [(0x1007, 128, 1)] }]).run.xfers 0 0x1000 8 = true
    ∧ hbmSize base.part.dies = 16 * 2 ^ 36 ∧ poisoned base.mem 0x1000 = false ∧ base.host.apbase % 2 ^ 36 = 0 := by
  decide +kernel

/-- A packet at the head of queue 5, its first bytes given. -/
def packS (bs : List Byte) (q : Queue) (nodes : KMap Node) : State :=
  let s := hostS { q with widx := 0 }
  { s with
    mem := { s.mem with host := writeCells s.mem.host (0x10000 + 15 * 64) bs }
    host := { s.host with nodes := nodes }
    part := { s.part with cryo := { s.part.cryo with started := true, state := 2 } } }
def headBytes (s : State) : Option (List Byte) := (headPacket s 5).map (·.2)
def kindOf (s : State) : Option (Nat × Nat × Nat) :=
  (headBytes s).map fun b => (packetKind b, (packetOf b).gnode, (packetOf b).npred)
theorem witness_HeadPackets :
    kindOf (packS [1, 0, 0, 0, 2] tQueue []) = some (2, 0, 0)
    ∧ kindOf (packS (bytesLe 20 1 ++ bytesLe 4 (9 + 3 * 2 ^ 18)) tQueue []) = some (0, 9, 3)
    ∧ (packS [] tQueue []).part.cryo.state ≠ 6 ∧ tQueue.busy = false ∧ canPost (packS [] tQueue []) 5 = true
    ∧ nodeAt (packS [] tQueue [(9, ⟨-4, 0, true, 0⟩)]) 9 = ⟨-4, 0, true, 0⟩
    ∧ nodeAt (packS [] tQueue [(9, ⟨0, 2, false, 0⟩)]) 9 = ⟨0, 2, false, 0⟩
    ∧ (kfind (packS [] tQueue [(9, ⟨1, 1, true, 0⟩)]).run.launches 0).isSome = true := by decide +kernel

/-! ### Scheduling -/

theorem witness_PacketsAreChosen :
    (let s := packS (bytesLe 20 1) tQueue []
     (∀ e ∈ s.run.launches, e.2.stat ≠ .reading false) ∧ s.part.cryo.started = true ∧ s.part.cryo.state ≠ 6
      ∧ (headCands s ++ nodeCands s).map (·.queue) = [some 5] ∧ kindOf s = some (0, 0, 0) ∧ s.part.inv.valid = true
      ∧ (headBytes s).map (fun b => ((packetOf b).clean, (packetOf b).mode, (packetOf b).image % 4096,
          (packetOf b).ext, (packetOf b).lcount)) = some (true, 0, 0, 0, 0)
      ∧ kfind s.mem.asids tQueue.asid ≠ none)
    ∧ (let s := packS (bytesLe 4 1 ++ bytesLe 4 1) tQueue []
     kindOf s = some (1, 0, 0) ∧ (headCands s ++ nodeCands s).length = 1)
    ∧ (let s := packS (bytesLe 20 1) tQueue []
     let s := { s with host := { s.host with queues := [], nodes := [(9, ⟨0, 2, false, 0⟩)] } }
     let s := onLaunch (fun l => { l with stat := .node, ready := true }) s
     ((headCands s ++ nodeCands s).map fun c => (c.queue, c.lid)) = [(none, 0)])
    ∧ headCands base ++ nodeCands base = [] := by decide +kernel

/-- A launch of one item, nothing of it placed. -/
def freshS : State :=
  let s := onLaunch (fun l => { l with nextItem := 0 }) base
  { s with run := { s.run with items := [], groups := [] }
           part := { s.part with cryo := { s.part.cryo with started := true, state := 2 } } }
theorem witness_WorkItems : freshS.part.cryo.started = true ∧ freshS.part.cryo.state ≠ 6
    ∧ (∀ e ∈ freshS.run.launches, placeLost e.2 = false)
    ∧ (firstFit freshS (placeCands freshS)).map (·.1) = some 0
    ∧ (firstFit freshS (placeCands freshS)).map (·.2.1) = some [0]
    ∧ (firstFit freshS (placeCands freshS)).map (·.2.2.1) = some [(0, 0, [(0, 1)])]
    ∧ (firstFit freshS (placeCands freshS)).map (·.2.2.2) = some 0
    ∧ isSavedUnit freshS 0 [0] = false ∧ (blockedCands freshS (placeCands freshS)).length = 0 := by decide +kernel

theorem witness_GroupsEnd : (∃ g, grp (baseG fun g => { g with stat := .ended }) 0 = some g
      ∧ mayEnd (baseG fun g => { g with stat := .ended }) 0 g = true
      ∧ ((kfind base.run.items g.item).map fun i => (i.gids, i.saved)) = some ([0], none))
    ∧ (∃ g, grp base 0 = some g ∧ mayEnd base 0 g = false) := ⟨grp_of (by decide +kernel), grp_of (by decide +kernel)⟩

def doneS (succs : List Nat) : State :=
  let s := onLaunch (fun l => { l with succs := succs, status := if succs = [] then 0 else 9, stat := .finished, queue := 5 })
    (hostS tQueue)
  { s with run := { s.run with items := [], groups := [] } }
theorem witness_LaunchesEnd : ∀ p ∈ [[], [9]],
    (kfind (doneS p).run.launches 0).isSome = true ∧ launchDone (doneS p) 0 (launchOf (doneS p) 0) = true
    ∧ canPost (doneS p) 5 = true ∧ (launchOf (doneS p) 0).pkt.det ≠ 1
    ∧ (launchOf (doneS p) 0).succs = p ∧ (launchOf (doneS p) 0).record = none
    ∧ (p ≠ [] ∨ (launchOf (doneS p) 0).status = 0) ∧ tQueue.held = [] ∧ tQueue.seq - tQueue.head ≠ 2 ^ tQueue.csize ∧ (nodeAt (doneS p) 9).state = 0
    ∧ launchDone base 0 (launchOf base 0) = false := by decide +kernel

/-- A QUANTUM launch of two items, the first resident since cycle 0. -/
def sliceS (clk : Nat) (it : Item → Item) (f : Group → Group) : State :=
  let s := onItem it (onLaunch (fun l => { l with
    pkt := { l.pkt with mode := 2, lcount := 2 }
    ext := { l.ext with resv := 0x100000, resvsize := 8 } }) (baseG f))
  { s with ctl := { s.ctl with clk := clk, si := clk * 372 }
           part := { s.part with cryo := { s.part.cryo with started := true, state := 2 } } }
theorem witness_Slices :
    (let s := sliceS (2 ^ 20) id id
     let i := (kfind s.run.items 0).getD Item.fresh
     let l := launchOf s i.launch
     (kfind s.run.items 0).isSome = true ∧ l.pkt.mode = 2 ∧ i.saved = none ∧ i.placed + 2 ^ 20 ≤ s.ctl.clk
      ∧ othersWait s i = true ∧ itemsPerGang l.img ≤ 1 ∧ mayAsk s i 1 = true ∧ reservedHolds s i.launch l 0 1 = true)
    ∧ (let s := onLaunch (fun l => { l with ext := { l.ext with resvsize := 0 } }) (sliceS (2 ^ 20) id id)
     let i := (kfind s.run.items 0).getD Item.fresh
     reservedHolds s i.launch (launchOf s i.launch) 0 1 = false)
    ∧ (let s := sliceS (50 * acMhz 0) (fun i => { i with preempt := some 1 }) id
     let i := (kfind s.run.items 0).getD Item.fresh
     i.preempt ≠ none ∧ i.asked + 50 * siUnits ≤ s.ctl.si ∧ replaying (launchOf s 0) = false
      ∧ (grp s 0).map (fun g => (g.stat, readsWork s 0 g)) = some (.run, false))
    ∧ (let s := sliceS 0 id fun g => { g with wait := some .barrier, idle := 20000 }
     (grp s 0).map (fun g => (g.stat, waitNow s 0 g, decide (10 * s.host.wdogMs ≤ g.idle))) = some (.run, some .barrier, true)
      ∧ canPost s 0 = true ∧ s.part.cryo.state ≠ 6) := by
  decide +kernel

theorem witness_Saves :
    (let s := sliceS 0 (fun i => { i with preempt := some 1 }) fun g => { g with stat := .stopped (.live liveAll) }
     let i := (kfind s.run.items 0).getD Item.fresh
     i.gids = [0] ∧ i.preempt ≠ none ∧ i.saved = none ∧ i.saveParked = false ∧ saveReady s 0 i = true
      ∧ (grp s 0).map (fun g => (g.stat, readsWork s 0 g)) = some (.stopped (.live liveAll), false)
      ∧ (grp s 0).map (fun g => slotsOf g.stack) = some 0 ∧ replaying (launchOf s i.launch) = false
      ∧ itemsPerGang (launchOf s i.launch).img ≤ 1 ∧ saveFault s (launchOf s i.launch) i.launch i.die = none)
    ∧ (let s := sliceS 0 (fun i => { i with preempt := some 1 }) fun g => { g with stat := .parkDog }
     let i := (kfind s.run.items 0).getD Item.fresh
     i.preempt = some 1 ∧ i.saved = none ∧ i.saveParked = false ∧ itemParked s i = true
      ∧ replaying (launchOf s i.launch) = false) := by decide +kernel

/-- The item saved, its group stopped at a boundary. -/
def savedS : State :=
  let s := sliceS 0 (fun i => { i with
    saved := some [{ (grp base 0).getD Group.fresh with stat := .stopped .boundary }]
    gids := []
    cores := [] }) id
  let s := onLaunch (fun l => { l with waiting := [0] }) s
  { s with run := { s.run with groups := [] } }
theorem witness_Restores :
    let i := (kfind savedS.run.items 0).getD Item.fresh
    (i.saved.map fun l => l.map (·.stat)) = some [.stopped .boundary] ∧ i.saveParked = false ∧ i.gids = []
      ∧ (firstFit savedS (placeCands savedS)).map (·.1) = some 0
    ∧ (firstFit savedS (placeCands savedS)).map (·.2.1) = some [0]
    ∧ (firstFit savedS (placeCands savedS)).map (·.2.2.1) = some [(0, 0, [(0, 1)])]
    ∧ (firstFit savedS (placeCands savedS)).map (·.2.2.2) = some 0
      ∧ (savedItem savedS 0 0).map (·.1) = some 0
      ∧ loadFault savedS (launchOf savedS i.launch) i.launch 0 i = none := by decide +kernel

def askS (order : Nat) (asks : List PacerReq) (f : Group → Group) : State :=
  let s := sliceS 0 id f
  { s with host := { s.host with order := order, asks := asks } }
def tAsk : PacerReq := ⟨0, .batch 0 1, 2 ^ 25, 5⟩
theorem witness_Leave : (∃ g, grp (baseG fun g => { g with pq := { g.pq with write := some 0xFFFF } }) 0 = some g
      ∧ g.pq.write = some 0xFFFF)
    ∧ (∃ g, grp (baseG fun g => { g with pq := { g.pq with held := some 65536 } }) 0 = some g ∧ g.pq.held = some 65536)
    ∧ nextAsk (askS 1 [⟨0, .reserve 0, 1, 4⟩, tAsk] id) 0 = some tAsk
    ∧ nextAsk (askS 0 [⟨0, .reserve 0, 1, 4⟩, tAsk] id) 0 = some ⟨0, .reserve 0, 1, 4⟩
    ∧ (askS 1 [tAsk] id).part.cryo.state ≠ 6
    ∧ Int.ofNat tAsk.weight ≤ accountOf (askS 1 [tAsk] id) 0 ∧ didtAllows (askS 1 [tAsk] id) 0 tAsk.weight = true
    ∧ didtAllows { askS 1 [tAsk] id with host := { (askS 1 [tAsk] id).host with didt := 1 } } 0 (2 ^ 30) = false
    ∧ base.host.capW = dissipation base.part.inv.grade ∧ base.part.cryo.cls = 0 :=
  ⟨grp_of (by decide +kernel), grp_of (by decide +kernel), by decide +kernel⟩

def workS (kind ntiles pool : Nat) : State := onLaunch (fun l => { l with
  workQ := [⟨0, 5⟩]
  ext := { l.ext with dkind := kind, iters := 3, ntiles := ntiles }
  pool := pool }) base
theorem witness_Work : ∀ p ∈ [(0, 4, 0), (1, 4, 0), (1, 0, 0), (2, 4, 3), (2, 4, 4)],
    let s := workS p.1 p.2.1 p.2.2
    let l := launchOf s 0
    l.workQ = [⟨0, 5⟩] ∧ (grp s 0).isSome = true ∧ (kfind s.run.items 0).isSome = true ∧ replaying l = false
      ∧ ((kfind s.run.items 0).map fun i => (i.index, i.cursor, i.popped)) = some (0, 0, [])
      ∧ (l.ext.dkind, l.ext.iters, l.ext.ntiles, l.pool) = (p.1, 3, p.2.1, p.2.2) ∧ itemCount l = 1 := by decide +kernel

/-! ### The part -/

/-- A reading of every sensor at one temperature. -/
def allReads (t : Nat) : List Reading :=
  (List.range 9).flatMap fun p => (List.range (if p = 8 then 2 else 4)).map fun i => ⟨p, i, t⟩
def coldS (f : Cryo → Cryo) : State :=
  { State.reset with part := { State.reset.part with cryo := f { State.reset.part.cryo with
    started := true
    state := 4
    temp := 100000
    hist := [100000]
    first := 100000 } } }

theorem witness_Cold_first : ∀ t ∈ [64999, 65000, 95000, 95001, 160000, 160001, 330000, 330001],
    State.reset.part.cryo.started = false ∧ fullSample State.reset (validReadings State.reset (allReads t)) = true
    ∧ ((validReadings State.reset (allReads t)).map (·.temp)).max? = some t := by decide +kernel

theorem witness_Cold_sample : (coldS id).part.cryo.started = true ∧ (coldS id).part.cryo.change = none
    ∧ rampOf (coldS id).part.cryo 120001 = 20001 ∧ rampOf (coldS id).part.cryo 69999 = -30001
    ∧ rampOf (coldS id).part.cryo 120000 = 20000
    ∧ (∃ a ∈ (⟨0, 0, 90000⟩ :: ⟨0, 1, 100001⟩ :: allReads 95000 : List Reading),
        ∃ b ∈ (⟨0, 0, 90000⟩ :: ⟨0, 1, 100001⟩ :: allReads 95000 : List Reading),
          a.pos = b.pos ∧ a.idx < b.idx ∧ a.temp + 10000 < b.temp) := by decide +kernel

theorem witness_Cold_requests : (coldS fun c => { c with reqs := [(.warmup, tSrc)] }).part.cryo.reqs = [(.warmup, tSrc)]
    ∧ (coldS fun c => { c with state := 6, reqs := [(.safeExit, tSrc)] }).part.cryo.state = 6
    ∧ (8 ∈ sensedPos State.reset ∧ 1 < sensorsAt 8) ∧ ¬ 2 < sensorsAt 8
    ∧ (coldS fun c => { c with state := 2, hold := 3000001 }).part.cryo.hold = 3000001 := by decide +kernel

theorem witness_Cold_classes :
    (coldS fun c => { c with change := some ⟨1, true⟩ }).part.cryo.waiting = []
    ∧ issueStopped (coldS fun c => { c with change := some ⟨1, true⟩ }) = true
    ∧ State.reset.part.ws[7]? = some ⟨0, none, true, false⟩ ∧ (State.reset.part.hists[5]?).isSome = true
    ∧ (coldS fun c => { c with refreshOn := false }).part.cryo.refreshOn = false ∧ canPost (coldS id) 0 = true := by
  decide +kernel

def histS (n thresh : Nat) : State := { hostS tQueue with part := { (hostS tQueue).part with
  hists := (hostS tQueue).part.hists.set 1 { counts := [(7, n)], thresh := thresh, written := [] } } }
theorem witness_Errors : ∀ p ∈ [(65535, 3), (65534, 65535), (4, 9)],
    ((histS p.1 p.2).part.hists[1]?).map (fun h => (kget 0 h.counts 7, h.thresh)) = some p := by decide +kernel
/-- Queue 0's ring with 4,096 records held back can take no more (13 R275). -/
def fullS (f : Part → Part) : State := { hostS tQueue with
  host := { (hostS tQueue).host with queues := [(0, { tQueue with held := List.replicate 4096 ⟨1, 5, []⟩ })] }
  part := f (hostS tQueue).part }
theorem witness_full : canPost (fullS id) 0 = false ∧ (fullS id).part.hists.length = 6
    ∧ ((fullS fun p => { p with links := p.links }).part.links[0]?).map (·.down) = some false
    ∧ 23 ∉ (fullS id).part.stride.downPorts ∧ (grp (fullS id) 0).isSome = true := by decide +kernel
theorem witness_Uncorrectable_drain :
    let x := { tXfer 9 with kind := .drainAdd }
    let s := { recS 6 0 [x] with ctl := base.ctl }
    s.run.xfers.find? (fun y => y.id == 9) = some x ∧ x.kind = .drainAdd ∧ (nextAdd x).toList = [0] := by decide +kernel
theorem witness_Uncorrectable : (∃ g, grp base 0 = some g ∧ g.stat = .run ∧ canPost base 0 = true
      ∧ (xferS []).run.xfers.find? (fun y => y.id == 9) = some (tXfer 9) ∧ (tXfer 9).kind = .cpy
      ∧ ((kfind base.run.items g.item).map fun i => (i.gids, i.txOpen, i.abort)) = some ([0], false, none))
    ∧ ∃ g, grp (faultS .parkDog) 0 = some g ∧ g.stat ≠ .run := ⟨grp_of (by decide +kernel), grp_of (by decide +kernel)⟩

/-- Die 1 in a state, with `frames` frames in the pool and one used region of die 0 at frame 8. -/
def diesS (d st : Nat) (frames : List Nat) (off : List Offlining) : State := { base with
  run := ⟨[], [], [], [], [], [], []⟩
  part := { base.part with
    dies := base.part.dies.set d { (dieAt base d) with state := st }
    pool := frames
    off := off } }
theorem witness_Dies :
    (1 < base.part.dies.length ∧ offRuns base 1 = false ∧ (dieAt base 1).state = 0)
    ∧ ((dieAt (diesS 0 2 [] []) 0).state = 2)
    ∧ offRuns (diesS 0 1 [] [⟨0, false, tSrc, [8]⟩]) 0 = true
    ∧ ((onlineDies base).length ≠ 1 ∧ framesLeft base 0 < (usedRegions base 0).length)
    ∧ (let s := diesS 0 0 ((List.range 9).map (· + 0x10000)) []
      (usedRegions s 0).length ≤ framesLeft s 0 ∧ (onlineDies s).length ≠ 1)
    ∧ (let s := diesS 0 1 [] []
      (dieAt s 0).state = 1 ∧ dieBusy s 0 = false ∧ offRuns s 0 = false
        ∧ framesLeft s 0 < (usedRegions s 0).length)
    ∧ (let s := diesS 0 1 ((List.range 9).map (· + 0x10000)) []
      (dieAt s 0).state = 1 ∧ offRuns s 0 = false ∧ (usedRegions s 0).length ≤ framesLeft s 0)
    ∧ (onlineDies { base with part := { base.part with dies := base.part.dies.map fun d =>
        { d with state := if d.pos = 7 then 0 else 2 } } }).length = 1 := by decide +kernel

theorem witness_DiesMove :
    (let s := diesS 0 1 [0x10000] [⟨0, false, tSrc, [8]⟩]
     kwf 0 s.mem.hbm = true ∧ s.part.off.find? (fun o => o.regions.contains 8) = some ⟨0, false, tSrc, [8]⟩
      ∧ freeFrames s = [0x10000] ∧ s.mem.remap = [])
    ∧ (let s := diesS 0 1 [] [⟨0, false, tSrc, []⟩]
     s.part.off.find? (fun o => offReady s o && srcCan s o.src && canPosts s 0 2) = some ⟨0, false, tSrc, []⟩)
    ∧ base.part.off.find? (fun o => offReady base o && srcCan base o.src && canPosts base 0 2) = none
    ∧ (base.part.links[0]?).map (·.down) = some false := by decide +kernel

def strideS (f : Stride → Stride) : State :=
  { State.reset with part := { State.reset.part with stride := f State.reset.part.stride } }
def tPkt (round : Nat) : StridePkt := ⟨5, 1, round, updateFlit 0 ⟨1, 2, 3, true⟩⟩
theorem witness_Stride :
    (23 < 24 ∧ 23 ∉ State.reset.part.stride.downPorts ∧ State.reset.part.stride.unreachable = []
      ∧ canPost State.reset 0 = true)
    ∧ (kfind (strideS fun x => { x with seen := [(1, 3)] }).part.stride.seen 1 = some 3)
    ∧ ((strideS fun x => { x with unacked := [tPkt 14] }).part.stride.unacked.find? fun q => q.seq == 5) = some (tPkt 14)
    ∧ ((strideS fun x => { x with unacked := [tPkt 15], unreachable := [1] }).part.stride.unacked.find? fun q => q.seq == 5)
      = some (tPkt 15)
    ∧ flitGood (updateFlit 0 ⟨1, 2, 3, true⟩) = true
    ∧ flitGood (0 :: updateFlit 0 ⟨1, 2, 3, true⟩) = false := by decide +kernel

theorem witness_StrideFlits : State.reset.part.pkgid = 0
    ∧ (∀ k ∈ [5, 0, 4], flitGood (mkFlit 0 1 0 0 k 7 [9]) = true ∧ flitKind (mkFlit 0 1 0 0 k 7 [9]) = k
      ∧ flitDst (mkFlit 0 1 0 0 k 7 [9]) = 0 ∧ flitSrc (mkFlit 0 1 0 0 k 7 [9]) = 1)
    ∧ flitDst (mkFlit 127 1 0 0 2 7 []) = 127
    ∧ flitSeq (mkFlit 0 1 0 0 0 0 []) = kget 0 State.reset.part.stride.expect 1
    ∧ flitSeq (mkFlit 0 1 0 0 0 6 []) < kget 0 (strideS fun x => { x with expect := [(1, 7)] }).part.stride.expect 1 := by
  decide +kernel

theorem witness_Services : State.reset.part.store.seq < 2 ∧ 1 ≤ State.reset.part.store.seq
    ∧ State.reset.part.fwStaged = none := by decide +kernel

/-- A launch whose record waits in its ring's buffer, or has been posted. -/
def recordS (held : List Record) : State :=
  onLaunch (fun l => { l with record := some ⟨1, 5, []⟩ }) (hostS { tQueue with held := held } |> onLaunch fun l =>
    { l with queue := 5, stat := .finished })
theorem witness_LaunchesEnd_record : ∀ h ∈ [[⟨1, 5, []⟩], []],
    (launchOf (recordS h) 0).record = some ⟨1, 5, []⟩ ∧ (launchOf (recordS h) 0).succs = []
    ∧ (launchOf (recordS h) 0).status = 0 ∧ (kfind (recordS h).host.queues 5).map (·.held) = some h := by decide +kernel

theorem witness_Cold_more : (coldS fun c => { c with retrain := [(0, 64)] }).part.cryo.retrain ≠ []
    ∧ (coldS fun c => { c with state := 1, hold := 600001 }).part.cryo.hold = 600001
    ∧ (coldS fun c => { c with silent := [(8, 1)] }).part.cryo.silent = [(8, 1)] := by decide +kernel

theorem witness_StrideUp : 23 ∈ (strideS fun x => { x with downPorts := [23] }).part.stride.downPorts
    ∧ State.reset.part.compat = false
    ∧ (strideS fun x => { x with downPorts := [23] }).part.stride.unreachable = [] := by decide +kernel

theorem witness_UltraEthernet : hostReach base 0x1000 8 = true ∧ hostReach base (16 * 2 ^ 36) 8 = false
    ∧ base.mem.remap = [] := by decide +kernel

end Sys2Proof.Tests
end

section
/-! Rings, records and events (13 R274, R275): what posting leaves unchanged, and that the record reaches its ring. -/

namespace Sys2Proof.Machine

/-! ### Sparse data and bytes -/

/-- A map whose values are changed in place keeps its keys. -/
theorem kfind_mapValues {α β : Type} (m : KMap α) (f : α → β) (i : Nat) :
    kfind (m.map fun e => (e.1, f e.2)) i = (kfind m i).map f := by
  induction m with
  | nil => rfl
  | cons e t ih =>
    obtain ⟨k, v⟩ := e
    by_cases h : k = i <;> simp [kfind_cons, h, ih]

/-- A filter by key hides the other keys and no more. -/
theorem kfind_filterKeys {α : Type} (m : KMap α) (p : Nat → Bool) (i : Nat) :
    kfind (m.filter fun e => p e.1) i = if p i then kfind m i else none := by
  induction m with
  | nil => simp
  | cons e t ih =>
    obtain ⟨k, v⟩ := e
    by_cases hp : p k = true <;> by_cases hk : k = i
    · subst hk; simp [hp, kfind_cons]
    · simp [hp, kfind_cons, hk, ih]
    · subst hk; simp [hp, ih]
    · simp [hp, kfind_cons, hk, ih]

/-- Bytes written are read back. -/
theorem readCells_writeCells_same (m : List Host.Cell) (a : Nat) (bs : List Byte) :
    readCells (writeCells m a bs) a bs.length = bs := by
  apply List.ext_getElem
  · simp [readCells]
  · intro i _ hi
    have h := kget_writeCells m a (a + i) bs
    rw [if_pos (by omega)] at h
    simpa [readCells, hi] using h

@[simp] theorem drop_bytesLe {n k : Nat} (x : Nat) (h : n ≤ k) : (bytesLe n x).drop k = [] :=
  List.drop_eq_nil_of_le (by simpa using h)

/-- The first bytes of a list, read one by one. -/
theorem take_map_getD_range (l : List Byte) (n k : Nat) (hk : k ≤ n) (hl : k ≤ l.length) :
    ((List.range n).map fun i => l.getD i 0).take k = l.take k := by
  apply List.ext_getElem
  · simp; omega
  · intro i h₁ h₂
    have hi : i < l.length := by simp at h₂; omega
    simp [hi]

/-! ### What posting leaves unchanged -/

@[simp] theorem post_run (s : State) (qi : Nat) (r : Record) : (post s qi r).run = s.run := by
  unfold post; split
  · rfl
  · split <;> rfl

@[simp] theorem post_part (s : State) (qi : Nat) (r : Record) : (post s qi r).part = s.part := by
  unfold post; split
  · rfl
  · split <;> rfl

/-- Of the memories, posting writes host memory alone. -/
theorem post_mem (s : State) (qi : Nat) (r : Record) : ∃ h, (post s qi r).mem = { s.mem with host := h } := by
  unfold post; split
  · exact ⟨_, rfl⟩
  · split <;> exact ⟨_, rfl⟩

/-- Of the host interface only rings move: queues alone change, and of a queue its ring's position and buffer alone. -/
def OnlyRings (h h' : HostIf) : Prop :=
  ∃ qs, h' = { h with queues := qs }
    ∧ ∀ k q, kfind h.queues k = some q → ∃ n r, kfind qs k = some { q with seq := n, held := r }

theorem OnlyRings.refl (h : HostIf) : OnlyRings h h := ⟨h.queues, rfl, fun _ q hq => ⟨q.seq, q.held, hq⟩⟩

theorem OnlyRings.put (h : HostIf) (qi : Nat) (x : Queue) (n : Nat) (r : List Record) (hx : kfind h.queues qi = some x) :
    OnlyRings h { h with queues := kins h.queues qi { x with seq := n, held := r } } := by
  refine ⟨_, rfl, fun k q hq => ?_⟩
  by_cases hk : qi = k
  · subst hk
    obtain rfl : x = q := by simpa [hx] using hq
    exact ⟨n, r, kfind_kins_self _ _ _⟩
  · exact ⟨q.seq, q.held, by rw [kfind_kins_ne _ _ hk]; exact hq⟩

theorem OnlyRings.nodes {h h' : HostIf} (hr : OnlyRings h h') : h'.nodes = h.nodes := by
  obtain ⟨qs, rfl, _⟩ := hr
  rfl

/-- A queue keeps everything but its ring's position and buffer. -/
theorem OnlyRings.queue {h h' : HostIf} (hr : OnlyRings h h') {k : Nat} {q : Queue} (hq : kfind h.queues k = some q) :
    ∃ n r, kfind h'.queues k = some { q with seq := n, held := r } := by
  obtain ⟨qs, rfl, hkeep⟩ := hr
  exact hkeep k q hq

theorem post_host (s : State) (qi : Nat) (r : Record) : OnlyRings s.host (post s qi r).host := by
  unfold post
  split
  · exact OnlyRings.refl _
  next x hx =>
    split
    · exact OnlyRings.put s.host qi x x.seq _ hx
    · exact OnlyRings.put s.host qi x _ x.held hx

@[simp] theorem postEvent_run (s : State) (type queue : Nat) (body : List Byte) :
    (postEvent s type queue body).run = s.run := post_run _ _ _

@[simp] theorem postEvent_part (s : State) (type queue : Nat) (body : List Byte) :
    (postEvent s type queue body).part = s.part := post_part _ _ _

theorem postEvent_mem (s : State) (type queue : Nat) (body : List Byte) :
    ∃ h, (postEvent s type queue body).mem = { s.mem with host := h } := post_mem _ _ _

theorem postEvent_host (s : State) (type queue : Nat) (body : List Byte) :
    OnlyRings s.host (postEvent s type queue body).host := post_host _ _ _

/-! ### The record reaches its ring -/

/-- The 64 bytes of a record in its slot (13 R274). -/
def recordBytes (q : Queue) (r : Record) : List Byte :=
  bytesLe 2 r.type ++ bytesLe 1 ((q.seq / 2 ^ q.csize + 1) % 2) ++ bytesLe 1 0 ++ bytesLe 2 r.queue ++ bytesLe 2 0
    ++ bytesLe 4 q.ridx ++ bytesLe 4 0 ++ bytesLe 8 q.seq ++ bytesLe 8 0
    ++ (List.range 32).map fun i => r.payload.getD i 0

theorem ringWrite_host (m : Mem) (q : Queue) (r : Record) :
    (ringWrite m q r).host = writeCells m.host (q.cring + q.seq % 2 ^ q.csize * 64) (recordBytes q r) := rfl

/-- The slot holds the record once it is written. -/
theorem readCells_ringWrite (m : Mem) (q : Queue) (r : Record) :
    readCells (ringWrite m q r).host (q.cring + q.seq % 2 ^ q.csize * 64) 64 = recordBytes q r := by
  have h := readCells_writeCells_same m.host (q.cring + q.seq % 2 ^ q.csize * 64) (recordBytes q r)
  rwa [show (recordBytes q r).length = 64 by simp [recordBytes], ← ringWrite_host] at h

/-- The fields of a record's header, at the offsets of R274. -/
theorem recordBytes_fields (q : Queue) (r : Record) (hty : r.type < 2 ^ 16) (hcn : r.queue < 2 ^ 16) :
    let f (o n : Nat) : Nat := natLe (((recordBytes q r).drop o).take n)
    f 0 2 = r.type ∧ f 2 1 = (q.seq / 2 ^ q.csize + 1) % 2 ∧ f 3 1 = 0 ∧ f 4 2 = r.queue ∧ f 6 2 = 0
      ∧ f 8 4 = q.ridx % 2 ^ 32 ∧ f 12 4 = 0 ∧ f 16 8 = q.seq % 2 ^ 64 ∧ f 24 8 = 0 := by
  have hphase : (q.seq / 2 ^ q.csize + 1) % 2 < 256 := by omega
  simp [recordBytes, List.drop_append, natLe_bytesLe, Nat.mod_eq_of_lt hphase]
  omega

/-- The payload of a record stands from byte 32. -/
theorem recordBytes_payload (q : Queue) (r : Record) (p : List Byte) (hp : p.length ≤ 32)
    (hpay : r.payload.take p.length = p) : ((recordBytes q r).drop 32).take p.length = p := by
  have hlen : p.length ≤ r.payload.length := by
    have := congrArg List.length hpay
    simp only [List.length_take] at this
    omega
  have hdrop : (recordBytes q r).drop 32 = (List.range 32).map fun i => r.payload.getD i 0 := by
    simp [recordBytes, List.drop_append]
  rw [hdrop, take_map_getD_range r.payload 32 p.length hp hlen, hpay]

/-- A record posted at a state with the queues of `s` stands in its slot or in its ring's buffer. -/
theorem posted_post (s t : State) (qi : Nat) (r : Record) (p : List Byte)
    (hqs : t.host.queues = s.host.queues) (hty : r.type < 2 ^ 16) (hcn : r.queue < 2 ^ 16) (hp : p.length ≤ 32)
    (hpay : r.payload.take p.length = p) : Posted s (post t qi r) qi r.type r.queue p := by
  intro q hq
  have hqt : kfind t.host.queues qi = some q := by rw [hqs]; exact hq
  constructor
  · rintro ⟨hroom, hheld⟩
    have hpost : post t qi r = { t with
        mem := ringWrite t.mem q r
        host := { t.host with queues := kins t.host.queues qi { q with seq := q.seq + 1 } } } := by
      simp only [post, hqt]; rw [if_neg (by simp [hroom, hheld])]
    rw [hpost]
    dsimp only
    rw [readCells_ringWrite]
    obtain ⟨f0, f2, f3, f4, f6, f8, f12, f16, f24⟩ := recordBytes_fields q r hty hcn
    exact ⟨f0, f2, f3, f4, f6, f8, f12, f16, f24, recordBytes_payload q r p hp hpay, _,
      kfind_kins_self _ _ _, rfl, hheld⟩
  · intro hfull
    have hpost : post t qi r = { t with
        host := { t.host with queues := kins t.host.queues qi { q with held := q.held ++ [r] } } } := by
      simp only [post, hqt]; rw [if_pos hfull]
    rw [hpost]
    exact ⟨_, r, kfind_kins_self _ _ _, rfl, rfl, rfl, rfl, hpay⟩

/-- An event posted at a state with the queues of `s` reaches queue 0's ring, its payload padded to 24 bytes. -/
theorem told_postEvent (s t : State) (type : Nat) (body : List Byte) (hqs : t.host.queues = s.host.queues)
    (hty : type < 2 ^ 16) (hb : body.length ≤ 24) : Told s (postEvent t type 0 body) type body := by
  have hpad : (body ++ List.replicate (24 - body.length) 0).length = 24 := by simp; omega
  refine posted_post s (freshTime t).1 0 ⟨type, 0, _⟩ _ hqs hty (by simp) (by omega) ?_
  rw [hpad, List.take_left' (by simp)]
  apply List.ext_getElem (by simp; omega)
  intro i _ hi
  by_cases h : i < body.length <;> simp [List.getElem_append, h]

end Sys2Proof.Machine
end

section
/-! The state after reset, part reset, and the services of the management controller (01 R14, R15; 13 R283, R284). -/

namespace Sys2Proof.Machine

/-! ### Reset -/

theorem reset_mem_wf : State.reset.mem.wf = true := rfl

/-- The dies that an inventory record gives are online (01 R23; log entry 5). -/
theorem diesOf_online (r : InvRecord) : ∀ d ∈ diesOf r, d.state = 0 := by
  intro d hd
  unfold diesOf at hd
  split at hd
  · obtain ⟨p, _, rfl⟩ := List.mem_map.1 hd
    rfl
  · exact absurd hd List.not_mem_nil

/-- The inventory of log entry 4 has a die at each of the eight positions. -/
theorem diesOf_design_length : (diesOf InvRecord.design).length = 8 := by decide

/-! ### Attestation (13 R284) -/

/-- What every response leaves: one entry more in the part, and nothing else but the counter of the free values. -/
theorem spdmAnswer_frame (s : State) (code : Byte) (known : List Byte) :
    (spdmAnswer s code known).part
        = { s.part with spdm := s.part.spdm ++ [(code, known ++ freeBytes s.ctl.nonce)] }
      ∧ (spdmAnswer s code known).mem = s.mem ∧ (spdmAnswer s code known).run = s.run
      ∧ (spdmAnswer s code known).host = s.host := ⟨rfl, rfl, rfl, rfl⟩

/-- A request that is answered with these bytes and more is answered with these bytes. -/
theorem spdmAnswer_answers (s : State) (code : Byte) (known more : List Byte) :
    ∃ t body, Host.Outcome.next (spdmAnswer s code (known ++ more)) = (.next t : Host.Outcome State Fault Refusal)
      ∧ t.part = { s.part with spdm := s.part.spdm ++ [(code, known ++ body)] }
      ∧ t.mem = s.mem ∧ t.run = s.run ∧ t.host = s.host := by
  obtain ⟨hpart, hmem, hrun, hhost⟩ := spdmAnswer_frame s code (known ++ more)
  exact ⟨_, more ++ freeBytes s.ctl.nonce, rfl, by rw [hpart, List.append_assoc], hmem, hrun, hhost⟩

/-- VERSION lists SPDM 1.3. -/
theorem versionBytes : bytesLe 2 0x1300 = ([0x00, 0x13] : List Byte) := by decide

theorem exec_getVersion (s : State) :
    exec .getVersion s = .next (spdmAnswer s 0x04 (([0x00, 0x13] : List Byte) ++ [])) := by
  rw [List.append_nil, ← versionBytes]; rfl

/-! ### Inventory and firmware -/

theorem exec_reHarvestService (r : InvRecord) (s : State) : exec (.reHarvestService r) s
    = .next (if s.part.store.seq < r.seq then setPart s { s.part with store := r } else s) := rfl

/-- The firmware of a part reset: the staged image where it verifies and is not below the minimum (13 R283). -/
theorem bootFw_eq (p : Part) : bootFw p = match p.fwStaged with
    | some fw => if fw.signed = true ∧ p.fwMin ≤ fw.version then fw.version else p.fwVersion
    | none => p.fwVersion := by
  unfold bootFw
  cases p.fwStaged with
  | none => rfl
  | some fw => cases fw.signed <;> simp

end Sys2Proof.Machine

namespace Sys2Proof
open Sys2Proof.Machine

/-- Settles O7: every field of the reset state is given by its definition, and so is each die that the inventory lists. -/
theorem resetState : Obligations.ResetState := by
  unfold Obligations.ResetState
  exact ⟨reset_mem_wf, rfl, rfl, rfl, rfl, rfl, rfl, rfl, rfl, rfl, rfl, rfl, rfl, diesOf_design_length,
    diesOf_online InvRecord.design⟩

/-- Settles O60: the answers go through `spdmAnswer_answers`, a part reset is read off `resetPart`. -/
theorem attestationServicesAndReset : Obligations.AttestationServicesAndReset := by
  unfold Obligations.AttestationServicesAndReset
  refine ⟨?answers, fun _ _ => rfl, ?reHarvest, fun _ _ => rfl, ?partReset⟩
  case answers =>
    intro s a b c i code known h
    simp only [List.mem_cons, Prod.mk.injEq, List.not_mem_nil, or_false] at h
    rcases h with ⟨rfl, rfl, rfl⟩ | ⟨rfl, rfl, rfl⟩ | ⟨rfl, rfl, rfl⟩ | ⟨rfl, rfl, rfl⟩ | ⟨rfl, rfl, rfl⟩
      | ⟨rfl, rfl, rfl⟩ | ⟨rfl, rfl, rfl⟩
    · rw [exec_getVersion]; exact spdmAnswer_answers s _ _ []
    · exact spdmAnswer_answers s 0x61 [] []
    · exact spdmAnswer_answers s 0x63 [] spdmAlgorithms
    · exact spdmAnswer_answers s 0x01 [] []
    · exact spdmAnswer_answers s 0x02 [] []
    · exact spdmAnswer_answers s 0x03 [] []
    · have h := spdmAnswer_answers s 0x60 (measuresAt s.part a) []
      rwa [List.append_nil] at h
  case reHarvest =>
    intro s r
    rw [exec_reHarvestService]
    exact ⟨fun h => by rw [if_pos h]; rfl, fun h => by rw [if_neg (by omega)]⟩
  case partReset =>
    intro s
    exact ⟨resetPart s, rfl, rfl, rfl, rfl, rfl, rfl, rfl, rfl, rfl, rfl, rfl, rfl, rfl, bootFw_eq s.part, rfl, rfl,
      rfl, rfl⟩

end Sys2Proof
end

section
/-! Errors counted and consumed (11 R250 to R252, R258): the histograms, a group that halts, an engine element that stays
unwritten, a host read that is aborted. -/

namespace Sys2Proof.Machine

/-! ### Histograms (11 R258) -/

theorem exec_errorDetected (n unit b : Nat) (s : State) : exec (.errorDetected n unit b) s
    = .next (if b < histBuckets n ∧ !countWaits s n unit b then countError s n unit b else s) := rfl

/-- The table of R258: how many buckets a unit has. -/
theorem histBuckets_eq (n : Nat) : histBuckets n = if n = 0 then 64 else if n = 1 then 8 else if n = 2 then 16
    else if n = 3 then 16 else if n = 4 then 256 else if n = 5 then 64 else 0 := by
  rcases n with _ | _ | _ | _ | _ | _ | n <;> rfl

theorem histBuckets_le (n : Nat) : histBuckets n ≤ 256 := by
  rw [histBuckets_eq]; repeat' split
  all_goals omega

section
variable {s : State} {n unit b : Nat} {h : Hist}

/-- A count waits exactly when its event is due and has no room (13 R275). -/
theorem countWaits_iff (hh : s.part.hists[n]? = some h) (hu : unit < 65536) (hb : b < 65536) :
    countWaits s n unit b = true ↔ kget 0 h.counts (unit * 65536 + b) < 65535
      ∧ kget 0 h.counts (unit * 65536 + b) + 1 = h.thresh ∧ canPost s 0 = false := by
  simp [countWaits, countPosts, hh, Nat.mod_eq_of_lt hu, Nat.mod_eq_of_lt hb, and_assoc]

/-- A full bucket stays as it is. -/
theorem countError_saturated (hh : s.part.hists[n]? = some h) (hu : unit < 65536) (hb : b < 65536)
    (hfull : 65535 ≤ kget 0 h.counts (unit * 65536 + b)) : countError s n unit b = s := by
  simp only [countError, hh, Nat.mod_eq_of_lt hu, Nat.mod_eq_of_lt hb]
  rw [if_pos hfull]

/-- The histogram with one error more in a bucket. -/
def Hist.counted (h : Hist) (k : Nat) : Hist := { h with counts := kput 0 h.counts k (kget 0 h.counts k + 1) }

theorem Hist.counted_same (h : Hist) (k : Nat) : kget 0 (h.counted k).counts k = kget 0 h.counts k + 1 := by
  simp only [Hist.counted, kget_kput, if_pos]

theorem Hist.counted_other (h : Hist) {k j : Nat} (hj : j ≠ k) : kget 0 (h.counted k).counts j = kget 0 h.counts j := by
  simp only [Hist.counted, kget_kput, if_neg (Ne.symm hj)]

/-- The state with a histogram replaced. -/
def putHist (s : State) (n : Nat) (h : Hist) : State :=
  { s with part := { s.part with hists := s.part.hists.set n h } }

theorem putHist_get (hh : s.part.hists[n]? = some h) (h' : Hist) : (putHist s n h').part.hists[n]? = some h' := by
  obtain ⟨hn, _⟩ := List.getElem?_eq_some_iff.1 hh
  simp [putHist, hn]

/-- A bucket with room counts one more; at the threshold the event of R274 follows. -/
theorem countError_counts (hh : s.part.hists[n]? = some h) (hu : unit < 65536) (hb : b < 65536)
    (hroom : kget 0 h.counts (unit * 65536 + b) < 65535) :
    countError s n unit b = if kget 0 h.counts (unit * 65536 + b) + 1 = h.thresh then
      postEvent (putHist s n (h.counted (unit * 65536 + b))) 9 0
        (bytesLe 1 n ++ bytesLe 1 0 ++ bytesLe 2 unit ++ bytesLe 2 b
          ++ bytesLe 2 (kget 0 h.counts (unit * 65536 + b) + 1))
      else putHist s n (h.counted (unit * 65536 + b)) := by
  simp only [countError, hh, Nat.mod_eq_of_lt hu, Nat.mod_eq_of_lt hb]
  rw [if_neg (by omega)]
  rfl

end

/-! ### A group halts (11 R250 to R252; 10 R231) -/

/-- A group as KILL_GROUP and a halt leave it (10 R231). -/
def Group.halted (g : Group) : Group :=
  { g with
    stat := .ended
    wait := none
    hints := Hints.none
    replay := none
    trapDue := none
    split := none
    active := 0
    opens := []
    batches := []
    mon := .idle }

/-- A group of the launch learns that another has halted (11 R251). -/
def Group.told (lid n : Nat) (g : Group) : Group :=
  if g.launch = lid then { g with abandoned := g.abandoned ++ [n] } else g

theorem Group.told_self (n : Nat) (g : Group) {lid : Nat} (h : g.launch = lid) :
    g.told lid n = { g with abandoned := g.abandoned ++ [n] } := if_pos h

/-- Its registers are as before. -/
structure Group.SameRegs (g h : Group) : Prop where
  v : h.v = g.v
  s : h.s = g.s
  p : h.p = g.p

/-- It has ended, with no lane left. -/
def Group.Over (g : Group) : Prop := g.stat = .ended ∧ g.active = 0

theorem Group.over_halted (g : Group) : g.halted.Over := ⟨rfl, rfl⟩

theorem Group.told_over (lid n : Nat) (g : Group) (h : g.Over) : (g.told lid n).Over := by
  unfold Group.told; split <;> exact h

theorem Group.told_regs (lid n : Nat) (g : Group) : g.SameRegs (g.told lid n) := by
  unfold Group.told; split <;> exact ⟨rfl, rfl, rfl⟩

theorem Group.halted_regs (g : Group) : g.SameRegs g.halted := ⟨rfl, rfl, rfl⟩

theorem Group.SameRegs.trans {g h k : Group} (a : g.SameRegs h) (b : h.SameRegs k) : g.SameRegs k :=
  ⟨b.v.trans a.v, b.s.trans a.s, b.p.trans a.p⟩

/-- What the end of a group leaves in the groups. -/
theorem stopGroup_groups (s : State) (gid : Nat) (g : Group) (hg : grp s gid = some g) :
    ∃ n, (stopGroup s gid).run.groups
      = (kmod s.run.groups gid Group.halted).map fun e => (e.1, Group.told g.launch n e.2) := by
  refine ⟨groupNumber (launchOf s g.launch) ((kfind s.run.items g.item).getD Item.fresh) g.gidx, ?_⟩
  simp only [stopGroup, hg]
  unfold loseSwaps
  split <;> rfl

/-- The group that stops halts, the others of its launch learn of it, and every other is as before. -/
theorem grp_stopGroup (s : State) (gid : Nat) (g : Group) (hg : grp s gid = some g) : ∃ n, ∀ k,
    grp (stopGroup s gid) k
      = (grp s k).map fun x => Group.told g.launch n (if k = gid then x.halted else x) := by
  obtain ⟨n, h⟩ := stopGroup_groups s gid g hg
  refine ⟨n, fun k => ?_⟩
  rw [grp, h, kfind_mapValues, kfind_kmod]
  by_cases hk : gid = k
  · simp only [if_pos hk, if_pos hk.symm, Option.map_map, grp]; rfl
  · simp only [if_neg hk, if_neg (Ne.symm hk), grp]

/-- The killed mark of a launch, none where there is no launch. -/
def killedMark (s : State) (lid : Nat) : Option Bool := (kfind s.run.launches lid).map (·.killed)

theorem killedMark_modLaunch (s : State) (k lid : Nat) (f : Launch → Launch) (hf : ∀ l, (f l).killed = l.killed) :
    killedMark (modLaunch s k f) lid = killedMark s lid := by
  simp only [killedMark, modLaunch_launches, kfind_kmod]
  split
  · simp [Function.comp_def, hf]
  · rfl

theorem killedMark_loseSwaps (s : State) (g : Group) (lid : Nat) : killedMark (loseSwaps s g) lid = killedMark s lid := by
  unfold loseSwaps
  split
  · rfl
  · exact killedMark_modLaunch _ _ _ _ fun l => by split <;> rfl

theorem killedMark_markGone (s : State) (g : Group) (lid : Nat) : killedMark (markGone s g) lid = killedMark s lid :=
  killedMark_modLaunch _ _ _ _ fun l => by dsimp only; split <;> rfl

theorem killedMark_tellHalted (s : State) (k n lid : Nat) : killedMark (tellHalted s k n) lid = killedMark s lid :=
  killedMark_modLaunch s k lid _ fun _ => rfl

theorem killedMark_leaveWork (s : State) (gid lid : Nat) : killedMark (leaveWork s gid) lid = killedMark s lid := by
  have h := kfind_mapValues s.run.launches
    (fun l => { l with workQ := l.workQ.filter fun r => !(r.gid == gid) }) lid
  exact (congrArg (Option.map (·.killed)) h).trans (by rw [Option.map_map])

/-- Stopping a group kills no launch and spares none. -/
theorem killedMark_stopGroup (s : State) (gid lid : Nat) : killedMark (stopGroup s gid) lid = killedMark s lid := by
  unfold stopGroup
  split
  · rfl
  next g _ =>
    dsimp only
    rw [killedMark_tellHalted, killedMark_markGone]
    exact (killedMark_leaveWork _ gid lid).trans (killedMark_loseSwaps s g lid)

/-- Transfers run on, and of the host interface only requests for leave go. -/
theorem stopGroup_frame (s : State) (gid : Nat) : (stopGroup s gid).run.xfers = s.run.xfers
    ∧ (stopGroup s gid).host.queues = s.host.queues := by
  unfold stopGroup
  split
  · exact ⟨rfl, rfl⟩
  · unfold loseSwaps
    split <;> exact ⟨rfl, rfl⟩

/-! #### Every group of a work item stops -/

/-- Stopping some groups: what a state keeps, and that those groups are over. -/
structure Stopped (gids : List Nat) (s t : State) : Prop where
  xfers : t.run.xfers = s.run.xfers
  queues : t.host.queues = s.host.queues
  killed : ∀ lid, killedMark t lid = killedMark s lid
  groups : ∀ k g, grp s k = some g → ∃ h, grp t k = some h ∧ g.SameRegs h ∧ (k ∈ gids ∨ g.Over → h.Over)

theorem stopGroup_stopped (s : State) (gid : Nat) : Stopped [gid] s (stopGroup s gid) := by
  obtain ⟨hx, hq⟩ := stopGroup_frame s gid
  refine ⟨hx, hq, killedMark_stopGroup s gid, fun k g hk => ?_⟩
  cases hgid : grp s gid with
  | none =>
    have hsame : stopGroup s gid = s := by unfold stopGroup; rw [hgid]
    rw [hsame]
    refine ⟨g, hk, ⟨rfl, rfl, rfl⟩, ?_⟩
    rintro (hmem | hover)
    · rw [List.mem_singleton.1 hmem, hgid] at hk; exact absurd hk (by simp)
    · exact hover
  | some g₀ =>
    obtain ⟨n, h⟩ := grp_stopGroup s gid g₀ hgid
    rw [h k, hk]
    refine ⟨_, rfl, ?_, ?_⟩
    · split
      · exact g.halted_regs.trans (Group.told_regs _ _ _)
      · exact Group.told_regs _ _ _
    · intro hor
      apply Group.told_over
      split
      · exact g.over_halted
      next hne => exact hor.resolve_left fun hmem => hne (List.mem_singleton.1 hmem)

theorem Stopped.trans {a b : List Nat} {s t u : State} (h : Stopped a s t) (h' : Stopped b t u) :
    Stopped (a ++ b) s u := by
  refine ⟨h'.xfers.trans h.xfers, h'.queues.trans h.queues, fun l => (h'.killed l).trans (h.killed l),
    fun k g hk => ?_⟩
  obtain ⟨g₁, hg₁, hr₁, ho₁⟩ := h.groups k g hk
  obtain ⟨g₂, hg₂, hr₂, ho₂⟩ := h'.groups k g₁ hg₁
  refine ⟨g₂, hg₂, hr₁.trans hr₂, fun hor => ho₂ ?_⟩
  rw [List.mem_append, or_assoc] at hor
  rcases hor with ha | hb | hover
  · exact .inr (ho₁ (.inl ha))
  · exact .inl hb
  · exact .inr (ho₁ (.inr hover))

theorem stopGroups_stopped (gids : List Nat) (s : State) : Stopped gids s (gids.foldl stopGroup s) := by
  induction gids generalizing s with
  | nil =>
    exact ⟨rfl, rfl, fun _ => rfl,
      fun k g hk => ⟨g, hk, ⟨rfl, rfl, rfl⟩, fun h => h.resolve_left List.not_mem_nil⟩⟩
  | cons gid t ih => exact (stopGroup_stopped s gid).trans (ih (stopGroup s gid))

/-! #### The halt -/

/-- The launch of a killed group is marked. -/
theorem killedMark_mark (s : State) (lid : Nat) {l : Launch} (h : kfind s.run.launches lid = some l) :
    killedMark (modLaunch s lid fun l => { l with killed := true }) lid = some true := by
  simp [killedMark, kfind_kmod, h]

/-- What a kill leaves (10 R231; 11 R251), where the group's work item, if there is one, lists it. -/
theorem killGroup_stopped (s : State) (gid : Nat) (g : Group) (hg : grp s gid = some g)
    (hlisted : ∀ i, kfind s.run.items g.item = some i → gid ∈ i.gids) :
    ∃ gids, gid ∈ gids
      ∧ Stopped gids (modLaunch s g.launch fun l => { l with killed := true }) (killGroup s gid) := by
  unfold killGroup
  simp only [hg]
  cases hi : kfind s.run.items g.item with
  | none => exact ⟨[gid], by simp, by simpa [Item.fresh] using stopGroup_stopped _ gid⟩
  | some i =>
    dsimp only [Option.getD_some]
    split
    · refine ⟨i.gids, hlisted i hi, ?_⟩
      have h := stopGroups_stopped i.gids
        (modItem (modLaunch s g.launch fun l => { l with killed := true }) g.item abandonTx)
      exact ⟨h.xfers, h.queues, h.killed, h.groups⟩
    · exact ⟨[gid], by simp, stopGroup_stopped _ gid⟩

/-- Outside a transaction the other groups of the launch learn of it (11 R251). -/
theorem killGroup_tells (s : State) (gid : Nat) (g : Group) (hg : grp s gid = some g) {i : Item}
    (hi : kfind s.run.items g.item = some i) (htx : i.txOpen = false) (hab : i.abort = none) :
    ∃ n, ∀ k x, k ≠ gid → grp s k = some x → x.launch = g.launch →
      grp (killGroup s gid) k = some { x with abandoned := x.abandoned ++ [n] } := by
  have hkill : killGroup s gid = stopGroup (modLaunch s g.launch fun l => { l with killed := true }) gid := by
    unfold killGroup; simp [hg, hi, htx, hab]
  obtain ⟨n, h⟩ := grp_stopGroup (modLaunch s g.launch fun l => { l with killed := true }) gid g (by simpa using hg)
  refine ⟨n, fun k x hk hx hl => ?_⟩
  rw [hkill, h k, grp_modLaunch, hx, Option.map_some, if_neg hk, Group.told_self n x hl]

theorem exec_uncorrectableError_group (gid unit : Nat) (s : State) :
    exec (.uncorrectableError (.group gid) unit) s = .next (haltGroup s gid unit) := rfl

/-- The payload of the event of R252 for a group that consumes uncorrectable data. -/
def haltBody (s : State) (gid unit : Nat) (g : Group) : List Byte :=
  bytesLe 4 (launchIdOf s g) ++ bytesLe 2 (gid / 32) ++ bytesLe 1 (gid % 32) ++ bytesLe 1 1
    ++ bytesLe 7 g.pc ++ bytesLe 1 0x30 ++ bytesLe 8 unit

theorem haltGroup_eq (s : State) (gid unit : Nat) (g : Group) (hg : grp s gid = some g) (hu : unit < 7)
    (hp : canPost s 0 = true) : haltGroup s gid unit = postEvent (killGroup s gid) 6 0 (haltBody s gid unit g) := by
  unfold haltGroup
  simp only [hg]
  rw [if_neg (by simp [hp]; omega)]
  rfl

theorem haltGroup_refused (s : State) (gid unit : Nat) (h : 7 ≤ unit ∨ canPost s 0 = false) :
    haltGroup s gid unit = s := by
  unfold haltGroup
  split
  · rfl
  · exact if_pos (by simpa using h)

/-! ### Transfers and host reads (11 R250) -/

/-- The element at which a copy, a chain or an add-mode drain goes on stays unwritten. -/
theorem spoilXfer_eq (s : State) (x : Xfer) {bad : List Nat}
    (h : (x.kind = .cpy ∨ x.kind = .chain) ∧ bad = [x.pos + x.vals.length]
      ∨ x.kind = .drainAdd ∧ bad = (nextAdd x).toList) :
    spoilXfer s x = setXfer s { x with bad := x.bad ++ bad } := by
  unfold spoilXfer
  rcases h with ⟨hk | hk, rfl⟩ | ⟨hk, rfl⟩ <;> simp only [hk]

/-- A transfer replaced under its number is found there. -/
theorem find_setXfer (s : State) (n : Nat) (x y : Xfer) (hx : s.run.xfers.find? (fun z => z.id == n) = some x)
    (hid : y.id = x.id) : (setXfer s y).run.xfers.find? (fun z => z.id == n) = some y := by
  have hxn : x.id = n := by simpa using List.find?_some hx
  simp only [setXfer, List.find?_map]
  have hfun : ((fun z : Xfer => z.id == n) ∘ fun z => if z.id = y.id then y else z) = fun z => z.id == n := by
    funext z
    by_cases hz : z.id = y.id <;> simp [hz]
  rw [hfun, hx, Option.map_some, if_pos hid.symm]

theorem exec_uncorrectableError_xfer (n unit : Nat) (s : State) {x : Xfer}
    (hx : s.run.xfers.find? (fun z => z.id == n) = some x) :
    exec (.uncorrectableError (.xfer n) unit) s = .next (spoilXfer s x) := by
  change execUncorrectableError (.xfer n) unit s = _
  simp only [execUncorrectableError, hx]

theorem exec_uncorrectableError_hostRead (unit : Nat) (s : State) :
    exec (.uncorrectableError .hostRead unit) s = .next (spoilRead s) := rfl

/-- A host read that meets uncorrectable data gets a completer abort and nothing else happens. -/
theorem spoilRead_frame (s : State) : (spoilRead s).mem = s.mem ∧ (spoilRead s).run = s.run
    ∧ (spoilRead s).host.barOut = [] ∧ (spoilRead s).host.barStat = 2 := by
  unfold spoilRead
  split <;> exact ⟨rfl, rfl, rfl, rfl⟩

end Sys2Proof.Machine
end

section
/-! Dies that drain, go offline and return, the moves of their regions, and die links (01 R22 to R25; 06 R119). -/

namespace Sys2Proof.Machine

/-! ### Changes of the inventory (01 R19, R22) -/

/-- A change counts in GEN. -/
theorem noteInv_part (s : State) (die link : Nat) :
    (noteInv s die link).part = { s.part with gen := (s.part.gen + 1) % 2 ^ 32 } := postEvent_part _ _ _ _

@[simp] theorem noteInv_run (s : State) (die link : Nat) : (noteInv s die link).run = s.run := postEvent_run _ _ _ _

theorem noteInv_mem (s : State) (die link : Nat) : ∃ h, (noteInv s die link).mem = { s.mem with host := h } :=
  postEvent_mem _ _ _ _

/-- Its event names the die or the link. -/
theorem noteInv_told (s : State) (die link : Nat) : Told s (noteInv s die link) 7
    (bytesLe 4 ((s.part.gen + 1) % 2 ^ 32) ++ bytesLe 1 die ++ bytesLe 1 link) :=
  told_postEvent s _ 7 _ rfl (by decide) (by simp)

theorem setDieState_part (s : State) (d st : Nat) : (setDieState s d st).part = { s.part with
    dies := s.part.dies.set d { dieAt s d with state := st }
    gen := (s.part.gen + 1) % 2 ^ 32 } := noteInv_part _ _ _

@[simp] theorem setDieState_run (s : State) (d st : Nat) : (setDieState s d st).run = s.run := noteInv_run _ _ _

theorem setDieState_mem (s : State) (d st : Nat) : ∃ h, (setDieState s d st).mem = { s.mem with host := h } :=
  noteInv_mem _ _ _

/-- The die has the state that it was given. -/
theorem setDieState_die (s : State) {d : Nat} (st : Nat) (hd : d < s.part.dies.length) :
    (dieAt (setDieState s d st) d).state = st := by
  simp [dieAt, setDieState_part, hd]

/-- The stacks of a die stand in the part's table of stacks and nowhere else. -/
theorem setStacks_eq (s : State) (d st : Nat) :
    ∃ m, setStacks s d st = setPart s { s.part with stackState := m } := by
  unfold setStacks
  generalize List.range (dieAt s d).nstk = ks
  induction ks generalizing s with
  | nil => exact ⟨_, rfl⟩
  | cons k t ih =>
    rw [List.foldl_cons]
    obtain ⟨m, h⟩ := ih (setPart s { s.part with stackState := kput 0 s.part.stackState (stack0 s d + k) st })
    exact ⟨m, h⟩

/-! ### Requests that name a die (01 R23; 13 R279) -/

/-- The three requests. -/
def NamesDie (i : Instr) (src : Src) (d : Nat) : Prop :=
  i = .offline src d ∨ i = .offlineForced src d ∨ i = .restore src d

/-- The die can take a request: it exists, it is not offline, and none runs on it. -/
def CanTake (s : State) (d : Nat) : Prop := d < s.part.dies.length ∧ (dieAt s d).state ≠ 2 ∧ offRuns s d = false

section
variable {s : State} {src : Src} {d : Nat} {i : Instr}

theorem exec_offline : exec (.offline src d) s = .next (onDie s src d (normalOff s src d)) := rfl

theorem exec_offlineForced : exec (.offlineForced src d) s = .next (onDie s src d
    (if (dieAt s d).state = 0 then normalOff s src d
    else if dieBusy s d then mgmtDone s src 3 0 else forcedOff s src d)) := rfl

theorem exec_restore : exec (.restore src d) s = .next (onDie s src d
    (if (dieAt s d).state = 1 then mgmtDone (setDieState s d 0) src 0 0 else mgmtDone s src 5 0)) := rfl

/-- Every one of them runs under the checks of its die. -/
theorem exec_namesDie (h : NamesDie i src d) : ∃ f, exec i s = .next (onDie s src d f) := by
  rcases h with rfl | rfl | rfl
  · exact ⟨_, exec_offline⟩
  · exact ⟨_, exec_offlineForced⟩
  · exact ⟨_, exec_restore⟩

theorem onDie_absent (f : State) (h : s.part.dies.length ≤ d) : onDie s src d f = mgmtDone s src 6 0 := if_pos h

theorem onDie_offline (f : State) (h : d < s.part.dies.length) (hs : (dieAt s d).state = 2) :
    onDie s src d f = mgmtDone s src 4 0 := by
  unfold onDie; rw [if_neg (by omega), if_pos hs]

theorem onDie_busy (f : State) (h : d < s.part.dies.length) (hs : (dieAt s d).state ≠ 2) (hr : offRuns s d = true) :
    onDie s src d f = mgmtDone s src 3 0 := by
  unfold onDie; rw [if_neg (by omega), if_neg hs, if_pos hr]

theorem onDie_takes (f : State) (h : CanTake s d) : onDie s src d f = f := by
  obtain ⟨hd, hs, hr⟩ := h
  unfold onDie; rw [if_neg (by omega), if_neg hs, if_neg (by simp [hr])]

/-- OFFLINE of a die that can take it. -/
theorem exec_offline_takes (h : CanTake s d) : exec (.offline src d) s = .next (normalOff s src d) := by
  rw [exec_offline, onDie_takes _ h]

/-- From ONLINE a forced request is a normal one. -/
theorem exec_off_online (hi : NamesDie i src d) (hne : i ≠ .restore src d) (h : CanTake s d)
    (h0 : (dieAt s d).state = 0) : exec i s = .next (normalOff s src d) := by
  rcases hi with rfl | rfl | rfl
  · exact exec_offline_takes h
  · rw [exec_offlineForced, onDie_takes _ h, if_pos h0]
  · exact absurd rfl hne

/-- A forced request on a draining die. -/
theorem exec_offlineForced_draining (h : CanTake s d) (h1 : (dieAt s d).state = 1) :
    exec (.offlineForced src d) s
      = .next (if dieBusy s d then mgmtDone s src 3 0 else forcedOff s src d) := by
  rw [exec_offlineForced, onDie_takes _ h, if_neg (by omega)]

/-! ### A normal request -/

theorem normalOff_last (h0 : (dieAt s d).state = 0) (h1 : (onlineDies s).length = 1) :
    normalOff s src d = mgmtDone s src 2 0 := if_pos ⟨h0, h1⟩

theorem normalOff_short (h : ¬ ((dieAt s d).state = 0 ∧ (onlineDies s).length = 1))
    (hf : framesLeft s d < (usedRegions s d).length) :
    normalOff s src d = mgmtDone (if (dieAt s d).state = 0 then setDieState s d 1 else s) src 1 0 := by
  unfold normalOff
  dsimp only
  rw [if_neg h, if_pos hf]

theorem normalOff_begins (h : ¬ ((dieAt s d).state = 0 ∧ (onlineDies s).length = 1))
    (hf : (usedRegions s d).length ≤ framesLeft s d) :
    normalOff s src d = startOff s src d false (usedRegions s d) := by
  unfold normalOff
  dsimp only
  rw [if_neg h, if_neg (by omega)]

/-- What the begin of an evacuation adds to a state: its entry in the list of requests that run. -/
structure OffBegun (s u : State) (o : Offlining) : Prop where
  off : u.part.off = s.part.off ++ [o]
  dies : u.part.dies = s.part.dies
  gen : u.part.gen = s.part.gen
  run : u.run = s.run
  mem : u.mem = s.mem

/-- The entry is made, and the stacks of a die with nothing to move drain (01 R20). -/
theorem offBegun_of (s : State) (src : Src) (d : Nat) (forced : Bool) (rs : List Nat) :
    let u := setPart s { s.part with off := s.part.off ++ [⟨d, forced, src, rs⟩] }
    OffBegun s (if rs.isEmpty then setStacks u d 1 else u) ⟨d, forced, src, rs⟩ := by
  intro u
  split
  · obtain ⟨m, h⟩ := setStacks_eq u d 1
    rw [h]
    exact ⟨rfl, rfl, rfl, rfl, rfl⟩
  · exact ⟨rfl, rfl, rfl, rfl, rfl⟩

/-- A draining die begins its evacuation. -/
theorem startOff_draining (forced : Bool) (rs : List Nat) (h1 : (dieAt s d).state = 1) :
    OffBegun s (startOff s src d forced rs) ⟨d, forced, src, rs⟩ := by
  unfold startOff
  rw [if_pos h1]
  exact offBegun_of s src d forced rs

/-- A die that is not draining yet drains first. -/
theorem startOff_fresh (forced : Bool) (rs : List Nat) (h1 : (dieAt s d).state ≠ 1) :
    OffBegun (setDieState s d 1) (startOff s src d forced rs) ⟨d, forced, src, rs⟩ := by
  unfold startOff
  rw [if_neg h1]
  exact offBegun_of _ src d forced rs

/-! ### A forced request -/

/-- Every region homed on the die for which no frame is left is poisoned. -/
theorem forcedOff_begins (h1 : (dieAt s d).state = 1) :
    let rs := (usedRegions s d).take (framesLeft s d)
    (forcedOff s src d).part.off = s.part.off ++ [⟨d, true, src, rs⟩]
      ∧ (∀ r ∈ homedRegions s d, r ∉ rs → poisoned (forcedOff s src d).mem (r * 2 ^ 21) = true)
      ∧ (forcedOff s src d).run = s.run ∧ (forcedOff s src d).mem.hbm = s.mem.hbm := by
  intro rs
  have h := startOff_draining (s := setMem s { s.mem with
    poison := s.mem.poison ++ (homedRegions s d).filter fun r => !(rs.contains r) }) (src := src) true rs h1
  refine ⟨h.off, fun r hr hn => ?_, h.run, (congrArg Mem.hbm h.mem :)⟩
  have hpoison := congrArg Mem.poison h.mem
  change (forcedOff s src d).mem.poison = _ at hpoison
  simp [poisoned, hpoison, hr, hn]

end

/-! ### The end of an evacuation (01 R23) -/

/-- The request and the translations of a die that goes offline are gone. -/
def offCleared (s : State) (o : Offlining) : State :=
  let s := setPart s { s.part with off := s.part.off.filter fun x => !(x.die == o.die) }
  setMem s { s.mem with tlb := s.mem.tlb.filter fun t => !(t.die == o.die) }

/-- What finishing leaves before the request is answered. -/
def offFinished (s : State) (o : Offlining) : State := setDieState (setStacks (offCleared s o) o.die 2) o.die 2

theorem finishOff_eq (s : State) (o : Offlining) : finishOff s o = mgmtDone (offFinished s o) o.src 0 0 := rfl

/-- The die is offline, holds no translation, and no request runs on it. -/
theorem offFinished_frame (s : State) (o : Offlining) (hd : o.die < s.part.dies.length) :
    (dieAt (offFinished s o) o.die).state = 2 ∧ (∀ t ∈ (offFinished s o).mem.tlb, t.die ≠ o.die)
      ∧ offRuns (offFinished s o) o.die = false ∧ (offFinished s o).part.gen = (s.part.gen + 1) % 2 ^ 32
      ∧ (offFinished s o).run = s.run ∧ (offFinished s o).mem.hbm = s.mem.hbm := by
  obtain ⟨m, hst⟩ := setStacks_eq (offCleared s o) o.die 2
  unfold offFinished
  rw [hst]
  obtain ⟨h, hmem⟩ :=
    setDieState_mem (setPart (offCleared s o) { (offCleared s o).part with stackState := m }) o.die 2
  refine ⟨setDieState_die _ _ hd, ?_, ?_, by rw [setDieState_part]; rfl, by rw [setDieState_run]; rfl,
    by rw [hmem]; rfl⟩
  · rw [hmem]
    intro t ht
    simpa using (List.mem_filter.1 ht).2
  · rw [offRuns, setDieState_part]
    simp [offCleared]

/-! ### A region moves (01 R25; 06 R119) -/

theorem byteAt_hbm (s : State) (a : Nat) : byteAt s (.hbm a) = kget 0 s.mem.hbm (remapOf s.mem.remap a) := by
  simp [byteAt, readNow, readHbm]

theorem kfind_eq_none_of_above {α : Type} (m : KMap α) (b : Nat) (h : above b m) : kfind m b = none := by
  induction m with
  | nil => rfl
  | cons e t ih =>
    have he : b < e.1 := h e List.mem_cons_self
    rw [kfind_cons, if_neg (by omega), ih fun x hx => h x (List.mem_cons_of_mem _ hx)]

/-- Cells of one frame laid into another: each byte of the new frame for which there is one reads it. -/
theorem kget_foldl_shift (cs m : List Host.Cell) (old new x : Nat) (hwf : kwf 0 cs = true)
    (hold : ∀ c ∈ cs, c.1 / 2 ^ 21 = old) :
    kget 0 (cs.foldl (fun m c => kput 0 m (new * 2 ^ 21 + c.1 % 2 ^ 21) c.2) m) x
      = if x / 2 ^ 21 = new then (kfind cs (old * 2 ^ 21 + x % 2 ^ 21)).getD (kget 0 m x) else kget 0 m x := by
  induction cs generalizing m with
  | nil => simp
  | cons c t ih =>
    obtain ⟨k, v⟩ := c
    obtain ⟨_, habove, ht⟩ := (kwf_cons 0 k v t).1 hwf
    have hk : k / 2 ^ 21 = old := hold (k, v) List.mem_cons_self
    rw [List.foldl_cons, ih _ ht fun c hc => hold c (List.mem_cons_of_mem _ hc), kget_kput, kfind_cons]
    by_cases hx : x / 2 ^ 21 = new
    · by_cases heq : k = old * 2 ^ 21 + x % 2 ^ 21
      · have hnone : kfind t (old * 2 ^ 21 + x % 2 ^ 21) = none := by
          rw [← heq]; exact kfind_eq_none_of_above t k habove
        rw [if_pos hx, if_pos hx, if_pos heq, hnone, if_pos (by omega)]
        rfl
      · rw [if_pos hx, if_pos hx, if_neg heq, if_neg (by omega)]
    · rw [if_neg hx, if_neg hx, if_neg (by omega)]

/-- A frame that moves takes its bytes along, and every byte of a third frame reads as before. -/
theorem kget_moveFrame (m : List Host.Cell) (old new x : Nat) (hwf : kwf 0 m = true) :
    kget 0 (moveFrame m old new) x = if x / 2 ^ 21 = new then kget 0 m (old * 2 ^ 21 + x % 2 ^ 21)
      else if x / 2 ^ 21 = old then 0 else kget 0 m x := by
  unfold moveFrame
  rw [kget_foldl_shift _ _ old new x (kwf_filter 0 m _ hwf) fun c hc => by simpa using (List.mem_filter.1 hc).2,
    kfind_filterKeys m fun k => k / 2 ^ 21 == old]
  have hrest : kget 0 (m.filter fun c => !(c.1 / 2 ^ 21 == old) && !(c.1 / 2 ^ 21 == new)) x
      = if x / 2 ^ 21 = old ∨ x / 2 ^ 21 = new then 0 else kget 0 m x := by
    unfold kget
    rw [kfind_filterKeys m fun k => !(k / 2 ^ 21 == old) && !(k / 2 ^ 21 == new)]
    generalize x / 2 ^ 21 = frame
    by_cases h1 : frame = old <;> by_cases h2 : frame = new <;> simp [h1, h2]
  have hkey : (old * 2 ^ 21 + x % 2 ^ 21) / 2 ^ 21 = old := by omega
  rw [hrest]
  by_cases h : x / 2 ^ 21 = new
  · rw [if_pos h, if_pos h, if_pos (beq_iff_eq.2 hkey), if_pos (Or.inr h)]
    rfl
  · rw [if_neg h, if_neg h]
    simp only [h, or_false]

/-- The frame of every region after a move. -/
theorem moveRegion_frameOf (s : State) (r f q : Nat) :
    kget q (moveRegion s r f).mem.remap q = if q = r then f else kget q s.mem.remap q := by
  simp only [moveRegion, setMem_mem]
  by_cases hf : f = r
  · rw [if_pos hf, kget_kdel]
    by_cases hq : q = r
    · rw [if_pos hq.symm, if_pos hq, hq, hf]
    · rw [if_neg (Ne.symm hq), if_neg hq]
  · rw [if_neg hf, kget_kins]
    by_cases hq : q = r
    · rw [if_pos hq.symm, if_pos hq]
    · rw [if_neg (Ne.symm hq), if_neg hq]

/-- Every byte reads as before at its address, where no other region lies in the frame left or in the frame taken. -/
theorem byteAt_moveRegion (s : State) (r f a : Nat) (hwf : kwf 0 s.mem.hbm = true)
    (hapart : ∀ q, q ≠ r → kget q s.mem.remap q ≠ f ∧ kget q s.mem.remap q ≠ kget r s.mem.remap r) :
    byteAt (moveRegion s r f) (.hbm a) = byteAt s (.hbm a) := by
  rw [byteAt_hbm, byteAt_hbm, remapOf, remapOf, moveRegion_frameOf]
  change kget 0 (moveFrame s.mem.hbm (kget r s.mem.remap r) f) _ = _
  rw [kget_moveFrame _ _ _ _ hwf]
  generalize hq : a / 2 ^ 21 = q
  by_cases hr : q = r
  · subst hr
    rw [if_pos rfl, if_pos (by omega)]
    congr 2
    omega
  · obtain ⟨hf, hold⟩ := hapart q hr
    rw [if_neg hr, if_neg (by omega), if_neg (by omega)]

/-- A region taken off an evacuation's list changes the part alone. -/
theorem regionDone_eq (s : State) (o : Offlining) (r : Nat) : ∃ m, regionDone s o r = setPart s { s.part with
    stackState := m
    off := s.part.off.map fun x =>
      if x.die = o.die then { x with regions := o.regions.filter fun k => !(k == r) } else x } := by
  unfold regionDone
  dsimp only
  split
  · obtain ⟨m, h⟩ := setStacks_eq (setPart s { s.part with off := s.part.off.map fun x =>
      if x.die = o.die then { x with regions := o.regions.filter fun k => !(k == r) } else x }) o.die 1
    exact ⟨m, h⟩
  · exact ⟨s.part.stackState, rfl⟩

theorem exec_regionMoveComplete (s : State) (r f : Nat) (o : Offlining) (rest : List Nat)
    (ho : s.part.off.find? (fun o => o.regions.contains r) = some o) (hf : freeFrames s = f :: rest) :
    exec (.regionMoveComplete r) s = .next (regionDone (setPart (moveRegion s r f)
      { s.part with pool := s.part.pool.filter fun k => !(k == f) }) o r) := by
  change execRegionMoveComplete r s = _
  simp only [execRegionMoveComplete, ho, hf]
  rfl

/-! ### Links and the end of a request -/

theorem exec_dieOfflineComplete (s : State) {r : Option Offlining}
    (h : s.part.off.find? (fun o => offReady s o && srcCan s o.src && canPosts s 0 2) = r) :
    exec .dieOfflineComplete s = .next (r.elim s (finishOff s)) := by
  change execDieOfflineComplete s = _
  simp only [execDieOfflineComplete, h]
  cases r <;> rfl

theorem exec_dieLinkDown (s : State) (k : Nat) {l : Link} (h : s.part.links[k]? = some l) :
    exec (.dieLinkDown k) s = .next (if l.down || !canPost s 0 then s
      else noteInv (setPart s { s.part with links := s.part.links.set k { l with down := true } }) 0xFF k) := by
  change execDieLinkDown k s = _
  simp only [execDieLinkDown, h]
  rfl

end Sys2Proof.Machine
end

section
/-! Errors and dies: the statement, from what the events do (01 R22 to R25; 11 R250 to R258). -/

namespace Sys2Proof.Machine

section
variable {s : State} {n unit b : Nat} {h : Hist}

/-- An error is not counted in a full bucket, nor while the event that is due has no room. -/
theorem errorDetected_waits (hh : s.part.hists[n]? = some h) (hu : unit < 65536) (hb : b < 65536)
    (hw : 65535 ≤ kget 0 h.counts (unit * 65536 + b)
      ∨ kget 0 h.counts (unit * 65536 + b) + 1 = h.thresh ∧ canPost s 0 = false) :
    exec (.errorDetected n unit b) s = .next s := by
  rw [exec_errorDetected]
  by_cases hfull : 65535 ≤ kget 0 h.counts (unit * 65536 + b)
  · rw [countError_saturated hh hu hb hfull, ite_self]
  · have hwaits : countWaits s n unit b = true :=
      (countWaits_iff hh hu hb).2 ⟨Nat.lt_of_not_le hfull, hw.resolve_left hfull⟩
    rw [if_neg (by simp [hwaits])]

/-- Any other error in a bucket of the table is counted. -/
theorem errorDetected_counts (hh : s.part.hists[n]? = some h) (hu : unit < 65536) (hb : b < histBuckets n)
    (hpost : kget 0 h.counts (unit * 65536 + b) + 1 ≠ h.thresh ∨ canPost s 0 = true) :
    exec (.errorDetected n unit b) s = .next (countError s n unit b) := by
  have hb' : b < 65536 := by have := histBuckets_le n; omega
  have hno : countWaits s n unit b = false := by
    rw [Bool.eq_false_iff]
    intro hw
    obtain ⟨_, hthresh, hcan⟩ := (countWaits_iff hh hu hb').1 hw
    rcases hpost with hne | hp
    · exact hne hthresh
    · simp [hcan] at hp
  rw [exec_errorDetected, if_pos ⟨hb, by simp [hno]⟩]

end

/-- A halted group has ended and keeps its registers; its launch will complete with KILLED (11 R251). -/
theorem haltGroup_halts (s : State) (gid unit : Nat) (g : Group) (hg : grp s gid = some g) (hu : unit < 7)
    (hp : canPost s 0 = true) (hlisted : ∀ i, kfind s.run.items g.item = some i → gid ∈ i.gids) :
    (∃ h, grp (haltGroup s gid unit) gid = some h ∧ h.Over ∧ g.SameRegs h)
      ∧ (haltGroup s gid unit).run.xfers = s.run.xfers
      ∧ (∀ l, kfind s.run.launches g.launch = some l → killedMark (haltGroup s gid unit) g.launch = some true)
      ∧ Told s (haltGroup s gid unit) 6 (haltBody s gid unit g) := by
  obtain ⟨gids, hmem, hst⟩ := killGroup_stopped s gid g hg hlisted
  obtain ⟨h, hh, hregs, hover⟩ := hst.groups gid g hg
  rw [haltGroup_eq s gid unit g hg hu hp, grp, killedMark, postEvent_run]
  exact ⟨⟨h, hh, hover (.inl hmem), hregs⟩, hst.xfers,
    fun l hl => (hst.killed g.launch).trans (killedMark_mark s g.launch hl),
    told_postEvent s _ 6 _ hst.queues (by decide) (by simp [haltBody])⟩

end Sys2Proof.Machine

namespace Sys2Proof
open Sys2Proof.Machine

/-- Settles O58, event by event: the histograms through `countError_counts`, a halt through `killGroup_stopped`, the
requests that name a die through `onDie`, and a move through `byteAt_moveRegion`. -/
theorem errorsAndDies : Obligations.ErrorsAndDies := by
  unfold Obligations.ErrorsAndDies
  refine ⟨⟨?count, ?write, ?group, ?xfer, ?hostRead⟩, ?requests, ?move, ?waits, ?offline, ?link⟩
  case count =>
    intro s n unit b h hh
    rw [← histBuckets_eq]
    refine ⟨fun hb => by rw [exec_errorDetected, if_neg (by omega)], fun hb hu => ?_⟩
    have hb' : b < 65536 := by have := histBuckets_le n; omega
    intro key old
    refine ⟨fun hw => errorDetected_waits hh hu hb' hw, fun hold hpost => ?_⟩
    rw [errorDetected_counts hh hu hb hpost, countError_counts hh hu hb' hold]
    refine ⟨_, h.counted key, rfl, ?_, ?_, h.counted_same key, fun k hk => h.counted_other hk, rfl, ?_, ?_⟩
    · split
      · exact postEvent_run _ _ _ _
      · rfl
    · split
      · rw [postEvent_part]; exact putHist_get hh _
      · exact putHist_get hh _
    · intro hne; rw [if_neg hne]; exact ⟨rfl, rfl⟩
    · intro heq; rw [if_pos heq]
      exact told_postEvent s _ 9 _ rfl (by decide) (by simp)
  case write => exact fun s => ⟨writeHists s, rfl, rfl, rfl, rfl, rfl⟩
  case group =>
    intro s gid unit g hg
    rw [exec_uncorrectableError_group]
    refine ⟨fun h => by rw [haltGroup_refused s gid unit h], fun hu hp hlisted => ?_⟩
    obtain ⟨⟨h, hh, ⟨hended, hactive⟩, hregs⟩, hxfers, hkilled, htold⟩ :=
      haltGroup_halts s gid unit g hg hu hp hlisted
    refine ⟨_, h, rfl, hh, hended, hactive, hregs.v, hregs.s, hregs.p, hxfers,
      fun l hl => Option.map_eq_some_iff.1 (hkilled l hl), htold, fun i hi htx hab => ?_⟩
    obtain ⟨n, hn⟩ := killGroup_tells s gid g hg hi htx hab
    refine ⟨n, fun k x hk hx hl => ?_⟩
    rw [haltGroup_eq s gid unit g hg hu hp, grp, postEvent_run]
    exact hn k x hk hx hl
  case xfer =>
    intro s n unit x hx bad hbad
    rw [exec_uncorrectableError_xfer n unit s hx, spoilXfer_eq s x hbad]
    exact ⟨_, rfl, rfl, find_setXfer s n x _ hx rfl⟩
  case hostRead => exact fun s unit => ⟨_, exec_uncorrectableError_hostRead unit s, spoilRead_frame s⟩
  case requests =>
    intro s src d i hi
    obtain ⟨f, hf⟩ := exec_namesDie (s := s) hi
    refine ⟨fun h => by rw [hf, onDie_absent f h], fun h hs => by rw [hf, onDie_offline f h hs],
      fun h hs hr => by rw [hf, onDie_busy f h hs hr], ?_, ?_, ?_, ?_, ?_, ?_, ?_, ?_, ?_⟩
    · rintro ht rfl h1
      rw [exec_restore, onDie_takes _ ht, if_neg h1]
    · rintro ht rfl h1
      rw [exec_restore, onDie_takes _ ht, if_pos h1]
      exact ⟨_, rfl, setDieState_die s 0 ht.1, by rw [setDieState_part], setDieState_run s d 0⟩
    · intro ht hne h0 h1
      rw [exec_off_online hi hne ht h0, normalOff_last h0 h1]
    · intro ht hne h0 h1 hshort
      rw [exec_off_online hi hne ht h0, normalOff_short (fun h => h1 h.2) hshort, if_pos h0]
      exact ⟨_, rfl, setDieState_die s 1 ht.1, by rw [setDieState_part]⟩
    · intro ht hne h0 h1 henough
      rw [exec_off_online hi hne ht h0, normalOff_begins (fun h => h1 h.2) henough]
      have hb := startOff_fresh (src := src) false (usedRegions s d) (by omega : (dieAt s d).state ≠ 1)
      obtain ⟨m, hm⟩ := setDieState_mem s d 1
      refine ⟨_, rfl, ?_, ?_, ?_, ?_, ?_⟩
      · rw [dieAt, hb.dies]; exact setDieState_die s 1 ht.1
      · rw [hb.off, setDieState_part]
      · rw [hb.gen, setDieState_part]
      · rw [hb.run, setDieState_run]
      · rw [hb.mem, hm]
    · rintro ht rfl h1 hshort
      rw [exec_offline_takes ht, normalOff_short (fun h => by omega) hshort, if_neg (by omega)]
    · rintro ht rfl h1 henough
      rw [exec_offline_takes ht, normalOff_begins (fun h => by omega) henough]
      have hb := startOff_draining (src := src) false (usedRegions s d) h1
      exact ⟨_, rfl, hb.off, hb.run, by rw [hb.mem]⟩
    · rintro ht rfl h1 hbusy
      rw [exec_offlineForced_draining ht h1, if_pos hbusy]
    · rintro ht rfl h1 hbusy
      rw [exec_offlineForced_draining ht h1, if_neg (by simp [hbusy])]
      exact ⟨_, rfl, forcedOff_begins h1⟩
  case move =>
    intro s r f o rest hwf ho hfree hapart
    rw [exec_regionMoveComplete s r f o rest ho hfree]
    obtain ⟨m, hm⟩ := regionDone_eq (setPart (moveRegion s r f)
      { s.part with pool := s.part.pool.filter fun k => !(k == f) }) o r
    rw [hm]
    refine ⟨_, rfl, fun a => ?_, rfl, rfl, ?_, fun q hq => ?_, ?_, ?_, rfl, rfl⟩
    · exact (byteAt_hbm _ a).trans ((byteAt_hbm _ a).symm.trans (byteAt_moveRegion s r f a hwf hapart))
    · exact (moveRegion_frameOf s r f r).trans (if_pos rfl)
    · exact (moveRegion_frameOf s r f q).trans (if_neg hq)
    · simp
    · intro x hx hdie
      obtain ⟨y, _, rfl⟩ := List.mem_map.1 hx
      by_cases hy : y.die = o.die
      · simp [hy]
      · rw [if_neg hy] at hdie
        exact absurd hdie hy
  case waits => exact fun s h => exec_dieOfflineComplete s h
  case offline =>
    intro s o ho hd
    exact ⟨offFinished s o, (exec_dieOfflineComplete s ho).trans (congrArg _ (finishOff_eq s o)), offFinished_frame s o hd⟩
  case link =>
    intro s k l hl
    rw [exec_dieLinkDown s k hl]
    constructor
    · intro h; rw [if_pos (by simpa using h)]
    · intro hdown hcan
      rw [if_neg (by simp [hdown, hcan])]
      obtain ⟨hk, _⟩ := List.getElem?_eq_some_iff.1 hl
      refine ⟨_, rfl, ?_, by rw [noteInv_part]; rfl, by rw [noteInv_run]; rfl, ?_⟩
      · rw [noteInv_part]; simp [hk]
      · exact noteInv_told (setPart s { s.part with links := s.part.links.set k { l with down := true } }) 0xFF k

end Sys2Proof
end

section
/-! LAUNCH: which candidate is chosen (10 R213, R214), and how a launch that is read ends or binds (13 R276; 03 R53). -/

namespace Sys2Proof.Machine

/-! ### The choice -/

/-- A candidate comes no later than another in the order of 10 R214. -/
def Cand.first (c d : Cand) : Prop := d.ep < c.ep ∨ d.ep = c.ep ∧ c.dist ≤ d.dist

theorem Cand.before_iff (a b : Cand) : a.before b = true ↔ b.ep < a.ep ∨ a.ep = b.ep ∧ a.dist < b.dist := by
  simp [Cand.before]

theorem Cand.first_refl (c : Cand) : c.first c := .inr ⟨rfl, Nat.le_refl _⟩

theorem Cand.first_trans {a b c : Cand} (h : a.first b) (h' : b.first c) : a.first c := by
  unfold Cand.first at *; omega

theorem Cand.first_of_not_before {a b : Cand} (h : ¬ b.before a = true) : a.first b := by
  rw [Cand.before_iff] at h
  unfold Cand.first; omega

theorem Cand.first_of_before {a b : Cand} (h : a.before b = true) : a.first b := by
  rw [Cand.before_iff] at h
  unfold Cand.first; omega

/-- The search through the candidates ends with one that comes before all of them. -/
theorem foldl_before_best (t : List Cand) (c : Cand) :
    let r := t.foldl (fun a b => if b.before a then b else a) c
    r ∈ c :: t ∧ ∀ d ∈ c :: t, r.first d := by
  induction t generalizing c with
  | nil => exact ⟨List.mem_cons_self, fun d hd => by rw [List.mem_singleton.1 hd]; exact c.first_refl⟩
  | cons b t ih =>
    obtain ⟨hmem, hbest⟩ := ih (if b.before c then b else c)
    have hhead := hbest _ List.mem_cons_self
    rw [List.foldl_cons]
    by_cases hb : b.before c = true
    · rw [if_pos hb] at hmem hbest hhead ⊢
      refine ⟨List.mem_cons_of_mem _ hmem, fun d hd => ?_⟩
      rcases List.mem_cons.1 hd with rfl | hd
      · exact Cand.first_trans hhead (Cand.first_of_before hb)
      · exact hbest d hd
    · rw [if_neg hb] at hmem hbest hhead ⊢
      refine ⟨?_, fun d hd => ?_⟩
      · rcases List.mem_cons.1 hmem with h | h
        · rw [h]; exact List.mem_cons_self
        · exact List.mem_cons_of_mem _ (List.mem_cons_of_mem _ h)
      · rcases List.mem_cons.1 hd with rfl | hd
        · exact hhead
        · rcases List.mem_cons.1 hd with rfl | hd
          · exact Cand.first_trans hhead (Cand.first_of_not_before hb)
          · exact hbest d (List.mem_cons_of_mem _ hd)

/-- Where there are candidates, the best is one of them and comes before all. -/
theorem bestCand_best (cs : List Cand) (h : cs ≠ []) :
    ∃ c, bestCand cs = some c ∧ c ∈ cs ∧ ∀ d ∈ cs, c.first d := by
  cases cs with
  | nil => exact absurd rfl h
  | cons c t => exact ⟨_, rfl, foldl_before_best t c⟩

/-- The candidates are head packets, each of its queue, and nodes, which have none. -/
theorem headCands_packet (s : State) (c : Cand) (h : c ∈ headCands s) :
    ∃ q x bs, c.queue = some q ∧ headPacket s q = some (x, bs) ∧ x.busy = false ∧ packetKind bs < 2 := by
  obtain ⟨e, _, he⟩ := List.mem_filterMap.1 h
  dsimp only at he
  cases hp : headPacket s e.1 with
  | none => simp [hp] at he
  | some r =>
    obtain ⟨x, bs⟩ := r
    simp only [hp] at he
    split at he
    · exact absurd he (by simp)
    next hc =>
      simp only [Bool.or_eq_true, decide_eq_true_eq, not_or] at hc
      obtain ⟨⟨hbusy, hkind⟩, _⟩ := hc
      cases he
      exact ⟨e.1, x, bs, rfl, hp, by simpa using hbusy, by omega⟩

theorem nodeCands_queue (s : State) (c : Cand) (h : c ∈ nodeCands s) : c.queue = none := by
  obtain ⟨e, _, he⟩ := List.mem_filterMap.1 h
  split at he
  · cases he; rfl
  · exact absurd he (by simp)

/-- A candidate of a queue is that queue's head packet, eligible, and a launch or a management packet. -/
theorem cand_headPacket (s : State) (c : Cand) (hc : c ∈ headCands s ++ nodeCands s) (q : Nat) (hq : c.queue = some q) :
    ∃ x bs, headPacket s q = some (x, bs) ∧ x.busy = false ∧ packetKind bs < 2 := by
  rcases List.mem_append.1 hc with h | h
  · obtain ⟨q', x, bs, hq', rest⟩ := headCands_packet s c h
    obtain rfl : q' = q := by simpa [hq] using hq'.symm
    exact ⟨x, bs, rest⟩
  · rw [nodeCands_queue s c h] at hq; exact absurd hq (by simp)

theorem headPacket_queue (s : State) (q : Nat) (x : Queue) (bs : List Byte) (h : headPacket s q = some (x, bs)) :
    kfind s.host.queues q = some x := by
  unfold headPacket at h
  split at h
  · exact absurd h (by simp)
  next y hy =>
    split at h
    · exact absurd h (by simp)
    · cases h; exact hy

/-- While no launch is being read, LAUNCH chooses. -/
theorem exec_launch (s : State) (h : ∀ e ∈ s.run.launches, e.2.stat ≠ .reading false) :
    exec .launch s = .next (chooseLaunch s) := by
  change execLaunch s = _
  have hnone : (s.run.launches.find? fun e => e.2.stat == .reading false && !bindWaits s e.1 e.2) = none := by
    rw [List.find?_eq_none]
    intro e he
    simp [h e he]
  simp only [execLaunch, hnone]

theorem mayChoose_iff (s : State) : mayChoose s = true ↔ s.part.cryo.started = true ∧ s.part.cryo.state ≠ 6 := by
  simp [mayChoose, inSafe]

/-! ### What reading keeps of a launch -/

/-- The packet and where it came from. -/
structure Launch.SamePacket (l m : Launch) : Prop where
  pkt : m.pkt = l.pkt
  queue : m.queue = l.queue
  asid : m.asid = l.asid

/-- A sequence that succeeds has a first part that succeeds. -/
theorem exceptBind_ok {ε α β : Type} {x : Except ε α} {f : α → Except ε β} {b : β} (h : (x >>= f) = .ok b) :
    ∃ a, x = .ok a ∧ f a = .ok b := by
  cases x with
  | error e =>
    have h : (.error e : Except ε β) = .ok b := h
    exact absurd h (by simp)
  | ok a => exact ⟨a, rfl, h⟩

/-- The lists of a replay change neither the packet nor the image. -/
theorem readReplay_keeps (s : State) (l m : Launch) (h : readReplay s l = .ok m) : l.SamePacket m ∧ m.img = l.img := by
  unfold readReplay at h
  split at h
  · cases h; exact ⟨⟨rfl, rfl, rfl⟩, rfl⟩
  · split at h
    · cases h; exact ⟨⟨rfl, rfl, rfl⟩, rfl⟩
    · obtain ⟨hb, _, h⟩ := exceptBind_ok h
      split at h
      · cases h; exact ⟨⟨rfl, rfl, rfl⟩, rfl⟩
      · obtain ⟨eb, _, h⟩ := exceptBind_ok h
        obtain ⟨rb, _, h⟩ := exceptBind_ok h
        cases h; exact ⟨⟨rfl, rfl, rfl⟩, rfl⟩

/-- An image that is read has 1 to 12 levels (03 R47, R53). -/
theorem readImage_depth (s : State) (l : Launch) (hd : Header) (h : readImage s l = .ok hd) :
    1 ≤ hd.img.levels.length ∧ hd.img.levels.length ≤ 12 := by
  unfold readImage at h
  obtain ⟨hb, _, h⟩ := exceptBind_ok h
  dsimp only at h
  split at h
  · exact absurd h (by simp [bind, Except.bind])
  next hdepth =>
    obtain ⟨_, _, h⟩ := exceptBind_ok h
    obtain ⟨sb, _, h⟩ := exceptBind_ok h
    obtain ⟨_, _, h⟩ := exceptBind_ok h
    obtain ⟨tb, _, h⟩ := exceptBind_ok h
    obtain ⟨_, _, h⟩ := exceptBind_ok h
    obtain ⟨qb, _, h⟩ := exceptBind_ok h
    obtain ⟨_, _, h⟩ := exceptBind_ok h
    cases h
    simp only [chunksOfBytes, List.length_map, List.length_range]
    omega

/-! ### The tree checks (03 R52, R53) -/

theorem firstStop_ok (cs : List (Option BindStop)) (h : firstStop cs = .ok ()) : ∀ c ∈ cs, c = none := by
  induction cs with
  | nil => simp
  | cons c t ih =>
    cases c with
    | some e => exact absurd h (by simp [firstStop])
    | none => exact List.forall_mem_cons.2 ⟨rfl, ih h⟩

theorem firstLevel_none (im : Image) (bad : Nat → Bool) (code : Nat) (h : firstLevel im bad code = none) :
    ∀ k ∈ levelNums im, bad k = false := by
  intro k hk
  have hfind := List.find?_eq_none.1 (Option.map_eq_none_iff.1 h) k hk
  simpa using hfind

theorem fanoutStop_none (s : State) (im : Image) (h : fanoutStop s im = none) :
    firstLevel im (fanoutBad s im) 3 = none := by
  unfold fanoutStop at h
  split at h
  · exact absurd h (by simp)
  · exact h

/-- A tree that the part can run: 1 to 12 levels, and no level breaks a check (03 R47, R53). -/
structure TreeFits (s : State) (im : Image) : Prop where
  least : 1 ≤ im.levels.length
  most : im.levels.length ≤ 12
  levels : ∀ k ∈ levelNums im, orderBad im k = false ∧ fanoutBad s im k = false ∧ shapeBad s im k = false
    ∧ spanBad s im k = false

/-- The checks that pass say so of every level. -/
theorem treeCheck_levels (s : State) (lid : Nat) (l : Launch) (lvluse : Nat) (h : treeCheck s lid l lvluse = .ok ()) :
    ∀ k ∈ levelNums l.img, orderBad l.img k = false ∧ fanoutBad s l.img k = false ∧ shapeBad s l.img k = false
      ∧ spanBad s l.img k = false := by
  have hnone := firstStop_ok _ h
  simp only [List.forall_mem_cons] at hnone
  obtain ⟨horder, hfan, hshape, hspan, _⟩ := hnone
  intro k hk
  exact ⟨firstLevel_none _ _ _ horder k hk, firstLevel_none _ _ _ (fanoutStop_none s _ hfan) k hk,
    firstLevel_none _ _ _ hshape k hk, firstLevel_none _ _ _ hspan k hk⟩

/-! ### Reading a launch -/

/-- Reading keeps the packet, and a launch that is read to its end has a tree that fits the part. -/
theorem readLaunch_spec (s : State) (lid : Nat) (l : Launch) :
    l.SamePacket (readLaunch s lid l).1
      ∧ ((readLaunch s lid l).2 = none → TreeFits s (readLaunch s lid l).1.img) := by
  have stops : ∀ (m : Launch) (e : BindStop), l.SamePacket m →
      l.SamePacket (m, some e).1 ∧ ((m, some e).2 = none → TreeFits s (m, some e).1.img) :=
    fun m e hm => ⟨hm, fun h => absurd h (by simp)⟩
  unfold readLaunch
  split
  · exact stops _ _ ⟨rfl, rfl, rfl⟩
  split
  · exact stops _ _ ⟨rfl, rfl, rfl⟩
  dsimp only
  split
  · exact stops _ _ ⟨rfl, rfl, rfl⟩
  split
  · exact stops _ _ ⟨rfl, rfl, rfl⟩
  split
  · exact stops _ _ ⟨rfl, rfl, rfl⟩
  split
  · exact stops _ _ ⟨rfl, rfl, rfl⟩
  split
  · exact stops _ _ ⟨rfl, rfl, rfl⟩
  next h himage =>
    split
    · exact stops _ _ ⟨rfl, rfl, rfl⟩
    next htree =>
      split
      · exact stops _ _ ⟨rfl, rfl, rfl⟩
      next m hreplay =>
        obtain ⟨hsame, himg⟩ := readReplay_keeps s _ m hreplay
        refine ⟨⟨hsame.pkt, hsame.queue, hsame.asid⟩, fun _ => ?_⟩
        obtain ⟨hlo, hhi⟩ := readImage_depth s _ h himage
        dsimp only
        rw [himg]
        exact ⟨hlo, hhi, treeCheck_levels s lid _ h.lvluse htree⟩

/-! #### Packets that stop at once -/

theorem readLaunch_stop (s : State) (lid : Nat) (l : Launch) (e : BindStop) (h : packetStop s l = some e) :
    readLaunch s lid l = (l, some e) := by
  unfold readLaunch; rw [h]

/-- No valid inventory: LF_SPAN (01 R14). -/
theorem packetStop_inventory (s : State) (l : Launch) (h : s.part.inv.valid = false) :
    packetStop s l = some (.fault 5 0) := by
  simp [packetStop, h]

/-- Limits broken, or no tables (13 R276, R280). -/
theorem packetStop_limits (s : State) (l : Launch) (hv : s.part.inv.valid = true)
    (h : l.pkt.clean = false ∨ l.pkt.mode = 3 ∨ l.pkt.image % 4096 ≠ 0 ∨ l.pkt.ext % 64 ≠ 0
      ∨ kfind s.mem.asids l.asid = none) : packetStop s l = some lfResource := by
  unfold packetStop
  rw [if_neg (by simp [hv])]
  split
  · rfl
  next hok =>
    have hnone : kfind s.mem.asids l.asid = none := by
      simp only [extPlaceOk, Bool.or_eq_true, Bool.not_eq_true', beq_iff_eq, beq_eq_false_iff_ne, Bool.and_eq_false_iff,
        not_or] at hok
      obtain ⟨⟨⟨⟨hclean, hmode⟩, himage⟩, _⟩, hext, _⟩ := hok
      rcases h with h | h | h | h | h
      · exact absurd h hclean
      · exact absurd h hmode
      · exact absurd h himage
      · exact absurd h hext
      · exact h
    rw [hnone]
    rfl

/-- Limits kept. -/
theorem packetStop_none (s : State) (l : Launch) (hv : s.part.inv.valid = true) (hc : l.pkt.clean = true)
    (hm : l.pkt.mode ≠ 3) (hi : l.pkt.image % 4096 = 0) (hg : l.pkt.image + 128 ≤ 0xF0000000000000)
    (he : l.pkt.ext = 0) (ha : kfind s.mem.asids l.asid ≠ none) : packetStop s l = none := by
  have hsome : (kfind s.mem.asids l.asid).isNone = false := by
    rw [Option.isNone_eq_false_iff, Option.isSome_iff_ne_none]; exact ha
  have hglobal : inGlobal l.pkt.image 128 = true := decide_eq_true hg
  simp [packetStop, extPlaceOk, hv, hc, hm, hi, hglobal, he, hsome]

/-- An extension block of zeros keeps its limits. -/
theorem extOk_zero : extOk (List.replicate 128 0) (extOf (List.replicate 128 0)) = true := by decide

/-- A sound packet of no instances stops with status OK (03 R49). -/
theorem readLaunch_empty (s : State) (lid : Nat) (l : Launch) (hp : packetStop s l = none) (he : l.pkt.ext = 0)
    (hn : l.pkt.lcount = 0) : ∃ m, readLaunch s lid l = (m, some (.fault 0 0)) := by
  have hext : readExt s l = .ok (List.replicate 128 0) := if_pos he
  have hsuccs : ∀ m : Launch, readSuccs s m (extOf (List.replicate 128 0)) = .ok [] := by
    intro m
    have hnone : (extOf (List.replicate 128 0)).nsucc = 0 := by decide
    unfold readSuccs
    rw [hnone]
    rfl
  unfold readLaunch
  simp only [hp, hext, extOk_zero, hsuccs, hn]
  exact ⟨_, rfl⟩

end Sys2Proof.Machine
end

section
/-! LAUNCH: what binding a launch leaves (13 R276; 03 R53), and the statement. -/

namespace Sys2Proof.Machine

/-! ### Fault records of the front end -/

@[simp] theorem openFault_run (s : State) (pool asid va kind cause : Nat) (hostat : Bool) (core : Nat) (a : Agent) :
    (openFault s pool asid va kind cause hostat core a).run = s.run := by
  unfold openFault openFaultAs
  dsimp only
  split
  · rfl
  · exact postEvent_run _ _ _ _

theorem openFault_host (s : State) (pool asid va kind cause : Nat) (hostat : Bool) (core : Nat) (a : Agent) :
    OnlyRings s.host (openFault s pool asid va kind cause hostat core a).host := by
  unfold openFault openFaultAs
  dsimp only
  split
  · exact OnlyRings.refl _
  · exact postEvent_host _ _ _ _

/-! ### Binding -/

theorem bindLaunch_host (s : State) (lid : Nat) (l : Launch) : OnlyRings s.host (bindLaunch s lid l).host := by
  unfold bindLaunch
  dsimp only
  split
  · exact OnlyRings.refl _
  · exact OnlyRings.refl _
  · split
    · exact OnlyRings.refl _
    · exact openFault_host _ _ _ _ _ _ _ _ _

/-- A launch that ends while it is read has the status and the level of its fault. -/
theorem bindLaunch_fault (s : State) (lid : Nat) (l m : Launch) (c k : Nat) (hl : kfind s.run.launches lid = some l)
    (hr : readLaunch s lid l = (m, some (.fault c k))) :
    kfind (bindLaunch s lid l).run.launches lid
      = some { m with stat := .finished, status := c, faultK := k } := by
  unfold bindLaunch
  simp [hr, endLaunch, kfind_kmod, hl]

/-- A launch being read keeps its packet; where it binds, its tree fits the part. -/
theorem bindLaunch_launch (s : State) (lid : Nat) (l : Launch) (hl : kfind s.run.launches lid = some l)
    (hreading : l.stat = .reading false) : ∃ m, kfind (bindLaunch s lid l).run.launches lid = some m
      ∧ l.SamePacket m ∧ (m.stat = .bound → TreeFits s m.img) := by
  obtain ⟨hsame, hfits⟩ := readLaunch_spec s lid l
  cases hr : (readLaunch s lid l).2 with
  | none =>
    refine ⟨{ (readLaunch s lid l).1 with stat := .bound }, ?_, ⟨hsame.pkt, hsame.queue, hsame.asid⟩,
      fun _ => hfits hr⟩
    unfold bindLaunch
    simp [hr, kfind_kmod, hl]
  | some e =>
    cases e with
    | fault c k =>
      exact ⟨_, bindLaunch_fault s lid l _ c k hl (Prod.ext rfl hr), ⟨hsame.pkt, hsame.queue, hsame.asid⟩,
        fun h => absurd h (by simp)⟩
    | park c va =>
      unfold bindLaunch
      simp only [hr]
      split
      · exact ⟨l, hl, ⟨rfl, rfl, rfl⟩, fun h => absurd h (by simp [hreading])⟩
      · rw [openFault_run, modLaunch_launches, kfind_kmod, if_pos rfl, hl]
        exact ⟨_, rfl, ⟨rfl, rfl, rfl⟩, fun h => absurd h (by simp)⟩

/-! ### A chosen node -/

/-- The node of a chosen launch is free again (10 R215). -/
theorem chooseLaunch_node (s : State) (c : Cand) (hmay : mayChoose s = true)
    (hbest : bestCand (headCands s ++ nodeCands s) = some c) (hq : c.queue = none) :
    nodeAt (chooseLaunch s) (launchOf s c.lid).pkt.gnode = Node.free := by
  unfold chooseLaunch
  simp only [hmay, hbest, hq]
  have hnodes := (bindLaunch_host
    (modLaunch (chooseNode (noteChoice s (launchOf s c.lid).queue) (launchOf s c.lid).pkt.gnode) c.lid
      fun l => { l with stat := .reading false }) c.lid (launchOf s c.lid)).nodes
  rw [if_neg (by simp), nodeAt, hnodes]
  simp [chooseNode, setNode, kget_kput]

/-! ### A chosen head packet -/

theorem chooseLaunch_head (s : State) (c : Cand) (q : Nat) (hmay : mayChoose s = true)
    (hbest : bestCand (headCands s ++ nodeCands s) = some c) (hq : c.queue = some q) :
    chooseLaunch s = takeHead (noteChoice s q) q := by
  unfold chooseLaunch
  simp only [hmay, hbest, hq]
  rfl

/-- The launch that a head packet becomes. -/
def launchFor (q : Nat) (x : Queue) (bs : List Byte) : Launch :=
  { Launch.fresh with
    queue := q
    pktIdx := x.ridx
    asid := x.asid
    ceil := x.ceil
    pkt := packetOf bs
    stat := .reading false
    ready := true
    since := x.since }

/-- The state in which that launch reads its blocks: it is listed, and the queue has moved past its packet. -/
def readingState (s : State) (q : Nat) (x : Queue) (bs : List Byte) : State :=
  passHead (newLaunch (noteChoice s q) q x bs (.reading false) true x.since).2 q

section
variable {s : State} {q : Nat} {x : Queue} {bs : List Byte}

/-- The queue past its head packet, waiting for that packet's completion. -/
theorem passHead_queue (h : kfind s.host.queues q = some x) : kfind (passHead s q).host.queues q
    = some { x with ridx := (x.ridx + 1) % 2 ^ 32, busy := true, since := s.ctl.clk } := by
  simp [passHead, modQueue, kfind_kmod, h]

theorem takeHead_management (hp : headPacket s q = some (x, bs)) (hk : packetKind bs = 1) :
    takeHead (noteChoice s q) q = setHost (passHead (noteChoice s q) q)
      { (passHead (noteChoice s q) q).host with mgmt := s.host.mgmt ++ [mgmtReqOf (some q) x.ridx x.mgmt bs] } := by
  have hp' : headPacket (noteChoice s q) q = some (x, bs) := hp
  unfold takeHead
  simp only [hp', hk]
  rfl

theorem takeHead_launch (hp : headPacket s q = some (x, bs)) (hk : packetKind bs = 0) :
    takeHead (noteChoice s q) q = bindLaunch (readingState s q x bs) s.ctl.serial (launchFor q x bs) := by
  have hp' : headPacket (noteChoice s q) q = some (x, bs) := hp
  unfold takeHead
  simp only [hp', hk]
  rw [if_neg (by simp)]
  change bindLaunch (readingState s q x bs) s.ctl.serial
    ((kfind (kins s.run.launches s.ctl.serial (launchFor q x bs)) s.ctl.serial).getD Launch.fresh) = _
  rw [kfind_kins_self]
  rfl

theorem readingState_launch :
    kfind (readingState s q x bs).run.launches s.ctl.serial = some (launchFor q x bs) := kfind_kins_self _ _ _

theorem readingState_queue (h : kfind s.host.queues q = some x) : kfind (readingState s q x bs).host.queues q
    = some { x with ridx := (x.ridx + 1) % 2 ^ 32, busy := true, since := s.ctl.clk } := passHead_queue h

/-- A tree fits the part in the one state as in the other: the checks look at the part and at the link. -/
theorem treeFits_readingState {im : Image} (h : TreeFits (readingState s q x bs) im) : TreeFits s im :=
  ⟨h.least, h.most, h.levels⟩

/-- How a launch whose packet p is chosen ends, or binds (01 R14; 03 R49, R52, R53; 13 R276, R280). -/
structure Verdict (s : State) (p : Packet) (asid : Nat) (l : Launch) : Prop where
  span : s.part.inv.valid = false → l.stat = .finished ∧ l.status = 5 ∧ l.faultK = 0
  limits : s.part.inv.valid = true → p.clean = false ∨ p.mode = 3 ∨ p.image % 4096 ≠ 0 ∨ p.ext % 64 ≠ 0
    ∨ kfind s.mem.asids asid = none → l.stat = .finished ∧ l.status = 7 ∧ l.faultK = 0
  empty : s.part.inv.valid = true → p.clean = true → p.mode ≠ 3 → p.image % 4096 = 0 →
    p.image + 128 ≤ 0xF0000000000000 → p.ext = 0 → p.lcount = 0 → kfind s.mem.asids asid ≠ none →
    l.stat = .finished ∧ l.status = 0
  binds : l.stat = .bound → TreeFits s l.img

/-- The launch of a chosen head packet carries the packet, and ends or binds as it must. -/
theorem takeHead_verdict (hp : headPacket s q = some (x, bs)) (hk : packetKind bs = 0) :
    ∃ l, kfind (takeHead (noteChoice s q) q).run.launches s.ctl.serial = some l
      ∧ (launchFor q x bs).SamePacket l ∧ Verdict s (packetOf bs) x.asid l := by
  rw [takeHead_launch hp hk]
  have hl : kfind (readingState s q x bs).run.launches s.ctl.serial = some (launchFor q x bs) := readingState_launch
  obtain ⟨l, hkl, hsame, hfits⟩ := bindLaunch_launch _ _ _ hl rfl
  have ends : ∀ m c k, readLaunch (readingState s q x bs) s.ctl.serial (launchFor q x bs) = (m, some (.fault c k)) →
      l.stat = .finished ∧ l.status = c ∧ l.faultK = k := by
    intro m c k hr
    obtain rfl := Option.some.inj (hkl.symm.trans (bindLaunch_fault _ _ _ m c k hl hr))
    exact ⟨rfl, rfl, rfl⟩
  refine ⟨l, hkl, hsame, fun hv => ?_, fun hv hbad => ?_, fun hv hc hmode hi hg he hn ha => ?_,
    fun hb => treeFits_readingState (hfits hb)⟩
  · exact ends _ 5 0 (readLaunch_stop _ _ _ _ (packetStop_inventory (readingState s q x bs) _ hv))
  · exact ends _ 7 0 (readLaunch_stop _ _ _ _ (packetStop_limits (readingState s q x bs) _ hv hbad))
  · have hnone := packetStop_none (readingState s q x bs) (launchFor q x bs) hv hc hmode hi hg he ha
    obtain ⟨m, hr⟩ := readLaunch_empty _ s.ctl.serial _ hnone he hn
    obtain ⟨hfin, hstat, _⟩ := ends m 0 0 hr
    exact ⟨hfin, hstat⟩

/-- Whatever its KIND, the queue has moved past the chosen packet and waits for its completion. -/
theorem takeHead_queue (hp : headPacket s q = some (x, bs)) (hk : packetKind bs < 2) :
    ∃ y, kfind (takeHead (noteChoice s q) q).host.queues q = some y ∧ y.ridx = (x.ridx + 1) % 2 ^ 32
      ∧ y.busy = true := by
  have hx := headPacket_queue s q x bs hp
  rcases (by omega : packetKind bs = 0 ∨ packetKind bs = 1) with h0 | h1
  · rw [takeHead_launch hp h0]
    obtain ⟨n, r, hy⟩ := (bindLaunch_host (readingState s q x bs) s.ctl.serial (launchFor q x bs)).queue
      (readingState_queue hx)
    exact ⟨_, hy, rfl, rfl⟩
  · rw [takeHead_management hp h1]
    exact ⟨_, passHead_queue (s := noteChoice s q) hx, rfl, rfl⟩

end

/-- Nothing is chosen in SAFE, before the first full sample, or where there is no candidate. -/
theorem chooseLaunch_nothing (s : State) (h : mayChoose s = false ∨ headCands s ++ nodeCands s = []) :
    chooseLaunch s = s := by
  unfold chooseLaunch
  rcases h with hm | hcs
  · rw [if_pos (by simp [hm])]
  · rw [hcs]
    exact ite_self s

end Sys2Proof.Machine

namespace Sys2Proof
open Sys2Proof.Machine

/-- Settles O52: the choice is `bestCand_best`, what becomes of the packet `takeHead_queue`, `takeHead_management` and
`takeHead_verdict`. -/
theorem packetsAreChosenAndBind : Obligations.PacketsAreChosenAndBind := by
  unfold Obligations.PacketsAreChosenAndBind
  intro s hidle cs may
  rw [exec_launch s hidle]
  constructor
  · intro h
    rw [chooseLaunch_nothing s (h.imp_left fun hno => ?_)]
    rw [Bool.eq_false_iff]
    exact fun hm => hno ((mayChoose_iff s).1 hm)
  · intro hmay hcs
    obtain ⟨c, hbest, hmem, hfirst⟩ := bestCand_best cs hcs
    have hm : mayChoose s = true := (mayChoose_iff s).2 hmay
    refine ⟨c, hmem, hfirst, fun hq => ⟨_, rfl, chooseLaunch_node s c hm hbest hq⟩, fun q hq => ?_⟩
    obtain ⟨x, bs, hp, hbusy, hkind⟩ := cand_headPacket s c hmem q hq
    obtain ⟨y, hy, hridx, hybusy⟩ := takeHead_queue hp hkind
    rw [chooseLaunch_head s c q hm hbest hq]
    refine ⟨x, bs, _, y, hp, hbusy, rfl, hy, hridx, hybusy, fun h1 => ?_, fun h0 => ?_⟩
    · rw [takeHead_management hp h1]
      exact ⟨rfl, rfl, mgmtReqOf (some q) x.ridx x.mgmt bs, rfl, rfl, rfl, rfl, rfl⟩
    · obtain ⟨l, hl, hsame, hv⟩ := takeHead_verdict hp h0
      exact ⟨l, hl, hsame.pkt, hsame.queue, hsame.asid, hv.span, hv.limits, hv.empty,
        fun hb => ⟨(hv.binds hb).least, (hv.binds hb).most, (hv.binds hb).levels⟩⟩

end Sys2Proof
end

section
/-! Settings by management request (13 R279 and the rules that it names), and the cold requests (02 R33). -/

namespace Sys2Proof.Machine

/-- A request that is a setting takes effect exactly within its limits. -/
theorem exec_setting {i : Instr} {s f : State} {src : Src} {b : Bool} {ok : Prop}
    (he : exec i s = .next (setting s src b f)) (hb : b = true ↔ ok) :
    (ok → exec i s = .next (mgmtDone f src 0 0)) ∧ (¬ ok → exec i s = .next (mgmtDone s src 6 0)) := by
  rw [he]
  constructor
  · intro h
    rw [setting, if_pos (hb.2 h)]
  · intro h
    rw [setting, if_neg (mt hb.1 h)]

/-- A request without limits always takes effect. -/
theorem exec_setting_always {i : Instr} {s f : State} {src : Src} (he : exec i s = .next (mgmtDone f src 0 0)) :
    (True → exec i s = .next (mgmtDone f src 0 0)) ∧ (¬ True → exec i s = .next (mgmtDone s src 6 0)) :=
  ⟨fun _ => he, fun h => absurd trivial h⟩

theorem dissipation_eq (n : Nat) : dissipation n = if n = 1104 then 3400 else if n = 1008 then 3200 else 2600 := by
  unfold dissipation
  split
  · rfl
  · rfl
  next h₁ h₂ => rw [if_neg h₁, if_neg h₂]

/-- The limits of a FRAME_POOL: its list lies in HBM, in no poisoned region, and lists frames with a home. -/
theorem framePoolOk_iff (s : State) (a n : Nat) : framePoolOk s a n = true ↔ a + 8 * n ≤ hbmSize s.part.dies
    ∧ (∀ k ∈ linesOf a (8 * n), poisoned s.mem (k * 128) = false)
    ∧ ∀ f ∈ frameList s a n, f % 2 ^ 21 = 0 ∧ f + 2 ^ 21 ≤ hbmSize s.part.dies := by
  simp [framePoolOk, and_assoc]

section
variable (src : Src) (s : State)

theorem exec_framePool_owned {a n : Nat} (h : ownedLoc s (.hbm a) (8 * n) = true) :
    exec (.framePool src a n) s = .next s :=
  congrArg Host.Outcome.next (if_pos h)

theorem exec_framePool {a n : Nat} (h : ownedLoc s (.hbm a) (8 * n) = false) : exec (.framePool src a n) s
    = .next (setting s src (framePoolOk s a n)
        (setPart s { s.part with pool := (frameList s a n).map (· / 2 ^ 21) })) :=
  congrArg Host.Outcome.next (if_neg (by simp [framesOwned, h]))

/-- A threshold within the six histograms is written. -/
theorem exec_errThresh {n : Nat} (v : Nat) {h : Hist} (hh : s.part.hists[n]? = some h) (hn : n < 6) :
    exec (.errThresh src n v) s = .next (mgmtDone (putHist s n { h with thresh := v }) src 0 0) := by
  refine ((exec_setting (ok := n < 6) rfl (decide_eq_true_iff)).1 hn).trans ?_
  rw [List.getD_eq_getElem?_getD, hh]
  rfl

/-- NODECFG: its limits first, then the launches that span packages (11 R257). -/
theorem exec_nodecfg (p n : Nat) (c : Bool) : exec (.nodecfg src p n c) s
    = .next (if 127 < p ∨ 511 < n then mgmtDone s src 6 0
        else if s.run.launches.any fun e => spansPackages e.2 then mgmtDone s src 3 0
        else mgmtDone (modeChange (setPart s { s.part with pkgid := p, nodeid := n, compat := c })) src 0 0) := rfl

/-! ### COLD (02 R33) -/

theorem coldRow_warmup (st : Nat) : coldRow .warmup st = true ↔ st = 2 ∨ st = 3 ∨ st = 4 := by simp [coldRow, or_assoc]
theorem coldRow_cancel (st : Nat) : coldRow .cancel st = true ↔ st = 5 := by simp [coldRow]
theorem coldRow_safeExit (st : Nat) : coldRow .safeExit st = true ↔ st = 6 := by simp [coldRow]

/-- A request waits for the next sample where the table has a row for the state, and otherwise is refused. -/
theorem exec_coldRequest {i : Instr} {r : ColdReq} {row : Prop}
    (h : (i, r) ∈ [(Instr.warmUp src, ColdReq.warmup), (.cancel src, .cancel), (.safeExit src, .safeExit)])
    (hrow : coldRow r s.part.cryo.state = true ↔ row) :
    (s.part.cryo.started = true ∧ row → exec i s = .next (setPart s { s.part with cryo := { s.part.cryo with
        reqs := s.part.cryo.reqs ++ [(r, src)] } }))
      ∧ (¬ (s.part.cryo.started = true ∧ row) → exec i s = .next (mgmtDone s src 5 0)) := by
  have hexec : exec i s = .next (askCold s src r) := by
    simp only [List.mem_cons, Prod.mk.injEq, List.not_mem_nil, or_false] at h
    rcases h with ⟨rfl, rfl⟩ | ⟨rfl, rfl⟩ | ⟨rfl, rfl⟩ <;> rfl
  rw [hexec, ← hrow, ← Bool.and_eq_true]
  exact ⟨fun h => congrArg Host.Outcome.next (if_pos h), fun h => congrArg Host.Outcome.next (if_neg h)⟩

end

end Sys2Proof.Machine

namespace Sys2Proof
open Sys2Proof.Machine

/-- Settles O45: a setting's two outcomes are `exec_setting`; FRAME_POOL, NODECFG and the cold requests, which can also
wait or find the part in use, have their equations `exec_framePool`, `exec_nodecfg` and `exec_coldRequest`. -/
theorem settingsTakeEffect : Obligations.SettingsTakeEffect := by
  unfold Obligations.SettingsTakeEffect
  intro src s sets host part maxW
  refine ⟨fun v => ?cap, fun v => ?didt, fun v => ?order, fun v => ?wdog, exec_setting_always rfl,
    fun b n => ?telemetry, exec_setting_always rfl, fun n v h hh hn => exec_errThresh src s v hh hn,
    fun n v hn => ?thresh, ?pool, fun n => ?countdown,
    fun p n c hlim hspan => ?node, fun p n c hlim hspan => ?busy, fun p n c hlim => ?far, fun n => rfl,
    ?cold⟩
  case cap =>
    have hmax : dissipation s.part.inv.grade = maxW := dissipation_eq _
    exact exec_setting rfl (by simp [hmax])
  case didt => exact exec_setting rfl (by simp)
  case order => exact exec_setting rfl (by simp)
  case wdog => exact exec_setting rfl (by simp)
  case telemetry => exact exec_setting rfl (by simp)
  case thresh => exact (exec_setting (ok := n < 6) rfl decide_eq_true_iff).2 (by omega)
  case pool =>
    intro a n fr
    exact ⟨exec_framePool_owned src s,
      fun hfree => exec_setting (exec_framePool src s hfree) (framePoolOk_iff s a n)⟩
  case countdown => exact exec_setting rfl decide_eq_true_iff
  case node =>
    rw [exec_nodecfg, if_neg (by omega), if_neg (by simpa using hspan)]
    rfl
  case busy => rw [exec_nodecfg, if_neg (by omega), if_pos (by simpa using hspan)]
  case far => rw [exec_nodecfg, if_pos (by omega)]
  case cold =>
    intro i r hi
    cases r with
    | warmup => exact exec_coldRequest src s hi (coldRow_warmup _)
    | cancel => exact exec_coldRequest src s hi (coldRow_cancel _)
    | safeExit => exact exec_coldRequest src s hi (coldRow_safeExit _)

end Sys2Proof
end

section
/-! Cold operation (02 R27 to R44): what the readings of a sample say, and what a decision makes of the cryogenic state. -/

namespace Sys2Proof.Machine

/-! ### What leaves the part and the groups as they are -/

@[simp] theorem mgmtDone_part (s : State) (src : Src) (st r : Nat) : (mgmtDone s src st r).part = s.part := by
  unfold mgmtDone
  split
  · exact post_part _ _ _
  · rfl

@[simp] theorem postCryo_part (s : State) (k a b c d x : Nat) : (postCryo s k a b c d x).part = s.part := post_part _ _ _
@[simp] theorem postCryo_run (s : State) (k a b c d x : Nat) : (postCryo s k a b c d x).run = s.run := post_run _ _ _

@[simp] theorem setCryo_cryo (s : State) (c : Cryo) : (setCryo s c).part.cryo = c := rfl
@[simp] theorem setCryo_run (s : State) (c : Cryo) : (setCryo s c).run = s.run := rfl
@[simp] theorem writeHists_cryo (s : State) : (writeHists s).part.cryo = s.part.cryo := rfl
@[simp] theorem writeHists_run (s : State) : (writeHists s).run = s.run := rfl

/-- A fold of steps that keep the part keeps the part. -/
theorem foldl_part {α : Type} (f : State → α → State) (hf : ∀ s a, (f s a).part = s.part) (l : List α) (s : State) :
    (l.foldl f s).part = s.part := by
  induction l generalizing s with
  | nil => rfl
  | cons a t ih => rw [List.foldl_cons, ih, hf]

@[simp] theorem refuseCold_part (s : State) (rs : List (ColdReq × Src)) : (refuseCold s rs).part = s.part :=
  foldl_part (fun s (r : ColdReq × Src) => mgmtDone s r.2 5 0) (fun s r => mgmtDone_part s r.2 5 0) rs s

@[simp] theorem requestMade_part (s : State) (r : Option (ColdReq × Src)) : (requestMade s r).part = s.part := by
  unfold requestMade
  split
  · exact mgmtDone_part _ _ _ _
  · rfl

theorem withdraw_part (s : State) (it : Nat) : (withdraw s it).part = s.part := by
  unfold withdraw
  split
  · rfl
  · exact foldl_part (fun s gid => modGrp s gid unstop) (fun _ _ => rfl) _ _

theorem grantAll_part (s : State) (gid : Nat) : (grantAll s gid).part = s.part :=
  foldl_part (fun s (r : PacerReq) => debit s r.die r.weight) (fun _ _ => rfl) _ s

theorem askItem_part (cause : Nat) (s : State) (it : Nat) : (askItem cause s it).part = s.part := by
  unfold askItem
  split
  · rfl
  · exact foldl_part _ grantAll_part _ _

theorem askPreempt_part (s : State) (it cause : Nat) : (askPreempt s it cause).part = s.part := by
  unfold askPreempt askTogether
  split
  · rfl
  · split
    · exact foldl_part _ (askItem_part cause) _ _
    · rfl

@[simp] theorem leaveSafe_part (s : State) : (leaveSafe s).part = s.part :=
  foldl_part _ (fun s e => by split; exacts [withdraw_part s e.1, rfl]) _ s

@[simp] theorem enterSafe_part (s : State) : (enterSafe s).part = s.part := by
  have reservations := foldl_part (fun s (e : Nat × Group) => match e.2.pq.held with
    | some h => modGrp (credit s (coreDie s.part.dies (e.1 / 32)) h) e.1 fun g => { g with pq := { g.pq with held := none } }
    | none => s) (fun s e => by split <;> rfl) s.run.groups s
  exact (foldl_part _ (fun s e => by split; exacts [rfl, askPreempt_part s e.1 0]) _ _).trans reservations

/-! ### Readings (02 R28, R29) -/

/-- The hottest reading is the part temperature. -/
theorem partTemp_of_hottest {v : List Reading} {T : Nat} (hmem : ∃ r ∈ v, r.temp = T) (hmax : ∀ r ∈ v, r.temp ≤ T) :
    partTemp v = some T := by
  have hmaximum : (v.map (·.temp)).max? = some T := by
    rw [List.max?_eq_some_iff]
    refine ⟨List.mem_map.2 hmem, fun b hb => ?_⟩
    obtain ⟨r, hr, rfl⟩ := List.mem_map.1 hb
    exact hmax r hr
  unfold partTemp
  split
  next h => rw [h] at hmaximum; exact absurd hmaximum (by simp)
  next t ts h => rwa [h, List.max?_cons'] at hmaximum

/-- Two readings of one die differ by more than 10 K (02 R29). -/
def Clash (v : List Reading) : Prop :=
  ∃ a ∈ v, ∃ b ∈ v, a.pos = b.pos ∧ a.idx < b.idx ∧ (a.temp + 10000 < b.temp ∨ b.temp + 10000 < a.temp)

theorem sensorClash_isSome (v : List Reading) : (sensorClash v).isSome = true ↔ Clash v := by
  simp [sensorClash, Clash, List.findSome?_isSome_iff, and_assoc]

theorem rampAbove_iff (r : Int) (k : Nat) : rampAbove r k = true ↔ k * 1000 < r.natAbs := by
  simp only [rampAbove, Bool.or_eq_true, decide_eq_true_eq, Int.ofNat_eq_natCast]
  omega

/-! ### Holds (02 R32, R33) -/

/-- The condition of the row with a hold that a state has. -/
def Held (st b T : Nat) (ramp : Int) (recal : Prop) : Prop := (st = 0 ∧ b ≤ 1) ∨ (st = 1 ∧ b = 2)
  ∨ (st = 2 ∧ T < 92100 ∧ ramp.natAbs < 1000 ∧ recal) ∨ (st = 4 ∧ T < 92100) ∨ (st = 5 ∧ b = 2)

theorem heldRow_iff (c : Cryo) (ramp : Int) :
    heldRow c ramp = true ↔ Held c.state c.band c.temp ramp (c.retrain = []) := by
  have hslow : (-1000 < ramp ∧ ramp < 1000) ↔ ramp.natAbs < 1000 := by omega
  unfold heldRow Held
  rcases c.state with _ | _ | _ | _ | _ | _ | n <;> simp [and_assoc, ← hslow]

/-- The hold of a state just entered: 1 where the sample that enters it meets its condition, and 0 in SETTLE. -/
def Enters (c : Cryo) : Prop :=
  (c.state ≠ 2 ∧ Held c.state c.band c.temp 0 True → c.hold = 1)
    ∧ (¬ (c.state ≠ 2 ∧ Held c.state c.band c.temp 0 True) → c.hold = 0)

theorem enters_of_holdStart {c : Cryo} (h : c.hold = holdStart c) : Enters c := by
  have hmeets : (c.state ≠ 2 ∧ heldRow c 0 = true) ↔ c.state ≠ 2 ∧ Held c.state c.band c.temp 0 True := by
    rw [heldRow_iff]
    refine and_congr_right fun h2 => ?_
    simp only [Held, h2, false_and, false_or]
  unfold Enters
  rw [← hmeets, h]
  exact ⟨fun h => if_pos h, fun h => if_neg h⟩

/-! ### Decisions (02 R32 to R40) -/

/-- What a change of state by a sample makes of the cryogenic machine. -/
structure Went (c d : Cryo) (new : Nat) : Prop where
  state : d.state = new
  chg : d.chg = (c.chg + 1) % 2 ^ 24
  started : d.started = c.started
  temp : d.temp = c.temp
  band : d.band = c.band
  ramp : d.ramp = c.ramp
  sensflt : d.sensflt = c.sensflt
  silent : d.silent = c.silent
  reqs : d.reqs = c.reqs
  enters : Enters d
  same : classOf new = c.cls → d.change = c.change
  other : classOf new ≠ c.cls → d.change = some ⟨classOf new, false⟩

/-- The cryogenic machine in a state just decided, before its hold is set. -/
def wentTo (s : State) (new : Nat) : Cryo :=
  { beginChange s.part.cryo new with
    state := new
    chg := nextChg s.part.cryo.chg
    retrain := if new = 2 then retrainAll s else [] }

/-- A change of state sets the cryogenic machine, tells of it, and ends with the entry to SAFE or the end of SAFE. -/
theorem goState_ends (s : State) (new : Nat) : ∃ u,
    goState s new true = (if new = 6 then enterSafe u else if s.part.cryo.state = 6 then leaveSafe u else u)
      ∧ u.part.cryo = { wentTo s new with hold := holdStart (wentTo s new) } ∧ u.run = s.run := by
  refine ⟨_, rfl, ?_, ?_⟩
  · split <;> simp only [writeHists_cryo, postCryo_part] <;> split <;> rfl
  · split <;> simp only [writeHists_run, postCryo_run] <;> split <;> rfl

theorem goState_cryo (s : State) (new : Nat) :
    (goState s new true).part.cryo = { wentTo s new with hold := holdStart (wentTo s new) } := by
  obtain ⟨u, hgo, hcryo, _⟩ := goState_ends s new
  rw [hgo, ← hcryo]
  split
  · rw [enterSafe_part]
  · split
    · rw [leaveSafe_part]
    · rfl

theorem goState_went (s : State) (new : Nat) : Went s.part.cryo (goState s new true).part.cryo new := by
  rw [goState_cryo]
  by_cases hc : classOf new = s.part.cryo.cls
  · constructor <;> simp [wentTo, beginChange, hc, nextChg]
    exact enters_of_holdStart rfl
  · constructor <;> simp [wentTo, beginChange, hc, nextChg]
    exact enters_of_holdStart rfl

/-- Away from SAFE no group and no work item changes. -/
theorem goState_run (s : State) {new : Nat} (hn : new ≠ 6) (h : s.part.cryo.state ≠ 6) :
    (goState s new true).run = s.run := by
  obtain ⟨u, hgo, _, hrun⟩ := goState_ends s new
  rw [hgo, if_neg hn, if_neg h, hrun]

end Sys2Proof.Machine
end

section
/-! Cold operation: what the steps of a sample, a sensor's silence and a hold do (02 R29, R32, R33, R44). -/

namespace Sys2Proof.Machine

/-! ### The choice of a state (02 R32) -/

/-- What the choice of a state without a table makes of the cryogenic machine. -/
structure Chosen (c d : Cryo) (new : Nat) : Prop where
  state : d.state = new
  cls : d.cls = classOf new
  started : d.started = true
  temp : d.temp = c.temp
  band : d.band = c.band
  silent : d.silent = c.silent
  enters : c.hist ≠ [] → Enters d

/-- The choice sets the cryogenic machine and nothing else but, in SAFE, the stored histograms. -/
theorem chooseState_ends (s : State) (new : Nat) : ∃ u,
    chooseState s new = (if new = 6 then writeHists u else u) ∧ Chosen s.part.cryo u.part.cryo new ∧ u.run = s.run :=
  ⟨_, rfl, ⟨rfl, rfl, rfl, rfl, rfl, rfl, fun hne => enters_of_holdStart (if_neg (by simpa using hne))⟩, rfl⟩

theorem chooseState_chosen (s : State) (new : Nat) : Chosen s.part.cryo (chooseState s new).part.cryo new := by
  obtain ⟨u, hu, hchosen, _⟩ := chooseState_ends s new
  rw [hu]
  split <;> exact hchosen

@[simp] theorem chooseState_run (s : State) (new : Nat) : (chooseState s new).run = s.run := by
  obtain ⟨u, hu, _, hrun⟩ := chooseState_ends s new
  rw [hu]
  split <;> exact hrun

@[simp] theorem sensorFault_cryo (s : State) (p i : Nat) :
    (sensorFault s p i).part.cryo = { s.part.cryo with sensflt := true } := by
  unfold sensorFault; dsimp only; split <;> simp

@[simp] theorem sensorFault_run (s : State) (p i : Nat) : (sensorFault s p i).run = s.run := by
  unfold sensorFault; dsimp only; split <;> simp

/-! ### The decision of a sample (02 R33) -/

theorem resetState_eq (b : Nat) :
    resetState b = if b = 0 then 2 else if b = 1 then 1 else if b = 2 then 0 else 6 := by
  rcases b with _ | _ | _ | b <;> rfl

theorem requestTarget_safeExit {c : Cryo} {ramp : Int} {fault : Bool} (h6 : c.state = 6) (hb : c.band ≤ 2)
    (hf : ¬ fault = true) (hr : ramp.natAbs ≤ 20000) :
    requestTarget c ramp fault .safeExit = some (resetState c.band) := by
  have hslow : ¬ rampAbove ramp 20 = true := by rw [rampAbove_iff]; omega
  exact if_pos ⟨h6, hb, by simpa using hf, by simpa using hslow⟩

/-- The request that answers has a row and its conditions hold. -/
theorem pickCold_target {c : Cryo} {ramp : Int} {fault : Bool} {reqs : List (ColdReq × Src)} {r : ColdReq} {src : Src}
    {n : Nat} (h : (pickCold c ramp fault reqs).1 = some (r, src, n)) : requestTarget c ramp fault r = some n := by
  induction reqs with
  | nil => exact absurd h (by simp [pickCold])
  | cons q t ih =>
    unfold pickCold at h
    split at h
    next m hm =>
      obtain ⟨rfl, -, rfl⟩ : q.1 = r ∧ q.2 = src ∧ m = n := by simpa using h
      exact hm
    next => exact ih h

/-- A request never leads to the state that it finds, and out of SAFE leads SAFE_EXIT alone. -/
theorem requestTarget_some {c : Cryo} {ramp : Int} {fault : Bool} {r : ColdReq} {n : Nat}
    (h : requestTarget c ramp fault r = some n) : n ≠ c.state ∧ (c.state = 6 → r = .safeExit) := by
  cases r with
  | warmup =>
    simp only [requestTarget, Option.ite_none_right_eq_some, Option.some.injEq] at h
    exact ⟨by omega, fun h6 => by omega⟩
  | cancel =>
    simp only [requestTarget, Option.ite_none_right_eq_some, Option.some.injEq] at h
    exact ⟨by omega, fun h6 => by omega⟩
  | safeExit =>
    simp only [requestTarget, Option.ite_none_right_eq_some, Option.some.injEq] at h
    obtain ⟨⟨h6, hband, _⟩, rfl⟩ := h
    refine ⟨?_, fun _ => rfl⟩
    rcases (by omega : c.band = 0 ∨ c.band = 1 ∨ c.band = 2) with hb | hb | hb <;> simp [hb, h6, resetState]

theorem plainRow_eq (st b : Nat) : plainRow st b = if st = 1 ∧ b = 0 then some 2
    else if (st = 2 ∨ st = 3) ∧ 1 ≤ b then some 4 else if st = 4 ∧ b = 2 then some 5 else none := by
  unfold plainRow
  split <;> simp_all

theorem plainRow_getD (st b : Nat) : (plainRow st b).getD st = if st = 1 ∧ b = 0 then 2
    else if (st = 2 ∨ st = 3) ∧ 1 ≤ b then 4 else if st = 4 ∧ b = 2 then 5 else st := by
  rw [plainRow_eq]
  split_ifs <;> rfl

theorem plainRow_some {st b n : Nat} (h : plainRow st b = some n) : n ≠ st ∧ st ≠ 6 := by
  rw [plainRow_eq] at h
  split_ifs at h <;> simp at h <;> omega

/-- A decision while no class change is under way is made at once. -/
theorem decide40_went {s : State} (h : s.part.cryo.change = none) (new : Nat) (req : Option (ColdReq × Src)) :
    Went s.part.cryo (decide40 s new req).part.cryo new := by
  unfold decide40
  rw [if_neg (by simp [h]), requestMade_part]
  exact goState_went s new

/-- The cryogenic machine at a sample, before the sample's decision: the requests are taken and the hold counts. -/
def Cryo.counted (c : Cryo) (ramp : Int) : Cryo :=
  { c with reqs := [], hold := if heldRow c ramp then c.hold + 1 else 0 }

/-- What leads to SAFE at a sample. -/
def Unsafe (c : Cryo) (ramp : Int) (fault : Bool) : Prop :=
  c.state ≠ 6 ∧ (c.band = 3 ∨ rampAbove ramp 30 = true ∨ fault = true)

section
variable {s : State} {ramp : Int} {fault : Bool}

theorem decideSample_unsafe (hch : s.part.cryo.change = none) (h : Unsafe s.part.cryo ramp fault) :
    Went (s.part.cryo.counted ramp) (decideSample s ramp fault).part.cryo 6 := by
  have hd : decideSample s ramp fault
      = decide40 (refuseCold (setCryo s (s.part.cryo.counted ramp)) s.part.cryo.reqs) 6 none := if_pos h
  have hw := decide40_went (s := refuseCold (setCryo s (s.part.cryo.counted ramp)) s.part.cryo.reqs)
    (by rw [refuseCold_part]; exact hch) 6 none
  rw [refuseCold_part, ← hd] at hw
  exact hw

/-- A request that is met; the one that leaves SAFE clears SENSFLT. -/
theorem decideSample_request (hch : s.part.cryo.change = none) (h : ¬ Unsafe s.part.cryo ramp fault) {r : ColdReq}
    {src : Src} {n : Nat} (hp : (pickCold s.part.cryo ramp fault s.part.cryo.reqs).1 = some (r, src, n)) :
    Went { s.part.cryo.counted ramp with sensflt := if r = .safeExit then false else s.part.cryo.sensflt }
      (decideSample s ramp fault).part.cryo n := by
  have hd : decideSample s ramp fault = _ := if_neg h
  rw [hd]
  simp only [hp, refuseCold_part]
  split
  · exact decide40_went (s := setCryo s { s.part.cryo.counted ramp with sensflt := false }) hch n _
  · exact decide40_went (s := setCryo s (s.part.cryo.counted ramp)) hch n _

/-- With no request met the rows without a hold decide. -/
theorem decideSample_plain (hch : s.part.cryo.change = none) (h : ¬ Unsafe s.part.cryo ramp fault)
    (hp : (pickCold s.part.cryo ramp fault s.part.cryo.reqs).1 = none) :
    (∀ n, plainRow s.part.cryo.state s.part.cryo.band = some n →
        Went (s.part.cryo.counted ramp) (decideSample s ramp fault).part.cryo n)
      ∧ (plainRow s.part.cryo.state s.part.cryo.band = none →
        (decideSample s ramp fault).part.cryo = s.part.cryo.counted ramp) := by
  have hd : decideSample s ramp fault = _ := if_neg h
  rw [hd]
  simp only [hp]
  constructor
  · intro n hn
    simp only [hn]
    have hw := decide40_went (s := refuseCold (setCryo s (s.part.cryo.counted ramp))
      (pickCold s.part.cryo ramp fault s.part.cryo.reqs).2) (by rw [refuseCold_part]; exact hch) n none
    rw [refuseCold_part] at hw
    exact hw
  · intro hn
    simp only [hn, refuseCold_part]
    rfl

/-- A sample leaves the state as it is and counts the hold, or leads to another state. -/
theorem decideSample_outcome (hch : s.part.cryo.change = none) :
    (decideSample s ramp fault).part.cryo = s.part.cryo.counted ramp
      ∨ ∃ n f, n ≠ s.part.cryo.state
        ∧ Went { s.part.cryo.counted ramp with sensflt := f } (decideSample s ramp fault).part.cryo n := by
  by_cases h : Unsafe s.part.cryo ramp fault
  · exact .inr ⟨6, _, h.1.symm, decideSample_unsafe hch h⟩
  · cases hp : (pickCold s.part.cryo ramp fault s.part.cryo.reqs).1 with
    | some x =>
      exact .inr ⟨x.2.2, _, (requestTarget_some (pickCold_target hp)).1, decideSample_request hch h hp⟩
    | none =>
      obtain ⟨hrow, hstay⟩ := decideSample_plain hch h hp
      cases hn : plainRow s.part.cryo.state s.part.cryo.band with
      | some n => exact .inr ⟨n, _, (plainRow_some hn).1, hrow n hn⟩
      | none => exact .inl (hstay hn)

/-- What the decision leaves as the sample recorded it. -/
theorem decideSample_keeps (hch : s.part.cryo.change = none) :
    let d := (decideSample s ramp fault).part.cryo
    d.temp = s.part.cryo.temp ∧ d.band = s.part.cryo.band ∧ d.reqs = [] ∧ d.ramp = s.part.cryo.ramp := by
  rcases decideSample_outcome hch with h | ⟨n, f, _, h⟩
  · rw [h]; exact ⟨rfl, rfl, rfl, rfl⟩
  · exact ⟨h.temp, h.band, h.reqs, h.ramp⟩

/-- The hold counts on in a state that stays, and starts in one that is entered. -/
theorem decideSample_hold (hch : s.part.cryo.change = none) :
    let d := (decideSample s ramp fault).part.cryo
    (d.state = s.part.cryo.state → d.hold = if heldRow s.part.cryo ramp then s.part.cryo.hold + 1 else 0)
      ∧ (d.state ≠ s.part.cryo.state → Enters d) := by
  rcases decideSample_outcome hch with h | ⟨n, f, hn, h⟩
  · rw [h]; exact ⟨fun _ => rfl, fun hne => absurd rfl hne⟩
  · exact ⟨fun he => absurd (h.state.symm.trans he) hn, fun _ => h.enters⟩

/-- Where no request waits the rows without a hold give the state. -/
theorem decideSample_state_noRequest (hch : s.part.cryo.change = none) (h : ¬ Unsafe s.part.cryo ramp fault)
    (hreqs : s.part.cryo.reqs = []) : (decideSample s ramp fault).part.cryo.state
      = (plainRow s.part.cryo.state s.part.cryo.band).getD s.part.cryo.state := by
  obtain ⟨hrow, hstay⟩ := decideSample_plain hch h (by rw [hreqs]; rfl)
  cases hn : plainRow s.part.cryo.state s.part.cryo.band with
  | some n => exact (hrow n hn).state
  | none => rw [hstay hn]; rfl

/-- The only request, where its row holds, is met. -/
theorem decideSample_oneRequest (hch : s.part.cryo.change = none) (h : ¬ Unsafe s.part.cryo ramp fault) {r : ColdReq}
    {src : Src} {n : Nat} (hreqs : s.part.cryo.reqs = [(r, src)])
    (hn : requestTarget s.part.cryo ramp fault r = some n) :
    Went { s.part.cryo.counted ramp with sensflt := if r = .safeExit then false else s.part.cryo.sensflt }
      (decideSample s ramp fault).part.cryo n :=
  decideSample_request hch h (src := src) (by rw [hreqs]; simp only [pickCold, hn])

end

end Sys2Proof.Machine
end

section
/-! Cold operation: the statement, event by event (02 R28 to R44; 06 R122, R438). -/

namespace Sys2Proof.Machine

/-- A recorded sample is one that the ramp rate can refer to. -/
theorem noteTemp_hist (c : Cryo) (t : Nat) : (noteTemp c t).hist ≠ [] := by
  simp [noteTemp, minuteSamples]

section
variable (s : State)

/-! ### The first full sample (02 R32) -/

theorem exec_firstFullSample_idle {rs : List Reading}
    (h : s.part.cryo.started = true ∨ fullSample s (validReadings s rs) = false) :
    exec (.firstFullSample rs) s = .next s :=
  congrArg Host.Outcome.next (if_pos (by simpa using h))

/-- The state that the first full sample chooses, and its sensor fault if there is one. -/
theorem exec_firstFullSample {rs : List Reading} {T : Nat} (hs : s.part.cryo.started = false)
    (hf : fullSample s (validReadings s rs) = true) (hT : partTemp (validReadings s rs) = some T) :
    ∃ t, exec (.firstFullSample rs) s = .next t ∧ t.run = s.run
      ∧ (Clash (validReadings s rs) → Chosen (noteTemp s.part.cryo T) t.part.cryo 6 ∧ t.part.cryo.sensflt = true)
      ∧ (¬ Clash (validReadings s rs) → Chosen (noteTemp s.part.cryo T) t.part.cryo (resetState (bandOf T))) := by
  let u := setCryo s (noteTemp s.part.cryo T)
  have hexec : exec (.firstFullSample rs) s = .next (match sensorClash (validReadings s rs) with
      | some (p, i) => sensorFault (chooseState u 6) p i
      | none => chooseState u (resetState (bandOf T))) := by
    refine (congrArg Host.Outcome.next (if_neg (by simp [hs, hf]))).trans ?_
    simp only [hT]
    rfl
  rw [hexec, ← sensorClash_isSome]
  cases sensorClash (validReadings s rs) with
  | none =>
    exact ⟨_, rfl, chooseState_run _ _, fun h => absurd h (by simp), fun _ => chooseState_chosen u _⟩
  | some x =>
    have hc := chooseState_chosen u 6
    refine ⟨_, rfl, (sensorFault_run _ _ _).trans (chooseState_run _ _), fun _ => ?_, fun h => absurd rfl h⟩
    rw [sensorFault_cryo]
    exact ⟨⟨hc.state, hc.cls, hc.started, hc.temp, hc.band, hc.silent, hc.enters⟩, rfl⟩

/-! ### A later sample (02 R29 to R33) -/

/-- What a sample has recorded when its decision comes. -/
structure Sampled (c d : Cryo) (T : Nat) (ramp : Int) : Prop where
  temp : d.temp = T
  band : d.band = bandOf T
  ramp : d.ramp = (c.ramp || decide (20000 < ramp.natAbs))
  state : d.state = c.state
  change : d.change = c.change
  hold : d.hold = c.hold
  reqs : d.reqs = c.reqs
  retrain : d.retrain = c.retrain

theorem noteRamp_sampled (c : Cryo) (T : Nat) (still : List (Nat × Nat)) (ramp : Int) (u : State)
    (hu : u.part.cryo = noteTemp { c with silent := still } T) : Sampled c (noteRamp u ramp).part.cryo T ramp := by
  have hfast : rampAbove ramp 20 = decide (20000 < ramp.natAbs) := by
    rw [Bool.eq_iff_iff, rampAbove_iff, decide_eq_true_iff]
  have hcryo : (noteRamp u ramp).part.cryo
      = { u.part.cryo with breach := rampAbove ramp 20, ramp := u.part.cryo.ramp || rampAbove ramp 20 } := by
    unfold noteRamp
    dsimp only
    split <;> simp
  rw [hcryo, hu, hfast]
  exact ⟨rfl, rfl, rfl, rfl, rfl, rfl, rfl, rfl⟩

/-- A sensor that was silent still is (02 R29). -/
def Quiet (s : State) (v : List Reading) : Prop :=
  ∃ x ∈ s.part.cryo.silent, x.1 ∈ sensedPos s ∧ ∀ r ∈ v, (r.pos, r.idx) ≠ x

theorem exec_sensorSample_idle (rs : List Reading) (h : s.part.cryo.started = false) :
    exec (.sensorSample rs) s = .next s :=
  congrArg Host.Outcome.next (if_pos (by simp [h]))

/-- A sample ends with its decision, on what it has recorded and whether there is a sensor fault. -/
theorem exec_sensorSample {rs : List Reading} {T : Nat} (hs : s.part.cryo.started = true)
    (hT : partTemp (validReadings s rs) = some T) : ∃ u fault,
      exec (.sensorSample rs) s = .next (decideSample u (rampOf s.part.cryo T) fault)
      ∧ (fault = true ↔ Clash (validReadings s rs) ∨ Quiet s (validReadings s rs))
      ∧ Sampled s.part.cryo u.part.cryo T (rampOf s.part.cryo T) := by
  let still := s.part.cryo.silent.filter fun x =>
    (sensedPos s).contains x.1 && !((validReadings s rs).any fun r => (r.pos, r.idx) == x)
  let a : State := { s with run := { s.run with groups := s.run.groups.map fun e => (e.1, tickDog s e.1 e.2) } }
  let u := noteRamp (setCryo a (noteTemp { s.part.cryo with silent := still } T)) (rampOf s.part.cryo T)
  have hexec : exec (.sensorSample rs) s = .next (match sensorClash (validReadings s rs) with
      | some (p, i) => decideSample (sensorFault u p i) (rampOf s.part.cryo T) true
      | none => decideSample u (rampOf s.part.cryo T) (!still.isEmpty)) := by
    refine (congrArg Host.Outcome.next (if_neg (by simp [hs]))).trans ?_
    simp only [hT]
    rfl
  have hquiet : (!still.isEmpty) = true ↔ Quiet s (validReadings s rs) := by
    simp [still, Quiet, List.filter_eq_nil_iff]
  have hsampled : Sampled s.part.cryo u.part.cryo T (rampOf s.part.cryo T) := noteRamp_sampled _ _ still _ _ rfl
  rw [hexec, ← sensorClash_isSome]
  cases sensorClash (validReadings s rs) with
  | none => exact ⟨u, _, rfl, by simpa using hquiet, hsampled⟩
  | some x =>
    refine ⟨_, true, rfl, by simp, ?_⟩
    rw [sensorFault_cryo]
    exact ⟨hsampled.temp, hsampled.band, hsampled.ramp, hsampled.state, hsampled.change, hsampled.hold, hsampled.reqs,
      hsampled.retrain⟩

/-! ### A silent sensor (02 R29, R32, R44) -/

theorem exec_sensorTimeout_foreign {pos idx : Nat} (h : ¬ (pos ∈ sensedPos s ∧ idx < sensorsAt pos)) :
    exec (.sensorTimeout pos idx) s = .next s :=
  congrArg Host.Outcome.next (if_pos (by simpa [imp_iff_not_or] using h))

/-- The silence of a sensor is a sensor fault, which leads to SAFE. -/
theorem exec_sensorTimeout {pos idx : Nat} (hpos : pos ∈ sensedPos s) (hidx : idx < sensorsAt pos) : ∃ u,
    exec (.sensorTimeout pos idx) s = .next (if u.part.cryo.state = 6 then u else decide40 u 6 none)
      ∧ u.part.cryo.sensflt = true ∧ u.part.cryo.started = true ∧ (pos, idx) ∈ u.part.cryo.silent
      ∧ (s.part.cryo.started = false → u.part.cryo.state = 6)
      ∧ (s.part.cryo.started = true → u.part.cryo.state = s.part.cryo.state
          ∧ u.part.cryo.change = s.part.cryo.change) := by
  let c : Cryo := { s.part.cryo with
    silent := if s.part.cryo.silent.contains (pos, idx) then s.part.cryo.silent
      else s.part.cryo.silent ++ [(pos, idx)] }
  have hsilent : (pos, idx) ∈ c.silent := by
    by_cases hin : (pos, idx) ∈ s.part.cryo.silent <;> simp [c, hin]
  let u := if s.part.cryo.started then setCryo s c else chooseState (setCryo s c) 6
  refine ⟨sensorFault u pos idx, congrArg Host.Outcome.next (if_neg (by simp [hpos, hidx])), ?_⟩
  rw [sensorFault_cryo]
  cases hs : s.part.cryo.started with
  | true =>
    have hu : u = setCryo s c := if_pos hs
    rw [hu]
    exact ⟨rfl, hs, hsilent, fun h => absurd h (by simp), fun _ => ⟨rfl, rfl⟩⟩
  | false =>
    have hu : u = chooseState (setCryo s c) 6 := if_neg (by simp [hs])
    have hc := chooseState_chosen (setCryo s c) 6
    rw [hu]
    exact ⟨rfl, hc.started, hc.silent ▸ hsilent, fun _ => hc.state, fun h => absurd h (by simp)⟩

/-- While a class change is under way a decision waits for its end (02 R40). -/
theorem decide40_waits {t : State} (h : t.part.cryo.change ≠ none) (new : Nat) :
    ∃ w, (decide40 t new none).part.cryo = { t.part.cryo with waiting := w } ∧ ∃ e ∈ w, e.1 = new := by
  unfold decide40
  dsimp only
  rw [if_pos (Option.isSome_iff_ne_none.2 h)]
  split
  next hlast =>
    refine ⟨t.part.cryo.waiting, rfl, ?_⟩
    obtain ⟨e, he, hnew⟩ := Option.map_eq_some_iff.1 (beq_iff_eq.1 (Bool.and_eq_true_iff.1 hlast).1)
    exact ⟨e, List.mem_of_getLast? he, hnew⟩
  next => exact ⟨_, rfl, (new, none), by simp, rfl⟩

/-! ### The end of a hold (02 R33) -/

theorem heldTarget_none {st : Nat} (h : st = 3 ∨ 5 < st) : heldTarget st = none := by
  rcases h with rfl | h
  · rfl
  · obtain ⟨n, rfl⟩ := Nat.exists_eq_add_of_le' h
    rfl

theorem heldTarget_rows {st new k : Nat} (h : (st, new, k) ∈ [(0, 1, 600000), (1, 0, 600000), (2, 3, 3000000),
    (4, 2, 600000), (5, 0, 600000)]) : heldTarget st = some (new, k) ∧ new ≠ 6 ∧ st ≠ 6 := by
  simp only [List.mem_cons, Prod.mk.injEq, List.not_mem_nil, or_false] at h
  rcases h with ⟨rfl, rfl, rfl⟩ | ⟨rfl, rfl, rfl⟩ | ⟨rfl, rfl, rfl⟩ | ⟨rfl, rfl, rfl⟩ | ⟨rfl, rfl, rfl⟩ <;>
    exact ⟨rfl, by decide, by decide⟩

theorem exec_coldHoldExpiry_noRow (h : heldTarget s.part.cryo.state = none) : exec .coldHoldExpiry s = .next s := by
  change Host.Outcome.next _ = _
  simp only [h]

theorem exec_coldHoldExpiry {n k : Nat} (h : heldTarget s.part.cryo.state = some (n, k)) : exec .coldHoldExpiry s
    = .next (if s.part.cryo.started && decide (k < s.part.cryo.hold) && s.part.cryo.change.isNone then goState s n true
        else s) := by
  change Host.Outcome.next _ = _
  simp only [h]

/-! ### Class changes (02 R34, R38, R39, R44) -/

theorem exec_classChange_none (h : s.part.cryo.change = none) :
    exec .classChangeIssueStop s = .next s ∧ exec .classChangeIssueResume s = .next s := by
  change Host.Outcome.next _ = _ ∧ Host.Outcome.next _ = _
  simp only [h, and_self]

theorem exec_classChangeIssueStop {k : ClassChange} (h : s.part.cryo.change = some k) : exec .classChangeIssueStop s
    = .next (setCryo s { s.part.cryo with change := some { k with stopped := true } }) := by
  change Host.Outcome.next _ = _
  simp only [h]

theorem exec_classChangeIssueResume {k : ClassChange} (h : s.part.cryo.change = some k) :
    exec .classChangeIssueResume s = .next (if k.stopped then endChange s k else s) := by
  change Host.Outcome.next _ = _
  simp only [h]

/-- The cryogenic event reaches queue 0's ring with the band, temperature and CHG of its state (02 R44). -/
theorem posted_postCryo (t : State) (hqs : t.host.queues = s.host.queues) (kind os ns oc nc x : Nat) :
    Posted s (postCryo t kind os ns oc nc x) 0 3 0 (bytesLe 1 kind ++ bytesLe 1 os ++ bytesLe 1 ns ++ bytesLe 1 oc
      ++ bytesLe 1 nc ++ bytesLe 1 t.part.cryo.band ++ bytesLe 2 (t.part.cryo.temp / 100)
      ++ bytesLe 4 t.part.cryo.chg ++ bytesLe 4 x) := by
  refine posted_post s (freshTime t).1 0 ⟨3, 0, _⟩ _ hqs (show 3 < 2 ^ 16 by decide) (show 0 < 2 ^ 16 by decide) (by simp) ?_
  simp only [List.append_assoc _ (bytesLe 8 _) (bytesLe 8 _)]
  exact List.take_left

/-- With no decision waiting the end of a class change changes the class and tells of it. -/
theorem endChange_eq {k : ClassChange} (h : s.part.cryo.waiting = []) : ∃ u,
    endChange s k = setCryo (postCryo u 1 s.part.cryo.state s.part.cryo.state s.part.cryo.cls k.target 0) u.part.cryo
      ∧ u = setCryo s { s.part.cryo with
          cls := k.target
          chg := (s.part.cryo.chg + 1) % 2 ^ 24
          change := none
          refreshOn := !(k.target == 0) } := by
  refine ⟨_, ?_, rfl⟩
  unfold endChange
  dsimp only
  rw [h, runWaiting, postCryo_part]
  simp only [setCryo_cryo, nextChg, ← h]

theorem exec_pseudoChannelRetrainDone_idle (h : s.part.cryo.retrain = []) :
    exec .pseudoChannelRetrainDone s = .next s := by
  change Host.Outcome.next _ = _
  simp only [h, List.getElem?_nil]

/-- One pseudo-channel less of some stack that has one left. -/
theorem exec_pseudoChannelRetrainDone (h : s.part.cryo.retrain ≠ []) : ∃ e ∈ s.part.cryo.retrain,
    exec .pseudoChannelRetrainDone s = .next (bumpNonce (setCryo s { s.part.cryo with
      retrain := kput 0 s.part.cryo.retrain e.1 (e.2 - 1) })) := by
  have hlt : Config.freeChoice s.ctl.nonce % s.part.cryo.retrain.length < s.part.cryo.retrain.length :=
    Nat.mod_lt _ (List.length_pos_iff.2 h)
  refine ⟨_, List.getElem_mem hlt, ?_⟩
  change Host.Outcome.next _ = _
  simp only [List.getElem?_eq_getElem hlt]

/-! ### Weight-store windows (06 R122, R438) -/

theorem exec_wsWindowBegin {d : Nat} {w : WsWin} (h : s.part.ws[d]? = some w) : exec (.wsWindowBegin d) s
    = .next (if w.openBg.isSome then s
        else setPart s { s.part with ws := s.part.ws.set d (openWindow (longCadence s.part.cryo) w) }) := by
  change Host.Outcome.next _ = _
  simp only [h]
  rfl

theorem exec_wsWindowEnd {d : Nat} {w : WsWin} (h : s.part.ws[d]? = some w) : exec (.wsWindowEnd d) s
    = .next (setPart s { s.part with
        ws := s.part.ws.set d (if w.again then openWindow true w else { w with openBg := none }) }) := by
  change Host.Outcome.next _ = _
  simp only [h]
  rfl

/-! ### The retention patrol (02 R36; 11 R258) -/

/-- A count leaves the groups as they are. -/
@[simp] theorem countError_run (n unit b : Nat) : (countError s n unit b).run = s.run := by
  unfold countError
  split
  · rfl
  · dsimp only
    split
    · rfl
    · split <;> simp

/-- A count leaves the bucket with one error more, or full, and every other bucket as it was. -/
theorem countError_hist {n unit b : Nat} {h : Hist} (hh : s.part.hists[n]? = some h) : ∃ h',
    (countError s n unit b).part.hists[n]? = some h' ∧
      let k := unit % 65536 * 65536 + b % 65536
      kget 0 h'.counts k = (if 65535 ≤ kget 0 h.counts k then kget 0 h.counts k else kget 0 h.counts k + 1)
        ∧ ∀ j, j ≠ k → kget 0 h'.counts j = kget 0 h.counts j := by
  unfold countError
  simp only [hh]
  split
  · exact ⟨h, hh, rfl, fun _ _ => rfl⟩
  · refine ⟨h.counted (unit % 65536 * 65536 + b % 65536), ?_, h.counted_same _, fun j hj => h.counted_other hj⟩
    split
    · rw [postEvent_part]; exact putHist_get hh _
    · exact putHist_get hh _

theorem exec_retentionPatrol_idle (stack : Nat) {corrected : Bool}
    (h : s.part.cryo.refreshOn = true ∨ corrected = false) : exec (.retentionPatrol stack corrected) s = .next s :=
  congrArg Host.Outcome.next (if_pos (by rcases h with h | h <;> simp [h]))

/-- A corrected row counts at a pseudo-channel that the spec leaves open. -/
theorem exec_retentionPatrol (stack : Nat) (h : s.part.cryo.refreshOn = false) (hp : canPost s 0 = true) : ∃ b < 64,
    exec (.retentionPatrol stack true) s = .next (bumpNonce (countError s 5 stack b)) :=
  ⟨Config.freeChoice s.ctl.nonce % pseudoChannels, Nat.mod_lt _ (by decide),
    congrArg Host.Outcome.next (if_neg (by simp [h, hp, countWaits]))⟩

end

end Sys2Proof.Machine
end

section
/-! Cold operation: the statement, from what the events do. -/

namespace Sys2Proof.Machine

/-- A sensor's silence sets SENSFLT and leads to SAFE, at once or after the class change under way (02 R29, R40). -/
theorem sensorTimeout_leadsToSafe (s : State) {pos idx : Nat} (hpos : pos ∈ sensedPos s) (hidx : idx < sensorsAt pos) :
    ∃ t, exec (.sensorTimeout pos idx) s = .next t
      ∧ t.part.cryo.sensflt = true ∧ t.part.cryo.started = true ∧ (pos, idx) ∈ t.part.cryo.silent
      ∧ (s.part.cryo.change = none ∨ s.part.cryo.started = false → t.part.cryo.state = 6)
      ∧ (s.part.cryo.started = true → s.part.cryo.change ≠ none → s.part.cryo.state ≠ 6 →
          ∃ e ∈ t.part.cryo.waiting, e.1 = 6) := by
  obtain ⟨u, hexec, hflt, hstart, hsil, hfresh, hon⟩ := exec_sensorTimeout s hpos hidx
  by_cases h6 : u.part.cryo.state = 6
  · rw [if_pos h6] at hexec
    exact ⟨u, hexec, hflt, hstart, hsil, fun _ => h6, fun hs _ hne => absurd ((hon hs).1.symm.trans h6) hne⟩
  · rw [if_neg h6] at hexec
    have hs : s.part.cryo.started = true := by
      cases hs : s.part.cryo.started with
      | true => rfl
      | false => exact absurd (hfresh hs) h6
    obtain ⟨_, hch⟩ := hon hs
    by_cases hnone : s.part.cryo.change = none
    · have hw := decide40_went (hch.trans hnone) 6 none
      exact ⟨_, hexec, hw.sensflt.trans hflt, hw.started.trans hstart, hw.silent ▸ hsil, fun _ => hw.state,
        fun _ hne => absurd hnone hne⟩
    · obtain ⟨w, hw, hmem⟩ := decide40_waits (hch ▸ hnone) 6
      refine ⟨_, hexec, ?_⟩
      rw [hw]
      refine ⟨hflt, hstart, hsil, fun h => ?_, fun _ _ _ => hmem⟩
      exact absurd h (by simp [hnone, hs])

end Sys2Proof.Machine

namespace Sys2Proof
open Sys2Proof.Machine

/-- Settles O57, event by event: a sample's decision through `decideSample_keeps`, `decideSample_hold` and the three ways it
can fall, a change of state through `goState_went`. -/
theorem coldOperation : Obligations.ColdOperation := by
  unfold Obligations.ColdOperation
  refine ⟨?states, ?classes, ?retrain, ?windows, ?patrol⟩
  case states =>
    intro bandAt first hottest clash held enters
    refine ⟨?firstSample, ?sample, ?timeout, ?hold⟩
    case firstSample =>
      intro s rs v
      refine ⟨exec_firstFullSample_idle s, fun T hs hf hT => ?_⟩
      obtain ⟨t, hexec, hrun, hclash, hclear⟩ := exec_firstFullSample s hs hf (partTemp_of_hottest hT.1 hT.2)
      obtain ⟨n, hc⟩ : ∃ n, Chosen (noteTemp s.part.cryo T) t.part.cryo n := by
        by_cases h : Clash v
        · exact ⟨6, (hclash h).1⟩
        · exact ⟨_, hclear h⟩
      exact ⟨t, hexec, hc.started, hc.temp, hc.band, hc.cls.trans (congrArg classOf hc.state.symm), hrun,
        fun h => ⟨(hclash h).1.state, (hclash h).2⟩, fun h => (hclear h).state.trans (resetState_eq _),
        hc.enters (noteTemp_hist _ _)⟩
    case sample =>
      intro s rs c v
      refine ⟨exec_sensorSample_idle s rs, ?_⟩
      intro T hs hch hT b ramp quiet fault safe
      obtain ⟨u, f, hexec, hf, hu⟩ := exec_sensorSample s hs (partTemp_of_hottest hT.1 hT.2)
      have hchu : u.part.cryo.change = none := hu.change.trans hch
      have hunsafe : Unsafe u.part.cryo ramp f ↔ safe := by
        rw [Unsafe, hu.state, hu.band, rampAbove_iff, hf]
        rfl
      have hheld : heldRow u.part.cryo ramp = true ↔ held c.state b T ramp (c.retrain = []) := by
        rw [heldRow_iff, hu.state, hu.band, hu.temp, hu.retrain]
        rfl
      obtain ⟨htemp, hband, hreqs, hramp⟩ := decideSample_keeps (ramp := ramp) (fault := f) hchu
      obtain ⟨hstay, hmove⟩ := decideSample_hold (ramp := ramp) (fault := f) hchu
      rw [hu.state] at hstay hmove
      have request {r : ColdReq} {src : Src} {n : Nat} (hsafe : ¬ safe) (hr : c.reqs = [(r, src)])
          (hn : requestTarget u.part.cryo ramp f r = some n) :=
        decideSample_oneRequest hchu (mt hunsafe.1 hsafe) (hu.reqs.trans hr) hn
      refine ⟨_, hexec, htemp.trans hu.temp, hband.trans hu.band, hreqs, hramp.trans hu.ramp, ?safe, ?rows,
        fun src hsafe => ⟨?warmup, ?cancel, ?safeExit⟩, fun he => ⟨?counts, ?restarts⟩, hmove⟩
      case safe => exact fun h => (decideSample_unsafe hchu (hunsafe.2 h)).state
      case rows =>
        intro h hr
        rw [decideSample_state_noRequest hchu (mt hunsafe.1 h) (hu.reqs.trans hr), hu.state, hu.band, plainRow_getD]
        rfl
      case warmup =>
        intro hr hrow
        exact (request hsafe hr (if_pos (by rwa [hu.state, hu.band]))).state
      case cancel =>
        intro hr hst hb
        exact (request hsafe hr (if_pos (by rw [hu.state, hu.band]; exact ⟨hst, hb⟩))).state
      case safeExit =>
        intro hr hst hb hfault hslow
        have hw := request hsafe hr (requestTarget_safeExit (hu.state.trans hst) (by rwa [hu.band]) (mt hf.1 hfault) hslow)
        rw [hu.band, resetState_eq] at hw
        exact ⟨hw.state, hw.sensflt⟩
      case counts =>
        intro hh
        rw [hstay he, if_pos (hheld.2 hh), hu.hold]
      case restarts =>
        intro hh
        rw [hstay he, if_neg (mt hheld.1 hh)]
    case timeout =>
      exact fun s pos idx => ⟨exec_sensorTimeout_foreign s, sensorTimeout_leadsToSafe s⟩
    case hold =>
      intro s c
      refine ⟨fun h => exec_coldHoldExpiry_noRow s (heldTarget_none h), fun st new k hrow hst => ?_⟩
      obtain ⟨htarget, hnew, hst6⟩ := heldTarget_rows hrow
      rw [exec_coldHoldExpiry s (hst ▸ htarget)]
      constructor
      · intro hidle
        refine congrArg Host.Outcome.next (if_neg ?_)
        simp only [Bool.and_eq_true, decide_eq_true_eq, Option.isNone_iff_eq_none]
        rintro ⟨⟨hs, hk⟩, hch⟩
        rcases hidle with h | h | h
        · exact Bool.false_ne_true (h.symm.trans hs)
        · exact absurd hk (Nat.not_lt.2 h)
        · exact h hch
      · intro hs hk hch
        have hw := goState_went s new
        refine ⟨_, congrArg Host.Outcome.next (if_pos ?_), hw.state, hw.chg, hw.enters,
          goState_run s hnew (hst ▸ hst6), hw.other, fun h => (hw.same h).trans hch⟩
        simp only [Bool.and_eq_true, decide_eq_true_eq, Option.isNone_iff_eq_none]
        exact ⟨⟨hs, hk⟩, hch⟩
  case classes =>
    intro s c
    refine ⟨exec_classChange_none s, fun k hk => ⟨exec_classChangeIssueStop s hk, rfl, fun hrun => ?_,
      fun hstop hwait => ?_⟩⟩
    · rw [exec_classChangeIssueResume s hk, if_neg (by simp [hrun])]
    · rw [exec_classChangeIssueResume s hk, if_pos hstop]
      obtain ⟨u, hend, hu⟩ := endChange_eq s (k := k) hwait
      have hposted := posted_postCryo s u (by rw [hu]; rfl) 1 c.state c.state c.cls k.target 0
      refine ⟨_, congrArg Host.Outcome.next hend, by rw [hu]; rfl, ?_, ?_⟩
      · rw [setCryo_run, postCryo_run, hu, setCryo_run]
      · rw [hu] at hposted ⊢
        exact hposted
  case retrain =>
    intro s r
    refine ⟨exec_pseudoChannelRetrainDone_idle s, fun hne => ?_⟩
    obtain ⟨e, he, hexec⟩ := exec_pseudoChannelRetrainDone s hne
    exact ⟨_, e, he, hexec, rfl, rfl, rfl⟩
  case windows =>
    intro s d w hw put
    rw [exec_wsWindowBegin s hw, exec_wsWindowEnd s hw]
    refine ⟨fun h => ?_, fun h => ?_, fun h => ?_, fun h => ?_⟩
    · rw [if_neg (by simp [h])]; rfl
    · rw [if_pos (Option.isSome_iff_ne_none.2 h)]
    · rw [if_neg (by simp [h])]; rfl
    · rw [if_pos h]; rfl
  case patrol =>
    intro s stack corrected
    refine ⟨exec_retentionPatrol_idle s stack, ?_⟩
    rintro h hoff rfl hpost hh
    obtain ⟨b, hb, hexec⟩ := exec_retentionPatrol s stack hoff hpost
    obtain ⟨h', hh', hcount, hother⟩ := countError_hist s (unit := stack) (b := b) hh
    rw [Nat.mod_eq_of_lt (show b < 65536 by omega)] at hcount hother
    exact ⟨_, h', b, hexec, countError_run s 5 stack b, hh', hb, hcount, hother⟩

end Sys2Proof
end

section
/-! Instructions whose effect is a change of their own group: what their completion leaves, and what a register that
they write reads (04 R77, R81, R90). -/

namespace Sys2Proof.Machine

variable {s : State} {g g1 : Group}

/-! ### Completion -/

/-- Issue aside, a group holds what another holds: registers, flags, the dead-read note, and everything that no issue
moves. -/
structure Group.Carries (g h : Group) : Prop where
  v : h.v = g.v
  s : h.s = g.s
  p : h.p = g.p
  flags : h.fpflags = g.fpflags
  satf : h.satf = g.satf
  seen : h.seen = g.seen
  firstreg : h.firstreg = g.firstreg
  dfile : h.dfile = g.dfile
  kept : h.kept = g.kept

/-- Every field that issue does not move is carried. -/
theorem Group.Carries.field {α : Type} {h : Group} (hc : g.Carries h) (p : Group → α) (hp : ∀ k : Group, p k.kept = p k) :
    p h = p g := by rw [← hp h, hc.kept, hp]

theorem sigStep_dead (c : Ctx) (g : Group) : (sigStep c g).seen = g.seen ∧ (sigStep c g).firstreg = g.firstreg
    ∧ (sigStep c g).dfile = g.dfile := by
  unfold sigStep
  split
  · exact ⟨rfl, rfl, rfl⟩
  · split <;> exact ⟨rfl, rfl, rfl⟩

theorem rotateSplit_dead (g : Group) : (rotateSplit g).seen = g.seen ∧ (rotateSplit g).firstreg = g.firstreg
    ∧ (rotateSplit g).dfile = g.dfile := by
  unfold rotateSplit
  split
  · exact ⟨rfl, rfl, rfl⟩
  · simp only
    split <;> exact ⟨rfl, rfl, rfl⟩

/-- Retirement moves nothing but issue's own state. -/
theorem turn_retire_carries (c : Ctx) (pc clk : Nat) (g : Group) : g.Carries (turnGrp (retireGrp c pc clk g)) := by
  obtain ⟨hv, hs, hp, hfl, hsat, hkept, _, _, _⟩ := turn_retire_same c pc clk g
  have hdead : (turnGrp (retireGrp c pc clk g)).seen = g.seen ∧ (turnGrp (retireGrp c pc clk g)).firstreg = g.firstreg
      ∧ (turnGrp (retireGrp c pc clk g)).dfile = g.dfile := by
    obtain ⟨h1, h2, h3⟩ := sigStep_dead c g
    unfold turnGrp
    split
    · obtain ⟨r1, r2, r3⟩ := rotateSplit_dead (retireGrp c pc clk g)
      exact ⟨r1.trans h1, r2.trans h2, r3.trans h3⟩
    · exact ⟨h1, h2, h3⟩
  exact ⟨hv, hs, hp, hfl, hsat, hdead.1, hdead.2.1, hdead.2.2, hkept⟩

/-- An instruction that issues, and whose effect changes its own group alone, completes: the group carries the change, and
nothing else of the machine moves but its clock and the count of issues. -/
theorem issue_modGrp {m : Meaning} {u : State} {f : Group → Group} (hi : m.form.Issues s g g1)
    (hpre : m.pre (m.form.ctx s g) = none)
    (hbody : m.body (m.form.ctx s g) (m.form.begun s g g1) = .done (modGrp u s.ctl.cur f))
    (hrun : u.run = (m.form.begun s g g1).run) (hmem : u.mem = s.mem) (hpart : u.part = s.part)
    (hhost : u.host = s.host) (hsplit : (f g1).split = g.split) (hactive : (f g1).active = g.active)
    (hmaj : majOf (wordOf m.i) ≠ 0x3F) :
    ∃ t h, issue m s = .next t ∧ grp t s.ctl.cur = some h ∧ Retired m.form g h ∧ OnlyGroup s t ∧ t.ctl = u.ctl
      ∧ (f g1).Carries h := by
  have hgrp (k : Nat) : grp u k = grp (m.form.begun s g g1) k := by
    rw [grp, grp, hrun]
  have hcur : grp (modGrp u s.ctl.cur f) s.ctl.cur = some (f g1) := by
    rw [grp_modGrp, if_pos rfl, hgrp, Form.begun, grp_setGrp_self, Option.map_some]
  have hset := settle_done (m.form.ctx s g) (modGrp u s.ctl.cur f) (f g1) hcur
  obtain ⟨_, _, _, _, _, _, hhints, hwait, _⟩ :=
    turn_retire_same (m.form.ctx s g) (m.form.ctx s g).next (modGrp u s.ctl.cur f).ctl.clk (f g1)
  refine ⟨_, _, ?_, hset.cur, ⟨hhints, hwait, fun hs => ?_⟩, ⟨⟨fun k hk => ?_, ?_, ?_, ?_, ?_, ?_, ?_, ?_⟩, ?_⟩, hset.ctl,
    turn_retire_carries _ _ _ _⟩
  · rw [hi.issue_eq hpre, hbody]
  · obtain ⟨h1, h2, h3, h4⟩ := turn_retire_plain (m.form.ctx s g) (m.form.ctx s g).next
      (modGrp u s.ctl.cur f).ctl.clk (f g1) (hsplit.trans hs)
    exact ⟨h1, h2, h3.trans hactive, h4⟩
  · rw [hset.others k hk, grp_modGrp, if_neg (Ne.symm hk), hgrp, Form.begun, grp_setGrp, if_neg (Ne.symm hk), grp_delayed]
  · rw [hset.launches, modGrp_launches, hrun, Form.begun, setGrp_launches, delayed_run]
  · rw [hset.items, modGrp_items, hrun, Form.begun, setGrp_items, delayed_run]
  · rw [hset.xfers, modGrp_xfers, hrun, Form.begun, setGrp_xfers, delayed_run]
  · rw [hset.colls, modGrp_colls, hrun, Form.begun, setGrp_colls, delayed_run]
  · rw [hset.part, modGrp_part, hpart]
  · rw [hset.host, modGrp_host, hhost]
  · rw [hset.flights, if_neg (show ¬ majOf (m.form.ctx s g).word = 0x3F from hmaj), modGrp_flights, hrun, Form.begun,
      setGrp_flights, delayed_run]
    rfl
  · rw [hset.mem, modGrp_mem, hmem]

/-- Where only the group changes every byte of every memory reads as before. -/
theorem OnlyGroup.sameBytes {t : State} (h : OnlyGroup s t) : SameBytes s t := by
  obtain ⟨⟨_, _, hitems, _, _, hpart, _, _⟩, hmem⟩ := h
  exact sameBytes_of s t (by rw [hmem]) (by rw [hmem]) (by rw [hmem]) (by rw [hmem]) hpart (by rw [hmem]; intros; rfl)
    (by rw [hitems]; intros; rfl)

/-! ### Registers written -/

theorem keptV_noKills {r : Regs} (h : r.kills = []) (x l : Nat) : keptV r g x l = rdVl g x l := by simp [keptV, h]
theorem keptS_noKills {r : Regs} (h : r.kills = []) (x : Nat) : keptS r g x = rdS g x := by simp [keptS, h]

section
variable {h : Group} {l : Launch} {r : Regs}

/-- An instruction without kills that writes one v-register. -/
theorem wrV_leaves {d : Nat} {m : Mask} {f : Nat → W32} (hn : rename g l r = .ok g1) (hk : r.kills = [])
    (hc : (wrV g1 d m f).Carries h) :
    (∀ x k, k < 64 → rdVl h x k = if x = d ∧ x ≠ 63 ∧ Mask.has m k then f k else rdVl g x k)
      ∧ KeptSs noRegs g h ∧ SameP g h ∧ SameFlags g h ∧ h.kept = g.kept := by
  obtain ⟨hv, hs, hp, hkin⟩ := rename_spec hn
  refine ⟨fun x k hlt => ?_, fun x => ?_, fun x => ?_, ⟨?_, ?_⟩, ?_⟩
  · rw [rdVl_congr hc.v, rdVl_wrV _ _ _ _ _ _ hlt, hv, keptV_noKills hk]
    by_cases hx : x = d
    · rw [hx]
    · simp only [hx, false_and]
  · rw [rdS_congr (hc.s.trans (wrV_s ..)), hs, keptS_noKills hk, keptS_noKills rfl]
  · exact rdP_congr (hc.p.trans ((wrV_p ..).trans hp)) x
  · rw [hc.flags, wrV_fpflags, hkin.flags]
  · rw [hc.satf, wrV_satf, hkin.satf]
  · rw [hc.kept, wrV_kept, hkin.kept]

/-- An instruction without kills that writes one s-register. -/
theorem wrS_leaves {d : Nat} {v : W64} (hn : rename g l r = .ok g1) (hk : r.kills = []) (hc : (wrS g1 d v).Carries h) :
    (∀ x, rdS h x = if x = d ∧ x ≠ 63 then v else rdS g x)
      ∧ KeptVs noRegs g h ∧ SameP g h ∧ SameFlags g h ∧ h.kept = g.kept := by
  obtain ⟨hv, hs, hp, hkin⟩ := rename_spec hn
  refine ⟨fun x => ?_, fun x k => ?_, fun x => ?_, ⟨?_, ?_⟩, ?_⟩
  · rw [rdS_congr hc.s, rdS_wrS, hs, keptS_noKills hk]
    by_cases hx : x = d
    · rw [hx]
    · simp only [hx, false_and]
  · rw [rdVl_congr (hc.v.trans (wrS_v ..)), hv, keptV_noKills hk, keptV_noKills rfl]
  · exact rdP_congr (hc.p.trans ((wrS_p ..).trans hp)) x
  · rw [hc.flags, wrS_fpflags, hkin.flags]
  · rw [hc.satf, wrS_satf, hkin.satf]
  · rw [hc.kept, wrS_kept, hkin.kept]

/-- Renaming that kills and writes nothing, of live sources, leaves the group as it is. -/
theorem rename_reads {rs : List (Bool × Nat)} (hn : rename g l ⟨rs, [], []⟩ = .ok g1) (hd : deadRead g rs = none) :
    g1 = g := by
  simpa [rename, hd, noteDead, applyKills, overFoot] using hn.symm

end

end Sys2Proof.Machine
end

section
/-! The values of the state registers (04 R93; 03 R54; 06 R122, R123; 12 R260), apart from the instructions that read
them. -/

namespace Sys2Proof.Machine

/-! ### The tree (03 R54) -/

/-- The fan-out of level k. -/
def Image.fanOf (im : Image) (k : Nat) : Nat := ((im.levels.drop (k - 1)).head?.map (·.fan)).getD 0

/-- The index at level k of the subtree that holds group n: n by the product of the fan-outs of levels 2 to k. -/
def Image.instOf (im : Image) (n k : Nat) : Nat := n / ((im.levels.take k).drop 1).foldl (fun a e => a * e.fan) 1

theorem fanAt_eq (im : Image) (k : Nat) : fanAt im k = im.fanOf k := by
  rw [Image.fanOf, List.head?_drop, fanAt, levelAt, List.getD_eq_getElem?_getD]
  cases im.levels[k - 1]? <;> rfl

/-- The groups of one subtree of level n + 1: the product of the fan-outs of the levels between it and level 1. -/
theorem fanProd_one (im : Image) {n : Nat} (h : n < im.levels.length) :
    fanProd im 1 n = ((im.levels.take (n + 1)).drop 1).foldl (fun a e => a * e.fan) 1 := by
  induction n with
  | zero => rw [List.drop_eq_nil_of_le (by simp)]; rfl
  | succ n ih =>
    have htake : im.levels.take (n + 1 + 1) = im.levels.take (n + 1) ++ [im.levels[n + 1]] :=
      List.take_succ_eq_append_getElem h
    have hlen : 1 ≤ (im.levels.take (n + 1)).length := by rw [List.length_take]; omega
    have hfan : fanAt im (1 + n + 1) = im.levels[n + 1].fan := by
      simp [fanAt, levelAt, List.getD_eq_getElem?_getD, Nat.add_comm 1 n, h]
    rw [fanProd, ih (by omega), hfan, htake, List.drop_append_of_le_length hlen, List.foldl_append]
    rfl

theorem instAt_eq (im : Image) (n : Nat) {k : Nat} (h : k ≤ im.levels.length) (hk : 1 ≤ k) :
    instAt im k n = im.instOf n k := by
  obtain ⟨j, rfl⟩ := Nat.exists_eq_add_of_le' hk
  rw [instAt, groupsAt, Nat.add_sub_cancel, fanProd_one im h, Image.instOf]

/-- LIDX.k of lane 0, from level 1 on. -/
theorem lidx_eq (im : Image) (n : Nat) {k : Nat} (hk : 1 ≤ k) : lidx im k n 0 =
    if k < im.levels.length then im.instOf n k % im.fanOf (k + 1)
    else if k = im.levels.length then im.instOf n im.levels.length else 0 := by
  unfold lidx depth
  rw [if_neg (by omega)]
  by_cases hlt : k < im.levels.length
  · rw [if_pos hlt, if_pos hlt, instAt_eq im n hlt.le hk, fanAt_eq]
  · rw [if_neg hlt, if_neg hlt]
    by_cases hd : k = im.levels.length
    · rw [if_pos hd, if_pos hd, instAt_eq im n hd.le hk, hd]
    · rw [if_neg hd, if_neg hd]

/-- LDIM.k from level 1 on. -/
theorem ldim_eq (im : Image) (lcount : Nat) {k : Nat} (hk : 1 ≤ k) : ldim im lcount k =
    if k ≤ im.levels.length then im.fanOf k else if k = im.levels.length + 1 then lcount else 0 := by
  unfold ldim depth
  rw [if_neg (by omega), fanAt_eq]

/-! ### Heats (12 R260) -/

/-- The one entry below all others is what the search for the lowest ends with. -/
theorem foldl_lowest {e : Heat} (t : List Heat) (a : Heat) (he : e ∈ a :: t)
    (hlow : ∀ x ∈ a :: t, x ≠ e → e.level < x.level) :
    t.foldl (fun a x => if x.level < a.level then x else a) a = e := by
  induction t generalizing a with
  | nil => exact (List.mem_singleton.1 he).symm
  | cons x t ih =>
    have ha : a ≠ e → e.level < a.level := hlow a (by simp)
    have hx : x ≠ e → e.level < x.level := hlow x (by simp)
    rw [List.foldl_cons]
    split
    next hlt =>
      refine ih x ?_ fun y hy => hlow y (List.mem_cons_of_mem _ hy)
      rcases List.mem_cons.1 he with rfl | he
      · by_contra hmem
        exact absurd (hx fun hxe => hmem (by simp [hxe])) (by omega)
      · exact he
    next hge =>
      refine ih a ?_ fun y hy => hlow y (by rcases List.mem_cons.1 hy with rfl | hy <;> simp [*])
      rcases List.mem_cons.1 he with rfl | he
      · simp
      · rcases List.mem_cons.1 he with rfl | he
        · by_contra hmem
          exact absurd (ha fun hae => hmem (by simp [hae])) hge
        · exact List.mem_cons_of_mem _ he

section
variable {l : Launch} {n : Nat}

theorem heatnoOf_none (h : (l.heats.filter fun e => instAt l.img e.level n == e.inst) = []) : heatnoOf l n = 0 := by
  unfold heatnoOf
  simp only [h]

/-- HEATNO is the count of the lowest level with a heat around the group. -/
theorem heatnoOf_lowest {e : Heat} (he : e ∈ l.heats.filter fun e => instAt l.img e.level n == e.inst)
    (hlow : ∀ x ∈ l.heats.filter fun e => instAt l.img e.level n == e.inst, x ≠ e → e.level < x.level) :
    heatnoOf l n = e.count := by
  unfold heatnoOf
  dsimp only
  split
  next h => rw [h] at he; exact absurd he List.not_mem_nil
  next a t h =>
    rw [h] at he hlow
    rw [foldl_lowest t a he hlow]

end

/-! ### The window timer (06 R122, R123; log entry 15) -/

/-- Where no window is open the timer says when the next one opens; where one is, when it ends, and the next follows. -/
theorem wswinOf_eq (w : WsWin) (long : Bool) (timer : Nat) : ∃ next left,
    wswinOf w long timer = next + 2 ^ 32 * w.next + 2 ^ 36 * w.openBg.isSome.toNat + 2 ^ 40 * w.openBg.getD 0
        + 2 ^ 48 * left
      ∧ (w.openBg = none → left = 0 ∧ next ≤ windowSpacing long)
      ∧ (w.openBg.isSome → left ≤ windowLength w ∧ next = left + windowGap w long) := by
  unfold wswinOf
  cases w.openBg with
  | none =>
    exact ⟨timer % (windowSpacing long + 1), 0, by simp,
      fun _ => ⟨rfl, Nat.lt_succ_iff.1 (Nat.mod_lt _ (Nat.succ_pos _))⟩, fun h => absurd h (by simp)⟩
  | some b =>
    exact ⟨_, timer % (windowLength w + 1), by simp, fun h => absurd h (by simp),
      fun _ => ⟨Nat.lt_succ_iff.1 (Nat.mod_lt _ (Nat.succ_pos _)), rfl⟩⟩

/-! ### The table (04 R93) -/

/-- No register is of both classes. -/
theorem isClassV_of_isClassS {n : Nat} (h : isClassS n = true) : isClassV n = false := by
  rw [Bool.eq_false_iff]
  intro hv
  simp only [isClassV, List.contains_eq_mem, decide_eq_true_eq, List.mem_cons, List.not_mem_nil, or_false] at hv
  rcases hv with rfl | rfl | rfl | rfl | rfl <;> exact absurd h (by decide)

theorem isClassS_of_isClassV {n : Nat} (h : isClassV n = true) : isClassS n = false :=
  Bool.eq_false_iff.2 fun hs => Bool.eq_false_iff.1 (isClassV_of_isClassS hs) h

/-- A class S register that SRD reads at once, and its value at an instruction. -/
structure ReadsS (c : Ctx) (n val : Nat) : Prop where
  cls : isClassS n = true
  work : n ≠ 0x070
  value : regS c n = val

section
variable {c : Ctx} {n val : Nat}

/-- Registers that RECORD does not keep: the group's own, the launch's, the work item's and the part's names. -/
theorem readsS_own (h : (n, val) ∈ [(0x025, c.s0.part.pkgid), (0x026, c.s0.part.nodeid),
    (0x027, c.w.l.pkt.launchid.toNat), (0x028, c.w.l.img.levels.length), (0x040, c.g.fpmode.toNat), (0x048, c.g.trapvec),
    (0x049, c.g.trapcause), (0x04A, c.g.trappc), (0x04B, c.g.traplanes.toNat), (0x04C, c.g.trapdst),
    (0x04E, c.g.trapinfo.toNat), (0x04F, c.g.gdone.toNat), (0x050, slotsOf c.g.stack), (0x051, c.g.sig.toNat),
    (0x053, deadreadOf c.g), (0x071, c.w.l.pkt.prio), (0x0B0, c.g.checkn), (0x060, c.w.it.rung + 4 * c.w.it.pred),
    (0x062, c.w.it.index), (0x090, detmodeOf c.w.l)]) : ReadsS c n val ∧ isRecorded n = false := by
  simp only [List.mem_cons, Prod.mk.injEq, List.not_mem_nil, or_false] at h
  rcases h with ⟨rfl, rfl⟩ | ⟨rfl, rfl⟩ | ⟨rfl, rfl⟩ | ⟨rfl, rfl⟩ | ⟨rfl, rfl⟩ | ⟨rfl, rfl⟩ | ⟨rfl, rfl⟩ | ⟨rfl, rfl⟩
    | ⟨rfl, rfl⟩ | ⟨rfl, rfl⟩ | ⟨rfl, rfl⟩ | ⟨rfl, rfl⟩ | ⟨rfl, rfl⟩ | ⟨rfl, rfl⟩ | ⟨rfl, rfl⟩ | ⟨rfl, rfl⟩ | ⟨rfl, rfl⟩
    | ⟨rfl, rfl⟩ | ⟨rfl, rfl⟩ | ⟨rfl, rfl⟩ <;> exact ⟨⟨by decide, by decide, rfl⟩, by decide⟩

/-- Registers that RECORD keeps: the place, the footprint, TXSTAT, TBAND, TIMCLASS and PACERQ. -/
theorem readsS_recorded (h : (n, val) ∈ [(0x021, c.gid % 32), (0x022, c.w.core), (0x052, footprintOf c.g),
    (0x023, if hasCluster c.w.l.img then c.w.it.cores.headD 0 else 0xFFFFFFFF), (0x024, c.w.die),
    (0x061, txstatOf c.w.it), (0x080, tbandOf c.s0.part.cryo), (0x081, timclassOf c.s0.part.cryo),
    (0x0A0, pacerqOf c.g.pq)]) : ReadsS c n val := by
  simp only [List.mem_cons, Prod.mk.injEq, List.not_mem_nil, or_false] at h
  rcases h with ⟨rfl, rfl⟩ | ⟨rfl, rfl⟩ | ⟨rfl, rfl⟩ | ⟨rfl, rfl⟩ | ⟨rfl, rfl⟩ | ⟨rfl, rfl⟩ | ⟨rfl, rfl⟩ | ⟨rfl, rfl⟩
    | ⟨rfl, rfl⟩ <;> exact ⟨by decide, by decide, rfl⟩

/-- The registers of the tree (03 R54) are not recorded either. -/
theorem readsS_tree (h1 : 1 ≤ n) (h : n < 0x20) (hval : regS c n = val) : ReadsS c n val ∧ isRecorded n = false :=
  ⟨⟨by simp [isClassS]; omega, by omega, hval⟩, by simp [isRecorded]; omega⟩

theorem readsS_heatno (hval : heatnoOf c.w.l (groupNumber c.w.l c.w.it c.g.gidx) = val) :
    ReadsS c 0x091 val ∧ isRecorded 0x091 = false := ⟨⟨by decide, by decide, hval⟩, by decide⟩

theorem regS_lidx (h : n < 0x10) : regS c n = lidx c.w.l.img n (groupNumber c.w.l c.w.it c.g.gidx) 0 :=
  if_pos (by omega)

theorem regS_ldim (h1 : 0x10 ≤ n) (h2 : n < 0x20) : regS c n = ldim c.w.l.img c.w.l.pkt.lcount (n - 0x10) :=
  (if_neg (by omega)).trans (if_pos (by omega))

end

/-- The place from which an instruction's registers are read: a DELAY of its hints moves the clock and no register. -/
def Form.still (F : Form) (s : State) (g : Group) : Ctx := { F.ctx s g with w := who s s.ctl.cur g, s0 := s }

theorem regS_still (F : Form) (s : State) (g : Group) (n : Nat) : regS (F.ctx s g) n = regS (F.still s g) n := by
  unfold Form.still Form.ctx delayed
  split <;> rfl

theorem ReadsS.ctx {F : Form} {s : State} {g : Group} {n val : Nat} (h : ReadsS (F.still s g) n val) :
    ReadsS (F.ctx s g) n val := ⟨h.cls, h.work, (regS_still F s g n).trans h.value⟩

/-- A class V register in a lane. -/
theorem regV_eq (c : Ctx) {n : Nat} {val : Nat → W32} (h : (n, val) ∈ [(0x000, fun l => BitVec.ofNat 32 l),
    (0x020, fun l => BitVec.ofNat 32 l), (0x041, fun l => (kget 0 c.g.fpflags l).setWidth 32),
    (0x042, fun l => (kget 0 c.g.satf l).setWidth 32), (0x04D, fun l => kget 0 c.g.trapres l)]) :
    isClassV n = true ∧ ∀ l, BitVec.ofNat 32 (regV c n l) = val l := by
  simp only [List.mem_cons, Prod.mk.injEq, List.not_mem_nil, or_false] at h
  rcases h with ⟨rfl, rfl⟩ | ⟨rfl, rfl⟩ | ⟨rfl, rfl⟩ | ⟨rfl, rfl⟩ | ⟨rfl, rfl⟩ <;>
    refine ⟨by decide, fun l => ?_⟩
  · rfl
  · rfl
  · exact BitVec.ofNat_toNat _ _
  · exact BitVec.ofNat_toNat _ _
  · exact (BitVec.ofNat_toNat _ _).trans (BitVec.setWidth_eq _)

end Sys2Proof.Machine
end

section
/-! SRD, SWR and CLK (15 R324; 18 R402 to R404): what each does when it issues. -/

namespace Sys2Proof.Machine

variable {s : State} {g g1 : Group}

/-- A recorded read outside RECORD and REPLAY is the read (12 R265). -/
theorem recRead_off {lid : Nat} (h : (launchOf s lid).pkt.det = 0) (item low idx v : Nat) :
    recRead s lid item low idx v = (v, s) := by
  have hrec : recording (launchOf s lid) = false := by simp [recording, h]
  have hrep : replaying (launchOf s lid) = false := by simp [replaying, h]
  simp only [recRead, hrec, hrep, Bool.false_eq_true, if_false]

/-- The launch of the group that issues. -/
theorem launchOf_begun (F : Form) : launchOf (F.begun s g g1) g.launch = (who s s.ctl.cur g).l := by
  rw [launchOf, Form.begun, setGrp_launches, delayed_run]
  rfl

/-! ### SRD -/

/-- SRD as its issue takes it. -/
def srdMeaning (f : SF) : Meaning where
  i := .srd f
  pol := if isClassS f.idx.toNat then .once else .lanes
  regs := fun _ => ⟨[], [], [(isClassS f.idx.toNat, f.d.toNat)]⟩
  dst := fun _ => if isClassS f.idx.toNat then dstS f.d.toNat else dstV f.d.toNat
  pre := fun c => firstTrap [idxTrap c f.idx.toNat]
  body := srdRun f

theorem exec_srd (f : SF) (s : State) : exec (.srd f) s = issue (srdMeaning f) s := rfl

theorem idxTrap_none {n : Nat} (h : isClassV n = true ∨ isClassS n = true) (c : Ctx) : idxTrap c n = none :=
  if_pos (by simpa using h)

theorem majOf_srd (f : SF) : majOf (wordOf (.srd f)) ≠ 0x3F := by
  have hd := f.d.isLt
  have hi := f.idx.isLt
  have hw : wordOf (.srd f) = pkSF (op 0x3E 23 0) f := rfl
  rw [hw, pkSF, op, majOf, BitVec.toNat_ofNat]
  omega

theorem srdRun_vector {f : SF} (h : isClassV f.idx.toNat = true) (c : Ctx) (u : State) : srdRun f c u
    = .done (modGrp u c.gid fun g => wrV g f.d.toNat c.x fun l => BitVec.ofNat 32 (regV c f.idx.toNat l)) := if_pos h

/-- Where nothing is recorded a class S register is written as it stands; WSWIN draws a free value. -/
theorem srdRun_uniform {f : SF} {c : Ctx} {u : State} {val : Nat} (h : ReadsS c f.idx.toNat val)
    (hrec : isRecorded f.idx.toNat = false ∨ (launchOf u c.g.launch).pkt.det = 0) :
    srdRun f c u = .done (modGrp (if f.idx.toNat = 0x082 then bumpNonce u else u) c.gid fun g =>
      wrS g f.d.toNat (BitVec.ofNat 64 val)) := by
  unfold srdRun
  dsimp only
  rw [if_neg (by simp [isClassV_of_isClassS h.cls]), if_neg h.work, h.value]
  rcases hrec with hrec | hdet
  · rw [if_neg (by simp [hrec])]
  · rw [recRead_off (by split <;> exact hdet), ite_self]

/-- SRD of a class V register writes each executing lane. -/
theorem exec_srd_vector {f : SF} (hi : (srdMeaning f).form.Issues s g g1) {val : Nat → W32}
    (hv : isClassV f.idx.toNat = true ∧ ∀ l, BitVec.ofNat 32 (regV ((srdMeaning f).form.ctx s g) f.idx.toNat l) = val l) :
    ∃ t h, exec (.srd f) s = .next t ∧ grp t s.ctl.cur = some h ∧ Retired (srdMeaning f).form g h ∧ OnlyGroup s t
      ∧ (∀ x l, l < 64 → rdVl h x l =
          if x = f.d.toNat ∧ x ≠ 63 ∧ Mask.has (execLanes g .lanes) l then val l else rdVl g x l)
      ∧ KeptSs noRegs g h ∧ SameP g h ∧ SameFlags g h ∧ h.kept = g.kept := by
  obtain ⟨_, _, _, hkin⟩ := rename_spec hi.names
  obtain ⟨t, h, hexec, hcur, hret, honly, _, hcar⟩ := issue_modGrp hi
    (by simp only [srdMeaning, firstTrap, idxTrap_none (.inl hv.1)]) (srdRun_vector hv.1 _ _) rfl
    (delayed_mem s g) (delayed_part s g) (delayed_host s g)
    ((wrV_kin ..).split.trans hkin.split) ((wrV_kin ..).active.trans hkin.active) (majOf_srd f)
  obtain ⟨hvec, hrest⟩ := wrV_leaves hi.names rfl hcar
  have hpol : (srdMeaning f).pol = .lanes := if_neg (by simp [isClassS_of_isClassV hv.1])
  refine ⟨t, h, hexec, hcur, hret, honly, fun x l hl => ?_, hrest⟩
  rw [hvec x l hl, hv.2, ← hpol]
  rfl

/-- SRD of a class S register writes it once. -/
theorem exec_srd_uniform {f : SF} (hi : (srdMeaning f).form.Issues s g g1) {val : Nat}
    (hv : ReadsS ((srdMeaning f).form.ctx s g) f.idx.toNat val)
    (hrec : isRecorded f.idx.toNat = false ∨ (who s s.ctl.cur g).l.pkt.det = 0) :
    ∃ t h, exec (.srd f) s = .next t ∧ grp t s.ctl.cur = some h ∧ Retired (srdMeaning f).form g h ∧ OnlyGroup s t
      ∧ (∀ x, rdS h x = if x = f.d.toNat ∧ x ≠ 63 then BitVec.ofNat 64 val else rdS g x)
      ∧ KeptVs noRegs g h ∧ SameP g h ∧ SameFlags g h ∧ h.kept = g.kept := by
  obtain ⟨_, _, _, hkin⟩ := rename_spec hi.names
  have hdet : isRecorded f.idx.toNat = false
      ∨ (launchOf ((srdMeaning f).form.begun s g g1) g.launch).pkt.det = 0 := by rwa [launchOf_begun]
  obtain ⟨t, h, hexec, hcur, hret, honly, _, hcar⟩ := issue_modGrp hi
    (by simp only [srdMeaning, firstTrap, idxTrap_none (.inr hv.cls)]) (srdRun_uniform hv hdet)
    (by split <;> rfl) (by split <;> exact delayed_mem s g) (by split <;> exact delayed_part s g)
    (by split <;> exact delayed_host s g)
    ((wrS_kin ..).split.trans hkin.split) ((wrS_kin ..).active.trans hkin.active) (majOf_srd f)
  exact ⟨t, h, hexec, hcur, hret, honly, wrS_leaves hi.names rfl hcar⟩

/-- An index that user code may not name traps (18 R402). -/
theorem exec_srd_illegal {f : SF} (hi : (srdMeaning f).form.Issues s g g1) (hv : isClassV f.idx.toNat = false)
    (hs : isClassS f.idx.toNat = false) :
    (srdMeaning f).form.TrapsWith s g cOPERAND ((wordOf (.srd f)).setWidth 64) g.active := by
  have htrap : idxTrap ((srdMeaning f).form.ctx s g) f.idx.toNat
      = some (badOperand (wordOf (.srd f)) ((srdMeaning f).dst g)) := if_neg (by simp [hv, hs])
  have hpre : (srdMeaning f).pre ((srdMeaning f).form.ctx s g)
      = some (.trap (badOperand (wordOf (.srd f)) ((srdMeaning f).dst g))) :=
    congrArg (fun t => firstTrap [t]) htrap
  have hcur : grp (delayed s g) s.ctl.cur = some g := by rw [grp_delayed, hi.cur]
  change exec (.srd f) s = _
  rw [exec_srd, issue_pre (m := srdMeaning f) hi.cur hi.run hi.free hi.front hi.exec hpre]
  simp only [settle, raise, Form.ctx_s0, Form.ctx_gid, hcur]
  rfl

/-! ### CLK -/

/-- CLK as its issue takes it. -/
def clkMeaning (f : CLKF) : Meaning where
  i := .clk f
  pol := .once
  regs := fun _ => ⟨[], [], [(true, f.d.toNat)]⟩
  dst := fun _ => dstS f.d.toNat
  pre := fun _ => none
  body := fun c s =>
    let n := s.ctl.clk + Config.freeCycles s.ctl.nonce
    let s1 := bumpNonce (timeAt s n)
    let r := recRead s1 c.g.launch c.w.it.index c.g.gidx 0xF00 (n % 2 ^ 64)
    .done (modGrp r.2 c.gid fun g => wrS g f.d.toNat (BitVec.ofNat 64 r.1))

theorem exec_clk_issue (f : CLKF) (s : State) : exec (.clk f) s = issue (clkMeaning f) s := rfl

theorem majOf_clk (f : CLKF) : majOf (wordOf (.clk f)) ≠ 0x3F := by
  have hd := f.d.isLt
  have hw : wordOf (.clk f) = pkCLKF (op 0x3E 23 4) f := rfl
  rw [hw, pkCLKF, op, majOf, BitVec.toNat_ofNat]
  omega

theorem delayed_clk_le (s : State) (g : Group) : s.ctl.clk ≤ (delayed s g).ctl.clk := by
  unfold delayed
  split
  · exact Nat.le_max_left _ _
  · exact Nat.le_refl _

/-- CLK writes the cycle count, which has not gone back. -/
theorem exec_clk {f : CLKF} (hi : (clkMeaning f).form.Issues s g g1) (hdet : (who s s.ctl.cur g).l.pkt.det = 0) :
    ∃ t h, exec (.clk f) s = .next t ∧ grp t s.ctl.cur = some h ∧ Retired (clkMeaning f).form g h
      ∧ s.ctl.clk ≤ t.ctl.clk
      ∧ (∀ x, rdS h x = if x = f.d.toNat ∧ x ≠ 63 then BitVec.ofNat 64 t.ctl.clk else rdS g x)
      ∧ KeptVs noRegs g h ∧ SameP g h ∧ SameFlags g h ∧ h.kept = g.kept ∧ OnlyGroup s t := by
  obtain ⟨_, _, _, hkin⟩ := rename_spec hi.names
  let u := (clkMeaning f).form.begun s g g1
  let n := u.ctl.clk + Config.freeCycles u.ctl.nonce
  have hbody : (clkMeaning f).body ((clkMeaning f).form.ctx s g) u
      = .done (modGrp (bumpNonce (timeAt u n)) s.ctl.cur fun g => wrS g f.d.toNat (BitVec.ofNat 64 (n % 2 ^ 64))) := by
    have hoff : (launchOf (bumpNonce (timeAt u n)) g.launch).pkt.det = 0 := by
      rw [← hdet, ← launchOf_begun (clkMeaning f).form (g1 := g1)]
      rfl
    have hread := recRead_off hoff (who (delayed s g) s.ctl.cur g).it.index g.gidx 0xF00 (n % 2 ^ 64)
    simp only [clkMeaning]
    exact congrArg (fun r : Nat × State =>
      Out.done (modGrp r.2 s.ctl.cur fun g => wrS g f.d.toNat (BitVec.ofNat 64 r.1))) hread
  obtain ⟨t, h, hexec, hcur, hret, honly, hctl, hcar⟩ := issue_modGrp hi rfl hbody rfl
    (delayed_mem s g) (delayed_part s g) (delayed_host s g)
    ((wrS_kin ..).split.trans hkin.split) ((wrS_kin ..).active.trans hkin.active) (majOf_clk f)
  obtain ⟨hwr, hvec, hp, hfl, hkept⟩ := wrS_leaves hi.names rfl hcar
  have hclk : t.ctl.clk = n := by
    rw [hctl]
    exact Nat.max_eq_right (Nat.le_add_right _ _)
  have hmod : BitVec.ofNat 64 (n % 2 ^ 64) = BitVec.ofNat 64 t.ctl.clk := by
    rw [hclk]
    apply BitVec.eq_of_toNat_eq
    simp
  rw [hmod] at hwr
  exact ⟨t, h, (exec_clk_issue f s).trans hexec, hcur, hret, hclk ▸ (delayed_clk_le s g).trans (Nat.le_add_right _ _), hwr, hvec, hp, hfl, hkept,
    honly⟩

/-! ### SWR -/

/-- SWR as its issue takes it. -/
def swrMeaning (f : SF) : Meaning where
  i := .swr f
  pol := if isClassS f.idx.toNat then .once else .lanes
  regs := fun _ => ⟨[(isClassS f.idx.toNat, f.d.toNat)], [], []⟩
  dst := fun _ => dstNone
  pre := fun c => firstTrap [idxTrap c f.idx.toNat]
  body := swrRun f

theorem exec_swr_issue (f : SF) (s : State) : exec (.swr f) s = issue (swrMeaning f) s := rfl

theorem majOf_swr (f : SF) : majOf (wordOf (.swr f)) ≠ 0x3F := by
  have hd := f.d.isLt
  have hi := f.idx.isLt
  have hw : wordOf (.swr f) = pkSF (op 0x3E 23 1) f := rfl
  rw [hw, pkSF, op, majOf, BitVec.toNat_ofNat]
  omega

/-- A fold that replaces the value of each listed key, each key once. -/
theorem kget_foldl_kput {α : Type} [DecidableEq α] (d : α) (f : Nat → α → α) (ls : List Nat) (hn : ls.Nodup) (m : KMap α)
    (l : Nat) : kget d (ls.foldl (fun m l => kput d m l (f l (kget d m l))) m) l
      = if l ∈ ls then f l (kget d m l) else kget d m l := by
  induction ls generalizing m with
  | nil => simp
  | cons k t ih =>
    obtain ⟨hk, ht⟩ := List.nodup_cons.1 hn
    rw [List.foldl_cons, ih ht, kget_kput]
    by_cases h : k = l
    · subst h; simp [hk]
    · simp [h, Ne.symm h]

/-- What a lane reads after the lanes of a mask were written, where they were. -/
theorem kget_lanesWritten {α : Type} [DecidableEq α] (d : α) (f : Nat → α → α) (p : Prop) [Decidable p] (x : Mask)
    (m : KMap α) {l : Nat} (hl : l < 64) :
    kget d (if p then (Mask.list x).foldl (fun m l => kput d m l (f l (kget d m l))) m else m) l
      = if p ∧ Mask.has x l then f l (kget d m l) else kget d m l := by
  by_cases hp : p
  · simp only [hp, if_true, true_and, kget_foldl_kput d f _ (Mask.nodup_list x), Mask.mem_list, hl]
  · simp only [hp, if_false, false_and]

/-- The lanes' class V registers written, as one change of the group. -/
def setVs (g : Group) (n : Nat) (x : Mask) (val : Nat → W32) : Group :=
  { g with
    fpflags := if n = 0x041 then
      (Mask.list x).foldl (fun m l => kput 0 m l (kget 0 m l &&& ~~~((val l).setWidth 5))) g.fpflags else g.fpflags
    satf := if n = 0x042 then
      (Mask.list x).foldl (fun m l => kput 0 m l (kget 0 m l &&& ~~~((val l).setWidth 2))) g.satf else g.satf
    trapres := if n = 0x04D then (Mask.list x).foldl (fun m l => kput 0 m l (val l)) g.trapres else g.trapres }

/-- A fold of changes of one field of a group is a change by the fold. -/
theorem foldl_field {α β γ : Type} (put : α → β → α) (get : α → β) (step : β → γ → β)
    (hput : ∀ a b b', put (put a b) b' = put a b') (hget : ∀ a b, get (put a b) = b) (hsame : ∀ a, put a (get a) = a)
    (ls : List γ) (a : α) :
    ls.foldl (fun a l => put a (step (get a) l)) a = put a (ls.foldl step (get a)) := by
  induction ls generalizing a with
  | nil => exact (hsame a).symm
  | cons l t ih => rw [List.foldl_cons, ih, hput, hget, List.foldl_cons]

theorem foldl_setV (g : Group) (n : Nat) (x : Mask) (val : Nat → W32) :
    (Mask.list x).foldl (fun g l => setV g n l (val l)) g = setVs g n x val := by
  by_cases h1 : n = 0x041
  · subst h1
    exact foldl_field (fun g m => { g with fpflags := m }) (fun g : Group => g.fpflags)
      (fun m l => kput 0 m l (kget 0 m l &&& ~~~((val l).setWidth 5))) (fun _ _ _ => rfl) (fun _ _ => rfl) (fun _ => rfl)
      (Mask.list x) g
  by_cases h2 : n = 0x042
  · subst h2
    exact foldl_field (fun g m => { g with satf := m }) (fun g : Group => g.satf)
      (fun m l => kput 0 m l (kget 0 m l &&& ~~~((val l).setWidth 2))) (fun _ _ _ => rfl) (fun _ _ => rfl) (fun _ => rfl)
      (Mask.list x) g
  by_cases h3 : n = 0x04D
  · subst h3
    exact foldl_field (fun g m => { g with trapres := m }) (fun g : Group => g.trapres)
      (fun m l => kput 0 m l (val l)) (fun _ _ _ => rfl) (fun _ _ => rfl) (fun _ => rfl) (Mask.list x) g
  have hset (g : Group) (l : Nat) : setV g n l (val l) = g := by
    unfold setV
    split
    · exact absurd rfl h1
    · exact absurd rfl h2
    · exact absurd rfl h3
    · rfl
  have hvs : setVs g n x val = g := by simp only [setVs, if_neg h1, if_neg h2, if_neg h3]
  rw [hvs]
  simp only [hset]
  exact List.foldl_fixed _

/-- A class S register written, field by field. -/
theorem setS_eq (g : Group) (n : Nat) (x : W64) : setS g n x = { g with
    fpmode := if n = 0x040 then x.setWidth 9 else g.fpmode
    trapvec := if n = 0x048 then 4 * (x.extractLsb' 2 54).toNat else g.trapvec
    checkn := if n = 0x0B0 then min 16 (x.extractLsb' 0 5).toNat else g.checkn
    seen := if n = 0x053 then g.seen && !(x.getLsbD 0) else g.seen
    trapen := if n = 0x053 then x.getLsbD 8 else g.trapen
    pq := if n = 0x0A0 then { g.pq with write := some (x.extractLsb' 0 16).toNat } else g.pq } := by
  have hvec : x.toNat % 2 ^ 56 / 4 * 4 = 4 * (x.extractLsb' 2 54).toNat := by
    rw [BitVec.extractLsb'_toNat, Nat.shiftRight_eq_div_pow]; omega
  have hcheck : x.toNat % 32 = (x.extractLsb' 0 5).toNat := by rw [BitVec.extractLsb'_toNat]; rfl
  have hunits : x.toNat % 65536 = (x.extractLsb' 0 16).toNat := by rw [BitVec.extractLsb'_toNat]; rfl
  unfold setS
  split
  · rfl
  · rw [hvec]; rfl
  · rw [tbit_eq_testBit, tbit_eq_testBit]; rfl
  · rw [hunits]; rfl
  · rw [hcheck]; rfl
  next h1 h2 h3 h4 h5 => simp only [if_neg h1, if_neg h2, if_neg h3, if_neg h4, if_neg h5]

/-- The group after SWR, apart from issue. -/
def swrGrp (f : SF) (g : Group) : Group :=
  if isClassV f.idx.toNat then setVs g f.idx.toNat (execLanes g .lanes) (rdVl g f.d.toNat)
  else setS g f.idx.toNat (rdS g f.d.toNat)

/-- Only the registers of the index's own class can change. -/
theorem swrGrp_eq (f : SF) (g : Group) : swrGrp f g =
    let n := f.idx.toNat
    let x := rdS g f.d.toNat
    { setVs g n (execLanes g .lanes) (rdVl g f.d.toNat) with
      fpmode := if n = 0x040 then x.setWidth 9 else g.fpmode
      trapvec := if n = 0x048 then 4 * (x.extractLsb' 2 54).toNat else g.trapvec
      checkn := if n = 0x0B0 then min 16 (x.extractLsb' 0 5).toNat else g.checkn
      seen := if n = 0x053 then g.seen && !(x.getLsbD 0) else g.seen
      trapen := if n = 0x053 then x.getLsbD 8 else g.trapen
      pq := if n = 0x0A0 then { g.pq with write := some (x.extractLsb' 0 16).toNat } else g.pq } := by
  have differs {k : Nat} (h : isClassV f.idx.toNat ≠ isClassV k) : f.idx.toNat ≠ k := fun e => h (by rw [e])
  unfold swrGrp
  by_cases hv : isClassV f.idx.toNat = true
  · have notS {k : Nat} (h : isClassV k = false) : f.idx.toNat ≠ k := differs (by rw [hv, h]; decide)
    have h1 : f.idx.toNat ≠ 0x040 := notS rfl
    have h2 : f.idx.toNat ≠ 0x048 := notS rfl
    have h3 : f.idx.toNat ≠ 0x0B0 := notS rfl
    have h4 : f.idx.toNat ≠ 0x053 := notS rfl
    have h5 : f.idx.toNat ≠ 0x0A0 := notS rfl
    simp only [if_pos hv, if_neg h1, if_neg h2, if_neg h3, if_neg h4, if_neg h5]
    rfl
  · have notV {k : Nat} (h : isClassV k = true) : f.idx.toNat ≠ k := differs (by rw [h]; exact hv)
    have h1 : f.idx.toNat ≠ 0x041 := notV rfl
    have h2 : f.idx.toNat ≠ 0x042 := notV rfl
    have h3 : f.idx.toNat ≠ 0x04D := notV rfl
    simp only [if_neg hv, setS_eq, setVs, if_neg h1, if_neg h2, if_neg h3]

section
variable (g : Group) (n : Nat) (x : Mask) (val : Nat → W32) {l : Nat}

theorem kget_setVs_fpflags (hl : l < 64) : kget 0 (setVs g n x val).fpflags l
    = if n = 0x041 ∧ Mask.has x l then kget 0 g.fpflags l &&& ~~~((val l).setWidth 5) else kget 0 g.fpflags l :=
  kget_lanesWritten 0 (fun l v => v &&& ~~~((val l).setWidth 5)) (n = 0x041) x g.fpflags hl

theorem kget_setVs_satf (hl : l < 64) : kget 0 (setVs g n x val).satf l
    = if n = 0x042 ∧ Mask.has x l then kget 0 g.satf l &&& ~~~((val l).setWidth 2) else kget 0 g.satf l :=
  kget_lanesWritten 0 (fun l v => v &&& ~~~((val l).setWidth 2)) (n = 0x042) x g.satf hl

theorem kget_setVs_trapres (hl : l < 64) : kget 0 (setVs g n x val).trapres l
    = if n = 0x04D ∧ Mask.has x l then val l else kget 0 g.trapres l :=
  kget_lanesWritten 0 (fun l _ => val l) (n = 0x04D) x g.trapres hl

end

/-- SWR changes the group as `swrGrp` says, and nothing else. -/
theorem exec_swr {f : SF} (hi : (swrMeaning f).form.Issues s g g1)
    (hcls : isClassV f.idx.toNat = true ∨ isClassS f.idx.toNat = true)
    (hd : deadRead g ((swrMeaning f).regs g).reads = none) :
    ∃ t h, exec (.swr f) s = .next t ∧ grp t s.ctl.cur = some h ∧ Retired (swrMeaning f).form g h ∧ OnlyGroup s t
      ∧ (swrGrp f g).Carries h := by
  obtain rfl : g1 = g := rename_reads hi.names hd
  have hpre : (swrMeaning f).pre ((swrMeaning f).form.ctx s g1) = none := by
    simp only [swrMeaning, firstTrap, idxTrap_none hcls]
  let u := (swrMeaning f).form.begun s g1 g1
  obtain ⟨k, hbody, hk⟩ : ∃ k : Group → Group, (swrMeaning f).body ((swrMeaning f).form.ctx s g1) u
      = .done (modGrp u s.ctl.cur k) ∧ k g1 = swrGrp f g1 := by
    by_cases hv : isClassV f.idx.toNat = true
    · have hpol : (swrMeaning f).pol = .lanes := if_neg (by simp [isClassS_of_isClassV hv])
      refine ⟨_, if_pos hv, ?_⟩
      rw [foldl_setV, swrGrp, if_pos hv, ← hpol]
      rfl
    · exact ⟨_, if_neg hv, (if_neg hv).symm⟩
  have hstay : (k g1).split = g1.split ∧ (k g1).active = g1.active := by
    rw [hk, swrGrp_eq]
    exact ⟨rfl, rfl⟩
  obtain ⟨t, h, hexec, hcur, hret, honly, _, hcar⟩ := issue_modGrp hi hpre hbody rfl (delayed_mem s g1)
    (delayed_part s g1) (delayed_host s g1) hstay.1 hstay.2 (majOf_swr f)
  exact ⟨t, h, (exec_swr_issue f s).trans hexec, hcur, hret, honly, hk ▸ hcar⟩

end Sys2Proof.Machine
end

section
/-! State registers: the statement, from what SRD, SWR and CLK do. -/

namespace Sys2Proof
open Sys2Proof.Machine

/-- Settles O35: SRD through `exec_srd_vector`, `exec_srd_uniform` and `exec_srd_illegal` with the values of `ReadsS`, SWR
through `exec_swr` and `swrGrp_eq`, CLK through `exec_clk`. -/
theorem stateRegistersReadAndWritten : Obligations.StateRegistersReadAndWritten := by
  unfold Obligations.StateRegistersReadAndWritten
  refine ⟨?srd, ?swr, ?clk⟩
  case srd =>
    intro f s g g1 idx uni F w hi it y n fan inst D heats
    have once {val : Nat} (hv : ReadsS ((srdMeaning f).form.still s g) idx val ∧ isRecorded idx = false) :=
      exec_srd_uniform (val := val) hi hv.1.ctx (.inl hv.2)
    refine ⟨fun val hval => ?vector, fun val hval => ?own, fun val hval hdet => ?recorded, fun hidx hdet => ?window,
      fun hv hs => exec_srd_illegal hi hv hs⟩
    case vector => exact exec_srd_vector hi (regV_eq ((srdMeaning f).form.ctx s g) hval)
    case own =>
      rcases hval with hval | ⟨h1, h2, rfl⟩ | ⟨h, rfl⟩ | ⟨h1, h2, rfl⟩ | ⟨h, hnone, rfl⟩ | ⟨h, e, he, hlow, rfl⟩
      · exact once (readsS_own hval)
      · exact once (readsS_tree h1 (by omega) ((regS_lidx h2).trans (lidx_eq w.l.img n h1)))
      · exact once (readsS_tree (by omega) (by omega) (by rw [h]; rfl))
      · exact once (readsS_tree (by omega) h2 ((regS_ldim (by omega) h2).trans (ldim_eq w.l.img w.l.pkt.lcount (by omega))))
      · exact once (h ▸ readsS_heatno (heatnoOf_none hnone))
      · exact once (h ▸ readsS_heatno (heatnoOf_lowest he hlow))
    case recorded =>
      obtain ⟨t, h, hexec, hcur, hret, honly, hval, hvec, hp, hfl, _⟩ :=
        exec_srd_uniform hi (readsS_recorded (c := (srdMeaning f).form.still s g) hval).ctx (.inr hdet)
      exact ⟨t, h, hexec, hcur, hret, hval, hvec, hp, hfl, honly.sameBytes⟩
    case window =>
      intro x
      obtain ⟨next, left, hws, hclosed, hopen⟩ :=
        wswinOf_eq x (longCadence y) (Config.freeWindow s.ctl.nonce)
      have hv : ReadsS ((srdMeaning f).form.still s g) idx _ := ⟨by rw [hidx]; rfl, by rw [hidx]; decide, rfl⟩
      have hreg : regS ((srdMeaning f).form.still s g) idx = wswinOf x (longCadence y) (Config.freeWindow s.ctl.nonce) := by
        rw [hidx]; rfl
      rw [hreg, hws] at hv
      obtain ⟨t, h, hexec, hcur, hret, honly, hval, hvec, hrest⟩ := exec_srd_uniform hi hv.ctx (.inr hdet)
      refine ⟨t, h, next, left, hexec, hcur, hret, honly, fun hd => ?_, hclosed, hopen, fun z hz => ?_, hvec, hrest⟩
      · rw [hval, if_pos ⟨rfl, fun h => hd (BitVec.eq_of_toNat_eq h)⟩]
      · rw [hval, if_neg fun h => hz h.1]
  case swr =>
    intro f s g g1 idx uni F hi hcls hdead x xl on
    obtain ⟨t, h, hexec, hcur, hret, honly, hcar⟩ := exec_swr hi hcls hdead
    rw [swrGrp_eq] at hcar
    have field {α : Type} (p : Group → α) (hp : ∀ k : Group, p k.kept = p k) := hcar.field p hp
    refine ⟨t, h, hexec, hcur, hret, honly, fun z l => rdVl_congr hcar.v z l, fun z => rdS_congr hcar.s z,
      fun z => rdP_congr hcar.p z, field Group.fpmode fun _ => rfl, field Group.trapvec fun _ => rfl,
      field Group.checkn fun _ => rfl, hcar.seen, field Group.trapen fun _ => rfl, field Group.pq fun _ => rfl,
      fun l hl => ?flags, fun l hl => ?sat, fun l hl => ?res, field Group.trapcause fun _ => rfl,
      field Group.trappc fun _ => rfl, field Group.traplanes fun _ => rfl, field Group.trapdst fun _ => rfl,
      field Group.trapinfo fun _ => rfl, field Group.gdone fun _ => rfl, field Group.stack fun _ => rfl, hcar.firstreg,
      hcar.dfile⟩
    case flags => rw [hcar.flags]; exact kget_setVs_fpflags g idx _ xl hl
    case sat => rw [hcar.satf]; exact kget_setVs_satf g idx _ xl hl
    case res =>
      have hres : h.trapres = (setVs g idx (execLanes g .lanes) xl).trapres := field Group.trapres fun _ => rfl
      rw [hres]; exact kget_setVs_trapres g idx _ xl hl
  case clk =>
    intro f s g g1 F hi hdet
    exact exec_clk hi hdet

end Sys2Proof
end

section
/-! How the arithmetic instructions that may raise a floating-point exception run (05 R98, R99; 14 R294): each of them through
`issue`, with its operand form, in one word that is no hint. -/

namespace Sys2Proof.Machine

theorem majOf_ofNat_ne {n : Nat} (h : n < 63 * 2 ^ 26) : majOf (BitVec.ofNat 32 n) ≠ 0x3F := by
  rw [majOf, BitVec.toNat_ofNat]; omega

section
variable {base : Nat} (hb : base ≤ 0x1F * 2 ^ 26)
include hb

theorem majOf_pkRRR_ne (f : RRR) : majOf (pkRRR base f) ≠ 0x3F := by
  have := f.ka.toNat_le; have := f.kb.toNat_le; have := f.u.toNat_le
  exact majOf_ofNat_ne (by omega)
theorem majOf_pkUn_ne (f : Un) : majOf (pkUn base f) ≠ 0x3F := by
  have := f.ka.toNat_le; have := f.u.toNat_le
  exact majOf_ofNat_ne (by omega)
theorem majOf_pkRRV_ne (f : RRV) : majOf (pkRRV base f) ≠ 0x3F := by
  have := f.ka.toNat_le; have := f.kb.toNat_le
  exact majOf_ofNat_ne (by omega)
theorem majOf_pkCP_ne (f : CP) : majOf (pkCP base f) ≠ 0x3F := by
  have := f.ka.toNat_le; have := f.kb.toNat_le; have := f.u.toNat_le
  exact majOf_ofNat_ne (by omega)

end


/-- How an arithmetic instruction of one word runs; it is no hint (04 R90). -/
structure RunsAs (i : Instr) (al : Alu) (op : LaneOp) : Prop where
  exec : ∀ s, exec i s = issue (al.meaning i op) s
  major : majOf (wordOf i) ≠ 0x3F
  size : sizeWords i = 1

/-- Every arithmetic instruction that may raise a floating-point exception runs as its operand form says. -/
theorem runsAs_of_floating {h : Hints} {i : Instr} {al : Alu} {op : LaneOp} (hi : aluForm h i = some (al, op))
    (hf : floating i = true) : RunsAs i al op := by
  cases i with
  | iaddc f | fadd f | fsub f | fmul f | fmin f | fmax f | fdiv f | ffma f =>
    cases hi
    exact ⟨fun _ => rfl, majOf_pkRRR_ne (by decide) f, rfl⟩
  | fabs f | fneg f | frndNe f | frndZ f | frndDn f | frndUp f | fclass f | frcp f | frsq f | fsqrt f | fexp2 f | flog2 f
  | fsin f | fcos f | ftanh f | cvtS32F32 f | cvtU32F32 f | cvtF32S32 f | cvtF32U32 f | cvtBf16F32 f | cvtF32Bf16 f
  | cvtF16F32 f | cvtF32F16 f | cvtE4m3F32 f | cvtF32E4m3 f | cvtE5m2F32 f | cvtF32E5m2 f =>
    cases hi
    exact ⟨fun _ => rfl, majOf_pkUn_ne (by decide) f, rfl⟩
  | badd2 f | bmul2 f | bfma2 f =>
    cases hi
    exact ⟨fun _ => rfl, majOf_pkRRV_ne (by decide) f, rfl⟩
  | icmp f | fcmp f =>
    cases hi
    exact ⟨fun _ => rfl, majOf_pkCP_ne (by decide) f, rfl⟩
  | _ => cases hi <;> cases hf

end Sys2Proof.Machine

namespace Sys2Proof
open Machine

/-- Settles O12: a floating-point instruction runs as its operand form says, and `Alu.issue_spec` gives what that leaves. -/
theorem floatingResults : Obligations.FloatingResults := by
  unfold Obligations.FloatingResults
  intro i al op s g g1 hform hf hi c hcheck htrap
  obtain ⟨hexec, hmajor, -⟩ := runsAs_of_floating hform hf
  rw [hexec]
  exact Alu.issue_spec i al op (al.laneRes op c) hi hcheck (fun _ _ _ => rfl) htrap hmajor

end Sys2Proof
end

section
/-! The spill that a trap's delivery makes (03 R66; 11 R238): it reads the memory system, the part and the owned lines
alone, and what it writes fires monitors and changes nothing else of any group. -/

namespace Sys2Proof.Machine

/-! ### What translation and spills depend on -/

/-- Two states with the same memory system, part and engine transfers. -/
structure SameMemory (s t : State) : Prop where
  mem : t.mem = s.mem
  part : t.part = s.part
  xfers : t.run.xfers = s.run.xfers

section
variable {s t u : State}

theorem SameMemory.refl (s : State) : SameMemory s s := ⟨rfl, rfl, rfl⟩
theorem SameMemory.trans (h : SameMemory s t) (h' : SameMemory t u) : SameMemory s u :=
  ⟨h'.mem.trans h.mem, h'.part.trans h.part, h'.xfers.trans h.xfers⟩

theorem ownedLoc_congr (h : SameMemory s t) (l : Loc) (n : Nat) : ownedLoc t l n = ownedLoc s l n := by
  rw [ownedLoc, ownedLoc, h.xfers]

theorem walkAux_congr (h : SameMemory s t) (die asid va fuel level table : Nat) :
    walkAux t die asid va fuel level table = walkAux s die asid va fuel level table := by
  induction fuel generalizing level table with
  | zero => rfl
  | succ fuel ih =>
    have hfree : homeFree t = homeFree s := by funext pa n; rw [homeFree, homeFree, h.mem, h.part]
    have howned : ownedLoc t = ownedLoc s := by funext l n; exact ownedLoc_congr h l n
    have hnext : walkAux t die asid va fuel = walkAux s die asid va fuel := by funext level table; exact ih level table
    rw [walkAux, walkAux, h.mem, h.part, hfree, howned, hnext]

theorem translate_congr (h : SameMemory s t) (die asid va : Nat) (acc : Acc) :
    translate t die asid va acc = translate s die asid va acc := by
  simp only [translate, walk, h.mem, walkAux_congr h]

/-- Where a work item's spill area lies for a group: what the address of its slots and their translation depend on. -/
structure SameArea (w w' : Who) (g g' : Group) : Prop where
  die : w'.die = w.die
  asid : w'.asid = w.asid
  launch : w'.l = w.l
  item : w'.it = w.it
  gidx : g'.gidx = g.gidx

variable {w w' : Who} {g g' : Group}

theorem spillVa_congr (hw : SameArea w w' g g') (k : Nat) : spillVa w' g' k = spillVa w g k := by
  rw [spillVa, spillVa, hw.launch, hw.item, hw.gidx]

theorem spillFault_congr (h : SameMemory s t) (hw : SameArea w w' g g') (a b : Nat) :
    spillFault t w' g' a b = spillFault s w g a b := by
  simp only [spillFault, spillVa_congr hw, hw.die, hw.asid, translate_congr h, ownedLoc_congr h]

/-! ### Writes of the same bytes -/

theorem fireLine_same (s : State) (l : MonLine) : SameMemory s (fireLine s l) := by
  unfold fireLine
  generalize s.mem.mons = ms
  induction ms generalizing s with
  | nil => exact .refl s
  | cons e t ih =>
    rw [List.foldl_cons]
    refine SameMemory.trans ?_ (ih _)
    split
    · exact ⟨rfl, rfl, rfl⟩
    · exact .refl s

theorem fireHbm_same (s : State) (pa n : Nat) : SameMemory s (fireHbm s pa n) := by
  unfold fireHbm
  generalize linesOf pa n = ks
  induction ks generalizing s with
  | nil => exact .refl s
  | cons k t ih => exact (fireLine_same s _).trans (ih _)

/-- Lines fire in states with the same memories. -/
theorem fireHbm_congr (h : SameMemory s t) (pa n : Nat) : SameMemory (fireHbm s pa n) (fireHbm t pa n) :=
  ⟨(fireHbm_same t pa n).mem.trans (h.mem.trans (fireHbm_same s pa n).mem.symm),
    (fireHbm_same t pa n).part.trans (h.part.trans (fireHbm_same s pa n).part.symm),
    (fireHbm_same t pa n).xfers.trans (h.xfers.trans (fireHbm_same s pa n).xfers.symm)⟩

/-- Steps that agree in states with the same memories agree all along a list. -/
theorem foldl_sameMemory {α : Type} {f : State → α → State} (hf : ∀ s t a, SameMemory s t → SameMemory (f s a) (f t a))
    (l : List α) (h : SameMemory s t) : SameMemory (l.foldl f s) (l.foldl f t) := by
  induction l generalizing s t with
  | nil => exact h
  | cons a l ih => exact ih (hf s t a h)

theorem setMem_congr (hp : t.part = s.part) (hx : t.run.xfers = s.run.xfers) (m : Mem) :
    SameMemory (setMem s m) (setMem t m) := ⟨rfl, hp, hx⟩

theorem l2Write_congr (h : SameMemory s t) (die pa : Nat) : SameMemory (l2Write s die pa) (l2Write t die pa) := by
  have hhome : homeDie t pa = homeDie s pa := by rw [homeDie, homeDie, h.mem, h.part]
  refine ⟨?_, h.part, h.xfers⟩
  rw [l2Write, l2Write, setMem_mem, setMem_mem, hhome, h.mem]

theorem performWrite_congr (h : SameMemory s t) (p : PortWrite) : SameMemory (performWrite s p) (performWrite t p) := by
  unfold performWrite
  split
  · exact ⟨by rw [setMem_mem, setMem_mem, h.mem], h.part, h.xfers⟩
  · dsimp only
    rw [h.mem, setMem_part, setMem_part, h.part]
    have hl2 := l2Write_congr (setMem_congr h.part h.xfers (writeHbm s.mem p.addr p.data)) (coreDie s.part.dies p.core) p.addr
    refine fireHbm_congr ?_ _ _
    exact ⟨hl2.mem, hl2.part, hl2.xfers⟩

theorem drainWhere_congr (h : SameMemory s t) (p : PortWrite → Bool) : SameMemory (drainWhere s p) (drainWhere t p) := by
  unfold drainWhere
  dsimp only
  rw [h.mem]
  exact foldl_sameMemory (fun _ _ u h => performWrite_congr h u.1) _ (setMem_congr h.part h.xfers _)

theorem storeVa_congr (h : SameMemory s t) (die asid va : Nat) (b : Byte) :
    SameMemory (storeVa s die asid va b) (storeVa t die asid va b) := by
  unfold storeVa
  rw [translate_congr h]
  split
  · exact h
  · dsimp only
    split
    · have hd := drainWhere_congr h fun w => w.host && w.sent
      exact ⟨by rw [writeHost, writeHost, setMem_mem, setMem_mem, hd.mem], hd.part, hd.xfers⟩
    · rw [h.mem]
      split
      · exact h
      · exact fireHbm_congr (l2Write_congr (setMem_congr (s := dropFront s _) (t := dropFront t _) h.part h.xfers _) _ _) _ _

theorem storeVas_congr (h : SameMemory s t) (die asid va : Nat) (bs : List Byte) :
    SameMemory (storeVas s die asid va bs) (storeVas t die asid va bs) := by
  induction bs generalizing s t va with
  | nil => exact h
  | cons b bs ih => exact ih (storeVa_congr h die asid va b) (va + 1)

/-- The same slots are spilled with the same effect on memory. -/
theorem spillOut_congr (h : SameMemory s t) (hw : SameArea w w' g g') (a : Nat) (st : List Entry) :
    SameMemory (spillOut s w g a st) (spillOut t w' g' a st) := by
  unfold spillOut spillSlots
  simp only [hw.die, hw.asid, spillVa_congr hw]
  exact foldl_sameMemory (fun _ _ k h => storeVas_congr h w.die w.asid (spillVa w g (a - 32 + k))
    (slotBytes ((stackSlots st).getD (a - 32 + k) (0, 0)))) _ h

end

/-! ### What a spill does to groups -/

/-- A group with another monitor. -/
def Group.withMon (g : Group) (m : Monitor) : Group := { g with mon := m }

/-- Every group is as before but for its monitor. -/
def OnlyMonitors (s t : State) : Prop := ∀ k g, grp s k = some g → ∃ m, grp t k = some (g.withMon m)

section
variable {s t u : State}

theorem OnlyMonitors.refl (s : State) : OnlyMonitors s s := fun _ g hg => ⟨g.mon, hg⟩

theorem OnlyMonitors.trans (h : OnlyMonitors s t) (h' : OnlyMonitors t u) : OnlyMonitors s u := fun k g hg => by
  obtain ⟨m, hm⟩ := h k g hg
  obtain ⟨n, hn⟩ := h' k _ hm
  exact ⟨n, hn⟩

theorem onlyMonitors_of_groups (h : t.run.groups = s.run.groups) : OnlyMonitors s t := fun _ g hg => ⟨g.mon, by rwa [grp, h]⟩

theorem fireMonitor_eq (g : Group) (o : Nat) : ∃ m, fireMonitor g o = g.withMon m := by
  unfold fireMonitor
  split
  · exact ⟨_, rfl⟩
  · exact ⟨g.mon, rfl⟩

/-- A state that changes step by step, each step with a property that passes on, has it at the end. -/
theorem foldl_onlyMonitors {α : Type} {f : State → α → State} (hf : ∀ s a, OnlyMonitors s (f s a)) (l : List α) (s : State) :
    OnlyMonitors s (l.foldl f s) := by
  induction l generalizing s with
  | nil => exact .refl s
  | cons a l ih => exact (hf s a).trans (ih _)

theorem fireHbm_onlyMonitors (s : State) (pa n : Nat) : OnlyMonitors s (fireHbm s pa n) := by
  refine foldl_onlyMonitors (fun s k => foldl_onlyMonitors (fun s e => ?_) _ s) _ s
  split
  · intro k g hg
    rw [grp_modGrp, hg]
    split
    · obtain ⟨m, hm⟩ := fireMonitor_eq g 0
      exact ⟨m, congrArg some hm⟩
    · exact ⟨g.mon, rfl⟩
  · exact .refl s

/-- Lines fire in a state with the same groups. -/
theorem fireHbm_onlyMonitors_of (h : u.run.groups = s.run.groups) (pa n : Nat) : OnlyMonitors s (fireHbm u pa n) :=
  (onlyMonitors_of_groups h).trans (fireHbm_onlyMonitors u pa n)

theorem performWrite_onlyMonitors (s : State) (p : PortWrite) : OnlyMonitors s (performWrite s p) := by
  unfold performWrite
  split
  · exact onlyMonitors_of_groups rfl
  · refine fireHbm_onlyMonitors_of ?_ _ _
    rfl

theorem writeHost_onlyMonitors (s : State) (a : Nat) (bs : List Byte) : OnlyMonitors s (writeHost s a bs) := by
  have hdrain : OnlyMonitors s (drainWhere s fun w => w.host && w.sent) := by
    unfold drainWhere
    dsimp only
    refine OnlyMonitors.trans (onlyMonitors_of_groups ?_)
      (foldl_onlyMonitors (fun s (u : PortWrite × Bool) => performWrite_onlyMonitors s u.1) _ _)
    rfl
  exact hdrain.trans (onlyMonitors_of_groups rfl)

theorem storeVa_onlyMonitors (s : State) (die asid va : Nat) (b : Byte) : OnlyMonitors s (storeVa s die asid va b) := by
  unfold storeVa
  split
  · exact .refl s
  · dsimp only
    split
    · exact writeHost_onlyMonitors _ _ _
    · split
      · exact .refl s
      · refine fireHbm_onlyMonitors_of ?_ _ _
        rfl

theorem storeVas_onlyMonitors (die asid va : Nat) (bs : List Byte) (s : State) :
    OnlyMonitors s (storeVas s die asid va bs) := by
  induction bs generalizing s va with
  | nil => exact .refl s
  | cons b bs ih => exact (storeVa_onlyMonitors s die asid va b).trans (ih _ _)

theorem spillOut_onlyMonitors (s : State) (w : Who) (g : Group) (a : Nat) (st : List Entry) :
    OnlyMonitors s (spillOut s w g a st) :=
  foldl_onlyMonitors (fun _ _ => storeVas_onlyMonitors _ _ _ _ _) _ s

end

end Sys2Proof.Machine
end

section
/-! The completing trap of a floating-point instruction (05 R101; 16 R339): which trap the flags of the lanes raise, and
what an arithmetic instruction leaves that ends in it. -/

namespace Sys2Proof.Machine

/-! ### The enabled exceptions -/

/-- The exceptions of an operation's flags whose TEN bit is set (05 R101). -/
def enabledOf (g : Group) (fl : Nat) : BitVec 5 := BitVec.ofNat 5 fl &&& g.fpmode.extractLsb' 4 5

theorem testBit_land_tenOf (g : Group) (n k : Nat) : (Nat.land n (tenOf g)).testBit k = (enabledOf g n).getLsbD k := by
  have hand : Nat.land n (tenOf g) = n &&& g.fpmode.toNat / 2 ^ 4 % 2 ^ 5 := rfl
  rw [hand, Nat.testBit_and, Nat.testBit_mod_two_pow, Nat.testBit_div_two_pow, enabledOf, BitVec.getLsbD_and,
    BitVec.getLsbD_ofNat, BitVec.getLsbD_extractLsb']
  by_cases hk : k < 5
  · simp [hk, BitVec.getLsbD, Nat.add_comm]
  · simp [hk]

theorem testBit_foldl_lor (f : Nat → Nat) (ls : List Nat) (u k : Nat) :
    (ls.foldl (fun u l => Nat.lor u (f l)) u).testBit k = (u.testBit k || ls.any fun l => (f l).testBit k) := by
  induction ls generalizing u with
  | nil => simp
  | cons l ls ih =>
    have hor : Nat.lor u (f l) = u ||| f l := rfl
    rw [List.foldl_cons, ih, hor, Nat.testBit_or, List.any_cons, Bool.or_assoc]

/-- The lowest set bit is the one below which none is set. -/
theorem lowBit_eq {n x b : Nat} (hb : b < n) (hset : x.testBit b = true) (hlow : ∀ k, k < b → x.testBit k = false) :
    lowBit n x = b := by
  have hfind : (List.range n).find? (fun k => tbit x k) = some b := by
    rw [List.find?_range_eq_some]
    refine ⟨by rw [tbit_eq_testBit, hset], List.mem_range.2 hb, fun k hk => ?_⟩
    rw [tbit_eq_testBit, hlow k hk]
    rfl
  rw [lowBit, hfind, Option.getD_some]

/-- The trap of the enabled exceptions of the lanes of a mask: its cause names the lowest, its information is their
union, its lanes are those that raised the lowest (05 R101). -/
theorem fpTrap_raised {g : Group} {x : Mask} {fl : Nat → Nat} {b : Nat} (dst : Nat) (hb : b < 5)
    (hset : ∃ l, l < 64 ∧ Mask.has x l ∧ (enabledOf g (fl l)).getLsbD b)
    (hlow : ∀ k, k < b → ∀ l, l < 64 → Mask.has x l → (enabledOf g (fl l)).getLsbD k = false) :
    ∃ info m, fpTrap g x fl dst = some ⟨0x08 + b, info, some m, dst⟩
      ∧ (∀ k, info.getLsbD k = true ↔ k < 5 ∧ ∃ l, l < 64 ∧ Mask.has x l ∧ (enabledOf g (fl l)).getLsbD k)
      ∧ ∀ l, l < 64 → Mask.has m l = (Mask.has x l && (enabledOf g (fl l)).getLsbD b) := by
  let union := (Mask.list x).foldl (fun u l => Nat.lor u (Nat.land (fl l) (tenOf g))) 0
  have hbit (k : Nat) : union.testBit k = true ↔ ∃ l, l < 64 ∧ Mask.has x l ∧ (enabledOf g (fl l)).getLsbD k := by
    rw [testBit_foldl_lor, Nat.zero_testBit, Bool.false_or, List.any_eq_true]
    simp only [Mask.mem_list, testBit_land_tenOf, and_assoc]
  have hnot (k : Nat) (hk : k < b) : union.testBit k = false := by
    rw [Bool.eq_false_iff]
    intro hset
    obtain ⟨l, hl, hx, hen⟩ := (hbit k).1 hset
    rw [hlow k hk l hl hx] at hen
    exact absurd hen Bool.false_ne_true
  have hne : union ≠ 0 := fun h0 => by
    have hb' := (hbit b).2 hset
    rw [h0, Nat.zero_testBit] at hb'
    exact absurd hb' Bool.false_ne_true
  refine ⟨BitVec.ofNat 64 union, maskOf fun l => Mask.has x l && tbit (Nat.land (fl l) (tenOf g)) b, ?_, fun k => ?_,
    fun l hl => ?_⟩
  · unfold fpTrap
    dsimp only
    rw [if_neg hne, lowBit_eq hb ((hbit b).2 hset) hnot]
  · rw [BitVec.getLsbD_ofNat, Bool.and_eq_true, decide_eq_true_eq, hbit]
    refine ⟨fun ⟨_, l, hl, hx, hen⟩ => ⟨BitVec.lt_of_getLsbD hen, l, hl, hx, hen⟩, fun ⟨hk, h⟩ => ⟨by omega, h⟩⟩
  · rw [Mask.has_maskOf _ _ hl, tbit_eq_testBit, testBit_land_tenOf]

/-! ### The effect before the trap -/

variable {s : State} {g g1 : Group}

theorem Alu.Leaves.carry {al : Alu} {c : Ctx} {r : Nat → LaneOut} {k h : Group} (hl : al.Leaves c r g k)
    (hc : k.Carries h) : al.Leaves c r g h := by
  obtain ⟨hvec, huni, hpred, hfl, hsat, hrest⟩ := hl
  exact ⟨fun x l h => (rdVl_congr hc.v x l).trans (hvec x l h), fun x => (rdS_congr hc.s x).trans (huni x),
    fun x l h => by rw [rdP_congr hc.p x]; exact hpred x l h, fun l h => by rw [hc.flags]; exact hfl l h,
    fun l h => by rw [hc.satf]; exact hsat l h, hc.kept.trans hrest⟩

theorem retireGrp_carries (c : Ctx) (pc clk : Nat) (g : Group) : g.Carries (retireGrp c pc clk g) := by
  obtain ⟨hv, hs, hp, hfl, hsat, hkept, -, -, -⟩ := sigStep_same c g
  obtain ⟨hseen, hfirst, hfile⟩ := sigStep_dead c g
  exact ⟨hv, hs, hp, hfl, hsat, hseen, hfirst, hfile, hkept⟩

theorem grp_retire (c : Ctx) (pc : Nat) (u : State) :
    grp (retire c pc u) c.gid = (grp u c.gid).map (retireGrp c pc u.ctl.clk) := by
  rw [retire, grp_modGrp, if_pos rfl]
  split <;> rfl

theorem retire_frame (c : Ctx) (pc : Nat) (u : State) : SameMemory u (retire c pc u)
    ∧ (retire c pc u).run.items = u.run.items ∧ (retire c pc u).run.launches = u.run.launches := by
  unfold retire
  split <;> exact ⟨⟨rfl, rfl, rfl⟩, rfl, rfl⟩

theorem Alu.put_active (al : Alu) (c : Ctx) (r : Nat → LaneOut) (k : Group) : (al.put c r k).active = k.active := by
  unfold Alu.put
  split
  · split
    · rfl
    · split
      · exact (wrS_kin ..).active
      · dsimp only; split <;> rfl
  · exact (wrP_kin ..).active

theorem Alu.write_active (al : Alu) (c : Ctx) (rs : List LaneOut) (k : Group) : (al.write c rs k).active = k.active := by
  rw [Alu.write_eq]
  dsimp only
  split
  · exact (wrP_kin ..).active.trans (al.put_active ..)
  · exact al.put_active ..

/-- An arithmetic instruction that issues writes each executing lane's result. -/
theorem Alu.issues_write_leaves {i : Instr} {al : Alu} (op : LaneOp) (h : (al.form i).Issues s g g1) :
    al.Leaves ((al.form i).ctx s g) (al.laneRes op ((al.form i).ctx s g)) g
      (al.write ((al.form i).ctx s g) (al.results op ((al.form i).ctx s g)) g1) := by
  have huni : al.u = true → ((al.form i).ctx s g).x ≠ 0 := fun hu => h.exec (by simp [Alu.form, hu])
  obtain ⟨hv, hs, hp, hkin⟩ := rename_spec h.names
  refine al.write_leaves _ _ _ g1 (fun l hl hx => al.results_lane op _ l hl hx) huni (fun hx => ?_) hv hs hp hkin
  have hu : al.u = false := by
    rw [Bool.eq_false_iff]
    exact fun hu => huni hu hx
  have hx' : execLanes g (al.form i).pol = 0 := hx
  simp [Alu.results, hu, laneOf_mkLanes, hx']

/-- An arithmetic instruction without queue operands whose lanes raise an enabled exception writes its results and flags
and retires, and then takes a completing trap (05 R101). -/
theorem Alu.issue_late {i : Instr} {al : Alu} {op : LaneOp} {t : Tr} {m : Mask} (h : (al.form i).Issues s g g1)
    (hc : al.check ((al.form i).ctx s g) = none) (hm : marks g = (false, false, false))
    (ht : fpTrap g (execLanes g (al.form i).pol) (fun l => (al.laneRes op ((al.form i).ctx s g) l).fl) (al.dstOf g) = some t)
    (hlanes : t.lanes = some m) :
    ∃ u k, issue (al.meaning i op) s = .next (takeTrap u s.ctl.cur k
        { cause := t.cause, info := t.info, lanes := m, restarting := false, gather := false, dst := t.dst, gdone := 0,
          pc := g.hints.first.getD g.pc, next := pcAfter g.pc (4 * sizeWords i) })
      ∧ al.Leaves ((al.form i).ctx s g) (al.laneRes op ((al.form i).ctx s g)) g k ∧ k.active = g.active
      ∧ SameMemory s u ∧ u.run.items = s.run.items ∧ u.run.launches = s.run.launches := by
  let c := (al.form i).ctx s g
  let s1 := modGrp ((al.form i).begun s g g1) s.ctl.cur (al.write c (al.results op c))
  let k := retireGrp c c.next s1.ctl.clk (al.write c (al.results op c) g1)
  have hbody : (al.meaning i op).body c ((al.form i).begun s g g1) = .late s1 t := by
    have hres : fpTrap c.g c.x (fun l => (laneOf ⟨0, 0, 0, none⟩ (al.results op c) l).fl) c.dst = some t := by
      rw [← ht]
      exact fpTrap_congr _ _ _ _ _ fun l hl hx => congrArg LaneOut.fl (al.results_lane op c l hl hx)
    have hmarks : ((marks c.g).1 || (marks c.g).2.1 || (marks c.g).2.2) = false := by
      rw [show c.g = g from rfl, hm]; rfl
    show al.run op c _ = _
    rw [Alu.run_eq]
    dsimp only
    rw [hres, hmarks, if_neg Bool.false_ne_true]
    rfl
  have hcur : grp (retire c c.next s1) s.ctl.cur = some k := by
    have hg1 : grp s1 s.ctl.cur = some (al.write c (al.results op c) g1) := by
      rw [grp_modGrp, if_pos rfl, Form.begun, grp_setGrp_self, Option.map_some]
    rw [show s.ctl.cur = c.gid from rfl, grp_retire, show c.gid = s.ctl.cur from rfl, hg1, Option.map_some]
  obtain ⟨hsame, hitems, hlaunches⟩ := retire_frame c c.next s1
  have hbegun : SameMemory s s1 := by
    refine ⟨?_, ?_, ?_⟩
    · rw [modGrp_mem, Form.begun, setGrp_mem, delayed_mem]
    · rw [modGrp_part, Form.begun, setGrp_part, delayed_part]
    · rw [modGrp_xfers, Form.begun, setGrp_xfers, delayed_run]
  refine ⟨retire c c.next s1, k, ?_, (al.issues_write_leaves op h).carry (retireGrp_carries ..), ?_, hbegun.trans hsame, ?_, ?_⟩
  · rw [Form.Issues.issue_eq (m := al.meaning i op) h hc]
    show Host.Outcome.next (settle c ((al.meaning i op).body c ((al.form i).begun s g g1))) = _
    rw [hbody]
    show Host.Outcome.next (raise c (retire c c.next s1) t false false false) = _
    rw [raise, show c.gid = s.ctl.cur from rfl, hcur, hlanes]
    rfl
  · obtain ⟨-, -, -, -, -, -, -, hactive, -⟩ := sigStep_same c (al.write c (al.results op c) g1)
    obtain ⟨-, -, -, hkin⟩ := rename_spec h.names
    exact hactive.trans ((al.write_active ..).trans hkin.active)
  · rw [hitems, modGrp_items, Form.begun, setGrp_items, delayed_run]
  · rw [hlaunches, modGrp_launches, Form.begun, setGrp_launches, delayed_run]

/-! ### The trap -/

section
variable {u : State} {k : Group}

/-- A field that neither issue nor an instruction over registers moves. -/
theorem Group.field_of_kept {α : Type} (hk : k.kept = g.kept) (p : Group → α) (hp : ∀ k : Group, p k.kept = p k) :
    p k = p g := by rw [← hp k, hk, hp]

theorem sameArea_of_kept (hk : k.kept = g.kept) (hp : u.part = s.part) (hi : u.run.items = s.run.items)
    (hl : u.run.launches = s.run.launches) (gid : Nat) : SameArea (who s gid g) (who u gid k) g k := by
  have hlaunch : k.launch = g.launch := Group.field_of_kept hk Group.launch fun _ => rfl
  have hitem : k.item = g.item := Group.field_of_kept hk Group.item fun _ => rfl
  refine ⟨?_, ?_, ?_, ?_, Group.field_of_kept hk Group.gidx fun _ => rfl⟩
  · simp only [who, hp]
  · simp only [who, hl, hlaunch]
  · simp only [who, hl, hlaunch]
  · simp only [who, hi, hitem]

/-- A group that can take a trap can still take it where an instruction has changed its registers alone. -/
theorem CanDeliver.congr {gid : Nat} (h : CanDeliver s gid g) (hk : k.kept = g.kept) (hs : SameMemory s u)
    (hi : u.run.items = s.run.items) (hl : u.run.launches = s.run.launches) : CanDeliver u gid k := by
  have hstack : k.stack = g.stack := Group.field_of_kept hk Group.stack fun _ => rfl
  have htv : k.trapvec = g.trapvec := Group.field_of_kept hk Group.trapvec fun _ => rfl
  have hlaunch : k.launch = g.launch := Group.field_of_kept hk Group.launch fun _ => rfl
  have hitem : k.item = g.item := Group.field_of_kept hk Group.item fun _ => rfl
  obtain ⟨hhandler, hroom, hspill, hclosed⟩ := h
  refine ⟨by rwa [htv], by rwa [hstack, hl, hlaunch], ?_, by rwa [hi, hitem]⟩
  rw [spillFault_congr hs (sameArea_of_kept hk hs.part hi hl gid), hstack]
  exact hspill

/-- What delivery leaves where an instruction has changed registers of its group alone: the group in its handler, but for
its monitor, and memory with the slots of the stack that it spills. -/
theorem takeTrap_delivered {gid : Nat} (h : CanDeliver s gid g) (hk : k.kept = g.kept) (hs : SameMemory s u)
    (hi : u.run.items = s.run.items) (hl : u.run.launches = s.run.launches) (t : TrapReq) :
    (∃ m, grp (takeTrap u gid k t) gid = some ((deliver k t).withMon m))
      ∧ (takeTrap u gid k t).mem = (spillOut s (who s gid g) g (slotsOf g.stack) (deliver k t).stack).mem
      ∧ (slotsOf (deliver k t).stack ≤ 32 → SameBytes s (takeTrap u gid k t)) := by
  have hstack : k.stack = g.stack := Group.field_of_kept hk Group.stack fun _ => rfl
  rw [takeTrap_deliver u gid k t (h.congr hk hs hi hl), hstack]
  refine ⟨spillOut_onlyMonitors _ _ _ _ _ gid _ (grp_setGrp_self ..), ?_, fun hcore => ?_⟩
  · exact (spillOut_congr (t := setGrp u gid (deliver k t)) ⟨hs.mem, hs.part, hs.xfers⟩
      (sameArea_of_kept hk hs.part hi hl gid) _ _).mem
  · rw [spillOut_core _ _ _ _ _ hcore]
    have hmem : (setGrp u gid (deliver k t)).mem = s.mem := hs.mem
    exact sameBytes_of s _ (by rw [hmem]) (by rw [hmem]) (by rw [hmem]) (by rw [hmem]) hs.part (by rw [hmem]; intros; rfl)
      (by rw [setGrp_items, hi]; intros; rfl)

end

end Sys2Proof.Machine
end

section
/-! Floating-point operations on NaNs and on signs (05 R96, R100; 16 R335, R337). -/

namespace Sys2Proof.Machine

/-! ### NaN operands -/

section
variable (f : Fmt) (rm : Rm) (fo : Bool) (a b c : FVal)

@[simp] theorem FVal.snan_negv : a.negv.snan = a.snan := by cases a <;> rfl
@[simp] theorem FVal.isNan_negv : a.negv.isNan = a.isNan := by cases a <;> rfl

/-- A NaN operand makes a sum a canonical NaN, with NV for a signalling one. -/
theorem addV_nan (h : a.isNan = true ∨ b.isNan = true) : addV f rm fo a b = nanRes f (a.snan || b.snan) := by
  cases a with
  | nan sa na => rfl
  | inf na => cases b with
    | nan sb nb => simp [addV, FVal.snan]
    | _ => simp [FVal.isNan] at h
  | fin na ma ea => cases b with
    | nan sb nb => simp [addV, FVal.snan]
    | _ => simp [FVal.isNan] at h

/-- The product with a NaN operand is a NaN, signalling when one operand is. -/
theorem mulV_nan (h : a.isNan = true ∨ b.isNan = true) : ∃ n, mulV a b = (.nan (a.snan || b.snan) n, false) := by
  cases a with
  | nan sa na => exact ⟨na, rfl⟩
  | inf na => cases b with
    | nan sb nb => exact ⟨nb, by simp [mulV, FVal.snan]⟩
    | _ => simp [FVal.isNan] at h
  | fin na ma ea => cases b with
    | nan sb nb => exact ⟨nb, by simp [mulV, FVal.snan]⟩
    | _ => simp [FVal.isNan] at h

theorem mulF_nan (h : a.isNan = true ∨ b.isNan = true) : mulF f rm fo a b = nanRes f (a.snan || b.snan) := by
  obtain ⟨n, hn⟩ := mulV_nan a b h
  rw [mulF, hn]
  rfl

theorem divF_nan (h : a.isNan = true ∨ b.isNan = true) : divF f rm fo a b = nanRes f (a.snan || b.snan) := by
  cases a with
  | nan sa na => rfl
  | inf na => cases b with
    | nan sb nb => simp [divF, FVal.snan]
    | _ => simp [FVal.isNan] at h
  | fin na ma ea => cases b with
    | nan sb nb => simp [divF, FVal.snan]
    | _ => simp [FVal.isNan] at h

/-- 0 times infinity. -/
def invalidMul (a b : FVal) : Bool :=
  match a, b with
  | .inf _, .fin _ m _ => m == 0
  | .fin _ m _, .inf _ => m == 0
  | _, _ => false

variable {a b} in
/-- The product of operands that are no NaN is no NaN, but for 0 times infinity. -/
theorem mulV_number (ha : a.isNan = false) (hb : b.isNan = false) :
    (mulV a b).2 = invalidMul a b ∧ ((mulV a b).2 = false → (mulV a b).1.isNan = false) := by
  cases a with
  | nan sa na => cases ha
  | inf na => cases b with
    | nan sb nb => cases hb
    | inf nb => exact ⟨rfl, fun _ => rfl⟩
    | fin nb mb eb => by_cases hm : mb = 0 <;> simp [mulV, invalidMul, hm, FVal.isNan]
  | fin na ma ea => cases b with
    | nan sb nb => cases hb
    | inf nb => by_cases hm : ma = 0 <;> simp [mulV, invalidMul, hm, FVal.isNan]
    | fin nb mb eb => exact ⟨rfl, fun _ => rfl⟩

theorem invalidMul_nan (h : a.isNan = true ∨ b.isNan = true) : invalidMul a b = false := by
  cases a with
  | nan sa na => rfl
  | inf na => cases b with
    | nan sb nb => rfl
    | _ => simp [FVal.isNan] at h
  | fin na ma ea => cases b with
    | nan sb nb => rfl
    | _ => simp [FVal.isNan] at h

variable {a} in
theorem FVal.snan_of_not_isNan (h : a.isNan = false) : a.snan = false := by
  cases a with
  | nan s n => cases h
  | _ => rfl

/-- The fused operation goes on to the sum where the product is valid. -/
theorem fmaF_valid {p : FVal} (h : mulV a b = (p, false)) : fmaF f rm fo a b c = addV f rm fo p c := by
  unfold fmaF
  dsimp only
  rw [h, if_neg Bool.false_ne_true]
  cases p with
  | nan s n => simp [addV]
  | inf n => rfl
  | fin n m e => rfl

/-- A NaN in the product or the addend and an invalid product make the fused result a canonical NaN (05 R100). -/
theorem fmaF_nan (h : a.isNan = true ∨ b.isNan = true ∨ c.isNan = true ∨ invalidMul a b = true) :
    fmaF f rm fo a b c = nanRes f (a.snan || b.snan || c.snan || invalidMul a b) := by
  by_cases hab : a.isNan = true ∨ b.isNan = true
  · obtain ⟨n, hn⟩ := mulV_nan a b hab
    rw [fmaF_valid f rm fo a b c hn, addV_nan _ _ _ _ _ (.inl rfl), invalidMul_nan a b hab, Bool.or_false]
    rfl
  · obtain ⟨ha, hb⟩ : a.isNan = false ∧ b.isNan = false := by simpa using hab
    obtain ⟨hflag, hnum⟩ := mulV_number ha hb
    rw [FVal.snan_of_not_isNan ha, FVal.snan_of_not_isNan hb]
    by_cases hinv : invalidMul a b = true
    · unfold fmaF
      dsimp only
      rw [hflag, hinv, if_pos rfl, Bool.or_true]
    · have hinv' : invalidMul a b = false := by simpa using hinv
      have hc : c.isNan = true := by simpa [ha, hb, hinv'] using h
      rw [hinv'] at hflag
      rw [fmaF_valid f rm fo a b c (Prod.ext rfl hflag), addV_nan _ _ _ _ _ (.inr hc), hinv',
        FVal.snan_of_not_isNan (hnum hflag)]
      simp

/-- A minimum or maximum of a NaN and a number is the number (05 R100). -/
theorem minmaxF_nan (isMax : Bool) (x y : Nat) :
    ((decodeF f x).isNan = true → (decodeF f y).isNan = false →
      minmaxF f isMax x y = ⟨y, ((decodeF f x).snan || (decodeF f y).snan).toNat⟩)
    ∧ ((decodeF f x).isNan = false → (decodeF f y).isNan = true →
      minmaxF f isMax x y = ⟨x, ((decodeF f x).snan || (decodeF f y).snan).toNat⟩) := by
  constructor <;>
  · intro hx hy
    rw [minmaxF]
    dsimp only
    rw [hx, hy]
    cases (decodeF f x).snan || (decodeF f y).snan <;> rfl

end

theorem nanRes_eq (f : Fmt) (nv : Bool) : nanRes f nv = ⟨nanCode f false, nv.toNat⟩ := by cases nv <;> rfl

theorem fout_nanRes (nv : Bool) : fout (nanRes fp32 nv) = ⟨0x7FC00000, nv.toNat, 0, none⟩ := by
  have hcode : nanCode fp32 false = 0x7FC00000 := by decide
  rw [nanRes_eq, fout, hcode]

/-! ### The fields of a single-precision code -/

section
variable (a : W32)

theorem W32.toNat_fields : a.toNat = a.msb.toNat * 2 ^ 31 + (a.extractLsb' 23 8).toNat * 2 ^ 23
    + (a.extractLsb' 0 23).toNat := by
  have hlt := a.isLt
  rw [BitVec.extractLsb'_toNat, BitVec.extractLsb'_toNat, Nat.shiftRight_eq_div_pow, Nat.shiftRight_zero,
    BitVec.msb_eq_decide]
  by_cases h : 2 ^ 31 ≤ a.toNat
  · simp only [h, decide_true, Bool.toNat_true]; omega
  · simp only [h, decide_false, Bool.toNat_false]; omega

/-- What a single-precision code holds, by its fields (05 R94). -/
theorem decodeF_fp32 : decodeF fp32 a.toNat =
    if a.extractLsb' 23 8 = 0 then .fin a.msb (a.extractLsb' 0 23).toNat (-149)
    else if a.extractLsb' 23 8 = 255 then
      if a.extractLsb' 0 23 = 0 then .inf a.msb else .nan (!(a.extractLsb' 0 23).msb) a.msb
    else .fin a.msb (2 ^ 23 + (a.extractLsb' 0 23).toNat) ((a.extractLsb' 23 8).toNat - 150) := by
  have hneg : tbit a.toNat 31 = a.msb := by
    rw [tbit_eq_testBit, BitVec.testBit_toNat, BitVec.msb_eq_getLsbD_last]
  have hex : bits a.toNat 23 8 = (a.extractLsb' 23 8).toNat := by
    rw [BitVec.extractLsb'_toNat, Nat.shiftRight_eq_div_pow]; rfl
  have hfr : bits a.toNat 0 23 = (a.extractLsb' 0 23).toNat := by
    rw [BitVec.extractLsb'_toNat, Nat.shiftRight_eq_div_pow]; rfl
  have hquiet : tbit (a.extractLsb' 0 23).toNat 22 = (a.extractLsb' 0 23).msb := by
    rw [tbit_eq_testBit, BitVec.testBit_toNat, BitVec.msb_eq_getLsbD_last]
  have hex0 : a.extractLsb' 23 8 = 0 ↔ (a.extractLsb' 23 8).toNat = 0 := by rw [← BitVec.toNat_inj]; rfl
  have hex255 : a.extractLsb' 23 8 = 255 ↔ (a.extractLsb' 23 8).toNat = 255 := by rw [← BitVec.toNat_inj]; rfl
  have hfr0 : a.extractLsb' 0 23 = 0 ↔ (a.extractLsb' 0 23).toNat = 0 := by rw [← BitVec.toNat_inj]; rfl
  have hexp : Int.ofNat (a.extractLsb' 23 8).toNat - Int.ofNat 127 - Int.ofNat 23 = (a.extractLsb' 23 8).toNat - 150 := by
    simp only [Int.ofNat_eq_natCast]; omega
  unfold decodeF fp32
  dsimp only
  rw [hneg, hex, hfr, hquiet, hexp]
  simp only [hex0, hex255, hfr0, Bool.false_and, Bool.not_false, Bool.true_and, beq_iff_eq, Bool.false_eq_true, if_false]
  rfl

end

end Sys2Proof.Machine
end

section
/-! FABS, FNEG and FCLASS on a code (16 R335, R337). -/

namespace Sys2Proof.Machine

section
variable (a : W32)

theorem fabsOp_eq (n : Nat) (fp : Fp) (x : LaneIn) (hx : x.a = a.toNat) :
    fabsOp n fp x = ⟨(a &&& 0x7FFFFFFF).toNat, 0, 0, none⟩ := by
  have hand : (a &&& 0x7FFFFFFF).toNat = a.toNat % 2 ^ 31 := by
    rw [BitVec.toNat_and]
    exact Nat.and_two_pow_sub_one_eq_mod a.toNat 31
  rw [fabsOp, fout, hx, hand]

theorem fnegOp_eq (n : Nat) (fp : Fp) (x : LaneIn) (hx : x.a = a.toNat) :
    fnegOp n fp x = ⟨(a ^^^ 0x80000000).toNat, 0, 0, none⟩ := by
  have hxor : (a ^^^ 0x80000000).toNat = Nat.xor (a.toNat % 2 ^ 32) (2 ^ 31) := by
    rw [BitVec.toNat_xor, Nat.mod_eq_of_lt a.isLt]
    rfl
  rw [fnegOp, fout, hx, hxor]

theorem isSub_fp32 : isSub fp32 a.toNat = (decide (a.extractLsb' 23 8 = 0) && !decide (a.extractLsb' 0 23 = 0)) := by
  have hex : bits a.toNat 23 8 = (a.extractLsb' 23 8).toNat := by
    rw [BitVec.extractLsb'_toNat, Nat.shiftRight_eq_div_pow]; rfl
  have hfr : bits a.toNat 0 23 = (a.extractLsb' 0 23).toNat := by
    rw [BitVec.extractLsb'_toNat, Nat.shiftRight_eq_div_pow]; rfl
  rw [isSub, show fp32.fb = 23 from rfl, show fp32.eb = 8 from rfl, hex, hfr]
  simp only [← BitVec.toNat_inj]
  rfl

/-- A code is given by its sign, its exponent and its fraction. -/
theorem W32.eq_of_fields {b : W32} (hs : a.msb = b.msb) (he : a.extractLsb' 23 8 = b.extractLsb' 23 8)
    (hm : a.extractLsb' 0 23 = b.extractLsb' 0 23) : a = b := by
  rw [← BitVec.toNat_inj, W32.toNat_fields a, W32.toNat_fields b, hs, he, hm]

/-- The ten classes of a code, each with its bit of FCLASS (16 R337). -/
inductive HasClass : Nat → Prop where
  | negInf : a = 0xFF800000 → HasClass 0
  | negNormal : a.msb = true → a.extractLsb' 23 8 ≠ 0 → a.extractLsb' 23 8 ≠ 255 → HasClass 1
  | negSubnormal : a.msb = true → a.extractLsb' 23 8 = 0 → a.extractLsb' 0 23 ≠ 0 → HasClass 2
  | negZero : a = 0x80000000 → HasClass 3
  | posZero : a = 0 → HasClass 4
  | posSubnormal : a.msb = false → a.extractLsb' 23 8 = 0 → a.extractLsb' 0 23 ≠ 0 → HasClass 5
  | posNormal : a.msb = false → a.extractLsb' 23 8 ≠ 0 → a.extractLsb' 23 8 ≠ 255 → HasClass 6
  | posInf : a = 0x7F800000 → HasClass 7
  | signalling : a.extractLsb' 23 8 = 255 → a.extractLsb' 0 23 ≠ 0 → (a.extractLsb' 0 23).msb = false → HasClass 8
  | quiet : a.extractLsb' 23 8 = 255 → (a.extractLsb' 0 23).msb = true → HasClass 9

theorem fclassF_hasClass : ∃ k, HasClass a k ∧ fclassF fp32 a.toNat = 2 ^ k := by
  unfold fclassF
  rw [decodeF_fp32]
  by_cases he0 : a.extractLsb' 23 8 = 0
  · rw [if_pos he0]
    dsimp only
    by_cases hm : a.extractLsb' 0 23 = 0
    · have hzero : (a.extractLsb' 0 23).toNat = 0 := congrArg BitVec.toNat hm
      rw [if_pos hzero]
      cases hs : a.msb with
      | false => exact ⟨4, .posZero (W32.eq_of_fields a hs he0 hm), rfl⟩
      | true => exact ⟨3, .negZero (W32.eq_of_fields a hs he0 hm), rfl⟩
    · have hsub : isSub fp32 a.toNat = true := by rw [isSub_fp32, decide_eq_true he0, decide_eq_false hm]; rfl
      have hpos : (a.extractLsb' 0 23).toNat ≠ 0 := fun h => hm (BitVec.eq_of_toNat_eq h)
      rw [if_neg hpos, if_pos hsub]
      cases hs : a.msb with
      | false => exact ⟨5, .posSubnormal hs he0 hm, rfl⟩
      | true => exact ⟨2, .negSubnormal hs he0 hm, rfl⟩
  · rw [if_neg he0]
    by_cases he1 : a.extractLsb' 23 8 = 255
    · rw [if_pos he1]
      by_cases hm : a.extractLsb' 0 23 = 0
      · rw [if_pos hm]
        cases hs : a.msb with
        | false => exact ⟨7, .posInf (W32.eq_of_fields a hs he1 hm), rfl⟩
        | true => exact ⟨0, .negInf (W32.eq_of_fields a hs he1 hm), rfl⟩
      · rw [if_neg hm]
        cases hq : (a.extractLsb' 0 23).msb with
        | false => exact ⟨8, .signalling he1 hm hq, rfl⟩
        | true => exact ⟨9, .quiet he1 hq, rfl⟩
    · have hsub : ¬ isSub fp32 a.toNat = true := by rw [isSub_fp32, decide_eq_false he0]; exact Bool.false_ne_true
      rw [if_neg he1]
      dsimp only
      rw [if_neg (by omega), if_neg hsub]
      cases hs : a.msb with
      | false => exact ⟨6, .posNormal hs he0 he1, rfl⟩
      | true => exact ⟨1, .negNormal hs he0 he1, rfl⟩

theorem fclassOp_eq (n : Nat) (fp : Fp) (x : LaneIn) (hx : x.a = a.toNat) :
    fclassOp n fp x = ⟨fclassF fp32 a.toNat, 0, 0, none⟩ := by
  rw [fclassOp, fout, hx, Nat.mod_eq_of_lt a.isLt]

end

end Sys2Proof.Machine

namespace Sys2Proof
open Machine

/-- Settles O13: the trap through `Alu.issue_late`, `fpTrap_raised` and `takeTrap_delivered`; FCLASS through the ten classes
of `HasClass`; NaN operands through `addV_nan`, `mulF_nan`, `divF_nan`, `minmaxF_nan` and `fmaF_nan`. -/
theorem floatExceptionsSignsAndNans : Obligations.FloatExceptionsSignsAndNans := by
  unfold Obligations.FloatExceptionsSignsAndNans
  refine ⟨?trap, ?signs, ?nans, ?fused⟩
  case trap =>
    intro i al op s g g1 hform hf hi c en b hb hcheck hmarks hdel hset hlow
    obtain ⟨hexec, -, hsize⟩ := runsAs_of_floating hform hf
    obtain ⟨info, m, htrap, hinfo, hm⟩ := fpTrap_raised (al.dstOf g) hb hset hlow
    obtain ⟨u, k, hissue, hleaves, hactive, hsame, hitems, hlaunches⟩ := Alu.issue_late hi hcheck hmarks htrap rfl
    have hkept := hleaves.rest
    obtain ⟨⟨mon, hgrp⟩, hmem, hbytes⟩ := takeTrap_delivered hdel hkept hsame hitems hlaunches
      { cause := 0x08 + b, info := info, lanes := m, restarting := false, gather := false, dst := al.dstOf g, gdone := 0,
        pc := g.hints.first.getD g.pc, next := pcAfter g.pc (4 * sizeWords i) }
    have hstack : k.stack = g.stack := Group.field_of_kept hkept Group.stack fun _ => rfl
    refine ⟨_, _, trapEntryOf k _, info, by rw [hexec, hissue], hgrp, hinfo, ?_, congrArg _ hstack, rfl, rfl, rfl, rfl, hm, rfl,
      ?_, rfl, hactive, rfl, fun x l hl => hleaves.vector x l hl, fun l hl hx => ?_, hmem, hbytes⟩
    · exact Group.field_of_kept hkept Group.trapvec fun _ => rfl
    · show pcAfter g.pc (4 * sizeWords i) = _
      rw [hsize]
    · exact (hleaves.flags l hl).trans (if_pos hx)
  case signs =>
    intro n fp a x hx
    refine ⟨fabsOp_eq a n fp x hx, fnegOp_eq a n fp x hx, ?_⟩
    rw [fclassOp_eq a n fp x hx]
    obtain ⟨k, hclass, heq⟩ := fclassF_hasClass a
    rw [heq]
    cases hclass with
    | negInf h | negZero h | posZero h | posInf h => exact ⟨_, by decide, rfl, h⟩
    | negNormal h h' h'' | negSubnormal h h' h'' | posSubnormal h h' h'' | posNormal h h' h'' | signalling h h' h'' =>
      exact ⟨_, by decide, rfl, h, h', h''⟩
    | quiet h h' => exact ⟨_, by decide, rfl, h, h'⟩
  case nans =>
    intro n fp x hnan sig
    refine ⟨fun op hop => ?_, fun hb op hop => ?_, fun ha op hop => ?_⟩
    · simp only [List.mem_cons, List.not_mem_nil, or_false] at hop
      rcases hop with rfl | rfl | rfl | rfl
      · rw [faddOp, addV_nan _ _ _ _ _ hnan, fout_nanRes]
      · rw [fsubOp, addV_nan _ _ _ _ _ (by rwa [FVal.isNan_negv]), FVal.snan_negv, fout_nanRes]
      · rw [fmulOp, mulF_nan _ _ _ _ _ hnan, fout_nanRes]
      · rw [fdivOp, divF_nan _ _ _ _ _ hnan, fout_nanRes]
    · have ha : (val32 fp x.a).isNan = true := hnan.resolve_right (by rw [hb]; exact Bool.false_ne_true)
      simp only [List.mem_cons, List.not_mem_nil, or_false] at hop
      rcases hop with rfl | rfl
      · rw [fminOp, (minmaxF_nan fp32 false _ _).1 ha hb]; rfl
      · rw [fmaxOp, (minmaxF_nan fp32 true _ _).1 ha hb]; rfl
    · have hb : (val32 fp x.b).isNan = true := hnan.resolve_left (by rw [ha]; exact Bool.false_ne_true)
      simp only [List.mem_cons, List.not_mem_nil, or_false] at hop
      rcases hop with rfl | rfl
      · rw [fminOp, (minmaxF_nan fp32 false _ _).2 ha hb]; rfl
      · rw [fmaxOp, (minmaxF_nan fp32 true _ _).2 ha hb]; rfl
  case fused =>
    intro n fp x zero infinite a b d invalid h
    have hinv : invalidMul a b = invalid := by
      cases ha : a <;> cases hb : b <;> simp [invalidMul, invalid, zero, infinite, ha, hb]
    rw [← hinv] at h ⊢
    rw [ffmaOp, fmaF_nan _ _ _ _ _ _ h, fout_nanRes]

end Sys2Proof
end

section
/-! TMMA, TBATCH and TWAIT (08 R169 to R171; 18 R409, R412): what closing a batch does, and what each of them leaves. -/

namespace Sys2Proof.Machine

variable {s : State} {g g1 : Group}

/-! ### Completion -/

/-- An instruction that issues and completes leaves what its effect leaves in its group, and retires. -/
theorem issue_done {m : Meaning} {u : State} {k : Group} (hi : m.form.Issues s g g1)
    (hpre : m.pre (m.form.ctx s g) = none) (hbody : m.body (m.form.ctx s g) (m.form.begun s g g1) = .done u)
    (hcur : grp u s.ctl.cur = some k) (hsplit : k.split = g.split) (hactive : k.active = g.active) :
    ∃ t h, issue m s = .next t ∧ grp t s.ctl.cur = some h ∧ Retired m.form g h ∧ k.Carries h
      ∧ Settled (m.form.ctx s g) (m.form.ctx s g).next u t k := by
  have hset := settle_done (m.form.ctx s g) u k hcur
  obtain ⟨_, _, _, _, _, _, hhints, hwait, _⟩ := turn_retire_same (m.form.ctx s g) (m.form.ctx s g).next u.ctl.clk k
  refine ⟨_, _, ?_, hset.cur, ⟨hhints, hwait, fun hs => ?_⟩, turn_retire_carries _ _ _ _, hset⟩
  · rw [hi.issue_eq hpre, hbody]
  · obtain ⟨h1, h2, h3, h4⟩ := turn_retire_plain (m.form.ctx s g) (m.form.ctx s g).next u.ctl.clk k (hsplit.trans hs)
    exact ⟨h1, h2, h3.trans hactive, h4⟩

/-- An instruction that issues and has no effect but its renaming changes its own group alone. -/
theorem issue_nothing {m : Meaning} (hi : m.form.Issues s g g1) (hpre : m.pre (m.form.ctx s g) = none)
    (hbody : m.body (m.form.ctx s g) (m.form.begun s g g1) = .done (m.form.begun s g g1))
    (hmaj : majOf (wordOf m.i) ≠ 0x3F) :
    ∃ t h, issue m s = .next t ∧ grp t s.ctl.cur = some h ∧ Retired m.form g h ∧ OnlyGroup s t ∧ g1.Carries h := by
  obtain ⟨-, -, -, hkin⟩ := rename_spec hi.names
  obtain ⟨t, h, hissue, hcur, hret, hcar, hset⟩ := issue_done hi hpre hbody (grp_setGrp_self ..) hkin.split hkin.active
  refine ⟨t, h, hissue, hcur, hret, ⟨⟨fun k hk => ?_, ?_, ?_, ?_, ?_, ?_, ?_, ?_⟩, ?_⟩, hcar⟩
  · rw [hset.others k hk, Form.begun, grp_setGrp, if_neg (Ne.symm hk), grp_delayed]
  · rw [hset.launches, Form.begun, setGrp_launches, delayed_run]
  · rw [hset.items, Form.begun, setGrp_items, delayed_run]
  · rw [hset.xfers, Form.begun, setGrp_xfers, delayed_run]
  · rw [hset.colls, Form.begun, setGrp_colls, delayed_run]
  · rw [hset.part, Form.begun, setGrp_part, delayed_part]
  · rw [hset.host, Form.begun, setGrp_host, delayed_host]
  · rw [hset.flights, if_neg (show ¬ majOf (m.form.ctx s g).word = 0x3F from hmaj), Form.begun, setGrp_flights, delayed_run]
    rfl
  · rw [hset.mem, Form.begun, setGrp_mem, delayed_mem]

theorem OnlyGroup.items {t : State} (h : OnlyGroup s t) : t.run.items = s.run.items := by
  obtain ⟨⟨-, -, hitems, -⟩, -⟩ := h
  exact hitems

section
variable {k h : Group}

/-- Registers and flags pass where a group differs from the renamed one in none of them. -/
theorem kept_of_carries {l : Launch} {r : Regs} (hn : rename g l r = .ok g1) (hv : k.v = g1.v) (hs : k.s = g1.s)
    (hp : k.p = g1.p) (hf : k.fpflags = g1.fpflags) (ht : k.satf = g1.satf) (hc : k.Carries h) :
    KeptVs r g h ∧ KeptSs r g h ∧ SameP g h ∧ SameFlags g h := by
  obtain ⟨hv1, hs1, hp1, hkin⟩ := rename_spec hn
  exact ⟨fun x l => (rdVl_congr (hc.v.trans hv) x l).trans (hv1 x l), fun x => (rdS_congr (hc.s.trans hs) x).trans (hs1 x),
    fun x => rdP_congr ((hc.p.trans hp).trans hp1) x, (hc.flags.trans hf).trans hkin.flags,
    (hc.satf.trans ht).trans hkin.satf⟩

end

/-! ### Closing a batch -/

/-- The group after its open TMMAs have become batch b (08 R170); `q` is what is left of its reservation. -/
def Group.closedInto (g : Group) (b : Batch) (q : PacerQ) : Group :=
  { g with opens := [], batches := g.batches ++ [b], lastBatch := b.num, issuedBatches := g.issuedBatches + 1, pq := q }

theorem drawReserve_grp {u : State} {gid : Nat} {k : Group} (hk : grp u gid = some k) (weight : Nat) :
    (∃ q, grp (drawReserve u gid weight).2 gid = some { k with pq := q }) ∧ (drawReserve u gid weight).2.mem = u.mem
      ∧ (drawReserve u gid weight).2.run.items = u.run.items := by
  unfold drawReserve
  split
  · exact ⟨⟨k.pq, hk⟩, rfl, rfl⟩
  · exact ⟨⟨_, by rw [grp_modGrp, if_pos rfl, hk]; rfl⟩, rfl, rfl⟩

/-- A group without open TMMAs has nothing to close. -/
theorem closeBatch_empty {u : State} {gid : Nat} {k : Group} (hk : grp u gid = some k) (h : k.opens = []) :
    closeBatch u gid = u := by
  unfold closeBatch
  rw [hk]
  dsimp only
  rw [h]
  rfl

/-- Closing makes the open TMMAs one batch of the next number, not yet in the engine, and touches no memory and no work
item. -/
theorem closeBatch_closes {u : State} {gid : Nat} {k : Group} (hk : grp u gid = some k) (h : k.opens ≠ []) :
    ∃ b q, grp (closeBatch u gid) gid = some (k.closedInto b q) ∧ b.num = nextBatch k.lastBatch ∧ b.tm = k.opens
      ∧ b.entered = none ∧ (closeBatch u gid).mem = u.mem ∧ (closeBatch u gid).run.items = u.run.items := by
  obtain ⟨⟨q, hq⟩, hmem, hitems⟩ := drawReserve_grp hk (k.opens.map tmmaWeight).sum
  have hne : k.opens.isEmpty = false := by simpa using h
  unfold closeBatch
  rw [hk]
  dsimp only
  rw [hne, if_neg Bool.false_ne_true]
  refine ⟨⟨nextBatch k.lastBatch, k.opens, ((kfind u.run.items k.item).getD Item.fresh).preempt.isSome
    || (drawReserve u gid (k.opens.map tmmaWeight).sum).1 == 0, none⟩, q, ?_, rfl, rfl, rfl, ?_, ?_⟩
  rotate_left
  · split
    · exact hmem
    · split <;> exact hmem
  · split
    · exact hitems
    · split <;> exact hitems
  · have hmod (f : Group → Group) : grp (modGrp (drawReserve u gid (k.opens.map tmmaWeight).sum).2 gid f) gid
        = some (f { k with pq := q }) := by rw [grp_modGrp, if_pos rfl, hq, Option.map_some]
    split
    · exact hmod _
    · split <;> exact hmod _

/-! ### TMMA -/

/-- TMMA as its issue takes it. -/
def tmmaMeaning (f : TM) : Meaning where
  i := .tmma f
  pol := .lanes
  regs := tmmaRegs f
  dst := fun _ => dstNone
  pre := tmmaPre f
  body := tmmaIssue f

theorem exec_tmma (f : TM) (s : State) : exec (.tmma f) s = issue (tmmaMeaning f) s := rfl

theorem majOf_tmma (f : TM) : majOf (wordOf (.tmma f)) ≠ 0x3F := by
  have := f.ru.toNat_le; have := f.lh.isLt
  have hw : wordOf (.tmma f) = pkTM (op 0x30 0 0) f := rfl
  rw [hw, pkTM, op]
  exact majOf_ofNat_ne (by omega)

theorem firstTrap_none {l : List (Option Tr)} (h : firstTrap l = none) : ∀ t ∈ l, t = none := by
  induction l with
  | nil => simp
  | cons t l ih =>
    cases t with
    | some t => cases h
    | none => simpa using ih h

/-- A TMMA that passes its checks has one format word in all its executing lanes (08 R169). -/
theorem fmtWord_agreed {f : TM} {c : Ctx} (hx : c.x ≠ 0) (h : tmmaPre f c = none) {l : Nat} (hl : l < 64)
    (hon : Mask.has c.x l = true) : fmtAgreed f c.g c.x = fmtWord f c.g l := by
  unfold tmmaPre at h
  rw [if_neg hx] at h
  have hdiff := firstTrap_none h _ (List.mem_cons_of_mem _ (List.mem_cons_self ..))
  have hzero : fmtDiffer f c.g c.x = 0 := by
    by_contra hne
    rw [if_neg hne] at hdiff
    cases hdiff
  have hlane : Mask.has (fmtDiffer f c.g c.x) l = false := by rw [hzero]; exact Mask.has_zero l
  rw [fmtDiffer, Mask.has_maskOf _ _ hl, hon, Bool.true_and, Bool.not_eq_false', beq_iff_eq] at hlane
  exact hlane.symm

/-- What a TMMA captures at issue (08 R166; 18 R412). -/
theorem tmmaOf_captures {f : TM} {c : Ctx} (hx : c.x ≠ 0) (h : tmmaPre f c = none) :
    (tmmaOf f c).acc = f.acc.toNat ∧ (tmmaOf f c).shape = f.shape.toNat ∧ (tmmaOf f c).rows = c.x
      ∧ (∀ l, l < 64 → Mask.has c.x l → (tmmaOf f c).word = rdVl c.g (56 + f.f.toNat) l)
      ∧ (tmmaOf f c).b = (rdS c.g f.bs.toNat).toNat
      ∧ (∀ k, k < (tmmaOf f c).a.length → (tmmaOf f c).a.getD k [] = rdV c.g (f.a.toNat + k))
      ∧ (tmmaOf f c).a.length = aRegs (tmmaOf f c).word.toNat (tmmaOf f c).shape := by
  refine ⟨rfl, rfl, rfl, fun l hl hon => fmtWord_agreed hx h hl hon, rfl, fun k hk => ?_, by simp [tmmaOf]⟩
  simp only [tmmaOf, List.length_map, List.length_range] at hk ⊢
  rw [List.getD_eq_getElem?_getD, List.getElem?_map, List.getElem?_range hk]
  rfl

/-- The group with one more TMMA open, its tile bound (04 R84). -/
def Group.opened (g : Group) (m : Tmma) : Group := { g with opens := g.opens ++ [m], bound := kins g.bound m.acc true }

/-- A TMMA with an executing lane opens, after 64 open ones have been closed into a batch (08 R170). -/
theorem tmmaIssue_opens (f : TM) (c : Ctx) {u : State} {k : Group} (hk : grp u c.gid = some k) (hx : c.x ≠ 0)
    (ho : c.g.opens = k.opens) :
    ∃ v k', tmmaIssue f c u = .done v ∧ grp v c.gid = some (k'.opened (tmmaOf f c))
      ∧ v.mem = u.mem ∧ v.run.items = u.run.items
      ∧ (k' = k ∧ k.opens.length < 64
        ∨ 64 ≤ k.opens.length ∧ ∃ b q, k' = k.closedInto b q ∧ b.tm = k.opens ∧ b.entered = none) := by
  unfold tmmaIssue
  rw [if_neg hx, ho]
  dsimp only
  by_cases hfull : 64 ≤ k.opens.length
  · rw [if_pos hfull]
    have hne : k.opens ≠ [] := fun h => by simp [h] at hfull
    obtain ⟨b, q, hgrp, -, htm, hent, hmem, hitems⟩ := closeBatch_closes hk hne
    exact ⟨_, _, rfl, by rw [grp_modGrp, if_pos rfl, hgrp]; rfl, hmem, hitems, .inr ⟨hfull, b, q, rfl, htm, hent⟩⟩
  · rw [if_neg hfull]
    exact ⟨_, _, rfl, by rw [grp_modGrp, if_pos rfl, hk]; rfl, rfl, rfl, .inl ⟨rfl, by omega⟩⟩

/-! ### TBATCH and TWAIT -/

/-- TBATCH as its issue takes it. -/
def tbatchMeaning (f : TB) : Meaning where
  i := .tbatch f
  pol := .once
  regs := fun _ => ⟨[], [], [(true, f.x.toNat)]⟩
  dst := fun _ => dstS f.x.toNat
  pre := fun _ => none
  body := fun c s => .done (modGrp (closeBatch s c.gid) c.gid fun g => wrS g f.x.toNat (BitVec.ofNat 64 g.lastBatch))

theorem exec_tbatch (f : TB) (s : State) : exec (.tbatch f) s = issue (tbatchMeaning f) s := rfl

/-- The group with its open TMMAs closed, and the number of its last batch. -/
theorem closeBatch_last {u : State} {gid : Nat} {k : Group} (hk : grp u gid = some k) :
    ∃ k', grp (closeBatch u gid) gid = some k' ∧ (closeBatch u gid).mem = u.mem ∧ k'.opens = []
      ∧ k'.lastBatch = (if k.opens = [] then k.lastBatch else nextBatch k.lastBatch)
      ∧ (k.opens = [] → k' = k)
      ∧ (k.opens ≠ [] → ∃ b q, k' = k.closedInto b q ∧ b.num = nextBatch k.lastBatch ∧ b.tm = k.opens ∧ b.entered = none) := by
  by_cases h : k.opens = []
  · rw [closeBatch_empty hk h, if_pos h]
    exact ⟨k, hk, rfl, h, rfl, fun _ => rfl, fun hne => absurd h hne⟩
  · obtain ⟨b, q, hgrp, hnum, htm, hent, hmem, -⟩ := closeBatch_closes hk h
    rw [if_neg h]
    exact ⟨_, hgrp, hmem, rfl, hnum, fun he => absurd he h, fun _ => ⟨b, q, rfl, hnum, htm, hent⟩⟩

/-- TWAIT as its issue takes it. -/
def twaitMeaning (f : TW) : Meaning where
  i := .twait f
  pol := .once
  regs := fun _ => ⟨[(true, f.y.toNat)], [], []⟩
  dst := fun _ => dstNone
  pre := fun _ => none
  body := fun c s => if batchPending c.g ((rdS c.g f.y.toNat).toNat % 2 ^ 32) then .wait .batch else .done s

theorem exec_twait (f : TW) (s : State) : exec (.twait f) s = issue (twaitMeaning f) s := rfl

theorem majOf_twait (f : TW) : majOf (wordOf (.twait f)) ≠ 0x3F := by
  have := f.lh.isLt
  have hw : wordOf (.twait f) = pkTW (op 0x31 23 4) f := rfl
  rw [hw, pkTW, op]
  exact majOf_ofNat_ne (by omega)

end Sys2Proof.Machine
end

section
/-! The matrix engine's own steps (08 R167, R170; 05 R109, R111; 18 R413): a batch enters, and a batch of one TMMA updates
its tile. -/

namespace Sys2Proof.Machine

/-! ### Entering -/

/-- The first batch of a group that is not in the engine. -/
theorem splitBatch_first {pre post : List Batch} {b : Batch} (hpre : ∀ x ∈ pre, x.entered.isSome) (hb : b.entered = none) :
    splitBatch (pre ++ b :: post) = some (pre, b, post) := by
  induction pre with
  | nil => simp [splitBatch, hb]
  | cons x pre ih =>
    have hx : x.entered.isNone = false := by simpa [Option.isSome_iff_ne_none] using hpre x (List.mem_cons_self ..)
    simp only [List.cons_append, splitBatch, hx, Bool.false_eq_true, if_false,
      ih fun y hy => hpre y (List.mem_cons_of_mem _ hy), Option.map_some]

theorem exec_batchEnter {s : State} {gid : Nat} {g : Group} {pre post : List Batch} {b : Batch} (hg : grp s gid = some g)
    (hbs : g.batches = pre ++ b :: post) (hpre : ∀ x ∈ pre, x.entered.isSome) (hb : b.entered = none) :
    exec (.batchEnter gid) s = .next (if b.granted = true ∧ (∀ m ∈ b.tm, bReady s (who s gid g) m = true)
      then setGrp s gid { g with batches := pre ++ { b with entered := some (b.tm.map (bRead s (who s gid g))) } :: post }
      else s) := by
  have hexec : exec (.batchEnter gid) s = execBatchEnter gid s := rfl
  rw [hexec, execBatchEnter, hg]
  simp only [batchEnterAt, hbs, splitBatch_first hpre hb, Bool.and_eq_true, List.all_eq_true]

/-! ### INT8 elements (05 R111) -/

theorem intOf_elemVal_int8 (code scale : Nat) : intOf (elemVal 7 code scale) = (BitVec.ofNat 8 code).toInt := by
  have hval : elemVal 7 code scale = .fin (decide (sextNat 8 code < 0)) (sextNat 8 code).natAbs 0 := rfl
  rw [hval, intOf, ← sextNat_eq_toInt]
  by_cases hneg : sextNat 8 code < 0
  · rw [if_pos (decide_eq_true hneg), Int.ofNat_eq_natCast]; omega
  · rw [if_neg (by simpa using hneg), Int.ofNat_eq_natCast]; omega

/-- One byte of the A registers of an INT8 row (08 R166). -/
def aByte (m : Tmma) (r j : Nat) : BitVec 8 := BitVec.ofNat 8 ((laneOf 0 (m.a.getD (j / 4) []) r).toNat / 2 ^ (8 * (j % 4)))

section
variable {m : Tmma} (hw : m.word = 0x177)
include hw

theorem intOf_valA (r k : Nat) : intOf (valA m r k) = (aByte m r k).toInt := by
  have hty : bits m.word.toNat 0 4 = 7 := by rw [hw]; rfl
  have hdiv : k * 8 / 32 = k / 4 := by omega
  have hmod : k * 8 % 32 = 8 * (k % 4) := by omega
  have hlow (n : Nat) : BitVec.ofNat 8 (n % 2 ^ 8) = BitVec.ofNat 8 n := BitVec.eq_of_toNat_eq (by simp)
  unfold valA
  dsimp only
  rw [hty, show typeBits 7 = 8 from rfl, hdiv, hmod, intOf_elemVal_int8, bits, hlow]
  rfl

theorem intOf_valB (bs : List Byte) (k j : Nat) :
    intOf (valB m bs k j) = (bs.getD (j * (tmmaShape m.word.toNat m.shape).2.2 + k) 0).toInt := by
  have hty : bits m.word.toNat 4 4 = 7 := by rw [hw]; rfl
  have hbyte (n : Nat) : BitVec.ofNat 8 (natLe ((bs.drop (n * 1)).take 1)) = bs.getD n 0 := by
    rw [Nat.mul_one, List.take_one, List.head?_drop, List.getD_eq_getElem?_getD]
    cases bs[n]? with
    | none => rfl
    | some b => simp [natLe]
  unfold valB
  dsimp only
  rw [hty, show typeBits 7 = 8 from rfl, if_neg (by decide), intOf_elemVal_int8]
  exact congrArg BitVec.toInt (hbyte _)

/-- An INT8 element: the sum of products modulo 2^32 (05 R111). -/
theorem accInt_eq (bs : List Byte) (r j : Nat) (c : W32) :
    accInt m bs r j c = c + BitVec.ofInt 32 (((List.range (tmmaShape m.word.toNat m.shape).2.2).map fun k =>
      (aByte m r k).toInt * (bs.getD (j * (tmmaShape m.word.toNat m.shape).2.2 + k) 0).toInt).sum) := by
  unfold accInt
  dsimp only
  simp only [intOf_valA hw, intOf_valB hw]
  rw [wrapNat_eq_ofInt, BitVec.ofNat_toNat, BitVec.setWidth_eq, BitVec.ofInt_add, Int.ofNat_eq_natCast, BitVec.ofInt_natCast,
    BitVec.ofNat_toNat, BitVec.setWidth_eq, List.sum_eq_foldl, List.foldl_map]

end

/-! ### Floating-point elements (05 R109) -/

/-- A floating-point element: one rounding for each block, in ascending order (05 R109). -/
theorem accFp_eq (m : Tmma) (bs : List Byte) (lim : Limits) (r j : Nat) (c : W32) :
    (accFp m bs lim r j c).1
      = (List.range ((tmmaShape m.word.toNat m.shape).2.2 / blockLen m.word.toNat)).foldl (fun c n =>
          roundNE (exactAdd (decodeF fp32 c.toNat) (exactSum (blockProds m bs r j n)))) c :=
  (List.foldl_hom Prod.fst (fun _ _ => rfl)).symm

/-! ### A whole tile -/

section
variable (m : Tmma) (bs : List Byte) (lim : Limits) (old : List W32)

/-- The elements of the executing rows and of the shape's columns are computed, and the others stand (18 R412). -/
theorem tmmaRun_at {r j : Nat} (hr : r < 64) (hj : j < 64) : laneOf 0 (tmmaRun m bs lim old).1 (64 * r + j) =
    if Mask.has m.rows r && decide (r < (tmmaShape m.word.toNat m.shape).1) && decide (j < (tmmaShape m.word.toNat m.shape).2.1)
    then (tmmaElem m bs lim r j (laneOf 0 old (64 * r + j))).1 else laneOf 0 old (64 * r + j) := by
  have hp : 64 * r + j < 4096 := by omega
  have hdiv : (64 * r + j) / 64 = r := by omega
  have hmod : (64 * r + j) % 64 = j := by omega
  unfold tmmaRun
  dsimp only
  rw [laneOf, List.getD_eq_getElem?_getD, List.getElem?_map, List.getElem?_map, List.getElem?_range hp]
  simp only [Option.map_some, Option.getD_some, hdiv, hmod]
  split <;> rfl

theorem tmmaElem_int (hw : m.word = 0x177) (r j : Nat) (c : W32) : (tmmaElem m bs lim r j c).1 = accInt m bs r j c := by
  have hacc : bits m.word.toNat 8 2 = 1 := by rw [hw]; rfl
  rw [tmmaElem, if_pos hacc]

theorem tmmaElem_fp (hacc : (m.word.toNat / 2 ^ 8) % 4 ≠ 1) (r j : Nat) (c : W32) :
    (tmmaElem m bs lim r j c).1 = (accFp m bs lim r j c).1 := by
  rw [tmmaElem, if_neg (show ¬ bits m.word.toNat 8 2 = 1 from hacc)]

end

/-! ### Finishing -/

/-- A group whose oldest batch has finished, with its tiles as the batch leaves them. -/
def Group.finished (g : Group) (tile : KMap (List W32)) (rest : List Batch) : Group := { g with tile := tile, batches := rest }

/-- A batch of one TMMA finishes: its tile is updated and the batch is gone (08 R170). -/
theorem exec_batchFinish {s : State} {gid : Nat} {g : Group} {b : Batch} {rest : List Batch} {m : Tmma} {bs : List Byte}
    (hg : grp s gid = some g) (hbs : g.batches = b :: rest) (htm : b.tm = [m]) (hent : b.entered = some [bs]) :
    ∃ t lim, exec (.batchFinish gid) s = .next t ∧ t.mem = s.mem
      ∧ ∀ k, grp t k = if gid = k then some (g.finished (kins g.tile m.acc (tmmaRun m bs lim (kget [] g.tile m.acc)).1) rest)
        else grp s k := by
  have hexec : exec (.batchFinish gid) s = execBatchFinish gid s := rfl
  rw [hexec, execBatchFinish, hg]
  dsimp only
  unfold batchFinishAt
  rw [hbs]
  dsimp only
  rw [hent, htm]
  exact ⟨_, _, rfl, rfl, fun k => by rw [grp_modItem, grp_setGrp]; rfl⟩

end Sys2Proof.Machine
end

section
/-! What TMMA, TBATCH, TWAIT and the engine leave. -/

namespace Sys2Proof.Machine

variable {s : State} {g g1 : Group}

/-- A TMMA without an executing lane has no effect (08 R163). -/
theorem exec_tmma_idle {f : TM} (hi : (tmmaMeaning f).form.Issues s g g1) (hpre : tmmaPre f ((tmmaMeaning f).form.ctx s g) = none)
    (hx : execLanes g .lanes = 0) :
    ∃ t h, exec (.tmma f) s = .next t ∧ grp t s.ctl.cur = some h ∧ Retired (tmmaMeaning f).form g h ∧ OnlyGroup s t
      ∧ g1.Carries h := by
  rw [exec_tmma]
  exact issue_nothing hi hpre (if_pos hx) (majOf_tmma f)

/-- A TMMA with executing lanes opens. -/
theorem exec_tmma_opens {f : TM} (hi : (tmmaMeaning f).form.Issues s g g1) (hpre : tmmaPre f ((tmmaMeaning f).form.ctx s g) = none)
    (hx : execLanes g .lanes ≠ 0) :
    ∃ t h k', exec (.tmma f) s = .next t ∧ grp t s.ctl.cur = some h ∧ Retired (tmmaMeaning f).form g h ∧ t.mem = s.mem
      ∧ t.run.items = s.run.items
      ∧ (k'.opened (tmmaOf f ((tmmaMeaning f).form.ctx s g))).Carries h
      ∧ (k' = g1 ∧ g1.opens.length < 64
        ∨ 64 ≤ g1.opens.length ∧ ∃ b q, k' = g1.closedInto b q ∧ b.tm = g1.opens ∧ b.entered = none) := by
  obtain ⟨-, -, -, hkin⟩ := rename_spec hi.names
  have hopens : g1.opens = g.opens := Group.field_of_kept hkin.kept Group.opens fun _ => rfl
  obtain ⟨v, k', hbody, hcur, hmem, hitems, hcase⟩ :=
    tmmaIssue_opens f ((tmmaMeaning f).form.ctx s g) (u := (tmmaMeaning f).form.begun s g g1) (grp_setGrp_self ..) hx hopens.symm
  have hk : k'.split = g.split ∧ k'.active = g.active := by
    rcases hcase with ⟨rfl, -⟩ | ⟨-, b, q, rfl, -, -⟩ <;> exact ⟨hkin.split, hkin.active⟩
  obtain ⟨t, h, hissue, hgrp, hret, hcar, hset⟩ := issue_done hi hpre hbody hcur hk.1 hk.2
  refine ⟨t, h, k', hissue, hgrp, hret, ?_, ?_, hcar, hcase⟩
  · rw [hset.mem, hmem, Form.begun, setGrp_mem, delayed_mem]
  · rw [hset.items, hitems, Form.begun, setGrp_items, delayed_run]

/-- TBATCH closes the open TMMAs and writes the number of the last batch. -/
theorem exec_tbatch_closes {f : TB} (hi : (tbatchMeaning f).form.Issues s g g1) :
    ∃ t h k', exec (.tbatch f) s = .next t ∧ grp t s.ctl.cur = some h ∧ Retired (tbatchMeaning f).form g h ∧ t.mem = s.mem
      ∧ (wrS k' f.x.toNat (BitVec.ofNat 64 k'.lastBatch)).Carries h ∧ k'.opens = []
      ∧ k'.lastBatch = (if g1.opens = [] then g1.lastBatch else nextBatch g1.lastBatch)
      ∧ (g1.opens = [] → k' = g1)
      ∧ (g1.opens ≠ [] →
        ∃ b q, k' = g1.closedInto b q ∧ b.num = nextBatch g1.lastBatch ∧ b.tm = g1.opens ∧ b.entered = none) := by
  obtain ⟨-, -, -, hkin⟩ := rename_spec hi.names
  obtain ⟨k', hgrp, hmem, hopens, hlast, hempty, hclosed⟩ :=
    closeBatch_last (u := (tbatchMeaning f).form.begun s g g1) (gid := s.ctl.cur) (grp_setGrp_self ..)
  have hk : k'.split = g.split ∧ k'.active = g.active := by
    by_cases he : g1.opens = []
    · rw [hempty he]; exact ⟨hkin.split, hkin.active⟩
    · obtain ⟨b, q, rfl, -⟩ := hclosed he; exact ⟨hkin.split, hkin.active⟩
  have hwr := wrS_kin k' f.x.toNat (BitVec.ofNat 64 k'.lastBatch)
  obtain ⟨t, h, hissue, hcur, hret, hcar, hset⟩ := issue_done (m := tbatchMeaning f) hi rfl rfl
    (by rw [grp_modGrp]; exact (if_pos rfl).trans (congrArg (Option.map _) hgrp)) (hwr.split.trans hk.1) (hwr.active.trans hk.2)
  refine ⟨t, h, k', hissue, hcur, hret, ?_, hcar, hopens, hlast, hempty, hclosed⟩
  rw [hset.mem, modGrp_mem]
  exact hmem.trans (by rw [Form.begun, setGrp_mem, delayed_mem])

end Sys2Proof.Machine

namespace Sys2Proof
open Machine

/-- Settles O38: TMMA through `exec_tmma_idle` and `exec_tmma_opens`, TBATCH through `closeBatch_last`, the engine through
`exec_batchEnter`, `exec_batchFinish` and the elements of `tmmaRun_at`. -/
theorem batchesOpenCloseAndRun : Obligations.BatchesOpenCloseAndRun := by
  unfold Obligations.BatchesOpenCloseAndRun
  refine ⟨⟨?tmma, ?tbatch, ?twait⟩, ?enter, ?finish⟩
  case tmma =>
    intro f s g g1 F x hi hpre
    obtain ⟨-, -, -, hkin⟩ := rename_spec hi.names
    have hfield {α : Type} (p : Group → α) (hp : ∀ k : Group, p k.kept = p k) : p g1 = p g :=
      Group.field_of_kept hkin.kept p hp
    by_cases hx : x = 0
    · obtain ⟨t, h, hexec, hcur, hret, honly, hcar⟩ := exec_tmma_idle hi hpre hx
      obtain ⟨hv, hs, hp, hf⟩ := kept_of_carries hi.names rfl rfl rfl rfl rfl hcar
      have hkept : h.kept = g.kept := hcar.kept.trans hkin.kept
      exact ⟨t, h, hexec, hcur, hret, hv, hs, hp, hf, Group.field_of_kept hkept Group.tile fun _ => rfl, honly.2,
        honly.items, fun _ => ⟨hkept, honly⟩, fun hne => absurd hx hne⟩
    · obtain ⟨t, h, k', hexec, hcur, hret, hmem, hitems, hcar, hcase⟩ := exec_tmma_opens hi hpre hx
      have hk : k'.v = g1.v ∧ k'.s = g1.s ∧ k'.p = g1.p ∧ k'.fpflags = g1.fpflags ∧ k'.satf = g1.satf ∧ k'.tile = g1.tile := by
        rcases hcase with ⟨rfl, -⟩ | ⟨-, b, q, rfl, -, -⟩ <;> exact ⟨rfl, rfl, rfl, rfl, rfl, rfl⟩
      obtain ⟨hkv, hks, hkp, hkf, hkt, htile⟩ := hk
      obtain ⟨hv, hs, hp, hf⟩ := kept_of_carries (k := k'.opened _) hi.names hkv hks hkp hkf hkt hcar
      refine ⟨t, h, hexec, hcur, hret, hv, hs, hp, hf, ?_, hmem, hitems, fun he => absurd he hx, fun _ => ?_⟩
      · exact (hcar.field Group.tile fun _ => rfl).trans (htile.trans (hfield Group.tile fun _ => rfl))
      · obtain ⟨hacc, hshape, hrows, hword, hb, ha, hlen⟩ := tmmaOf_captures hx hpre
        refine ⟨tmmaOf f (F.ctx s g), hacc, hshape, hrows, hword, hb, ha, hlen, ?_⟩
        have hopens : g1.opens = g.opens := hfield Group.opens fun _ => rfl
        have hbatches : g1.batches = g.batches := hfield Group.batches fun _ => rfl
        have hho := hcar.field Group.opens fun _ => rfl
        have hhb := hcar.field Group.batches fun _ => rfl
        rw [hopens] at hcase
        rcases hcase with ⟨rfl, hfew⟩ | ⟨hfull, b, q, rfl, htm, hent⟩
        · rw [if_pos hfew]
          exact ⟨hho.trans (congrArg (· ++ _) hopens), hhb.trans hbatches⟩
        · rw [if_neg (by omega)]
          exact ⟨hho, b, hhb.trans (congrArg (· ++ _) hbatches), htm, hent⟩
  case tbatch =>
    intro f s g g1 F hi n
    obtain ⟨hv1, hs1, hp1, hkin⟩ := rename_spec hi.names
    have hfield {α : Type} (p : Group → α) (hp : ∀ k : Group, p k.kept = p k) : p g1 = p g :=
      Group.field_of_kept hkin.kept p hp
    have hopens : g1.opens = g.opens := hfield Group.opens fun _ => rfl
    have hlast : g1.lastBatch = g.lastBatch := hfield Group.lastBatch fun _ => rfl
    have hbatches : g1.batches = g.batches := hfield Group.batches fun _ => rfl
    obtain ⟨t, h, k', hexec, hcur, hret, hmem, hcar, hko, hkl, hkempty, hkclosed⟩ := exec_tbatch_closes hi
    rw [hopens, hlast] at hkl
    rw [hopens] at hkempty hkclosed
    rw [hlast] at hkclosed
    have hk : k'.v = g1.v ∧ k'.s = g1.s ∧ k'.p = g1.p ∧ k'.fpflags = g1.fpflags ∧ k'.satf = g1.satf ∧ k'.tile = g1.tile := by
      by_cases he : g.opens = []
      · rw [hkempty he]; exact ⟨rfl, rfl, rfl, rfl, rfl, rfl⟩
      · obtain ⟨b, q, rfl, -⟩ := hkclosed he; exact ⟨rfl, rfl, rfl, rfl, rfl, rfl⟩
    obtain ⟨hkv, hks, hkp, hkf, hkt, htile⟩ := hk
    have hn : k'.lastBatch = n := hkl
    have hkeep {α : Type} (p : Group → α) (hp : ∀ k : Group, p k.kept = p k) : p h = p k' := by
      rw [hcar.field p hp, ← hp (wrS k' _ _), wrS_kept, hp]
    refine ⟨t, h, hexec, hcur, hret, (hkeep Group.opens fun _ => rfl).trans hko, (hkeep Group.lastBatch fun _ => rfl).trans hn,
      fun x => ?_, fun he => ?_, fun hne => ?_, fun x l => ?_, fun x => ?_, ⟨?_, ?_⟩, ?_, hmem⟩
    · rw [rdS_congr hcar.s, rdS_wrS, hn, rdS_congr hks, hs1, keptS_noKills rfl]
      by_cases hx : x = f.x.toNat
      · rw [hx]
      · simp only [hx, false_and]
    · rw [hkeep Group.batches fun _ => rfl, hkempty he, hbatches]
    · obtain ⟨b, q, hb, hnum, htm, hent⟩ := hkclosed hne
      refine ⟨b, ?_, ?_, htm, hent⟩
      · rw [hkeep Group.batches fun _ => rfl, hb]
        exact congrArg (· ++ [b]) hbatches
      · rw [← hn, hb]; rfl
    · rw [rdVl_congr (hcar.v.trans ((wrS_v ..).trans hkv)), hv1, keptV_noKills rfl, keptV_noKills rfl]
    · exact rdP_congr ((hcar.p.trans (wrS_p ..)).trans (hkp.trans hp1)) x
    · exact hcar.flags.trans ((wrS_fpflags ..).trans (hkf.trans hkin.flags))
    · exact hcar.satf.trans ((wrS_satf ..).trans (hkt.trans hkin.satf))
    · exact (hkeep Group.tile fun _ => rfl).trans (htile.trans (hfield Group.tile fun _ => rfl))
  case twait =>
    intro f s g g1 F hi wait
    refine ⟨fun hgo => ?_, fun hwait => ?_⟩
    · obtain ⟨-, -, -, hkin⟩ := rename_spec hi.names
      obtain ⟨t, h, hexec, hcur, hret, honly, hcar⟩ := issue_nothing (m := twaitMeaning f) hi rfl
        (if_neg fun h => Bool.false_ne_true (hgo.symm.trans h)) (majOf_twait f)
      obtain ⟨hv, hs, hp, hf⟩ := kept_of_carries hi.names rfl rfl rfl rfl rfl hcar
      refine ⟨t, h, hexec, hcur, hret, honly, fun x l => ?_, fun x => ?_, hp, hf, hcar.kept.trans hkin.kept⟩
      · rw [hv, keptV_noKills rfl, keptV_noKills rfl]
      · rw [hs, keptS_noKills rfl, keptS_noKills rfl]
    · have hbody : (twaitMeaning f).body ((twaitMeaning f).form.ctx s g) ((twaitMeaning f).form.begun s g g1) = .wait .batch :=
        if_pos hwait
      rw [exec_twait, Form.Issues.issue_eq (m := twaitMeaning f) hi rfl, hbody]
      rfl
  case enter =>
    intro s gid g pre post b hg hbs hpre hb w
    exact exec_batchEnter hg hbs hpre hb
  case finish =>
    intro s gid g b rest m bs hg hbs htm hent kk kb byte
    obtain ⟨t, lim, hexec, hmem, hgrp⟩ := exec_batchFinish hg hbs htm hent
    refine ⟨t, _, hexec, (hgrp gid).trans (if_pos rfl), rfl, rfl, rfl, rfl, rfl, rfl, hmem,
      fun k hk => (hgrp k).trans (if_neg (Ne.symm hk)), fun a ha r j => ?_, fun r j hr hj => ?_⟩
    · rw [rdTile, Group.finished, kget_kins, if_neg (Ne.symm ha), rdTile]
    · have htile (lim : Limits) : rdTile (g.finished (kins g.tile m.acc (tmmaRun m bs lim (kget [] g.tile m.acc)).1) rest) m.acc r j
          = laneOf 0 (tmmaRun m bs lim (kget [] g.tile m.acc)).1 (64 * r + j) := by
        rw [rdTile, Group.finished, kget_kins, if_pos rfl]
      intro on
      have hon : (Mask.has m.rows r && decide (r < (tmmaShape m.word.toNat m.shape).1)
          && decide (j < (tmmaShape m.word.toNat m.shape).2.1)) = true ↔ on := by
        simp only [on, Bool.and_eq_true, decide_eq_true_eq, and_assoc]
      rw [htile, tmmaRun_at m bs lim _ hr hj]
      refine ⟨fun h => if_neg fun h' => h (hon.1 h'), fun h hw => ?_, fun h hacc => ?_⟩
      · rw [if_pos (hon.2 h), tmmaElem_int m bs lim hw, accInt_eq hw]
        rfl
      · rw [if_pos (hon.2 h), tmmaElem_fp m bs lim hacc, accFp_eq]
        rfl

end Sys2Proof
end

section
/-! Rounding to an integer number of units, and into a set that is a grid of such units near the number (05 R97). -/

namespace Sys2Proof.Machine

/-! ### Rounding to a natural number -/

/-- n is t ≥ 0 rounded to an integer in a direction of 05 R97. -/
def RoundsNat (rm : Rm) (t : ℝ) (n : ℕ) : Prop :=
  match rm with
  | .rne => |t - n| ≤ 1 / 2 ∧ (|t - n| = 1 / 2 → n % 2 = 0)
  | .rtz => (n : ℝ) ≤ t ∧ t < n + 1
  | .rdn => (n : ℝ) ≤ t ∧ t < n + 1
  | .rup => t ≤ n ∧ (n : ℝ) < t + 1

/-- The direction for the magnitude of a number of the given sign. -/
def Rm.onMagnitude (rm : Rm) (neg : Bool) : Rm :=
  match rm with
  | .rne => .rne
  | .rtz => .rtz
  | .rdn => if neg then .rup else .rdn
  | .rup => if neg then .rdn else .rup

theorem roundsNat_self (rm : Rm) (n : ℕ) : RoundsNat rm n n := by
  cases rm <;> simp [RoundsNat]

/-- A natural number is its own rounding. -/
theorem RoundsNat.eq_of_natCast {rm : Rm} {k n : ℕ} (h : RoundsNat rm k n) : n = k := by
  cases rm with
  | rne =>
    obtain ⟨habs, -⟩ := h
    rw [abs_le] at habs
    have h1 : (n : ℝ) < k + 1 := by linarith
    have h2 : (k : ℝ) < n + 1 := by linarith
    norm_cast at h1 h2
    omega
  | rtz | rdn | rup =>
    obtain ⟨h1, h2⟩ := h
    norm_cast at h1 h2
    omega

/-- The direction takes lo + φ, φ a fraction, up. -/
def Rm.TakesUp (rm : Rm) (lo : ℕ) (φ : ℝ) : Prop :=
  match rm with
  | .rne => 1 / 2 < φ ∨ φ = 1 / 2 ∧ lo % 2 = 1
  | .rtz => False
  | .rdn => False
  | .rup => 0 < φ

/-- Rounding lo + φ for a fraction φ: up or down as the direction says. -/
theorem roundsNat_frac {rm : Rm} {lo : ℕ} {φ : ℝ} {up : Bool} (h0 : 0 ≤ φ) (h1 : φ < 1)
    (hup : up = true ↔ rm.TakesUp lo φ) : RoundsNat rm (lo + φ) (if up then lo + 1 else lo) := by
  cases rm with
  | rne =>
    cases up with
    | false =>
      have hle : φ ≤ 1 / 2 := by
        by_contra hlt
        exact absurd (hup.2 (.inl (not_le.1 hlt))) Bool.false_ne_true
      have habs : |((lo : ℝ) + φ) - lo| = φ := by rw [add_sub_cancel_left, abs_of_nonneg h0]
      simp only [RoundsNat, Bool.false_eq_true, if_false, habs]
      refine ⟨hle, fun hφ => ?_⟩
      have hodd : ¬ lo % 2 = 1 := fun hodd => absurd (hup.2 (.inr ⟨hφ, hodd⟩)) Bool.false_ne_true
      omega
    | true =>
      have hge : 1 / 2 ≤ φ := by
        rcases hup.1 rfl with h | ⟨h, -⟩
        · exact h.le
        · exact h.ge
      have habs : |((lo : ℝ) + φ) - ((lo + 1 : ℕ) : ℝ)| = 1 - φ := by
        rw [Nat.cast_add, Nat.cast_one, add_sub_add_left_eq_sub, abs_sub_comm, abs_of_nonneg (by linarith)]
      refine ⟨by simp only [if_true, habs]; linarith, fun he => ?_⟩
      simp only [if_true, habs] at he ⊢
      rcases hup.1 rfl with h | ⟨-, h⟩
      · linarith
      · omega
  | rtz | rdn =>
    have hlow : up = false := by simpa [Rm.TakesUp] using hup
    subst hlow
    exact ⟨by simpa using h0, by simpa using h1⟩
  | rup =>
    cases up with
    | false =>
      have hz : φ = 0 := le_antisymm (not_lt.1 fun h => absurd (hup.2 h) Bool.false_ne_true) h0
      subst hz
      exact ⟨by simp, by simp⟩
    | true =>
      have hpos : 0 < φ := hup.1 rfl
      refine ⟨?_, ?_⟩ <;> simp only [if_true, Nat.cast_add, Nat.cast_one] <;> linarith

/-- m * 2^e is a with the bits below its last unit cut off; `sticky` says that some were set. -/
structure Truncates (a : ℝ) (m : ℕ) (e : ℤ) (sticky : Bool) : Prop where
  le : (m : ℝ) * 2 ^ e ≤ a
  lt : a < (m + 1) * 2 ^ e
  exact : sticky = false ↔ a = m * 2 ^ e

/-- A natural number and a fraction against a natural number. -/
theorem lt_add_frac_iff {r h : ℕ} {δ : ℝ} (h0 : 0 ≤ δ) (h1 : δ < 1) : (h : ℝ) < r + δ ↔ h < r ∨ r = h ∧ 0 < δ := by
  rcases lt_trichotomy h r with hr | hr | hr
  · have hr' : (h : ℝ) < r := by exact_mod_cast hr
    simp only [hr, true_or, iff_true]
    linarith
  · subst hr; simp
  · have hr' : (r : ℝ) + 1 ≤ h := by exact_mod_cast hr
    simp only [hr.not_gt, hr.ne, false_and, or_false, iff_false, not_lt]
    linarith

theorem add_frac_eq_iff {r h : ℕ} {δ : ℝ} (h0 : 0 ≤ δ) (h1 : δ < 1) : (r : ℝ) + δ = h ↔ r = h ∧ δ = 0 := by
  constructor
  · intro he
    have hle : r ≤ h := by exact_mod_cast (by linarith : (r : ℝ) ≤ h)
    have hge : h < r + 1 := by exact_mod_cast (by linarith : (h : ℝ) < r + 1)
    have hr : r = h := by omega
    subst hr
    exact ⟨rfl, by linarith⟩
  · rintro ⟨rfl, rfl⟩
    rw [add_zero]

section
variable {rem k : ℕ} {δ : ℝ} (h0 : 0 ≤ δ) (h1 : δ < 1)
include h0 h1

theorem half_lt_frac_iff : 1 / 2 < (rem + δ) / 2 ^ (k + 1) ↔ 2 ^ k < rem ∨ rem = 2 ^ k ∧ 0 < δ := by
  rw [lt_div_iff₀ (by positivity), pow_succ', ← lt_add_frac_iff h0 h1]
  push_cast
  constructor <;> intro h <;> linarith

theorem frac_eq_half_iff : (rem + δ) / 2 ^ (k + 1) = 1 / 2 ↔ rem = 2 ^ k ∧ δ = 0 := by
  rw [div_eq_iff (by positivity), pow_succ', ← add_frac_eq_iff h0 h1]
  push_cast
  constructor <;> intro h <;> linarith

theorem frac_pos_iff : 0 < (rem + δ) / 2 ^ (k + 1) ↔ rem ≠ 0 ∨ 0 < δ := by
  have h := lt_add_frac_iff (r := rem) (h := 0) h0 h1
  rw [Nat.cast_zero] at h
  rw [lt_div_iff₀ (by positivity), zero_mul, h, Nat.pos_iff_ne_zero]
  by_cases hr : rem = 0 <;> simp [hr]

end

/-! ### The model's rounding to an integer -/

/-- The model's choice to round up. -/
def roundsUp (rm : Rm) (neg : Bool) (lo rem half : Nat) (sticky : Bool) : Bool :=
  match rm with
  | .rne => decide (half < rem) || (rem == half && (sticky || lo % 2 == 1))
  | .rtz => false
  | .rdn => neg && (!(rem == 0) || sticky)
  | .rup => !neg && (!(rem == 0) || sticky)

theorem roundInt_of_le {rm : Rm} {neg : Bool} {m : Nat} {e q : ℤ} {s : Bool} (h : q ≤ e) :
    roundInt rm neg m e q s = (m * 2 ^ (e - q).toNat, s) := if_pos h

theorem roundInt_of_lt {rm : Rm} {neg : Bool} {m k : Nat} {e q : ℤ} {s : Bool} (h : (q - e).toNat = k + 1) :
    roundInt rm neg m e q s = (if roundsUp rm neg (m / 2 ^ (k + 1)) (m % 2 ^ (k + 1)) (2 ^ k) s then m / 2 ^ (k + 1) + 1
      else m / 2 ^ (k + 1), !(m % 2 ^ (k + 1) == 0) || s) := by
  unfold roundInt
  rw [if_neg (by omega), h]
  cases rm <;> rfl

/-- The model rounds up where the direction does, for the magnitude with its fraction. -/
theorem roundsUp_iff {rm : Rm} {neg : Bool} {lo rem k : ℕ} {s : Bool} {δ : ℝ} (h0 : 0 ≤ δ) (h1 : δ < 1)
    (hs : s = true ↔ 0 < δ) :
    roundsUp rm neg lo rem (2 ^ k) s = true ↔ (rm.onMagnitude neg).TakesUp lo ((rem + δ) / 2 ^ (k + 1)) := by
  have hpos : (!(rem == 0) || s) = true ↔ 0 < (rem + δ) / 2 ^ (k + 1) := by
    rw [frac_pos_iff h0 h1, Bool.or_eq_true, hs, Bool.not_eq_true', beq_eq_false_iff_ne]
  cases rm with
  | rne =>
    have hs0 : δ = 0 ↔ s = false := by
      rw [← Bool.not_eq_true, hs, not_lt]
      exact ⟨le_of_eq, fun h => le_antisymm h h0⟩
    simp only [roundsUp, Rm.onMagnitude, Rm.TakesUp, half_lt_frac_iff h0 h1, frac_eq_half_iff h0 h1, ← hs, hs0,
      Bool.or_eq_true, Bool.and_eq_true, decide_eq_true_eq, beq_iff_eq]
    cases s <;> simp
  | rtz => exact ⟨fun h => absurd h Bool.false_ne_true, False.elim⟩
  | rdn =>
    cases neg with
    | true => exact hpos
    | false => exact ⟨fun h => absurd h Bool.false_ne_true, False.elim⟩
  | rup =>
    cases neg with
    | true => exact ⟨fun h => absurd h Bool.false_ne_true, False.elim⟩
    | false => exact hpos

theorem two_zpow_pos (e : ℤ) : (0 : ℝ) < 2 ^ e := zpow_pos (by norm_num) e

section
variable {rm : Rm} {neg : Bool} {m : ℕ} {e q : ℤ} {s : Bool} {a : ℝ} (ha : Truncates a m e s)
include ha

/-- A number whose last unit is a multiple of the rounding's unit is exact. -/
theorem roundInt_spec_of_le (hs : s = false) (hqe : q ≤ e) :
    RoundsNat (rm.onMagnitude neg) (a / 2 ^ q) (roundInt rm neg m e q s).1
      ∧ ((roundInt rm neg m e q s).2 = false ↔ a = (roundInt rm neg m e q s).1 * 2 ^ q) := by
  have hpow : ((2 : ℝ) ^ (e - q).toNat) * 2 ^ q = 2 ^ e := by
    rw [← zpow_natCast, Int.toNat_of_nonneg (by omega), ← zpow_add₀ (by norm_num)]
    congr 1; omega
  have hval : a = ((m * 2 ^ (e - q).toNat : ℕ) : ℝ) * 2 ^ q := by
    rw [ha.exact.1 hs, Nat.cast_mul, Nat.cast_pow, Nat.cast_ofNat, mul_assoc, hpow]
  rw [roundInt_of_le hqe, (div_eq_iff (two_zpow_pos q).ne').2 hval]
  exact ⟨roundsNat_self _ _, iff_of_true hs hval⟩

/-- A truncated number in units of 2^q: whole units, a rest, and a fraction of the last bit. -/
theorem Truncates.units {k : ℕ} (hk : q = e + (k + 1 : ℕ)) : ∃ δ : ℝ, 0 ≤ δ ∧ δ < 1 ∧ (s = true ↔ 0 < δ)
    ∧ a / 2 ^ q = (m / 2 ^ (k + 1) : ℕ) + ((m % 2 ^ (k + 1) : ℕ) + δ) / 2 ^ (k + 1) := by
  obtain ⟨hle, hlt, hexact⟩ := ha
  have he := two_zpow_pos e
  have hm : (m : ℝ) = (m / 2 ^ (k + 1) : ℕ) * 2 ^ (k + 1) + (m % 2 ^ (k + 1) : ℕ) := by
    exact_mod_cast (Nat.div_add_mod' m (2 ^ (k + 1))).symm
  have h0 : 0 ≤ a / 2 ^ e - m := by rw [sub_nonneg, le_div_iff₀ he]; exact hle
  refine ⟨a / 2 ^ e - m, h0, by rw [sub_lt_iff_lt_add', div_lt_iff₀ he]; exact hlt, ?_, ?_⟩
  · rw [← Bool.not_eq_false, hexact, ← div_eq_iff he.ne', ← sub_eq_zero]
    exact ⟨fun h => lt_of_le_of_ne h0 (Ne.symm h), fun h => h.ne'⟩
  · rw [hk, zpow_add₀ (by norm_num), zpow_natCast]
    field_simp
    linear_combination (2 : ℝ) ^ e * hm

/-- The integer rounding of the model, on a number given with its sticky bit. -/
theorem roundInt_spec (hq : s = true → e < q) :
    RoundsNat (rm.onMagnitude neg) (a / 2 ^ q) (roundInt rm neg m e q s).1
      ∧ ((roundInt rm neg m e q s).2 = false ↔ a = (roundInt rm neg m e q s).1 * 2 ^ q) := by
  by_cases hqe : q ≤ e
  · have hs : s = false := Bool.eq_false_iff.2 fun h => absurd (hq h) hqe.not_gt
    exact roundInt_spec_of_le ha hs hqe
  · obtain ⟨k, hk⟩ : ∃ k, (q - e).toNat = k + 1 := ⟨(q - e).toNat - 1, by omega⟩
    obtain ⟨δ, h0, h1, hs, hsplit⟩ := ha.units (q := q) (k := k) (by omega)
    have hφ0 : 0 ≤ ((m % 2 ^ (k + 1) : ℕ) + δ) / 2 ^ (k + 1) := by positivity
    have hφ1 : ((m % 2 ^ (k + 1) : ℕ) + δ) / 2 ^ (k + 1) < 1 := by
      have hrem : ((m % 2 ^ (k + 1) : ℕ) : ℝ) + 1 ≤ 2 ^ (k + 1) := by
        exact_mod_cast Nat.succ_le_of_lt (Nat.mod_lt m (by positivity : 0 < 2 ^ (k + 1)))
      rw [div_lt_one (by positivity)]
      linarith
    have hround := roundsNat_frac hφ0 hφ1 (roundsUp_iff (rm := rm) (neg := neg) (lo := m / 2 ^ (k + 1)) h0 h1 hs)
    rw [roundInt_of_lt hk]
    dsimp only
    refine ⟨by rw [hsplit]; exact hround, ?_⟩
    rw [← div_eq_iff (two_zpow_pos q).ne', hsplit, ← Bool.not_eq_true, Bool.or_eq_true, Bool.not_eq_true',
      beq_eq_false_iff_ne, hs, ← frac_pos_iff (k := k) h0 h1, not_lt]
    constructor
    · intro h
      rw [le_antisymm h hφ0, add_zero] at hround ⊢
      exact (congrArg Nat.cast hround.eq_of_natCast).symm
    · exact fun h => ((add_frac_eq_iff hφ0 hφ1).1 h).2.le

end

end Sys2Proof.Machine
end

section
/-! Rounding into a set of numbers that is a grid near the number (05 R97). -/

namespace Sys2Proof.Machine

/-! ### From an integer number of units to a set -/

/-- Near t units the set holds multiples of the unit only. -/
def GridNear (S : ℝ → Prop) (lo : ℕ) (unit : ℝ) : Prop := ∀ z, S z → (∃ k : ℤ, z = k * unit) ∨ z < lo * unit

/-- The members at most t units are at most its whole part. -/
theorem GridNear.le_floor {S : ℝ → Prop} {unit t z : ℝ} {lo n : ℕ} (hgrid : GridNear S lo unit) (hu : 0 < unit)
    (hlo : (lo : ℝ) ≤ t) (hlt : t < n + 1) (hz : S z) (hzt : z ≤ t * unit) : z ≤ n * unit := by
  rcases hgrid z hz with ⟨k, rfl⟩ | hsmall
  · have hk : (k : ℝ) < n + 1 := lt_of_le_of_lt (le_of_mul_le_mul_right hzt hu) hlt
    have hkn : k ≤ n := by norm_cast at hk; omega
    exact mul_le_mul_of_nonneg_right (by exact_mod_cast hkn) hu.le
  · have hk : (lo : ℝ) < n + 1 := lt_of_le_of_lt hlo hlt
    have hln : (lo : ℝ) ≤ n := by norm_cast at hk ⊢; omega
    exact hsmall.le.trans (mul_le_mul_of_nonneg_right hln hu.le)

section
variable {t : ℝ} {n : ℕ} (hn : RoundsNat .rne t n)
include hn

/-- No integer is nearer than the nearest one. -/
theorem RoundsNat.nearest {k : ℤ} (hk : k ≠ n) : 1 / 2 ≤ |t - k| ∧ (|t - k| = 1 / 2 → |t - n| = 1 / 2) := by
  have h1 : (1 : ℝ) ≤ |(k : ℝ) - n| := by exact_mod_cast Int.one_le_abs (sub_ne_zero.2 hk)
  have h2 : |(k : ℝ) - n| ≤ |t - k| + |t - n| := by
    rw [abs_sub_comm t k]
    exact abs_sub_le (k : ℝ) t n
  have h3 := hn.1
  exact ⟨by linarith, fun h => by linarith⟩

/-- The nearest integer is at least as near as any below. -/
theorem RoundsNat.nearest_le {lo : ℕ} (hlo : (lo : ℝ) ≤ t) : |t - n| ≤ t - lo := by
  by_cases hk : lo = n
  · rw [hk, abs_of_nonneg (by rw [← hk]; linarith)]
  · have hfar := (hn.nearest (k := lo) (by exact_mod_cast hk)).1
    rw [Int.cast_natCast, abs_of_nonneg (by linarith : 0 ≤ t - (lo : ℝ))] at hfar
    exact hn.1.trans hfar

end

/-- Rounding to a whole number of units is rounding into a set that holds only multiples of the unit from lo units on. -/
theorem RoundsNat.roundsInto {S E : ℝ → Prop} {rm : Rm} {t unit : ℝ} {lo n : ℕ} (hn : RoundsNat rm t n) (hu : 0 < unit)
    (hlo : (lo : ℝ) ≤ t) (hS : S (n * unit)) (hE : n % 2 = 0 → E (n * unit)) (hgrid : GridNear S lo unit) :
    RoundsInto S E rm (t * unit) (n * unit) := by
  refine ⟨hS, ?_⟩
  have ht : 0 ≤ t := le_trans (Nat.cast_nonneg lo) hlo
  cases rm with
  | rne =>
    have habs (r : ℝ) : |t * unit - r * unit| = |t - r| * unit := by rw [← sub_mul, abs_mul, abs_of_pos hu]
    have hhalf := hn.1
    intro z hz
    rw [habs]
    rcases hgrid z hz with ⟨k, rfl⟩ | hsmall
    · rw [habs, mul_le_mul_iff_left₀ hu, mul_left_inj' hu.ne']
      by_cases hk : k = n
      · subst hk
        exact ⟨by rw [Int.cast_natCast], fun _ => .inl (by rw [Int.cast_natCast])⟩
      · obtain ⟨hge, htwo⟩ := hn.nearest hk
        exact ⟨hhalf.trans hge, fun heq => .inr (hE (hn.2 (htwo (by linarith))))⟩
    · have hstrict : |t - n| * unit < |t * unit - z| := by
        have hlow := mul_le_mul_of_nonneg_right (hn.nearest_le hlo) hu.le
        rw [sub_mul] at hlow
        exact lt_of_lt_of_le (by linarith) (le_abs_self _)
      exact ⟨hstrict.le, fun h => absurd h hstrict.ne⟩
  | rtz =>
    obtain ⟨hle, hlt⟩ := hn
    have hpos : (0 : ℝ) ≤ n * unit := by positivity
    have hx : 0 ≤ t * unit := mul_nonneg ht hu.le
    rw [abs_of_nonneg hpos, abs_of_nonneg hx]
    refine ⟨mul_nonneg hx hpos, mul_le_mul_of_nonneg_right hle hu.le, fun z hz hsign hmag => ?_⟩
    rcases hx.eq_or_lt with hx0 | hxpos
    · rw [← hx0] at hmag
      exact hmag.trans hpos
    · have hz0 : 0 ≤ z := nonneg_of_mul_nonneg_right hsign hxpos
      rw [abs_of_nonneg hz0] at hmag ⊢
      exact hgrid.le_floor hu hlo hlt hz hmag
  | rdn =>
    obtain ⟨hle, hlt⟩ := hn
    exact ⟨mul_le_mul_of_nonneg_right hle hu.le, fun z hz hzx => hgrid.le_floor hu hlo hlt hz hzx⟩
  | rup =>
    obtain ⟨hle, hlt⟩ := hn
    refine ⟨by nlinarith, fun z hz hzx => ?_⟩
    rcases hgrid z hz with ⟨k, rfl⟩ | hsmall
    · have hk : (n : ℝ) < k + 1 := by nlinarith
      have : n ≤ k := by norm_cast at hk; omega
      have : (n : ℝ) ≤ k := by exact_mod_cast this
      nlinarith
    · nlinarith

/-! ### Signs -/

/-- Rounding a negative number is rounding its magnitude in the direction turned round. -/
theorem RoundsInto.neg {S E : ℝ → Prop} {rm : Rm} {x y : ℝ} (hS : ∀ z, S z → S (-z)) (hE : ∀ z, E z → E (-z))
    (h : RoundsInto S E (rm.onMagnitude true) x y) : RoundsInto S E rm (-x) (-y) := by
  obtain ⟨hy, h⟩ := h
  refine ⟨hS y hy, ?_⟩
  cases rm with
  | rne =>
    intro z hz
    obtain ⟨hle, htie⟩ := h (-z) (hS z hz)
    have hz' : |-x - z| = |x - -z| := by rw [← abs_neg]; ring_nf
    have hy' : |-x - -y| = |x - y| := by rw [← abs_neg]; ring_nf
    rw [hz', hy']
    exact ⟨hle, fun he => (htie he).imp (fun hzy => by rw [← hzy, neg_neg]) (hE y)⟩
  | rtz =>
    obtain ⟨hsign, hle, hmax⟩ := h
    rw [abs_neg, abs_neg, neg_mul_neg]
    refine ⟨hsign, hle, fun z hz hs hm => ?_⟩
    simpa using hmax (-z) (hS z hz) (by linarith) (by simpa using hm)
  | rdn =>
    obtain ⟨hle, hmin⟩ := h
    exact ⟨neg_le_neg hle, fun z hz hzx => le_neg_of_le_neg (hmin (-z) (hS z hz) (le_neg_of_le_neg hzx))⟩
  | rup =>
    obtain ⟨hle, hmax⟩ := h
    exact ⟨neg_le_neg hle, fun z hz hzx => neg_le_of_neg_le (hmax (-z) (hS z hz) (neg_le_of_neg_le hzx))⟩

/-- A magnitude with a sign. -/
def signed (neg : Bool) (a : ℝ) : ℝ := if neg then -a else a

@[simp] theorem signed_true (a : ℝ) : signed true a = -a := rfl
@[simp] theorem signed_false (a : ℝ) : signed false a = a := rfl
@[simp] theorem abs_signed (neg : Bool) (a : ℝ) : |signed neg a| = |a| := by cases neg <;> simp

theorem signed_inj {neg : Bool} {a b : ℝ} : signed neg a = signed neg b ↔ a = b := by cases neg <;> simp

/-- A number whose magnitude is rounded is rounded. -/
theorem RoundsInto.signed {S E : ℝ → Prop} {rm : Rm} {neg : Bool} {x y : ℝ} (hS : ∀ z, S z → S (-z))
    (hE : ∀ z, E z → E (-z)) (h : RoundsInto S E (rm.onMagnitude neg) x y) :
    RoundsInto S E rm (signed neg x) (signed neg y) := by
  cases neg with
  | true => exact h.neg hS hE
  | false => cases rm <;> exact h

/-! ### The grids of 05 R97 -/

theorem Significant.neg {p : Nat} {z : ℝ} (h : Significant p z) : Significant p (-z) := by
  obtain ⟨m, e, hm, rfl⟩ := h
  exact ⟨-m, e, by rwa [abs_neg], by push_cast; ring⟩

theorem OnGrid.neg {p : Nat} {q : ℤ} {z : ℝ} (h : OnGrid p q z) : OnGrid p q (-z) := by
  obtain ⟨m, e, hm, he, rfl⟩ := h
  exact ⟨-m, e, by rwa [abs_neg], he, by push_cast; ring⟩

theorem OnGrid.significant {p : Nat} {q : ℤ} {z : ℝ} (h : OnGrid p q z) : Significant p z := by
  obtain ⟨m, e, hm, -, rfl⟩ := h
  exact ⟨m, e, hm, rfl⟩

theorem OnGrid.mono {p : Nat} {q r : ℤ} {z : ℝ} (h : OnGrid p q z) (hr : r ≤ q) : OnGrid p r z := by
  obtain ⟨m, e, hm, he, rfl⟩ := h
  exact ⟨m, e, hm, hr.trans he, rfl⟩

theorem WholeEven.neg {z : ℝ} (h : WholeEven z) : WholeEven (-z) := by
  obtain ⟨k, rfl⟩ := h
  exact ⟨-k, by push_cast; ring⟩

theorem Whole.neg {z : ℝ} (h : Whole z) : Whole (-z) := by
  obtain ⟨k, rfl⟩ := h
  exact ⟨-k, by push_cast; ring⟩

/-- A number scaled by a power of two is a multiple of a smaller one. -/
theorem exists_int_mul_zpow (m : ℤ) {e q : ℤ} (h : q ≤ e) : ∃ k : ℤ, (m : ℝ) * 2 ^ e = k * 2 ^ q := by
  refine ⟨m * 2 ^ (e - q).toNat, ?_⟩
  have he : e = ((e - q).toNat : ℤ) + q := by omega
  conv_lhs => rw [he, zpow_add₀ (by norm_num), zpow_natCast]
  push_cast
  ring

/-- From 2^p units on, the numbers of p + 1 significant bits are multiples of the unit. -/
theorem gridNear_significant (p : Nat) (q : ℤ) : GridNear (Significant (p + 1)) (2 ^ p) (2 ^ q) := by
  rintro z ⟨m, e, hm, rfl⟩
  by_cases hq : q ≤ e
  · exact .inl (exists_int_mul_zpow m hq)
  · refine .inr ?_
    have hm' : (m : ℝ) < 2 ^ (p + 1) := by exact_mod_cast (le_abs_self m).trans_lt hm
    calc (m : ℝ) * 2 ^ e < 2 ^ (p + 1) * 2 ^ e := mul_lt_mul_of_pos_right hm' (two_zpow_pos e)
      _ ≤ 2 ^ (p + 1) * 2 ^ (q - 1) :=
        mul_le_mul_of_nonneg_left (zpow_le_zpow_right₀ (by norm_num) (by omega)) (by positivity)
      _ = (2 ^ p : ℕ) * 2 ^ q := by
        rw [zpow_sub_one₀ (by norm_num)]
        push_cast
        ring

theorem gridNear_onGrid (p : Nat) {q r : ℤ} : GridNear (OnGrid (p + 1) r) (2 ^ p) (2 ^ q) :=
  fun z hz => gridNear_significant p q z hz.significant

/-- At its quantum a grid holds multiples only. -/
theorem gridNear_quantum (p : Nat) (q : ℤ) : GridNear (OnGrid p q) 0 (2 ^ q) := by
  rintro z ⟨m, e, -, he, rfl⟩
  exact .inl (exists_int_mul_zpow m he)

theorem gridNear_whole : GridNear Whole 0 1 := by
  rintro z ⟨k, rfl⟩
  exact .inl ⟨k, (mul_one _).symm⟩

/-- A number of units of at most p bits, or the next power of two, is on the grid. -/
theorem onGrid_of_le {p n : Nat} {q : ℤ} (hp : 0 < p) (hn : n ≤ 2 ^ p) : OnGrid p q (n * 2 ^ q) := by
  rcases hn.eq_or_lt with rfl | hlt
  · refine ⟨1, q + p, ?_, by omega, ?_⟩
    · rw [abs_one]; exact one_lt_pow₀ (by norm_num) hp.ne'
    · rw [zpow_add₀ (by norm_num), zpow_natCast]
      push_cast
      ring
  · refine ⟨n, q, ?_, le_rfl, by norm_cast⟩
    rw [Nat.abs_cast]
    exact_mod_cast hlt

/-- An even number of units is on the grid of half the numbers. -/
theorem onGrid_of_even {p n : Nat} {q : ℤ} (hp : 0 < p) (hn : n ≤ 2 ^ (p + 1)) (heven : n % 2 = 0) :
    OnGrid p (q + 1) (n * 2 ^ q) := by
  have h := onGrid_of_le (q := q + 1) hp (show n / 2 ≤ 2 ^ p by rw [pow_succ] at hn; omega)
  have hval : (n : ℝ) * 2 ^ q = ((n / 2 : ℕ) : ℝ) * 2 ^ (q + 1) := by
    have hn2 : (n : ℝ) = ((n / 2 : ℕ) : ℝ) * 2 := by
      have : n = n / 2 * 2 := by omega
      exact_mod_cast this
    rw [zpow_add_one₀ (by norm_num), hn2]
    ring
  rwa [hval]

end Sys2Proof.Machine
end

section
/-! Codes of a format (05 R94): their fields, the number each holds, and the largest finite magnitude. -/

namespace Sys2Proof.Machine

/-! ### Bit lengths -/

theorem bitLen_zero : bitLen 0 = 0 := rfl

theorem bitLen_pos {m : Nat} (h : 0 < m) : bitLen m = Nat.log2 m + 1 := if_neg h.ne'

theorem bitLen_le_iff {m k : Nat} : bitLen m ≤ k ↔ m < 2 ^ k := by
  rcases m.eq_zero_or_pos with rfl | hm
  · simp [bitLen_zero]
  · rw [bitLen_pos hm, Nat.succ_le_iff, Nat.log2_lt hm.ne']

theorem lt_bitLen_iff {m k : Nat} : k < bitLen m ↔ 2 ^ k ≤ m := by
  rw [← not_le, bitLen_le_iff, not_lt]

/-- The exponent of a number of units. -/
theorem mul_zpow_lt_iff {n : Nat} (hn : 0 < n) (q E : ℤ) : (n : ℝ) * 2 ^ q < 2 ^ E ↔ q + (bitLen n : ℤ) - 1 < E := by
  have hL : 0 < bitLen n := by rw [bitLen_pos hn]; omega
  constructor
  · intro h
    by_contra hge
    have h1 : ((2 : ℝ) ^ (bitLen n - 1)) ≤ n := by exact_mod_cast lt_bitLen_iff.1 (Nat.sub_lt hL one_pos)
    have h2 : (2 : ℝ) ^ E ≤ n * 2 ^ q := calc
      (2 : ℝ) ^ E ≤ 2 ^ (((bitLen n - 1 : ℕ) : ℤ) + q) := zpow_le_zpow_right₀ (by norm_num) (by omega)
      _ = 2 ^ (bitLen n - 1) * 2 ^ q := by rw [zpow_add₀ (by norm_num), zpow_natCast]
      _ ≤ n * 2 ^ q := mul_le_mul_of_nonneg_right h1 (two_zpow_pos q).le
    linarith
  · intro h
    have h1 : (n : ℝ) < 2 ^ bitLen n := by exact_mod_cast bitLen_le_iff.1 le_rfl
    calc (n : ℝ) * 2 ^ q < 2 ^ bitLen n * 2 ^ q := mul_lt_mul_of_pos_right h1 (two_zpow_pos q)
      _ = 2 ^ ((bitLen n : ℤ) + q) := by rw [zpow_add₀ (by norm_num), zpow_natCast]
      _ ≤ 2 ^ E := zpow_le_zpow_right₀ (by norm_num) (by omega)

/-! ### The parameters of a format -/

/-- What the lemmas need of a format: a fraction, and more than one exponent of normal numbers. -/
structure Fmt.Usual (f : Fmt) : Prop where
  frac : 0 < f.fb
  exps : 2 ≤ f.eb

theorem usual_fp32 : fp32.Usual := ⟨by decide, by decide⟩
theorem usual_fp16 : fp16.Usual := ⟨by decide, by decide⟩
theorem usual_bf16 : bf16.Usual := ⟨by decide, by decide⟩
theorem usual_e5m2 : e5m2.Usual := ⟨by decide, by decide⟩
theorem usual_e4m3 : e4m3.Usual := ⟨by decide, by decide⟩

/-- The quantum of the subnormals. -/
def Fmt.qmin (f : Fmt) : ℤ := 1 - f.bias - f.fb

/-- The largest exponent field of a finite number. -/
def Fmt.topField (f : Fmt) : Nat := if f.ocp then 2 ^ f.eb - 1 else 2 ^ f.eb - 2

/-- The largest significand at the largest exponent. -/
def Fmt.topSig (f : Fmt) : Nat := if f.ocp then 2 ^ (f.fb + 1) - 2 else 2 ^ (f.fb + 1) - 1

/-- The unit of the numbers of the largest exponent. -/
def Fmt.qmax (f : Fmt) : ℤ := f.topField - f.bias - f.fb

variable {f : Fmt}

theorem Fmt.Usual.two_le_pow (hf : f.Usual) : 2 ≤ 2 ^ f.fb := Nat.le_self_pow hf.frac.ne' 2

theorem Fmt.Usual.four_le_pow (hf : f.Usual) : 4 ≤ 2 ^ f.eb := Nat.pow_le_pow_right (n := 2) (by norm_num) hf.exps

theorem Fmt.Usual.qmin_lt_qmax (hf : f.Usual) : f.qmin < f.qmax := by
  have h := hf.four_le_pow
  unfold Fmt.qmin Fmt.qmax Fmt.topField
  split <;> omega

theorem Fmt.Usual.pow_le_topSig (hf : f.Usual) : 2 ^ f.fb ≤ f.topSig := by
  have h := hf.two_le_pow
  unfold Fmt.topSig
  rw [pow_succ]
  split <;> omega

theorem Fmt.Usual.topSig_lt (hf : f.Usual) : f.topSig < 2 ^ (f.fb + 1) := by
  have h := hf.two_le_pow
  unfold Fmt.topSig
  rw [pow_succ]
  split <;> omega

theorem Fmt.Usual.largest_eq (hf : f.Usual) : (f.largest : ℝ) = f.topSig * 2 ^ f.qmax := by
  have h4 := hf.four_le_pow
  have h2 : 2 ≤ 2 ^ (f.fb + 1) := hf.two_le_pow.trans (Nat.pow_le_pow_right (by norm_num) (by omega))
  have hq (k : ℤ) : (2 : ℝ) ^ (k - f.bias) = 2 ^ f.fb * 2 ^ (k - f.bias - f.fb) := by
    rw [← zpow_natCast, ← zpow_add₀ (by norm_num)]
    congr 1; omega
  unfold Fmt.largest Fmt.qmax Fmt.topField Fmt.topSig
  cases f.ocp with
  | true =>
    have hk : ((2 : ℤ) ^ f.eb - 1) = ((2 ^ f.eb - 1 : ℕ) : ℤ) := by push_cast [show 1 ≤ 2 ^ f.eb by omega]; ring
    simp only [if_true]
    rw [hk]
    push_cast [h2]
    rw [hq, pow_succ]
    field_simp
  | false =>
    have hk : ((2 : ℤ) ^ f.eb - 2) = ((2 ^ f.eb - 2 : ℕ) : ℤ) := by push_cast [show 2 ≤ 2 ^ f.eb by omega]; ring
    simp only [Bool.false_eq_true, if_false]
    rw [hk]
    push_cast [show 1 ≤ 2 ^ (f.fb + 1) by omega]
    rw [hq, pow_succ]
    field_simp

theorem Fmt.smallest_eq : (f.smallest : ℝ) = 2 ^ f.fb * 2 ^ f.qmin := by
  unfold Fmt.smallest Fmt.qmin
  rw [← zpow_natCast, ← zpow_add₀ (by norm_num)]
  push_cast
  congr 1; omega

/-- The test of the model for a number beyond the largest finite one. -/
def tooLarge (f : Fmt) (n : Nat) (q : ℤ) : Bool :=
  let top := q + Int.ofNat (bitLen n) - 1
  let emax : Int := if f.ocp then Int.ofNat (2 ^ f.eb - 1) - Int.ofNat f.bias
    else Int.ofNat (2 ^ f.eb - 2) - Int.ofNat f.bias
  decide (emax < top) ||
    (f.ocp && top == emax && decide (2 ^ (f.fb + 1) - 2 < n) && decide (bitLen n = f.fb + 1))

theorem Fmt.emax_eq : (if f.ocp then Int.ofNat (2 ^ f.eb - 1) - Int.ofNat f.bias
    else Int.ofNat (2 ^ f.eb - 2) - Int.ofNat f.bias) = f.qmax + f.fb := by
  unfold Fmt.qmax Fmt.topField
  split <;> simp only [Int.ofNat_eq_natCast] <;> omega

/-- A number of units of the format, normalised or below the largest exponent, is too large where it is beyond the
largest significand at the largest exponent. -/
theorem Fmt.Usual.tooLarge_iff (hf : f.Usual) {n : Nat} {q : ℤ} (hn : n ≤ 2 ^ (f.fb + 1))
    (hnorm : 2 ^ f.fb ≤ n ∨ q < f.qmax) : tooLarge f n q = true ↔ f.qmax < q ∨ q = f.qmax ∧ f.topSig < n := by
  have htwo := hf.two_le_pow
  have hlow : f.fb < bitLen n ↔ 2 ^ f.fb ≤ n := lt_bitLen_iff
  have hhigh : f.fb + 1 < bitLen n ↔ 2 ^ (f.fb + 1) ≤ n := lt_bitLen_iff
  have htop : bitLen n ≤ f.fb + 2 := bitLen_le_iff.2 (by rw [pow_succ]; omega)
  have hsig := hf.topSig_lt
  have hsig' := hf.pow_le_topSig
  unfold tooLarge
  rw [Fmt.emax_eq]
  simp only [Bool.or_eq_true, Bool.and_eq_true, decide_eq_true_eq, beq_iff_eq, Int.ofNat_eq_natCast]
  unfold Fmt.topSig at *
  rw [pow_succ] at *
  cases f.ocp <;> simp only [Bool.false_eq_true, if_false, if_true, false_and, true_and, or_false] at * <;> omega

theorem Fmt.Usual.largest_lt_iff (hf : f.Usual) {n : Nat} {q : ℤ} (hn : n ≤ 2 ^ (f.fb + 1))
    (hnorm : 2 ^ f.fb ≤ n ∨ q < f.qmax) : (f.largest : ℝ) < n * 2 ^ q ↔ f.qmax < q ∨ q = f.qmax ∧ f.topSig < n := by
  have hlow : (2 : ℝ) ^ f.fb ≤ f.topSig := by exact_mod_cast hf.pow_le_topSig
  have hsig : (f.topSig : ℝ) < 2 ^ (f.fb + 1) := by exact_mod_cast hf.topSig_lt
  have hn' : (n : ℝ) ≤ 2 ^ (f.fb + 1) := by exact_mod_cast hn
  rw [hf.largest_eq]
  rcases lt_trichotomy q f.qmax with h | h | h
  · simp only [h.not_gt, h.ne, false_and, or_false, iff_false, not_lt]
    calc (n : ℝ) * 2 ^ q ≤ 2 ^ (f.fb + 1) * 2 ^ q := mul_le_mul_of_nonneg_right hn' (two_zpow_pos q).le
      _ = 2 ^ f.fb * 2 ^ (q + 1) := by rw [zpow_add_one₀ (by norm_num)]; ring
      _ ≤ f.topSig * 2 ^ f.qmax :=
        mul_le_mul hlow (zpow_le_zpow_right₀ (by norm_num) h) (two_zpow_pos _).le (by positivity)
  · rw [h]
    simp only [lt_irrefl, true_and, false_or]
    rw [mul_lt_mul_iff_left₀ (two_zpow_pos _), Nat.cast_lt]
  · simp only [h, true_or, iff_true]
    have hge : (2 : ℝ) ^ f.fb ≤ n := by exact_mod_cast hnorm.resolve_right h.not_gt
    calc (f.topSig : ℝ) * 2 ^ f.qmax < 2 ^ (f.fb + 1) * 2 ^ f.qmax := mul_lt_mul_of_pos_right hsig (two_zpow_pos _)
      _ = 2 ^ f.fb * 2 ^ (f.qmax + 1) := by rw [zpow_add_one₀ (by norm_num)]; ring
      _ ≤ n * 2 ^ q := mul_le_mul hge (zpow_le_zpow_right₀ (by norm_num) h) (two_zpow_pos _).le (by positivity)

/-! ### The fields of a code -/

section
variable (f) (neg : Bool) {ex fr : Nat}

theorem signBit_eq : signBit f neg = neg.toNat * 2 ^ (f.eb + f.fb) := by cases neg <;> simp [signBit]

variable {f neg} (hex : ex < 2 ^ f.eb) (hfr : fr < 2 ^ f.fb)
include hex hfr

theorem code_fields : (signBit f neg + ex * 2 ^ f.fb + fr) % 2 ^ f.fb = fr
    ∧ (signBit f neg + ex * 2 ^ f.fb + fr) / 2 ^ f.fb % 2 ^ f.eb = ex
    ∧ (signBit f neg + ex * 2 ^ f.fb + fr) / 2 ^ (f.eb + f.fb) = neg.toNat
    ∧ signBit f neg + ex * 2 ^ f.fb + fr < 2 ^ (1 + f.eb + f.fb) := by
  have hshape : signBit f neg + ex * 2 ^ f.fb + fr = (neg.toNat * 2 ^ f.eb + ex) * 2 ^ f.fb + fr := by
    rw [signBit_eq, pow_add]; ring
  have hdiv : (signBit f neg + ex * 2 ^ f.fb + fr) / 2 ^ f.fb = neg.toNat * 2 ^ f.eb + ex := by
    rw [hshape, mul_comm, Nat.mul_add_div (by positivity), Nat.div_eq_of_lt hfr, add_zero]
  have hneg : (signBit f neg + ex * 2 ^ f.fb + fr) / 2 ^ (f.eb + f.fb) = neg.toNat := by
    rw [add_comm f.eb, pow_add, ← Nat.div_div_eq_div_mul, hdiv, mul_comm, Nat.mul_add_div (by positivity),
      Nat.div_eq_of_lt hex, add_zero]
  refine ⟨by rw [hshape, Nat.mul_add_mod_self_right, Nat.mod_eq_of_lt hfr],
    by rw [hdiv, Nat.mul_add_mod_self_right, Nat.mod_eq_of_lt hex], hneg, ?_⟩
  rw [add_assoc 1, pow_add, pow_one, ← Nat.div_lt_iff_lt_mul (by positivity), hneg]
  cases neg <;> simp

theorem code_lt : signBit f neg + ex * 2 ^ f.fb + fr < 2 ^ (1 + f.eb + f.fb) := (code_fields hex hfr).2.2.2

theorem codeNeg_fields : codeNeg f (signBit f neg + ex * 2 ^ f.fb + fr) = neg := by
  obtain ⟨-, -, hneg, -⟩ := code_fields (neg := neg) hex hfr
  unfold codeNeg
  rw [Nat.testBit_eq_decide_div_mod_eq, hneg]
  cases neg <;> rfl

end

/-! ### What a code holds -/

/-- The number (-1)^neg * m * 2^e. -/
def value (neg : Bool) (m : Nat) (e : ℤ) : ℚ := (if neg then -1 else 1) * m * 2 ^ e

/-- What a decoded value is, with its sign where it is zero. -/
def FVal.exact : FVal → ExactVal
  | .nan s _ => .nan s
  | .inf n => .inf n false
  | .fin n m e => .num n (value n m e)

theorem value_cast (neg : Bool) (m : Nat) (e : ℤ) : (value neg m e : ℝ) = signed neg (m * 2 ^ e) := by
  cases neg <;> simp [value]

theorem tbit_sign (f : Fmt) (c : Nat) : tbit c (f.eb + f.fb) = codeNeg f c := tbit_eq_testBit _ _

theorem bits_exponent (f : Fmt) (c : Nat) : bits c f.fb f.eb = c / 2 ^ f.fb % 2 ^ f.eb := rfl

theorem bits_fraction (f : Fmt) (c : Nat) : bits c 0 f.fb = c % 2 ^ f.fb := by
  unfold bits
  rw [pow_zero, Nat.div_one]

/-- The number of a finite code. -/
theorem codeNum_eq (f : Fmt) (c : Nat) : codeNum f c = match decodeF f c with
    | .fin n m e => some (value n m e)
    | _ => none := by
  have hsub : (2 : ℚ) ^ (1 - (f.bias : ℤ)) = 2 ^ f.fb * 2 ^ (f.emin - Int.ofNat f.fb) := by
    unfold Fmt.emin
    rw [← zpow_natCast, ← zpow_add₀ (by norm_num)]
    congr 1; simp only [Int.ofNat_eq_natCast]; omega
  have hnorm (ex : ℕ) : (2 : ℚ) ^ ((ex : ℤ) - f.bias) =
      2 ^ f.fb * 2 ^ (Int.ofNat ex - Int.ofNat f.bias - Int.ofNat f.fb) := by
    rw [← zpow_natCast, ← zpow_add₀ (by norm_num)]
    congr 1; simp only [Int.ofNat_eq_natCast]; omega
  unfold codeNum decodeF
  dsimp only
  rw [tbit_sign, bits_exponent, bits_fraction]
  generalize c / 2 ^ f.fb % 2 ^ f.eb = ex
  generalize c % 2 ^ f.fb = fr
  by_cases h0 : ex = 0
  · rw [if_pos h0, if_pos h0, hsub]
    simp only [value, Option.some_inj]
    field_simp
  · rw [if_neg h0, if_neg h0, hnorm]
    cases f.ocp with
    | true =>
      by_cases hs : ex = 2 ^ f.eb - 1 ∧ fr = 2 ^ f.fb - 1
      · simp [hs.1, hs.2]
      · simp [hs, value]
        field_simp
    | false =>
      by_cases hs : ex = 2 ^ f.eb - 1
      · by_cases hz : fr = 0 <;> simp [hs, hz]
      · simp [hs, value]
        field_simp

/-- The exact value of a code is what the model decodes it to. -/
theorem codeVal_eq (f : Fmt) (c : Nat) : codeVal f c = (decodeF f c).exact := by
  unfold codeVal
  rw [codeNum_eq]
  unfold decodeF
  dsimp only
  rw [tbit_sign, bits_exponent, bits_fraction]
  have hquiet (h : c % 2 ^ f.fb ≠ 0) : tbit (c % 2 ^ f.fb) (f.fb - 1) = c.testBit (f.fb - 1) := by
    have hpos : f.fb ≠ 0 := fun h0 => h (by rw [h0, pow_zero, Nat.mod_one])
    rw [tbit_eq_testBit, Nat.testBit_mod_two_pow, decide_eq_true (by omega), Bool.true_and]
  generalize c / 2 ^ f.fb % 2 ^ f.eb = ex
  generalize c % 2 ^ f.fb = fr at *
  by_cases h0 : ex = 0
  · rw [if_pos h0]; rfl
  · rw [if_neg h0]
    cases f.ocp with
    | true =>
      by_cases hs : ex = 2 ^ f.eb - 1 ∧ fr = 2 ^ f.fb - 1
      · simp [hs.1, hs.2, FVal.exact]
      · simp [hs, FVal.exact]
    | false =>
      by_cases hs : ex = 2 ^ f.eb - 1
      · by_cases hz : fr = 0
        · simp [hs, hz, FVal.exact]
        · simp [hs, hz, FVal.exact, hquiet hz]
      · simp [hs, FVal.exact]

/-! ### The code of a rounded number -/

theorem decodeF_subnormal (f : Fmt) (neg : Bool) {fr : Nat} (hfr : fr < 2 ^ f.fb) :
    decodeF f (signBit f neg + 0 * 2 ^ f.fb + fr) = .fin neg fr f.qmin := by
  have hex : 0 < 2 ^ f.eb := by positivity
  obtain ⟨h1, h2, -, -⟩ := code_fields (neg := neg) hex hfr
  unfold decodeF
  dsimp only
  rw [tbit_sign, bits_exponent, bits_fraction, codeNeg_fields hex hfr, h1, h2, if_pos rfl]
  rfl

theorem decodeF_normal {neg : Bool} {ex fr : Nat} (hex : ex < 2 ^ f.eb) (hfr : fr < 2 ^ f.fb) (hpos : 0 < ex)
    (hfin : ex = 2 ^ f.eb - 1 → f.ocp = true ∧ fr ≠ 2 ^ f.fb - 1) :
    decodeF f (signBit f neg + ex * 2 ^ f.fb + fr) = .fin neg (2 ^ f.fb + fr) (ex - f.bias - f.fb) := by
  obtain ⟨h1, h2, -, -⟩ := code_fields (neg := neg) hex hfr
  unfold decodeF
  dsimp only
  rw [tbit_sign, bits_exponent, bits_fraction, codeNeg_fields hex hfr, h1, h2, if_neg hpos.ne']
  by_cases hs : ex = 2 ^ f.eb - 1
  · obtain ⟨hocp, hnan⟩ := hfin hs
    rw [hocp, beq_eq_false_iff_ne.2 hnan]
    simp
  · rw [beq_eq_false_iff_ne.2 hs]
    simp

section
variable (hf : f.Usual)
include hf

/-- The code of a normal number in the format's range. -/
theorem Fmt.Usual.normal_code (neg : Bool) {fr : Nat} {q : ℤ} (hfr : fr < 2 ^ f.fb) (hq : f.qmin ≤ q) (hle : q ≤ f.qmax)
    (htop : q = f.qmax → 2 ^ f.fb + fr ≤ f.topSig) :
    let c := signBit f neg + (q + f.bias + f.fb).toNat * 2 ^ f.fb + fr
    c < 2 ^ (1 + f.eb + f.fb) ∧ codeNeg f c = neg ∧ codeNum f c = some (value neg (2 ^ f.fb + fr) q) := by
  have h4 := hf.four_le_pow
  obtain ⟨ex, hex⟩ : ∃ ex : ℕ, (ex : ℤ) = q + f.bias + f.fb :=
    ⟨(q + f.bias + f.fb).toNat, by unfold Fmt.qmin at hq; omega⟩
  have hcast : (q + f.bias + f.fb).toNat = ex := by omega
  have hpos : 0 < ex := by unfold Fmt.qmin at hq; omega
  have htopF : ex ≤ f.topField := by unfold Fmt.qmax at hle; omega
  have hlt : ex < 2 ^ f.eb := by
    unfold Fmt.topField at htopF
    split at htopF <;> omega
  have hfin : ex = 2 ^ f.eb - 1 → f.ocp = true ∧ fr ≠ 2 ^ f.fb - 1 := by
    intro hones
    unfold Fmt.topField at htopF
    cases hocp : f.ocp with
    | false => simp only [hocp, Bool.false_eq_true, if_false] at htopF; omega
    | true =>
      refine ⟨rfl, ?_⟩
      have hqmax : q = f.qmax := by simp only [Fmt.qmax, Fmt.topField, hocp, if_true]; omega
      have := htop hqmax
      simp only [Fmt.topSig, hocp, if_true, pow_succ] at this
      omega
  dsimp only
  rw [hcast, codeNum_eq, decodeF_normal hlt hfr hpos hfin, show (ex : ℤ) - f.bias - f.fb = q by omega]
  exact ⟨code_lt hlt hfr, codeNeg_fields hlt hfr, rfl⟩

/-- The code that the model packs holds the number it packs. -/
theorem Fmt.Usual.packF_code (neg : Bool) {n : Nat} {q : ℤ} (hn : n ≤ 2 ^ (f.fb + 1)) (hq : f.qmin ≤ q)
    (hnorm : 2 ^ f.fb ≤ n ∨ q = f.qmin) (hsmall : ¬ (f.qmax < q ∨ q = f.qmax ∧ f.topSig < n)) :
    packF f neg n q < 2 ^ (1 + f.eb + f.fb) ∧ codeNeg f (packF f neg n q) = neg
      ∧ codeNum f (packF f neg n q) = some (value neg n q) := by
  have hsig := hf.topSig_lt
  have hpow : 2 ^ (f.fb + 1) = 2 * 2 ^ f.fb := by ring
  unfold packF
  by_cases h1 : n < 2 ^ f.fb
  · rw [if_pos h1, hnorm.resolve_left h1.not_ge]
    have hcode : signBit f neg + n = signBit f neg + 0 * 2 ^ f.fb + n := by rw [zero_mul, add_zero]
    rw [hcode, codeNum_eq, decodeF_subnormal f neg h1]
    exact ⟨code_lt (by positivity) h1, codeNeg_fields (by positivity) h1, rfl⟩
  · rw [if_neg h1]
    by_cases h3 : n < 2 ^ (f.fb + 1)
    · have h := hf.normal_code neg (fr := n - 2 ^ f.fb) (by omega) hq (by omega) (by omega)
      rw [Nat.add_sub_cancel' (by omega)] at h
      rw [if_pos h3]
      exact h
    · have hval : value neg n q = value neg (2 ^ f.fb + 0) (q + 1) := by
        rw [show n = 2 ^ (f.fb + 1) by omega, value, value, zpow_add_one₀ (by norm_num), pow_succ]
        push_cast
        ring
      have hlow := hf.pow_le_topSig
      have h := hf.normal_code neg (fr := 0) (q := q + 1) (by positivity) (by omega) (by omega) (by omega)
      rw [← hval, add_zero, show q + 1 + f.bias + f.fb = q + f.bias + f.fb + 1 by ring] at h
      rw [if_neg h3]
      exact h

end

end Sys2Proof.Machine
end

section
/-! The rounding of the model is the rounding of 05 R97 and R100. -/

namespace Sys2Proof.Machine

/-- A rounding lies between the integers that its number lies between. -/
theorem RoundsNat.ge {rm : Rm} {t : ℝ} {n lo : ℕ} (h : RoundsNat rm t n) (hlo : (lo : ℝ) ≤ t) : lo ≤ n := by
  have hlt : (lo : ℝ) < n + 1 := by
    cases rm with
    | rne => have := (abs_le.1 h.1).2; linarith
    | rtz | rdn => exact hlo.trans_lt h.2
    | rup => have := h.1; linarith
  norm_cast at hlt
  omega

theorem RoundsNat.le {rm : Rm} {t : ℝ} {n hi : ℕ} (h : RoundsNat rm t n) (hhi : t ≤ hi) : n ≤ hi := by
  have hlt : (n : ℝ) < hi + 1 := by
    cases rm with
    | rne => have := (abs_le.1 h.1).1; linarith
    | rtz | rdn => have := h.1; linarith
    | rup => have := h.2; linarith
  norm_cast at hlt
  omega

/-- The exponent of the unit at which a truncated number has one integer bit more than the format's fraction. -/
def unitExp (f : Fmt) (m : Nat) (e : ℤ) : ℤ := e + Int.ofNat (bitLen m) - 1 - Int.ofNat f.fb

/-- The exponent of the unit of the format there. -/
def gridExp (f : Fmt) (m : Nat) (e : ℤ) : ℤ :=
  if unitExp f m e < f.emin - Int.ofNat f.fb then f.emin - Int.ofNat f.fb else unitExp f m e

/-- What the model's rounding gives, by its two integer roundings. -/
theorem roundF_eq (f : Fmt) (rm : Rm) (fo neg : Bool) (m : Nat) (e : ℤ) (s : Bool) :
    roundF f rm fo neg m e s =
      let n1 := (roundInt rm neg m e (unitExp f m e) s).1
      let tiny := decide (unitExp f m e + Int.ofNat (bitLen n1) - 1 < f.emin)
      let r := roundInt rm neg m e (gridExp f m e) s
      if tiny && fo then ⟨signBit f neg, 8 + 16⟩
      else if tooLarge f r.1 (gridExp f m e) then ⟨overflowCode f rm neg, 4 + 16⟩
      else ⟨packF f neg r.1 (gridExp f m e), (if tiny && r.2 then 8 else 0) + (if r.2 then 16 else 0)⟩ := rfl

section
variable {f : Fmt} {rm : Rm} {neg : Bool} {a : ℝ} {m : Nat} {e : ℤ} {s : Bool} (hf : f.Usual) (hm : 0 < m)
  (ha : Truncates a m e s) (hs : s = true → f.fb + 2 ≤ bitLen m)

theorem qmin_eq (f : Fmt) : f.emin - Int.ofNat f.fb = f.qmin := rfl

include hm ha in
/-- The number in units. -/
theorem unitExp_spec : 2 ^ f.fb * 2 ^ unitExp f m e ≤ a ∧ a < 2 ^ (f.fb + 1) * 2 ^ unitExp f m e := by
  obtain ⟨hle, hlt, -⟩ := ha
  have hL : 0 < bitLen m := by rw [bitLen_pos hm]; omega
  have h1 : ((2 : ℝ) ^ (bitLen m - 1)) ≤ m := by exact_mod_cast lt_bitLen_iff.1 (Nat.sub_lt hL one_pos)
  have h2 : (m : ℝ) + 1 ≤ 2 ^ bitLen m := by exact_mod_cast bitLen_le_iff.1 (le_refl (bitLen m))
  have hpow (k j : ℕ) (hkj : (k : ℤ) + 1 + f.fb = j + bitLen m) : (2 : ℝ) ^ j * 2 ^ unitExp f m e = 2 ^ k * 2 ^ e := by
    rw [← zpow_natCast, ← zpow_natCast, ← zpow_add₀ (by norm_num), ← zpow_add₀ (by norm_num)]
    congr 1
    simp only [unitExp, Int.ofNat_eq_natCast]
    omega
  rw [hpow (bitLen m - 1) f.fb (by omega), hpow (bitLen m) (f.fb + 1) (by omega)]
  exact ⟨(mul_le_mul_of_nonneg_right h1 (two_zpow_pos e).le).trans hle,
    hlt.trans_le (mul_le_mul_of_nonneg_right h2 (two_zpow_pos e).le)⟩

include hs in
theorem lt_unitExp (h : s = true) : e < unitExp f m e := by
  have := hs h
  simp only [unitExp, Int.ofNat_eq_natCast]
  omega

theorem unitExp_le_gridExp : unitExp f m e ≤ gridExp f m e := by unfold gridExp; split <;> omega

theorem qmin_le_gridExp : f.qmin ≤ gridExp f m e := by rw [gridExp, qmin_eq]; split <;> omega

include hf hm ha hs

/-- Rounded with an unbounded exponent range. -/
theorem round_unbounded :
    let n := (roundInt rm neg m e (unitExp f m e) s).1
    2 ^ f.fb ≤ n ∧ n ≤ 2 ^ (f.fb + 1)
      ∧ RoundsInto (Significant (f.fb + 1)) (Significant f.fb) rm (signed neg a) (signed neg (n * 2 ^ unitExp f m e)) := by
  obtain ⟨hround, -⟩ := roundInt_spec (rm := rm) (neg := neg) ha (lt_unitExp hs)
  obtain ⟨hlo, hhi⟩ := unitExp_spec (f := f) hm ha
  rw [← le_div_iff₀ (two_zpow_pos _)] at hlo
  rw [← div_lt_iff₀ (two_zpow_pos _)] at hhi
  have hge := hround.ge (lo := 2 ^ f.fb) (by exact_mod_cast hlo)
  have hle := hround.le (hi := 2 ^ (f.fb + 1)) (by exact_mod_cast hhi.le)
  refine ⟨hge, hle, RoundsInto.signed (fun _ => Significant.neg) (fun _ => Significant.neg) ?_⟩
  have h := hround.roundsInto (S := Significant (f.fb + 1)) (E := Significant f.fb)
    (unit := 2 ^ unitExp f m e) (two_zpow_pos _)
    (by exact_mod_cast hlo) (onGrid_of_le (by omega) hle).significant
    (fun heven => (onGrid_of_even hf.frac hle heven).significant) (gridNear_significant _ _)
  rwa [div_mul_cancel₀ _ (two_zpow_pos _).ne'] at h

/-- Rounded into the format's grid. -/
theorem round_grid :
    let n := (roundInt rm neg m e (gridExp f m e) s).1
    (2 ^ f.fb ≤ n ∨ gridExp f m e = f.qmin) ∧ n ≤ 2 ^ (f.fb + 1)
      ∧ RoundsInto (OnGrid (f.fb + 1) (1 - f.bias - f.fb)) (OnGrid f.fb (2 - f.bias - f.fb)) rm (signed neg a)
          (signed neg (n * 2 ^ gridExp f m e)) := by
  obtain ⟨hround, -⟩ := roundInt_spec (rm := rm) (neg := neg) ha
    (fun h => (lt_unitExp hs h).trans_le unitExp_le_gridExp)
  obtain ⟨hlo, hhi⟩ := unitExp_spec (f := f) hm ha
  have heven_exp : f.qmin + 1 = 2 - f.bias - f.fb := by unfold Fmt.qmin; ring
  have hdiv : a / 2 ^ gridExp f m e * 2 ^ gridExp f m e = a := div_mul_cancel₀ _ (two_zpow_pos _).ne'
  rw [← heven_exp]
  change _ ∧ _ ∧ RoundsInto (OnGrid (f.fb + 1) f.qmin) _ _ _ _
  by_cases hsub : unitExp f m e < f.qmin
  · have hgrid : gridExp f m e = f.qmin := by rw [gridExp, qmin_eq, if_pos hsub]
    rw [hgrid] at hround hdiv ⊢
    have hsmall : a ≤ 2 ^ f.fb * 2 ^ f.qmin := calc
      a ≤ 2 ^ (f.fb + 1) * 2 ^ unitExp f m e := hhi.le
      _ = 2 ^ f.fb * 2 ^ (unitExp f m e + 1) := by rw [zpow_add_one₀ (by norm_num)]; ring
      _ ≤ 2 ^ f.fb * 2 ^ f.qmin :=
        mul_le_mul_of_nonneg_left (zpow_le_zpow_right₀ (by norm_num) hsub) (by positivity)
    rw [← div_le_iff₀ (two_zpow_pos _)] at hsmall
    have hle := hround.le (hi := 2 ^ f.fb) (by exact_mod_cast hsmall)
    have hle' := hle.trans (Nat.pow_le_pow_right (n := 2) (by norm_num) (Nat.le_succ f.fb))
    have hpos : 0 ≤ a := (by positivity : (0 : ℝ) ≤ 2 ^ f.fb * 2 ^ unitExp f m e).trans hlo
    refine ⟨.inr rfl, hle', RoundsInto.signed (fun _ => OnGrid.neg) (fun _ => OnGrid.neg) ?_⟩
    have h := hround.roundsInto (S := OnGrid (f.fb + 1) f.qmin) (E := OnGrid f.fb (f.qmin + 1)) (lo := 0)
      (unit := 2 ^ f.qmin) (two_zpow_pos _) (by rw [Nat.cast_zero]; exact div_nonneg hpos (two_zpow_pos _).le)
      (onGrid_of_le (by omega) hle') (onGrid_of_even hf.frac hle') (gridNear_quantum _ _)
    rwa [hdiv] at h
  · have hgrid : gridExp f m e = unitExp f m e := by rw [gridExp, qmin_eq, if_neg hsub]
    rw [hgrid] at hround hdiv ⊢
    rw [← le_div_iff₀ (two_zpow_pos _)] at hlo
    rw [← div_lt_iff₀ (two_zpow_pos _)] at hhi
    have hge := hround.ge (lo := 2 ^ f.fb) (by exact_mod_cast hlo)
    have hle := hround.le (hi := 2 ^ (f.fb + 1)) (by exact_mod_cast hhi.le)
    refine ⟨.inl hge, hle, RoundsInto.signed (fun _ => OnGrid.neg) (fun _ => OnGrid.neg) ?_⟩
    have h := hround.roundsInto (S := OnGrid (f.fb + 1) f.qmin) (E := OnGrid f.fb (f.qmin + 1)) (lo := 2 ^ f.fb)
      (unit := 2 ^ unitExp f m e) (two_zpow_pos _) (by exact_mod_cast hlo)
      ((onGrid_of_le (by omega) hle).mono (not_lt.1 hsub))
      (fun heven => (onGrid_of_even hf.frac hle heven).mono (by omega)) (gridNear_onGrid _)
    rwa [hdiv] at h

/-- Both roundings agree on whether the number is beyond the largest finite one. -/
theorem largest_lt_unbounded :
    (f.largest : ℝ) < (roundInt rm neg m e (unitExp f m e) s).1 * 2 ^ unitExp f m e
      ↔ tooLarge f (roundInt rm neg m e (gridExp f m e) s).1 (gridExp f m e) = true := by
  obtain ⟨hge, hle, -⟩ := round_unbounded (rm := rm) (neg := neg) hf hm ha hs
  obtain ⟨hnorm, hle', -⟩ := round_grid (rm := rm) (neg := neg) hf hm ha hs
  have hmax := hf.qmin_lt_qmax
  rw [hf.largest_lt_iff hle (.inl hge), hf.tooLarge_iff hle' (hnorm.imp id fun h => by omega)]
  by_cases hsub : unitExp f m e < f.qmin
  · have hgrid : gridExp f m e = f.qmin := by rw [gridExp, qmin_eq, if_pos hsub]
    omega
  · have hgrid : gridExp f m e = unitExp f m e := by rw [gridExp, qmin_eq, if_neg hsub]
    rw [hgrid]

/-- The model's test for a tiny number. -/
theorem tiny_iff :
    decide (unitExp f m e + Int.ofNat (bitLen (roundInt rm neg m e (unitExp f m e) s).1) - 1 < f.emin) = true
      ↔ ((roundInt rm neg m e (unitExp f m e) s).1 : ℝ) * 2 ^ unitExp f m e < f.smallest := by
  obtain ⟨hge, -⟩ := round_unbounded (rm := rm) (neg := neg) hf hm ha hs
  have hpos : 0 < (roundInt rm neg m e (unitExp f m e) s).1 := lt_of_lt_of_le (by positivity) hge
  have hsmall : (f.smallest : ℝ) = 2 ^ f.emin := by rw [Fmt.smallest]; push_cast; rfl
  rw [hsmall, mul_zpow_lt_iff hpos, decide_eq_true_eq]
  rfl

omit hm ha hs in
theorem Fmt.Usual.smallest_le_largest : (f.smallest : ℝ) ≤ f.largest := by
  have hsig : (2 : ℝ) ^ f.fb ≤ f.topSig := by exact_mod_cast hf.pow_le_topSig
  rw [Fmt.smallest_eq, hf.largest_eq]
  exact mul_le_mul hsig (zpow_le_zpow_right₀ (by norm_num) hf.qmin_lt_qmax.le) (two_zpow_pos _).le (by positivity)

/-- The model's rounding of a truncated number is Round and Out of 05 R100. -/
theorem roundF_rounds (fo : Bool) : Rounds f rm fo (signed neg a) (roundF f rm fo neg m e s) := by
  obtain ⟨hge, hle, hu⟩ := round_unbounded (rm := rm) (neg := neg) hf hm ha hs
  obtain ⟨hnorm, hle', hy⟩ := round_grid (rm := rm) (neg := neg) hf hm ha hs
  have hlarge := largest_lt_unbounded (rm := rm) (neg := neg) hf hm ha hs
  have htiny := tiny_iff (rm := rm) (neg := neg) hf hm ha hs
  have hinexact := (roundInt_spec (rm := rm) (neg := neg) ha
    (fun h => (lt_unitExp hs h).trans_le (unitExp_le_gridExp (f := f)))).2
  have hapos : 0 < a := lt_of_lt_of_le (mul_pos (by positivity) (two_zpow_pos _)) (unitExp_spec (f := f) hm ha).1
  have hneg : neg = true ↔ signed neg a < 0 := by
    cases neg with
    | true => simpa using hapos
    | false => simpa using hapos.le
  have habs : |signed neg ((roundInt rm neg m e (unitExp f m e) s).1 * 2 ^ unitExp f m e)|
      = (roundInt rm neg m e (unitExp f m e) s).1 * 2 ^ unitExp f m e := by
    rw [abs_signed, abs_of_nonneg (mul_nonneg (Nat.cast_nonneg _) (two_zpow_pos _).le)]
  rw [roundF_eq]
  dsimp only
  refine ⟨_, hu, ?_⟩
  rw [habs]
  rw [← htiny, hlarge, ← not_lt, ← not_lt, ← htiny, hlarge, Bool.not_eq_true]
  have hnot_both := hf.smallest_le_largest
  have hnorm' := hnorm.imp id fun h => h.trans_lt hf.qmin_lt_qmax
  generalize hl : tooLarge f (roundInt rm neg m e (gridExp f m e) s).1 (gridExp f m e) = large at *
  generalize decide (unitExp f m e + Int.ofNat (bitLen (roundInt rm neg m e (unitExp f m e) s).1) - 1 < f.emin) = tiny
    at *
  refine ⟨fun hbig => ?_, fun hsmall hti hfo => ?_, fun hsmall hfo => ?_⟩
  · have hnt : tiny = false := by
      rw [← Bool.not_eq_true, htiny, not_lt]
      exact hnot_both.trans (hlarge.2 hbig).le
    rw [hnt, hbig]
    exact ⟨rfl, neg, hneg, rfl⟩
  · rw [hti, hfo]
    exact ⟨rfl, neg, hneg, rfl⟩
  · have hcond : (tiny && fo) = false := by
      cases tiny with
      | true => exact hfo rfl
      | false => rfl
    have hfits := (not_congr (hf.tooLarge_iff hle' hnorm')).1 (by rw [hl, hsmall]; exact Bool.false_ne_true)
    obtain ⟨hlt, hsign, hnum⟩ := hf.packF_code neg hle' qmin_le_gridExp hnorm hfits
    rw [hcond, if_neg Bool.false_ne_true, hsmall, if_neg Bool.false_ne_true]
    refine ⟨value neg _ _, by rw [value_cast]; exact hy, hlt, hnum, by rw [hsign, hneg], ?_⟩
    rw [value_cast, ne_eq, signed_inj, eq_comm, ← hinexact]
    cases (roundInt rm neg m e (gridExp f m e) s).2 <;> cases tiny <;> simp

end

end Sys2Proof.Machine
end

section
/-! The arithmetic of 05 R100 over exact numbers: sums, products, quotients and the fused operation round the exact
result once. -/

namespace Sys2Proof.Machine

/-! ### Exact numbers -/

section
variable (n k : Bool) (m l : Nat) (e d : ℤ)

@[simp] theorem value_eq_zero : value n m e = 0 ↔ m = 0 := by
  have h2 : (2 : ℚ) ^ e ≠ 0 := zpow_ne_zero _ (by norm_num)
  cases n <;> simp [value, h2]

theorem value_neg : value (!n) m e = -value n m e := by cases n <;> simp [value]

theorem value_mul : value n m e * value k l d = value (n != k) (m * l) (e + d) := by
  rw [value, value, value, zpow_add₀ (by norm_num)]
  push_cast
  cases n <;> cases k <;> simp <;> ring

theorem value_natAbs (z : ℤ) : value (decide (z < 0)) z.natAbs e = z * 2 ^ e := by
  have h : ((if decide (z < 0) then -1 else 1 : ℚ)) * (z.natAbs : ℚ) = z := by
    rcases lt_or_ge z 0 with hz | hz
    · rw [decide_eq_true hz, if_pos rfl, Nat.cast_natAbs, abs_of_neg hz]
      push_cast; ring
    · rw [decide_eq_false hz.not_gt, if_neg Bool.false_ne_true, Nat.cast_natAbs, abs_of_nonneg hz, one_mul]
  rw [value, h]

theorem value_shift (h : d ≤ e) : value n m e = value n (m * 2 ^ (e - d).toNat) d := by
  have he : e = ((e - d).toNat : ℤ) + d := by omega
  rw [value, value]
  conv_lhs => rw [he, zpow_add₀ (by norm_num), zpow_natCast]
  push_cast
  ring

/-- The exact sum of the model. -/
theorem sumZ_value : ((sumZ n m e k l d).1 : ℚ) * 2 ^ (sumZ n m e k l d).2 = value n m e + value k l d := by
  have hmin : (if e < d then e else d) ≤ e ∧ (if e < d then e else d) ≤ d := by split <;> omega
  unfold sumZ
  generalize (if e < d then e else d) = q at hmin ⊢
  rw [value_shift n m e q hmin.1, value_shift k l d q hmin.2, value, value]
  cases n <;> cases k <;> push_cast <;> simp <;> ring

theorem sumZ_eq_zero : (sumZ n m e k l d).1 = 0 ↔ value n m e + value k l d = 0 := by
  have h2 : (2 : ℚ) ^ (sumZ n m e k l d).2 ≠ 0 := zpow_ne_zero _ (by norm_num)
  rw [← sumZ_value, mul_eq_zero, or_iff_left h2, Int.cast_eq_zero]

theorem sumZ_neg : (sumZ n m e k l d).1 < 0 ↔ value n m e + value k l d < 0 := by
  have h2 : (0 : ℚ) < 2 ^ (sumZ n m e k l d).2 := zpow_pos (by norm_num) _
  rw [← sumZ_value, ← zero_mul (2 ^ (sumZ n m e k l d).2 : ℚ), mul_lt_mul_iff_left₀ h2, Int.cast_lt_zero]

variable {m l} in
/-- Numbers of one sign have sum 0 only where both are 0. -/
theorem value_add_eq_zero (h : value n m e + value n l d = 0) : m = 0 ∧ l = 0 := by
  have h2 (j : ℤ) : (0 : ℚ) < 2 ^ j := zpow_pos (by norm_num) j
  have hm : (0 : ℚ) ≤ m * 2 ^ e := by positivity
  have hl : (0 : ℚ) ≤ l * 2 ^ d := by positivity
  have hsum : (m : ℚ) * 2 ^ e + l * 2 ^ d = 0 := by
    cases n <;> simp [value] at h <;> linarith
  have hm0 : (m : ℚ) * 2 ^ e = 0 := by linarith
  have hl0 : (l : ℚ) * 2 ^ d = 0 := by linarith
  simpa [(h2 e).ne', (h2 d).ne'] using And.intro hm0 hl0

end

/-! ### NaN operands -/

section
variable (a b : FVal)

@[simp] theorem FVal.isNan_exact : a.exact.isNan = a.isNan := by cases a <;> rfl

theorem FVal.exact_eq_snan : decide (a.exact = .nan true) = a.snan := by
  cases a with
  | nan s n => cases s <;> simp [FVal.exact, FVal.snan]
  | _ => simp [FVal.exact, FVal.snan]

theorem FVal.nanOf_exact : a.exact.nanOf b.exact = .nan (a.snan || b.snan) := by
  rw [ExactVal.nanOf, FVal.exact_eq_snan, FVal.exact_eq_snan]

@[simp] theorem FVal.exact_negv : a.negv.exact = a.exact.negate := by
  cases a with
  | fin n m e => simp [FVal.negv, FVal.exact, ExactVal.negate, value_neg]
  | _ => rfl

end

/-- A NaN operand makes every result the NaN of both operands. -/
theorem ExactVal.ops_nan {x y : ExactVal} (h : x.isNan = true ∨ y.isNan = true) (rm : Rm) :
    x.add rm y = x.nanOf y ∧ x.mul y = x.nanOf y ∧ x.div y = x.nanOf y := by
  cases x with
  | nan s => cases y <;> exact ⟨rfl, rfl, rfl⟩
  | inf n z => cases y with
    | nan s => exact ⟨rfl, rfl, rfl⟩
    | inf k w | num k v => simp [ExactVal.isNan] at h
  | num n u => cases y with
    | nan s => exact ⟨rfl, rfl, rfl⟩
    | inf k w | num k v => simp [ExactVal.isNan] at h

/-! ### Rounding an exact value -/

/-- A number with its fraction cut off. -/
theorem truncates_frac {q : ℕ} {E : ℤ} {φ : ℝ} {s : Bool} (h0 : 0 ≤ φ) (h1 : φ < 1) (hs : s = false ↔ φ = 0) :
    Truncates ((q + φ) * 2 ^ E) q E s := by
  refine ⟨mul_le_mul_of_nonneg_right (by linarith) (two_zpow_pos E).le,
    mul_lt_mul_of_pos_right (by linarith) (two_zpow_pos E), ?_⟩
  rw [hs, mul_left_inj' (two_zpow_pos E).ne', add_eq_left]

/-- A number given exactly is its own truncation. -/
theorem truncates_self (m : Nat) (e : ℤ) : Truncates (m * 2 ^ e) m e false :=
  ⟨le_rfl, mul_lt_mul_of_pos_right (lt_add_one _) (two_zpow_pos e), by simp⟩

section
variable {f : Fmt} (hf : f.Usual) (rm : Rm) (fo : Bool)
include hf

theorem roundF_rounds_value (n : Bool) {m : Nat} (e : ℤ) (hm : 0 < m) :
    Rounds f rm fo (value n m e : ℚ) (roundF f rm fo n m e false) := by
  rw [value_cast]
  exact roundF_rounds hf hm (truncates_self m e) (by simp) fo

omit hf in
theorem gives_nanRes (s : Bool) : Gives f rm fo (.nan s) (nanRes f s) := nanRes_eq f s

theorem roundV_gives (a : FVal) : Gives f rm fo a.exact (roundV f rm fo a) := by
  cases a with
  | nan s n => exact gives_nanRes rm fo s
  | inf n => rfl
  | fin n m e =>
    refine ⟨fun h => if_pos ((value_eq_zero n m e).1 h), fun h => ?_⟩
    have hm : m ≠ 0 := fun hm => h ((value_eq_zero n m e).2 hm)
    rw [roundV, if_neg hm]
    exact roundF_rounds_value hf rm fo n e (Nat.pos_of_ne_zero hm)

/-- The sum of two numbers rounds once; an exact zero sum has the sign of 05 R100. -/
theorem addV_fin_gives (n : Bool) (m : Nat) (e : ℤ) (k : Bool) (l : Nat) (d : ℤ) :
    Gives f rm fo (.num (if n = k then n else decide (rm = .rdn)) (value n m e + value k l d))
      (addV f rm fo (.fin n m e) (.fin k l d)) := by
  unfold addV
  by_cases hz : m = 0 ∧ l = 0
  · have hsum : value n m e + value k l d = 0 := by
      rw [(value_eq_zero n m e).2 hz.1, (value_eq_zero k l d).2 hz.2, add_zero]
    simp only [if_pos hz]
    refine ⟨fun _ => ?_, fun h => absurd hsum h⟩
    simp only [zeroSum, beq_iff_eq]
  · simp only [if_neg hz, sumZ_eq_zero]
    refine ⟨fun h => ?_, fun h => ?_⟩
    · have hnk : n ≠ k := by
        rintro rfl
        exact hz (value_add_eq_zero n e d h)
      rw [if_pos h, if_neg hnk]
      rfl
    · rw [if_neg h, ← sumZ_value, ← value_natAbs]
      have hpos : 0 < (sumZ n m e k l d).1.natAbs := Int.natAbs_pos.2 fun h0 => h ((sumZ_eq_zero n k m l e d).1 h0)
      exact roundF_rounds_value hf rm fo _ _ hpos

/-- Sums round once (05 R100). -/
theorem addV_gives (a b : FVal) : Gives f rm fo (a.exact.add rm b.exact) (addV f rm fo a b) := by
  by_cases hnan : a.isNan = true ∨ b.isNan = true
  · have h := (ExactVal.ops_nan (x := a.exact) (y := b.exact) (by simpa using hnan) rm).1
    rw [h, FVal.nanOf_exact, addV_nan f rm fo a b hnan]
    exact gives_nanRes rm fo _
  · cases a with
    | nan s n => simp [FVal.isNan] at hnan
    | inf n => cases b with
      | nan s k => simp [FVal.isNan] at hnan
      | inf k =>
        by_cases h : n = k
        · simp [addV, FVal.exact, ExactVal.add, h, Gives]
        · simpa [addV, FVal.exact, ExactVal.add, h] using gives_nanRes rm fo true
      | fin k l d => rfl
    | fin n m e => cases b with
      | nan s k => simp [FVal.isNan] at hnan
      | inf k => rfl
      | fin k l d => exact addV_fin_gives hf rm fo n m e k l d

omit hf in
/-- The exact product of the model. -/
theorem mulV_exact (a b : FVal) : a.exact.mul b.exact = if (mulV a b).2 then .nan true else (mulV a b).1.exact := by
  by_cases hnan : a.isNan = true ∨ b.isNan = true
  · obtain ⟨n, hn⟩ := mulV_nan a b hnan
    rw [(ExactVal.ops_nan (x := a.exact) (y := b.exact) (by simpa using hnan) .rne).2.1, FVal.nanOf_exact, hn]
    rfl
  · cases a with
    | nan s n => simp [FVal.isNan] at hnan
    | inf n => cases b with
      | nan s k => simp [FVal.isNan] at hnan
      | inf k => rfl
      | fin k l d => by_cases h : l = 0 <;> simp [FVal.exact, ExactVal.mul, mulV, h]
    | fin n m e => cases b with
      | nan s k => simp [FVal.isNan] at hnan
      | inf k => by_cases h : m = 0 <;> simp [FVal.exact, ExactVal.mul, mulV, h]
      | fin k l d => simp [FVal.exact, ExactVal.mul, mulV, value_mul]

/-- Products round once (05 R100). -/
theorem mulF_gives (a b : FVal) : Gives f rm fo (a.exact.mul b.exact) (mulF f rm fo a b) := by
  rw [mulV_exact, mulF]
  cases (mulV a b).2 with
  | true => exact gives_nanRes rm fo true
  | false => exact roundV_gives hf rm fo _

/-- The fused operation rounds once; an invalid product makes it invalid whatever the addend (05 R100). -/
theorem fmaF_gives (a b c : FVal) : Gives f rm fo ((a.exact.mul b.exact).add rm c.exact) (fmaF f rm fo a b c) := by
  rw [mulV_exact]
  cases h : (mulV a b).2 with
  | true =>
    have hres : fmaF f rm fo a b c = nanRes f true := by
      unfold fmaF
      dsimp only
      rw [h, if_pos rfl]
    rw [if_pos rfl, (ExactVal.ops_nan (.inl rfl) rm).1, hres]
    exact gives_nanRes rm fo true
  | false =>
    rw [if_neg Bool.false_ne_true, fmaF_valid f rm fo a b c (Prod.ext rfl h)]
    exact addV_gives hf rm fo _ c

/-- An integer rounds once (05 R104). -/
theorem ofIntF_gives (z : ℤ) : Gives f rm fo (.num false z) (ofIntF f rm fo z) := by
  unfold ofIntF
  refine ⟨fun h => if_pos (by exact_mod_cast h), fun h => ?_⟩
  have hz : z ≠ 0 := by exact_mod_cast h
  rw [if_neg hz, show (z : ℚ) = z * 2 ^ (0 : ℤ) by simp, ← value_natAbs]
  exact roundF_rounds_value hf rm fo _ _ (Int.natAbs_pos.2 hz)

omit hf in
/-- A quotient of significands with its fraction cut off. -/
theorem div_truncates (m : Nat) {l : Nat} (hl : 0 < l) (e d : ℤ) (s : ℕ) :
    Truncates ((m * 2 ^ e) / (l * 2 ^ d) : ℝ) (m * 2 ^ s / l) (e - d - Int.ofNat s) (!(m * 2 ^ s % l == 0)) := by
  have hl' : (0 : ℝ) < l := by exact_mod_cast hl
  have hdivmod : (m : ℝ) * 2 ^ s = (m * 2 ^ s / l : ℕ) * l + (m * 2 ^ s % l : ℕ) := by
    exact_mod_cast (Nat.div_add_mod' (m * 2 ^ s) l).symm
  have hrem : ((m * 2 ^ s % l : ℕ) : ℝ) < l := by exact_mod_cast Nat.mod_lt _ hl
  have hexp : (2 : ℝ) ^ e = 2 ^ s * (2 ^ d * 2 ^ (e - d - Int.ofNat s)) := by
    rw [← zpow_natCast, ← zpow_add₀ (by norm_num), ← zpow_add₀ (by norm_num)]
    congr 1; simp only [Int.ofNat_eq_natCast]; omega
  have hval : (m * 2 ^ e) / (l * 2 ^ d) =
      ((m * 2 ^ s / l : ℕ) + (m * 2 ^ s % l : ℕ) / l : ℝ) * 2 ^ (e - d - Int.ofNat s) := by
    have hd := two_zpow_pos d
    rw [hexp, ← mul_assoc, hdivmod]
    field_simp
  rw [hval]
  refine truncates_frac (by positivity) (by rwa [div_lt_one hl']) ?_
  simp [hl'.ne']

omit hf in
/-- The quotient of the model has 33 bits at least. -/
theorem lt_bitLen_div {m l : Nat} (hm : 0 < m) (hl : 0 < l) : 32 < bitLen (m * 2 ^ (32 + bitLen l) / l) := by
  rw [lt_bitLen_iff, Nat.le_div_iff_mul_le hl, pow_add]
  have h : l ≤ 2 ^ bitLen l := (bitLen_le_iff.1 le_rfl).le
  calc 2 ^ 32 * l ≤ 2 ^ 32 * 2 ^ bitLen l := Nat.mul_le_mul_left _ h
    _ ≤ m * (2 ^ 32 * 2 ^ bitLen l) := Nat.le_mul_of_pos_left _ hm

/-- Quotients round once (05 R100, R105). -/
theorem divF_gives (hfb : f.fb ≤ 31) (a b : FVal) : Gives f rm fo (a.exact.div b.exact) (divF f rm fo a b) := by
  by_cases hnan : a.isNan = true ∨ b.isNan = true
  · have h := (ExactVal.ops_nan (x := a.exact) (y := b.exact) (by simpa using hnan) rm).2.2
    rw [h, FVal.nanOf_exact, divF_nan f rm fo a b hnan]
    exact gives_nanRes rm fo _
  · cases a with
    | nan s n => simp [FVal.isNan] at hnan
    | inf n => cases b with
      | nan s k => simp [FVal.isNan] at hnan
      | inf k => exact gives_nanRes rm fo true
      | fin k l d => rfl
    | fin n m e => cases b with
      | nan s k => simp [FVal.isNan] at hnan
      | inf k => exact ⟨fun _ => rfl, fun h => absurd rfl h⟩
      | fin k l d =>
        simp only [FVal.exact, ExactVal.div, divF, value_eq_zero]
        by_cases hl : l = 0
        · rw [if_pos hl, if_pos hl]
          by_cases hm : m = 0
          · rw [if_pos hm, if_pos hm]
            exact gives_nanRes rm fo true
          · rw [if_neg hm, if_neg hm]
            rfl
        · rw [if_neg hl, if_neg hl]
          refine ⟨fun h => if_pos ?_, fun h => ?_⟩
          · simpa [hl] using h
          · have hm : m ≠ 0 := by
              rintro rfl
              simp [(value_eq_zero n 0 e).2 rfl] at h
            have hpos := Nat.pos_of_ne_zero hl
            have hbits := lt_bitLen_div (Nat.pos_of_ne_zero hm) hpos
            have hQ : 0 < m * 2 ^ (32 + bitLen l) / l := by
              by_contra h0
              rw [Nat.eq_zero_of_not_pos h0, bitLen_zero] at hbits
              omega
            have hval : ((value n m e / value k l d : ℚ) : ℝ) = signed (n != k) ((m * 2 ^ e) / (l * 2 ^ d)) := by
              rw [Rat.cast_div, value_cast, value_cast]
              cases n <;> cases k <;> simp [neg_div, div_neg]
            rw [if_neg hm, hval]
            exact roundF_rounds hf hQ (div_truncates m hpos e d _) (fun _ => by omega) fo

end

end Sys2Proof.Machine
end

section
/-! Source codes (05 R94, R97): flushed subnormals, the range of what a code holds, and that a code is determined by
its sign and its number. -/

namespace Sys2Proof.Machine

variable {f : Fmt}

/-! ### A code is its fields -/

theorem signBit_codeNeg {c : Nat} (hc : c < 2 ^ (1 + f.eb + f.fb)) :
    signBit f (codeNeg f c) = c / 2 ^ (f.eb + f.fb) * 2 ^ (f.eb + f.fb) := by
  have hlt : c / 2 ^ (f.eb + f.fb) < 2 := by
    rw [Nat.div_lt_iff_lt_mul (by positivity), ← pow_succ']
    convert hc using 2; ring
  rw [signBit_eq, codeNeg, Nat.testBit_eq_decide_div_mod_eq, Nat.mod_eq_of_lt hlt]
  interval_cases h : c / 2 ^ (f.eb + f.fb) <;> rfl

theorem code_eq_fields {c : Nat} (hc : c < 2 ^ (1 + f.eb + f.fb)) :
    c = signBit f (codeNeg f c) + c / 2 ^ f.fb % 2 ^ f.eb * 2 ^ f.fb + c % 2 ^ f.fb := by
  have hdiv : c / 2 ^ (f.eb + f.fb) = c / 2 ^ f.fb / 2 ^ f.eb := by
    rw [Nat.div_div_eq_div_mul, ← pow_add, add_comm]
  have h1 := Nat.div_add_mod' c (2 ^ f.fb)
  have h2 := Nat.div_add_mod' (c / 2 ^ f.fb) (2 ^ f.eb)
  rw [signBit_codeNeg hc, hdiv]
  calc c = (c / 2 ^ f.fb / 2 ^ f.eb * 2 ^ f.eb + c / 2 ^ f.fb % 2 ^ f.eb) * 2 ^ f.fb + c % 2 ^ f.fb := by rw [h2, h1]
    _ = _ := by rw [pow_add]; ring

theorem inFormat_lt (f : Fmt) (flush : Bool) (c : Nat) : inFormat f flush c < 2 ^ (1 + f.eb + f.fb) := by
  have h : c % 2 ^ (1 + f.eb + f.fb) < 2 ^ (1 + f.eb + f.fb) := Nat.mod_lt _ (by positivity)
  unfold inFormat
  dsimp only
  split
  · exact (Nat.div_mul_le_self _ _).trans_lt h
  · exact h

/-- The model's flush of a subnormal source is In of 05 R97. -/
theorem fin_eq_inFormat (f : Fmt) (flush : Bool) (c : Nat) :
    fin f flush (c % 2 ^ (1 + f.eb + f.fb)) = inFormat f flush c := by
  have hc : c % 2 ^ (1 + f.eb + f.fb) < 2 ^ (1 + f.eb + f.fb) := Nat.mod_lt _ (by positivity)
  unfold fin inFormat isSub
  rw [bits_exponent, bits_fraction, tbit_sign]
  dsimp only
  generalize c % 2 ^ (1 + f.eb + f.fb) = k at hc ⊢
  have hk := code_eq_fields hc
  cases flush with
  | false => rfl
  | true =>
    by_cases hex : k / 2 ^ f.fb % 2 ^ f.eb = 0
    · rw [hex, zero_mul, add_zero, signBit_codeNeg hc] at hk
      by_cases hfr : k % 2 ^ f.fb = 0
      · rw [hfr, add_zero] at hk
        simpa [hex, hfr] using hk
      · simpa [hex, hfr] using signBit_codeNeg hc
    · simp [hex]

theorem in32_eq (fp : Fp) (x : Nat) : in32 fp x = inFormat fp32 fp.fin x := fin_eq_inFormat fp32 fp.fin x

theorem half16_eq (fp : Fp) (x h : Nat) : half16 fp x h = decodeF bf16 (inFormat bf16 fp.fin (x / 2 ^ (16 * h))) := by
  rw [← fin_eq_inFormat]
  rfl

/-! ### What a code holds -/

/-- The sign of a decoded value. -/
def FVal.neg : FVal → Bool
  | .nan _ n => n
  | .inf n => n
  | .fin n _ _ => n

theorem neg_decodeF (f : Fmt) (c : Nat) : (decodeF f c).neg = codeNeg f c := by
  unfold decodeF
  dsimp only
  rw [tbit_sign]
  split_ifs <;> rfl

section
variable {c : Nat} {n : Bool}

theorem codeNeg_of_nan {s : Bool} (h : decodeF f c = .nan s n) : codeNeg f c = n := by rw [← neg_decodeF, h]; rfl

theorem codeNeg_of_inf (h : decodeF f c = .inf n) : codeNeg f c = n := by rw [← neg_decodeF, h]; rfl

theorem codeNeg_of_fin {m : Nat} {e : ℤ} (h : decodeF f c = .fin n m e) : codeNeg f c = n := by
  rw [← neg_decodeF, h]; rfl

end

/-- The significand and the exponent of a finite code, by its fields. -/
theorem decodeF_fin {c : Nat} {n : Bool} {m : Nat} {e : ℤ} (h : decodeF f c = .fin n m e) :
    let ex := c / 2 ^ f.fb % 2 ^ f.eb
    let fr := c % 2 ^ f.fb
    ex = 0 ∧ m = fr ∧ e = f.qmin
      ∨ 0 < ex ∧ m = 2 ^ f.fb + fr ∧ e = ex - f.bias - f.fb
        ∧ (ex = 2 ^ f.eb - 1 → f.ocp = true ∧ fr ≠ 2 ^ f.fb - 1) := by
  unfold decodeF at h
  dsimp only at h ⊢
  rw [bits_exponent, bits_fraction] at h
  by_cases hex : c / 2 ^ f.fb % 2 ^ f.eb = 0
  · rw [if_pos hex, FVal.fin.injEq] at h
    obtain ⟨-, hm, he⟩ := h
    exact .inl ⟨hex, hm.symm, he.symm⟩
  · refine .inr ⟨Nat.pos_of_ne_zero hex, ?_⟩
    rw [if_neg hex] at h
    split_ifs at h with h1 h2 h3
    rw [FVal.fin.injEq] at h
    obtain ⟨-, hm, he⟩ := h
    refine ⟨hm.symm, he.symm, fun hones => ?_⟩
    rw [beq_iff_eq.2 hones] at h1 h2
    have hocp : f.ocp = true := by simpa using h2
    exact ⟨hocp, by simpa [hocp] using h1⟩

/-- A finite code's number is normalised or has the quantum as its unit, and lies in the format's range. -/
theorem decodeF_range (hf : f.Usual) {c : Nat} {n : Bool} {m : Nat} {e : ℤ} (h : decodeF f c = .fin n m e) :
    m < 2 ^ (f.fb + 1) ∧ f.qmin ≤ e ∧ (2 ^ f.fb ≤ m ∨ e = f.qmin) ∧ (m : ℝ) * 2 ^ e ≤ f.largest := by
  have hfr : c % 2 ^ f.fb < 2 ^ f.fb := Nat.mod_lt _ (by positivity)
  have hex : c / 2 ^ f.fb % 2 ^ f.eb < 2 ^ f.eb := Nat.mod_lt _ (by positivity)
  have hpow : 2 ^ (f.fb + 1) = 2 * 2 ^ f.fb := by ring
  have hmax := hf.qmin_lt_qmax
  rcases decodeF_fin h with ⟨-, rfl, rfl⟩ | ⟨hpos, rfl, rfl, hones⟩
  · refine ⟨by omega, le_rfl, .inr rfl, not_lt.1 ?_⟩
    rw [hf.largest_lt_iff (by omega) (.inr hmax)]
    omega
  · refine ⟨by omega, by unfold Fmt.qmin; omega, .inl (by omega), not_lt.1 ?_⟩
    rw [hf.largest_lt_iff (by omega) (.inl (by omega))]
    unfold Fmt.qmax Fmt.topField Fmt.topSig
    cases hocp : f.ocp with
    | true =>
      have hnan (h : c / 2 ^ f.fb % 2 ^ f.eb = 2 ^ f.eb - 1) := (hones h).2
      simp only [if_true]
      omega
    | false =>
      have hlt : c / 2 ^ f.fb % 2 ^ f.eb ≠ 2 ^ f.eb - 1 := fun h => by simp [hocp] at hones; exact hones h
      simp only [Bool.false_eq_true, if_false]
      omega

/-- Of two equal numbers the one with the larger unit is not normalised further. -/
theorem exponent_le_of_eq {p m m' : Nat} {e e' q : ℤ} (hm : m < 2 ^ (p + 1)) (hnorm' : 2 ^ p ≤ m' ∨ e' = q) (hq : q ≤ e)
    (hval : (m : ℝ) * 2 ^ e = m' * 2 ^ e') : e' ≤ e := by
  by_contra hlt
  have hm' : (2 : ℝ) ^ p ≤ m' := by exact_mod_cast hnorm'.resolve_right (by omega)
  have hm0 : (m : ℝ) < 2 ^ (p + 1) := by exact_mod_cast hm
  refine absurd hval (ne_of_lt ?_)
  calc (m : ℝ) * 2 ^ e < 2 ^ (p + 1) * 2 ^ e := mul_lt_mul_of_pos_right hm0 (two_zpow_pos e)
    _ = 2 ^ p * 2 ^ (e + 1) := by rw [zpow_add_one₀ (by norm_num)]; ring
    _ ≤ m' * 2 ^ e' := mul_le_mul hm' (zpow_le_zpow_right₀ (by norm_num) (by omega)) (two_zpow_pos _).le (by positivity)

/-- A finite code is determined by its sign and its number. -/
theorem decodeF_injective (hf : f.Usual) {c c' : Nat} (hc : c < 2 ^ (1 + f.eb + f.fb))
    (hc' : c' < 2 ^ (1 + f.eb + f.fb)) {n : Bool} {m m' : Nat} {e e' : ℤ} (h : decodeF f c = .fin n m e) (h' : decodeF f c' = .fin n m' e')
    (hval : (m : ℝ) * 2 ^ e = m' * 2 ^ e') : c = c' := by
  obtain ⟨hm, hq, hnorm, -⟩ := decodeF_range hf h
  obtain ⟨hm', hq', hnorm', -⟩ := decodeF_range hf h'
  obtain rfl : e = e' := le_antisymm (exponent_le_of_eq hm' hnorm hq' hval.symm) (exponent_le_of_eq hm hnorm' hq hval)
  obtain rfl : m = m' := by exact_mod_cast mul_right_cancel₀ (two_zpow_pos e).ne' hval
  have hfields : c / 2 ^ f.fb % 2 ^ f.eb = c' / 2 ^ f.fb % 2 ^ f.eb ∧ c % 2 ^ f.fb = c' % 2 ^ f.fb := by
    have hfr : c % 2 ^ f.fb < 2 ^ f.fb := Nat.mod_lt _ (by positivity)
    have hfr' : c' % 2 ^ f.fb < 2 ^ f.fb := Nat.mod_lt _ (by positivity)
    rcases decodeF_fin h with ⟨h0, h1, -⟩ | ⟨h0, h1, h2, -⟩ <;>
      rcases decodeF_fin h' with ⟨h0', h1', -⟩ | ⟨h0', h1', h2', -⟩ <;> omega
  rw [code_eq_fields hc, code_eq_fields hc', codeNeg_of_fin h, codeNeg_of_fin h', hfields.1, hfields.2]

/-- An infinity's code is determined by its sign. -/
theorem eq_infCode {c : Nat} {n : Bool} (hc : c < 2 ^ (1 + f.eb + f.fb)) (h : decodeF f c = .inf n) :
    c = infCode f n := by
  have hfields : c / 2 ^ f.fb % 2 ^ f.eb = 2 ^ f.eb - 1 ∧ c % 2 ^ f.fb = 0 := by
    unfold decodeF at h
    dsimp only at h
    rw [bits_exponent, bits_fraction] at h
    split_ifs at h with h0 h1 h2 h3
    simp only [Bool.and_eq_true, beq_iff_eq] at h2
    exact ⟨h2.2, h3⟩
  rw [code_eq_fields hc, codeNeg_of_inf h, hfields.1, hfields.2, add_zero, infCode]

end Sys2Proof.Machine
end

section
/-! Conversions between formats (05 R104): narrowing rounds once, widening is exact. -/

namespace Sys2Proof.Machine

/-- A member of the set is its own rounding. -/
theorem RoundsInto.eq_self {S E : ℝ → Prop} {rm : Rm} {x y : ℝ} (h : RoundsInto S E rm x y) (hx : S x) : y = x := by
  obtain ⟨-, h⟩ := h
  cases rm with
  | rne =>
    have hle := (h x hx).1
    rw [sub_self, abs_zero] at hle
    exact (sub_eq_zero.1 (abs_nonpos_iff.1 hle)).symm
  | rtz =>
    obtain ⟨hsign, hle, hmax⟩ := h
    rcases abs_eq_abs.1 (le_antisymm hle (hmax x hx (mul_self_nonneg x) le_rfl)) with heq | heq
    · exact heq
    · have hx0 : x = 0 := by
        rw [heq] at hsign
        nlinarith
      rw [heq, hx0, neg_zero]
  | rdn => exact le_antisymm h.1 (h.2 x hx le_rfl)
  | rup => exact le_antisymm (h.2 x hx le_rfl) h.1

section
variable {f : Fmt} {rm : Rm}

/-- A number of the format rounds to itself without a flag. -/
theorem Rounds.exact {x : ℝ} {r : FRes} (h : Rounds f rm false x r) (hx : OnGrid (f.fb + 1) f.qmin x)
    (hle : |x| ≤ f.largest) : ∃ y : ℚ, (y : ℝ) = x ∧ codeNum f r.v = some y ∧ (codeNeg f r.v = true ↔ x < 0)
      ∧ r.v < 2 ^ (1 + f.eb + f.fb) ∧ r.fl = 0 := by
  obtain ⟨u, hu, -, -, h⟩ := h
  obtain rfl := hu.eq_self hx.significant
  obtain ⟨y, hy, hlt, hnum, hneg, hfl, -⟩ := h hle fun _ => rfl
  have hyu := hy.eq_self hx
  exact ⟨y, hyu, hnum, hneg, hlt, hfl hyu⟩

variable (hf : f.Usual)
include hf

theorem roundF_exact (n : Bool) {m : Nat} {e : ℤ} (hm : 0 < m) (hgrid : OnGrid (f.fb + 1) f.qmin (m * 2 ^ e))
    (hle : (m : ℝ) * 2 ^ e ≤ f.largest) :
    let r := roundF f rm false n m e false
    codeNum f r.v = some (value n m e) ∧ codeNeg f r.v = n ∧ r.v < 2 ^ (1 + f.eb + f.fb) ∧ r.fl = 0 := by
  have hpos : (0 : ℝ) < m * 2 ^ e := mul_pos (by exact_mod_cast hm) (two_zpow_pos e)
  have hrounds := roundF_rounds_value hf rm false n e hm
  rw [value_cast] at hrounds
  obtain ⟨y, hy, hnum, hneg, hlt, hfl⟩ := hrounds.exact
    (by cases n with
      | true => exact hgrid.neg
      | false => exact hgrid)
    (by rwa [abs_signed, abs_of_pos hpos])
  rw [← value_cast, Rat.cast_inj] at hy
  refine ⟨by rw [hnum, hy], ?_, hlt, hfl⟩
  cases n with
  | true => exact hneg.2 (by simpa using hpos)
  | false => rw [← Bool.not_eq_true, hneg]; simpa using hpos.le

omit hf in
/-- The code of a zero. -/
theorem signBit_code (n : Bool) : codeNum f (signBit f n) = some 0 ∧ codeNeg f (signBit f n) = n
    ∧ signBit f n < 2 ^ (1 + f.eb + f.fb) := by
  have hfr : 0 < 2 ^ f.fb := by positivity
  have hdec := decodeF_subnormal f n hfr
  have hneg := codeNeg_fields (neg := n) (show 0 < 2 ^ f.eb by positivity) hfr
  have hlt := code_lt (neg := n) (show 0 < 2 ^ f.eb by positivity) hfr
  rw [zero_mul, add_zero, add_zero] at hdec hneg hlt
  refine ⟨?_, hneg, hlt⟩
  rw [codeNum_eq, hdec]
  simp

/-- Narrowing rounds once (05 R104). -/
theorem convF_narrow (fo : Bool) (c : Nat) : NarrowIs f rm fo c (convF fp32 f rm fo c) := by
  unfold NarrowIs convF
  rw [codeVal_eq]
  cases h : decodeF fp32 c with
  | nan s n =>
    rw [codeNeg_of_nan h]
    cases s <;> rfl
  | inf n => rfl
  | fin n m e =>
    refine ⟨fun hz => if_pos ((value_eq_zero n m e).1 hz), fun hz => ?_⟩
    have hm : m ≠ 0 := fun hm => hz ((value_eq_zero n m e).2 hm)
    dsimp only
    rw [if_neg hm]
    exact roundF_rounds_value hf rm fo n e (Nat.pos_of_ne_zero hm)

/-- Widening is exact (05 R104). -/
theorem convF_wide (hfb : f.fb ≤ 23) (hq : -149 ≤ f.qmin) (hmax : f.largest ≤ fp32.largest) (c : Nat) :
    WideIs f c (convF f fp32 .rne false c) := by
  unfold WideIs convF
  rw [codeVal_eq]
  cases h : decodeF f c with
  | nan s n => cases s <;> rfl
  | inf n => rfl
  | fin n m e =>
    obtain ⟨hm, he, -, hle⟩ := decodeF_range hf h
    dsimp only [FVal.exact]
    by_cases hz : m = 0
    · obtain ⟨hnum, hneg, hlt⟩ := signBit_code (f := fp32) n
      rw [if_pos hz, (value_eq_zero n m e).2 hz]
      exact ⟨hnum, hneg, hlt, rfl⟩
    · rw [if_neg hz]
      refine roundF_exact usual_fp32 n (Nat.pos_of_ne_zero hz) ?_ (hle.trans (by exact_mod_cast hmax))
      have hm24 : m ≤ 2 ^ 24 := hm.le.trans (Nat.pow_le_pow_right (by norm_num) (by omega))
      exact (onGrid_of_le (p := 24) (by norm_num) hm24).mono (hq.trans he)

end

theorem wide_bf16 (c : Nat) : WideIs bf16 c (convF bf16 fp32 .rne false c) :=
  convF_wide usual_bf16 (by decide) (by decide) (by norm_num [Fmt.largest, bf16, fp32]) c
theorem wide_fp16 (c : Nat) : WideIs fp16 c (convF fp16 fp32 .rne false c) :=
  convF_wide usual_fp16 (by decide) (by decide) (by norm_num [Fmt.largest, fp16, fp32]) c
theorem wide_e4m3 (c : Nat) : WideIs e4m3 c (convF e4m3 fp32 .rne false c) :=
  convF_wide usual_e4m3 (by decide) (by decide) (by norm_num [Fmt.largest, e4m3, fp32]) c
theorem wide_e5m2 (c : Nat) : WideIs e5m2 c (convF e5m2 fp32 .rne false c) :=
  convF_wide usual_e5m2 (by decide) (by decide) (by norm_num [Fmt.largest, e5m2, fp32]) c

end Sys2Proof.Machine
end

section
/-! Rounding to integers: FRND (16 R347) and the conversions to integers (05 R104). -/

namespace Sys2Proof.Machine

/-- An integer with a sign. -/
def signedInt (n : Bool) (k : Nat) : ℤ := if n then -Int.ofNat k else Int.ofNat k

theorem signedInt_cast (n : Bool) (k : Nat) : ((signedInt n k : ℤ) : ℝ) = signed n k := by cases n <;> simp [signedInt]

theorem signedInt_value (n : Bool) (k : Nat) : ((signedInt n k : ℤ) : ℚ) = value n k 0 := by
  cases n <;> simp [signedInt, value]

section
variable (rm : Rm) (n : Bool) (m : Nat) (e : ℤ)

/-- The model's rounding to an integer. -/
theorem roundInt_whole :
    RoundsInto Whole WholeEven rm (value n m e : ℚ) (signedInt n (roundInt rm n m e 0 false).1 : ℤ)
      ∧ ((roundInt rm n m e 0 false).2 = false
        ↔ ((signedInt n (roundInt rm n m e 0 false).1 : ℤ) : ℚ) = value n m e) := by
  obtain ⟨hround, hinexact⟩ := roundInt_spec (rm := rm) (neg := n) (q := 0) (truncates_self m e) (by simp)
  rw [zpow_zero, div_one] at hround
  rw [zpow_zero, mul_one] at hinexact
  generalize (roundInt rm n m e 0 false).1 = k at *
  constructor
  · rw [value_cast, signedInt_cast]
    refine RoundsInto.signed (fun _ => Whole.neg) (fun _ => WholeEven.neg) ?_
    have h := hround.roundsInto (S := Whole) (E := WholeEven) (lo := 0) (unit := 1) one_pos
      (by rw [Nat.cast_zero]; exact mul_nonneg (Nat.cast_nonneg m) (two_zpow_pos e).le)
      ⟨k, by push_cast; ring⟩ (fun heven => ⟨(k / 2 : ℕ), ?_⟩) gridNear_whole
    · rwa [mul_one, mul_one] at h
    · have hk : k = 2 * (k / 2) := by omega
      rw [mul_one]
      exact_mod_cast hk
  · rw [hinexact, ← Rat.cast_inj (α := ℝ), value_cast, Rat.cast_intCast, signedInt_cast, signed_inj, eq_comm]

end

/-- Conversion to an integer (05 R104). -/
theorem toIntF_is (rm : Rm) (sg : Bool) (c : Nat) :
    IntegerIs rm (if sg then -2 ^ 31 else 0) (if sg then 2 ^ 31 - 1 else 2 ^ 32 - 1) (codeVal fp32 c)
      (toIntF fp32 rm sg c) := by
  have hwrap (k : ℤ) : wrapNat 32 k = (k % 2 ^ 32).toNat := rfl
  rw [codeVal_eq]
  unfold IntegerIs toIntF
  cases h : decodeF fp32 c with
  | nan s n => rfl
  | inf n => cases sg <;> rfl
  | fin n m e =>
    obtain ⟨hround, hexact⟩ := roundInt_whole rm n m e
    refine ⟨_, hround, ?_⟩
    simp only [hwrap, ← hexact]
    cases (roundInt rm n m e 0 false).2 <;> cases sg <;> rfl

/-- Rounding a number of the format to an integer leaves it in the format. -/
theorem roundInt_onGrid (rm : Rm) (n : Bool) {m : Nat} {e : ℤ} (hm : m < 2 ^ 24) (he : fp32.qmin ≤ e)
    (hle : (m : ℝ) * 2 ^ e ≤ fp32.largest) :
    OnGrid 24 fp32.qmin ((roundInt rm n m e 0 false).1 * 2 ^ (0 : ℤ))
      ∧ ((roundInt rm n m e 0 false).1 : ℝ) * 2 ^ (0 : ℤ) ≤ fp32.largest := by
  by_cases h0 : 0 ≤ e
  · have hval : ((roundInt rm n m e 0 false).1 : ℝ) * 2 ^ (0 : ℤ) = m * 2 ^ e := by
      rw [roundInt, if_pos h0, zpow_zero, mul_one, sub_zero]
      push_cast
      rw [← zpow_natCast, Int.toNat_of_nonneg h0]
    rw [hval]
    exact ⟨(onGrid_of_le (by norm_num) hm.le).mono he, hle⟩
  · have hround := (roundInt_spec (rm := rm) (neg := n) (q := 0) (truncates_self m e) (by simp)).1
    have hsmall : (m : ℝ) * 2 ^ e / 2 ^ (0 : ℤ) ≤ (2 ^ 24 : ℕ) := by
      rw [zpow_zero, div_one]
      calc (m : ℝ) * 2 ^ e ≤ m * 2 ^ (0 : ℤ) :=
            mul_le_mul_of_nonneg_left (zpow_le_zpow_right₀ (by norm_num) (by omega)) (Nat.cast_nonneg m)
        _ ≤ (2 ^ 24 : ℕ) := by rw [zpow_zero, mul_one]; exact_mod_cast hm.le
    have hk := hround.le hsmall
    refine ⟨(onGrid_of_le (by norm_num) hk).mono (by decide), ?_⟩
    have hk' : ((roundInt rm n m e 0 false).1 : ℝ) ≤ (2 ^ 24 : ℕ) := by exact_mod_cast hk
    rw [zpow_zero, mul_one]
    refine hk'.trans ?_
    norm_num [Fmt.largest, fp32]

/-- FRND (16 R347). -/
theorem frndF_is (rm : Rm) {c : Nat} (hc : c < 2 ^ 32) : IntegralIs rm c (frndF fp32 rm c) := by
  unfold IntegralIs frndF
  rw [codeVal_eq]
  cases h : decodeF fp32 c with
  | nan s n => cases s <;> rfl
  | inf n => rfl
  | fin n m e =>
    obtain ⟨hm, he, -, hle⟩ := decodeF_range usual_fp32 h
    have hround := (roundInt_whole rm n m e).1
    have hint := signedInt_value n (roundInt rm n m e 0 false).1
    refine ⟨_, hround, ?_⟩
    dsimp only
    rw [hint]
    by_cases hz : m = 0
    · have hx := (value_eq_zero n m e).2 hz
      have hk := hround.eq_self (by rw [hx]; exact ⟨0, by simp⟩)
      rw [hx, Rat.cast_zero, Int.cast_eq_zero] at hk
      rw [← hint, hk, if_pos hz]
      refine ⟨?_, codeNeg_of_fin h, hc, rfl⟩
      rw [codeNum_eq, h]
      simpa using hx
    · rw [if_neg hz]
      by_cases hr : (roundInt rm n m e 0 false).1 = 0
      · obtain ⟨hnum, hneg, hlt⟩ := signBit_code (f := fp32) n
        rw [if_pos hr, (value_eq_zero n _ 0).2 hr]
        exact ⟨hnum, hneg, hlt, rfl⟩
      · obtain ⟨hgrid, hmax⟩ := roundInt_onGrid rm n hm he hle
        obtain ⟨hnum, hneg, hlt, -⟩ := roundF_exact (rm := rm) usual_fp32 n (Nat.pos_of_ne_zero hr) hgrid hmax
        rw [if_neg hr]
        exact ⟨hnum, hneg, hlt, rfl⟩

end Sys2Proof.Machine
end

section
/-! Comparisons, minimum and maximum (05 R100; 16 R338, R339, R344). -/

namespace Sys2Proof.Machine

theorem sumZ_pos (n : Bool) (m : Nat) (e : ℤ) (k : Bool) (l : Nat) (d : ℤ) :
    0 < (sumZ n m e k l d).1 ↔ 0 < value n m e + value k l d := by
  have hz := sumZ_eq_zero n k m l e d
  have hn := sumZ_neg n k m l e d
  rw [← not_le, ← not_le, le_iff_lt_or_eq, le_iff_lt_or_eq, hn, hz]

section
variable {a b : FVal} (ha : a.isNan = false) (hb : b.isNan = false)
include ha hb

/-- The sign that the model compares by is the order of the exact values. -/
theorem cmpV_sign : (cmpV a b < 0 ↔ a.exact.below b.exact = true) ∧ (0 < cmpV a b ↔ b.exact.below a.exact = true) := by
  cases a with
  | nan s n => cases ha
  | inf n => cases b with
    | nan s k => cases hb
    | inf k => cases n <;> cases k <;> simp [cmpV, FVal.exact, ExactVal.below]
    | fin k l d => cases n <;> simp [cmpV, FVal.exact, ExactVal.below]
  | fin n m e => cases b with
    | nan s k => cases hb
    | inf k => cases k <;> simp [cmpV, FVal.exact, ExactVal.below]
    | fin k l d =>
      simp only [cmpV, FVal.exact, ExactVal.below, decide_eq_true_eq]
      rw [sumZ_neg, sumZ_pos, value_neg, ← sub_eq_add_neg, sub_neg, sub_pos]
      exact ⟨Iff.rfl, Iff.rfl⟩

theorem below_eq : a.exact.below b.exact = decide (cmpV a b < 0) ∧ b.exact.below a.exact = decide (0 < cmpV a b) := by
  obtain ⟨hlt, hgt⟩ := cmpV_sign ha hb
  exact ⟨by rw [Bool.eq_iff_iff, decide_eq_true_eq, hlt], by rw [Bool.eq_iff_iff, decide_eq_true_eq, hgt]⟩

end

/-- The conditions of FCMP (16 R338). -/
theorem fcond_eq (a b : FVal) {cond : Nat} (hcond : cond < 8) : fcond cond a b = compares cond a.exact b.exact := by
  unfold fcond compares
  rw [FVal.isNan_exact, FVal.isNan_exact]
  by_cases hnan : (a.isNan || b.isNan) = true
  · rw [hnan]
    interval_cases cond <;> rfl
  · rw [Bool.not_eq_true] at hnan
    obtain ⟨ha, hb⟩ := Bool.or_eq_false_iff.1 hnan
    obtain ⟨hlt, hgt⟩ := below_eq ha hb
    have hz : (cmpV a b == 0) = (!decide (cmpV a b < 0) && !decide (0 < cmpV a b)) := by
      rw [Bool.eq_iff_iff]
      simp only [beq_iff_eq, Bool.and_eq_true, Bool.not_eq_true', decide_eq_false_iff_not]
      omega
    have hle : decide (cmpV a b ≤ 0) = !decide (0 < cmpV a b) := by rw [← decide_not, decide_eq_decide, not_lt]
    have hge : decide (0 ≤ cmpV a b) = !decide (cmpV a b < 0) := by rw [← decide_not, decide_eq_decide, not_lt]
    rw [hnan, hlt, hgt]
    interval_cases cond <;> simp only [hz, hle, hge] <;> simp

/-- NV of FCMP (16 R339). -/
theorem fcmpFlags_eq (a b : FVal) (cond : Nat) : fcmpFlags cond a b =
    if a.exact = .nan true ∨ b.exact = .nan true ∨ (2 ≤ cond ∧ cond ≤ 5 ∧ (a.exact.isNan = true ∨ b.exact.isNan = true))
      then 1 else 0 := by
  unfold fcmpFlags
  rw [← FVal.exact_eq_snan, ← FVal.exact_eq_snan, FVal.isNan_exact, FVal.isNan_exact]
  refine if_congr ?_ rfl rfl
  simp only [Bool.or_eq_true, Bool.and_eq_true, decide_eq_true_eq, or_assoc, and_assoc]

/-- Equal values of one sign have one code. -/
theorem eq_of_cmpV_eq_zero {c c' : Nat} (hc : c < 2 ^ 32) (hc' : c' < 2 ^ 32) (ha : (decodeF fp32 c).isNan = false)
    (hb : (decodeF fp32 c').isNan = false) (hsign : codeNeg fp32 c = codeNeg fp32 c')
    (hz : cmpV (decodeF fp32 c) (decodeF fp32 c') = 0) : c = c' := by
  cases h : decodeF fp32 c with
  | nan s n => rw [h] at ha; cases ha
  | inf n => cases h' : decodeF fp32 c' with
    | nan s k => rw [h'] at hb; cases hb
    | inf k =>
      rw [eq_infCode (f := fp32) hc h, eq_infCode (f := fp32) hc' h', ← codeNeg_of_inf h, ← codeNeg_of_inf h', hsign]
    | fin k l d => cases n <;> simp [h, h', cmpV] at hz
  | fin n m e => cases h' : decodeF fp32 c' with
    | nan s k => rw [h'] at hb; cases hb
    | inf k => cases k <;> simp [h, h', cmpV] at hz
    | fin k l d =>
      have hnk : n = k := by rw [← codeNeg_of_fin h, ← codeNeg_of_fin h', hsign]
      subst hnk
      refine decodeF_injective usual_fp32 hc hc' h h' ?_
      rw [h, h', cmpV, sumZ_eq_zero, value_neg, add_neg_eq_zero, ← Rat.cast_inj (α := ℝ), value_cast, value_cast,
        signed_inj] at hz
      exact hz

/-- Minimum and maximum of two numbers (16 R344). -/
theorem minmaxF_number (isMax : Bool) {c c' : Nat} (hc : c < 2 ^ 32) (hc' : c' < 2 ^ 32)
    (ha : (decodeF fp32 c).isNan = false) (hb : (decodeF fp32 c').isNan = false) :
    minmaxF fp32 isMax c c' = ⟨extremum isMax c c', 0⟩ := by
  obtain ⟨hlt, hgt⟩ := below_eq ha hb
  have hsame := eq_of_cmpV_eq_zero hc hc' ha hb
  unfold minmaxF extremum
  dsimp only
  rw [ha, hb, tbit_sign, tbit_sign, codeVal_eq, codeVal_eq]
  dsimp only
  rw [hlt, hgt]
  rcases lt_trichotomy (cmpV (decodeF fp32 c) (decodeF fp32 c')) 0 with h | h | h
  · cases isMax <;> simp [h]
  · rw [h]
    cases hn : codeNeg fp32 c <;> cases hn' : codeNeg fp32 c'
    · cases isMax <;> rfl
    · cases isMax <;> rfl
    · cases isMax <;> rfl
    · rw [hsame (hn.trans hn'.symm) h]
      cases isMax <;> rfl
  · cases isMax <;> simp [h, h.not_gt, h.ne']

end Sys2Proof.Machine
end

section
/-! The square root (05 R105) is the exact root rounded once. -/

namespace Sys2Proof.Machine

/-- The search by bits ends at the whole root. -/
theorem isqrtAux_spec (i n r : Nat) (hle : r * r ≤ n) (hlt : n < (r + 2 ^ (i + 1)) * (r + 2 ^ (i + 1))) :
    isqrtAux i n r * isqrtAux i n r ≤ n ∧ n < (isqrtAux i n r + 1) * (isqrtAux i n r + 1) := by
  induction i generalizing r with
  | zero =>
    rw [isqrtAux]
    split
    case isTrue h => exact ⟨h, hlt⟩
    case isFalse h => exact ⟨hle, not_le.1 h⟩
  | succ i ih =>
    rw [isqrtAux]
    split
    case isTrue h => exact ih _ h (by rw [add_assoc, ← two_mul, ← pow_succ']; exact hlt)
    case isFalse h => exact ih _ hle (not_le.1 h)

theorem isqrt_spec (n : Nat) : isqrt n * isqrt n ≤ n ∧ n < (isqrt n + 1) * (isqrt n + 1) := by
  refine isqrtAux_spec _ n 0 (Nat.zero_le n) ?_
  rw [zero_add, ← pow_add]
  exact bitLen_le_iff.1 (by omega)

/-- A root with its fraction cut off. -/
theorem sqrt_truncates (x : Nat) (E : ℤ) :
    Truncates (Real.sqrt (x * 2 ^ (2 * E))) (isqrt x) E (!(isqrt x * isqrt x == x)) := by
  obtain ⟨hle, hlt⟩ := isqrt_spec x
  have hval : Real.sqrt (x * 2 ^ (2 * E)) = Real.sqrt x * 2 ^ E := by
    rw [mul_comm 2 E, zpow_mul, Real.sqrt_mul (Nat.cast_nonneg x)]
    congr 1
    exact Real.sqrt_sq (two_zpow_pos E).le
  have hlow : (isqrt x : ℝ) ≤ Real.sqrt x := Real.le_sqrt_of_sq_le (by rw [sq]; exact_mod_cast hle)
  have hhigh : Real.sqrt x < isqrt x + 1 := by
    rw [Real.sqrt_lt' (by positivity), sq]
    exact_mod_cast hlt
  have hsplit : Real.sqrt x = isqrt x + (Real.sqrt x - isqrt x) := by ring
  rw [hval, hsplit]
  refine truncates_frac (by linarith) (by linarith) ?_
  rw [sub_eq_zero, Real.sqrt_eq_iff_mul_self_eq (Nat.cast_nonneg x) (Nat.cast_nonneg _), Bool.not_eq_false', beq_iff_eq]
  rw [eq_comm]
  norm_cast

/-- A number at or above the smallest normal rounds the same whatever FOUT. -/
theorem roundF_normal {f : Fmt} (hf : f.Usual) (rm : Rm) (fo neg : Bool) {m : Nat} {e : ℤ} {s : Bool} {a : ℝ}
    (hm : 0 < m) (ha : Truncates a m e s) (hs : s = true → f.fb + 2 ≤ bitLen m) (hnormal : f.emin ≤ e + bitLen m - 1) :
    roundF f rm fo neg m e s = roundF f rm false neg m e s := by
  have hn1 := (round_unbounded (rm := rm) (neg := neg) hf hm ha hs).1
  have hbits := lt_bitLen_iff.2 hn1
  have hnot : ¬ unitExp f m e + Int.ofNat (bitLen (roundInt rm neg m e (unitExp f m e) s).1) - 1 < f.emin := by
    simp only [unitExp, Int.ofNat_eq_natCast] at hbits ⊢
    omega
  rw [roundF_eq, roundF_eq]
  dsimp only
  rw [decide_eq_false hnot, Bool.false_and, Bool.false_and, Bool.false_and]

/-- The root of a positive number of single precision. -/
theorem sqrt_rounds (rm : Rm) (fo : Bool) {m : Nat} {e : ℤ} (hm : 0 < m) (he : fp32.qmin ≤ e) {o : Nat}
    (ho : 60 ≤ o ∧ o ≤ 61) (heven : (e - o) % 2 = 0) :
    Rounds fp32 rm false (Real.sqrt (value false m e : ℚ))
      (roundF fp32 rm fo false (isqrt (m * 2 ^ o)) ((e - Int.ofNat o) / 2)
        (!(isqrt (m * 2 ^ o) * isqrt (m * 2 ^ o) == m * 2 ^ o))) := by
  have hqmin : fp32.qmin = -149 := by decide
  have hexp : 2 * ((e - Int.ofNat o) / 2) = e - o := by simp only [Int.ofNat_eq_natCast]; omega
  have htrunc := sqrt_truncates (m * 2 ^ o) ((e - Int.ofNat o) / 2)
  have hval : (((m * 2 ^ o : ℕ) : ℝ) * 2 ^ (2 * ((e - Int.ofNat o) / 2))) = (value false m e : ℚ) := by
    rw [hexp, value_cast, signed_false, Nat.cast_mul, mul_assoc]
    push_cast
    rw [← zpow_natCast, ← zpow_add₀ (by norm_num)]
    congr 2; ring
  rw [hval] at htrunc
  have hroot : 2 ^ 30 ≤ isqrt (m * 2 ^ o) := by
    obtain ⟨-, hlt⟩ := isqrt_spec (m * 2 ^ o)
    have hx : 2 ^ 30 * 2 ^ 30 ≤ m * 2 ^ o := calc
      2 ^ 30 * 2 ^ 30 = 1 * 2 ^ 60 := by norm_num
      _ ≤ m * 2 ^ o := Nat.mul_le_mul hm (Nat.pow_le_pow_right (by norm_num) ho.1)
    exact Nat.lt_succ_iff.1 (Nat.mul_self_lt_mul_self_iff.1 (hx.trans_lt hlt))
  have hbits : 30 < bitLen (isqrt (m * 2 ^ o)) := lt_bitLen_iff.2 hroot
  have hsticky (h : (!(isqrt (m * 2 ^ o) * isqrt (m * 2 ^ o) == m * 2 ^ o)) = true) :
      fp32.fb + 2 ≤ bitLen (isqrt (m * 2 ^ o)) := by
    change 23 + 2 ≤ _
    omega
  have hpos : 0 < isqrt (m * 2 ^ o) := lt_of_lt_of_le (by norm_num) hroot
  have hnormal : fp32.emin ≤ (e - Int.ofNat o) / 2 + bitLen (isqrt (m * 2 ^ o)) - 1 := by
    change -126 ≤ _
    omega
  rw [roundF_normal usual_fp32 rm fo false hpos htrunc hsticky hnormal]
  exact roundF_rounds (neg := false) usual_fp32 hpos htrunc hsticky false

/-- Square roots round once (05 R105). -/
theorem sqrtF_is (rm : Rm) (fo : Bool) (c : Nat) : RootIs rm (codeVal fp32 c) (sqrtF fp32 rm fo (decodeF fp32 c)) := by
  rw [codeVal_eq]
  unfold RootIs sqrtF
  cases h : decodeF fp32 c with
  | nan s n => exact nanRes_eq fp32 s
  | inf n => cases n <;> rfl
  | fin n m e =>
    obtain ⟨-, he, -⟩ := decodeF_range usual_fp32 h
    dsimp only [FVal.exact]
    by_cases hm : m = 0
    · have hx := (value_eq_zero n m e).2 hm
      rw [if_pos hm, hx]
      exact ⟨fun _ => rfl, fun h => absurd h (lt_irrefl _), fun h => absurd h (lt_irrefl _)⟩
    · have hmag : (0 : ℚ) < m * 2 ^ e := by positivity
      rw [if_neg hm]
      cases n with
      | true =>
        have hx : value true m e < 0 := by simpa [value] using hmag
        exact ⟨fun h0 => absurd h0 hx.ne, fun _ => rfl, fun h0 => absurd h0 hx.not_gt⟩
      | false =>
        have hx : 0 < value false m e := by simpa [value] using hmag
        refine ⟨fun h0 => absurd h0 hx.ne', fun h0 => absurd h0 hx.not_gt, fun _ => ?_⟩
        exact sqrt_rounds rm fo (Nat.pos_of_ne_zero hm) he (by split <;> omega) (by split <;> omega)

end Sys2Proof.Machine
end

section
/-! The floating-point instructions on their sources (15 R313, R330; 16 R336 to R347). -/

namespace Sys2Proof.Machine

theorem laneGives_fout {r : FRes} {P : FRes → Prop} (h : P r) : LaneGives (fout r) P := ⟨r, rfl, h⟩

theorem halvesGive_pair16 {r : Nat → FRes} {P : Nat → FRes → Prop} (h : ∀ i, P i (r i)) : HalvesGive (pair16 r) P :=
  ⟨r 0, r 1, rfl, h 0, h 1⟩

/-- A single-precision source. -/
theorem exact_val32 (fp : Fp) (c : Nat) : codeVal fp32 (in32 fp c) = (val32 fp c).exact := codeVal_eq fp32 _

/-- A BF16 half of a source. -/
theorem exact_half16 (fp : Fp) (c h : Nat) :
    codeVal bf16 (inFormat bf16 fp.fin (c / 2 ^ (16 * h))) = (half16 fp c h).exact := by
  rw [codeVal_eq, half16_eq]

theorem in32_lt (fp : Fp) (c : Nat) : in32 fp c < 2 ^ 32 := by
  rw [in32_eq]
  exact inFormat_lt fp32 fp.fin c

variable (n : Nat) (fp : Fp) (x : LaneIn)

/-- The packed operations (15 R313). -/
theorem packed_give :
    HalvesGive (badd2Op n fp x) (fun h => Gives bf16 fp.rm fp.fout
      ((half16 fp x.a h).exact.add fp.rm (half16 fp x.b h).exact))
    ∧ HalvesGive (bmul2Op n fp x) (fun h => Gives bf16 fp.rm fp.fout
      ((half16 fp x.a h).exact.mul (half16 fp x.b h).exact))
    ∧ HalvesGive (bfma2Op n fp x) (fun h => Gives bf16 fp.rm fp.fout
      (((half16 fp x.a h).exact.mul (half16 fp x.b h).exact).add fp.rm (half16 fp x.d h).exact)) :=
  ⟨halvesGive_pair16 fun _ => addV_gives usual_bf16 _ _ _ _, halvesGive_pair16 fun _ => mulF_gives usual_bf16 _ _ _ _,
    halvesGive_pair16 fun _ => fmaF_gives usual_bf16 _ _ _ _ _⟩

theorem arith_give :
    LaneGives (faddOp n fp x) (Gives fp32 fp.rm fp.fout ((val32 fp x.a).exact.add fp.rm (val32 fp x.b).exact))
    ∧ LaneGives (fsubOp n fp x) (Gives fp32 fp.rm fp.fout ((val32 fp x.a).exact.add fp.rm (val32 fp x.b).exact.negate))
    ∧ LaneGives (fmulOp n fp x) (Gives fp32 fp.rm fp.fout ((val32 fp x.a).exact.mul (val32 fp x.b).exact))
    ∧ LaneGives (fdivOp n fp x) (Gives fp32 fp.rm fp.fout ((val32 fp x.a).exact.div (val32 fp x.b).exact))
    ∧ LaneGives (ffmaOp n fp x) (Gives fp32 fp.rm fp.fout
        (((val32 fp x.a).exact.mul (val32 fp x.b).exact).add fp.rm (val32 fp x.d).exact)) := by
  refine ⟨laneGives_fout (addV_gives usual_fp32 _ _ _ _), laneGives_fout ?_, laneGives_fout (mulF_gives usual_fp32 _ _ _ _),
    laneGives_fout (divF_gives usual_fp32 _ _ (by decide) _ _), laneGives_fout (fmaF_gives usual_fp32 _ _ _ _ _)⟩
  rw [← FVal.exact_negv]
  exact addV_gives usual_fp32 _ _ _ _

theorem sqrt_gives : LaneGives (fsqrtOp n fp x) (RootIs fp.rm (val32 fp x.a).exact) := by
  rw [← exact_val32]
  exact laneGives_fout (sqrtF_is _ _ _)

theorem fcmpOp_eq {cond : Nat} (hcond : cond < 8) :
    let A := (val32 fp x.a).exact
    let B := (val32 fp x.b).exact
    fcmpOp cond n fp x = ⟨(compares cond A B).toNat,
      (if A = .nan true ∨ B = .nan true ∨ (2 ≤ cond ∧ cond ≤ 5 ∧ (A.isNan = true ∨ B.isNan = true)) then 1 else 0),
      0, none⟩ := by
  dsimp only
  rw [fcmpOp, fcond_eq _ _ hcond, fcmpFlags_eq]

theorem minmaxOp_eq (ha : (val32 fp x.a).isNan = false) (hb : (val32 fp x.b).isNan = false) :
    fminOp n fp x = ⟨extremum false (in32 fp x.a) (in32 fp x.b), 0, 0, none⟩
      ∧ fmaxOp n fp x = ⟨extremum true (in32 fp x.a) (in32 fp x.b), 0, 0, none⟩ := by
  have h (isMax : Bool) := minmaxF_number isMax (in32_lt fp x.a) (in32_lt fp x.b) ha hb
  rw [fminOp, fmaxOp, h, h]
  exact ⟨rfl, rfl⟩

theorem frnd_give {op : Nat → Fp → LaneIn → LaneOut} {d : Rm}
    (h : (op, d) ∈ [(frndNeOp, Rm.rne), (frndZOp, .rtz), (frndDnOp, .rdn), (frndUpOp, .rup)]) :
    LaneGives (op n fp x) (IntegralIs d (in32 fp x.a)) := by
  have hlane (d : Rm) := laneGives_fout (frndF_is d (in32_lt fp x.a))
  simp only [List.mem_cons, Prod.mk.injEq, List.not_mem_nil, or_false] at h
  rcases h with ⟨rfl, rfl⟩ | ⟨rfl, rfl⟩ | ⟨rfl, rfl⟩ | ⟨rfl, rfl⟩ <;> exact hlane _

theorem narrow_give :
    LaneGives (cvtBf16F32Op n fp x) (NarrowIs bf16 fp.rm fp.fout (in32 fp x.a))
    ∧ ∀ op f, (op, f) ∈ [(cvtF16F32Op, fp16), (cvtE4m3F32Op, e4m3), (cvtE5m2F32Op, e5m2)] →
        LaneGives (op n fp x) (NarrowIs f fp.rm false (in32 fp x.a)) := by
  refine ⟨laneGives_fout (convF_narrow usual_bf16 _ _), fun op f h => ?_⟩
  simp only [List.mem_cons, Prod.mk.injEq, List.not_mem_nil, or_false] at h
  rcases h with ⟨rfl, rfl⟩ | ⟨rfl, rfl⟩ | ⟨rfl, rfl⟩
  · exact laneGives_fout (convF_narrow usual_fp16 _ _)
  · exact laneGives_fout (convF_narrow usual_e4m3 _ _)
  · exact laneGives_fout (convF_narrow usual_e5m2 _ _)

theorem wide_give :
    LaneGives (cvtF32Bf16Op n fp x) (WideIs bf16 (inFormat bf16 fp.fin x.a))
    ∧ ∀ op f, (op, f) ∈ [(cvtF32F16Op, fp16), (cvtF32E4m3Op, e4m3), (cvtF32E5m2Op, e5m2)] →
        LaneGives (op n fp x) (WideIs f (x.a % 2 ^ (1 + f.eb + f.fb))) := by
  constructor
  · rw [← fin_eq_inFormat]
    exact laneGives_fout (wide_bf16 _)
  · intro op f h
    simp only [List.mem_cons, Prod.mk.injEq, List.not_mem_nil, or_false] at h
    rcases h with ⟨rfl, rfl⟩ | ⟨rfl, rfl⟩ | ⟨rfl, rfl⟩
    · exact laneGives_fout (wide_fp16 _)
    · exact laneGives_fout (wide_e4m3 _)
    · exact laneGives_fout (wide_e5m2 _)

theorem toInt_give :
    LaneGives (cvtS32F32Op n fp x) (IntegerIs fp.rm (-2 ^ 31) (2 ^ 31 - 1) (val32 fp x.a).exact)
    ∧ LaneGives (cvtU32F32Op n fp x) (IntegerIs fp.rm 0 (2 ^ 32 - 1) (val32 fp x.a).exact) := by
  have h (sg : Bool) := toIntF_is fp.rm sg (in32 fp x.a)
  rw [codeVal_eq] at h
  exact ⟨laneGives_fout (h true), laneGives_fout (h false)⟩

theorem ofInt_give :
    LaneGives (cvtF32S32Op n fp x) (Gives fp32 fp.rm fp.fout (.num false (BitVec.ofNat 32 x.a).toInt))
    ∧ LaneGives (cvtF32U32Op n fp x) (Gives fp32 fp.rm fp.fout (.num false (BitVec.ofNat 32 x.a).toNat)) := by
  constructor
  · rw [← sextNat_eq_toInt]
    exact laneGives_fout (ofIntF_gives usual_fp32 _ _ _)
  · refine laneGives_fout ?_
    have h := ofIntF_gives usual_fp32 fp.rm fp.fout (Int.ofNat (x.a % 2 ^ 32))
    rwa [Int.ofNat_eq_natCast, Int.cast_natCast] at h

end Sys2Proof.Machine
end

namespace Sys2Proof
open Machine

/-- Settles O14: each instruction is one of the model's operations on decoded sources, and each of those rounds the exact
value once (`roundF_rounds`). -/
theorem floatValuesRoundOnce : Obligations.FloatValuesRoundOnce := by
  unfold Obligations.FloatValuesRoundOnce
  intro n fp x
  dsimp only
  simp only [← in32_eq, exact_val32, exact_half16]
  obtain ⟨hadd, hsub, hmul, hdiv, hfma⟩ := arith_give n fp x
  obtain ⟨htoS, htoU⟩ := toInt_give n fp x
  obtain ⟨hofS, hofU⟩ := ofInt_give n fp x
  obtain ⟨hnarrow16, hnarrow⟩ := narrow_give n fp x
  obtain ⟨hwide16, hwide⟩ := wide_give n fp x
  refine ⟨hadd, hsub, hmul, hdiv, hfma, sqrt_gives n fp x, fun cond hcond => fcmpOp_eq n fp x hcond, fun ha hb => ?_,
    fun op d => frnd_give n fp x, htoS, htoU, hofS, hofU, hnarrow16, hnarrow, hwide16, hwide, packed_give n fp x⟩
  rw [FVal.isNan_exact] at ha hb
  exact minmaxOp_eq n fp x ha hb

end Sys2Proof

section
/-! Buffered writes performed (07 R148, R150): what each of them, and a release wait, leaves of memory and of the ports,
and that nothing else of the machine moves but the L2, the front end's read buffers and monitors. -/

namespace Sys2Proof.Machine

/-! ### One byte under buffered writes -/

/-- A buffered write holds a byte for an address of HBM or of host memory. -/
def PortWrite.covers (w : PortWrite) (host : Bool) (a : Nat) : Prop :=
  w.host = host ∧ w.addr ≤ a ∧ a < w.addr + w.data.length

/-- The byte that a buffered write holds for an address. -/
def PortWrite.byteFor (w : PortWrite) (a : Nat) : Byte := w.data.getD (a - w.addr) 0

theorem PortWrite.covers.puts_host {w : PortWrite} {a : Nat} (h : w.covers true a) (m : KMap Nat) :
    w.puts m (.host a) (w.byteFor a) := by
  obtain ⟨hh, hlo, hhi⟩ := h
  exact ⟨a - w.addr, by omega, rfl, hh, by omega⟩

section
variable {w : PortWrite} {core : Nat} {host : Bool} {a : Nat} (t : List PortWrite) (b : Byte)

theorem overlay_cons_covering (hcore : w.core = core ∨ w.sent) (hc : w.covers host a) :
    overlay (w :: t) core host a b = overlay t core host a (w.byteFor a) := by
  obtain ⟨hhost, hlo, hhi⟩ := hc
  have hlt : a - w.addr < w.data.length := by omega
  rw [overlay, List.foldl_cons, if_pos ⟨hcore, hhost, hlo, hhi⟩, PortWrite.byteFor, List.getD_eq_getElem _ _ hlt,
    List.getD_eq_getElem _ _ hlt]
  rfl

theorem overlay_cons_other (h : ¬ ((w.core = core ∨ w.sent) ∧ w.covers host a)) :
    overlay (w :: t) core host a b = overlay t core host a b := by
  rw [overlay, List.foldl_cons, if_neg fun hc => h ⟨hc.1, hc.2⟩]
  rfl

end

/-- A byte that no buffered write of the list covers shows through. -/
theorem overlay_uncovered {ws : List PortWrite} {core : Nat} {host : Bool} {a : Nat} (b : Byte)
    (h : ∀ w ∈ ws, (w.core = core ∨ w.sent) → ¬ w.covers host a) : overlay ws core host a b = b := by
  induction ws generalizing b with
  | nil => rfl
  | cons w t ih =>
    rw [overlay_cons_other _ _ fun hc => h w (List.mem_cons_self ..) hc.1 hc.2]
    exact ih b fun x hx => h x (List.mem_cons_of_mem _ hx)

/-- A byte under buffered writes shows through, or is one that a write of them holds. -/
theorem overlay_cases (ws : List PortWrite) (core : Nat) (host : Bool) (a : Nat) (b : Byte) :
    (∀ w ∈ ws, (w.core = core ∨ w.sent) → ¬ w.covers host a)
      ∨ ∃ w ∈ ws, w.covers host a ∧ overlay ws core host a b = w.byteFor a := by
  induction ws generalizing b with
  | nil => exact .inl fun w hw => absurd hw List.not_mem_nil
  | cons w t ih =>
    by_cases hc : (w.core = core ∨ w.sent) ∧ w.covers host a
    · right
      rw [overlay_cons_covering _ _ hc.1 hc.2]
      obtain hnone | ⟨x, hx, hcov, hval⟩ := ih (w.byteFor a)
      · exact ⟨w, List.mem_cons_self .., hc.2, overlay_uncovered _ hnone⟩
      · exact ⟨x, List.mem_cons_of_mem _ hx, hcov, hval⟩
    · rw [overlay_cons_other _ _ hc]
      obtain hnone | ⟨x, hx, hcov, hval⟩ := ih b
      · left
        intro x hx hcore hcov
        rcases List.mem_cons.1 hx with rfl | hx
        · exact hc ⟨hcore, hcov⟩
        · exact hnone x hx hcore hcov
      · exact .inr ⟨x, List.mem_cons_of_mem _ hx, hcov, hval⟩

/-! ### What stays -/

/-- A state without what memory instructions and buffered writes move: caches, directories, held translations, ports, the
bytes of HBM and of host memory, groups, the front end's read buffers, and the count of free values. -/
def State.still (s : State) : State :=
  { s with
    ctl := { s.ctl with nonce := 0 }
    mem := { s.mem with hbm := [], host := [], l1 := [], l2 := [], ports := [], relset := [], tlb := [] }
    run := { s.run with groups := [] }
    host := { s.host with febuf := [] } }

/-- What a group holds besides the notes of memory instructions and its monitor. -/
def Group.plain (g : Group) : Group :=
  { g with
    readLines := []
    readOver := false
    arrivals := 0
    relFence := false
    hostAtom := none
    hostAns := none
    mon := .idle
    ahead := [] }

/-- The plain group of a slot. -/
def plainAt (s : State) (k : Nat) : Option Group := (grp s k).map Group.plain

/-- From the first state to the second only memories, caches and the notes of groups move. -/
structure Still (s t : State) : Prop where
  state : t.still = s.still
  groups : ∀ k, plainAt t k = plainAt s k

section
variable {s t u : State}

theorem Still.refl (s : State) : Still s s := ⟨rfl, fun _ => rfl⟩
theorem Still.trans (h : Still s t) (h' : Still t u) : Still s u :=
  ⟨h'.state.trans h.state, fun k => (h'.groups k).trans (h.groups k)⟩

/-- A change that touches no group. -/
theorem Still.of_groups (h : t.still = s.still) (hg : t.run.groups = s.run.groups) : Still s t :=
  ⟨h, fun k => by rw [plainAt, plainAt, grp, grp, hg]⟩

theorem Still.ws (h : Still s t) : t.mem.ws = s.mem.ws := by
  have e := congrArg (fun x : State => x.mem.ws) h.state
  exact e
theorem Still.remap (h : Still s t) : t.mem.remap = s.mem.remap := by
  have e := congrArg (fun x : State => x.mem.remap) h.state
  exact e
theorem Still.invals (h : Still s t) : t.mem.invals = s.mem.invals := by
  have e := congrArg (fun x : State => x.mem.invals) h.state
  exact e
theorem Still.part (h : Still s t) : t.part = s.part := by
  have e := congrArg State.part h.state
  exact e
theorem Still.items (h : Still s t) : t.run.items = s.run.items := by
  have e := congrArg (fun x : State => x.run.items) h.state
  exact e
theorem Still.launches (h : Still s t) : t.run.launches = s.run.launches := by
  have e := congrArg (fun x : State => x.run.launches) h.state
  exact e
theorem Still.flights (h : Still s t) : t.run.flights = s.run.flights := by
  have e := congrArg (fun x : State => x.run.flights) h.state
  exact e
theorem Still.xfers (h : Still s t) : t.run.xfers = s.run.xfers := by
  have e := congrArg (fun x : State => x.run.xfers) h.state
  exact e
theorem Still.serial (h : Still s t) : t.ctl.serial = s.ctl.serial := by
  have e := congrArg (fun x : State => x.ctl.serial) h.state
  exact e

theorem plainAt_modGrp (s : State) (gid k : Nat) {f : Group → Group} (hf : ∀ g, (f g).plain = g.plain) :
    plainAt (modGrp s gid f) k = plainAt s k := by
  rw [plainAt, plainAt, grp_modGrp]
  split
  · cases grp s k with
    | none => rfl
    | some g => exact congrArg some (hf g)
  · rfl

theorem Still.modGrp (s : State) (gid : Nat) {f : Group → Group} (hf : ∀ g, (f g).plain = g.plain) :
    Still s (modGrp s gid f) := ⟨rfl, fun k => plainAt_modGrp s gid k hf⟩

/-- Steps that leave the machine still do so all along a list. -/
theorem Still.foldl {α : Type} {f : State → α → State} (hf : ∀ s a, Still s (f s a)) (l : List α) (s : State) :
    Still s (l.foldl f s) := by
  induction l generalizing s with
  | nil => exact .refl s
  | cons a l ih => exact (hf s a).trans (ih _)

theorem fireMonitor_plain (g : Group) (o : Nat) : (fireMonitor g o).plain = g.plain := by
  unfold fireMonitor; split <;> rfl

theorem fireLine_still (s : State) (l : MonLine) : Still s (fireLine s l) := by
  refine Still.foldl (fun s e => ?_) _ s
  split
  · exact Still.modGrp s e.1 fun g => fireMonitor_plain g 0
  · exact .refl s

theorem fireHbm_still (s : State) (pa n : Nat) : Still s (fireHbm s pa n) := Still.foldl (fun s _ => fireLine_still s _) _ s
theorem fireScr_still (s : State) (it o n : Nat) : Still s (fireScr s it o n) :=
  Still.foldl (fun s _ => fireLine_still s _) _ s

end

/-! ### HBM through the remap -/

/-- A write to HBM touches no other part of the memory system. -/
theorem writeHbm_frame (m : Mem) (pa : Nat) (bs : List Byte) : ∃ h, writeHbm m pa bs = { m with hbm := h } := by
  induction bs generalizing m pa with
  | nil => exact ⟨m.hbm, rfl⟩
  | cons b t ih =>
    obtain ⟨h, hm⟩ := ih { m with hbm := kput 0 m.hbm (remapOf m.remap pa) b } (pa + 1)
    exact ⟨h, hm⟩

/-- A byte of HBM after a write: as it was, or one of those written at an address with its place. -/
theorem kget_writeHbm_cases (m : Mem) (pa x : Nat) (bs : List Byte) :
    kget 0 (writeHbm m pa bs).hbm x = kget 0 m.hbm x
      ∨ ∃ k, k < bs.length ∧ bs.getD k 0 = kget 0 (writeHbm m pa bs).hbm x ∧ remapOf m.remap (pa + k) = x := by
  induction bs generalizing m pa with
  | nil => exact .inl rfl
  | cons b t ih =>
    rw [writeHbm]
    obtain hsame | ⟨k, hk, hval, hat⟩ := ih { m with hbm := kput 0 m.hbm (remapOf m.remap pa) b } (pa + 1)
    · by_cases hx : remapOf m.remap pa = x
      · right
        refine ⟨0, by simp, ?_, hx⟩
        rw [hsame, kget_kput, if_pos hx]; rfl
      · left
        rw [hsame, kget_kput, if_neg hx]
    · refine .inr ⟨k + 1, by simpa using hk, ?_, ?_⟩
      · rw [← hval]; rfl
      · rw [← hat, Nat.add_right_comm, Nat.add_assoc]

/-! ### One write performed -/

section
variable (s : State) (w : PortWrite)

theorem performWrite_still : Still s (performWrite s w) := by
  unfold performWrite
  split
  · exact Still.of_groups rfl rfl
  · dsimp only
    obtain ⟨h, hm⟩ := writeHbm_frame s.mem w.addr w.data
    rw [hm]
    refine Still.trans ?_ (fireHbm_still _ _ _)
    exact Still.of_groups rfl rfl

theorem performWrite_mem_of_host (h : w.host = true) :
    (performWrite s w).mem = { s.mem with host := writeCells s.mem.host w.addr w.data } := by
  rw [performWrite, if_pos h, setMem_mem]

theorem performWrite_mem_of_hbm (h : w.host = false) :
    ∃ l2, (performWrite s w).mem = { writeHbm s.mem w.addr w.data with l2 := l2 } := by
  rw [performWrite, if_neg (by simp [h])]
  dsimp only
  rw [fireHbm_mem]
  exact ⟨_, rfl⟩

theorem performWrite_ports : (performWrite s w).mem.ports = s.mem.ports := by
  cases h : w.host
  · obtain ⟨l2, hm⟩ := performWrite_mem_of_hbm s w h
    rw [hm]; exact writeHbm_ports ..
  · rw [performWrite_mem_of_host s w h]

/-- A byte of host memory after one performed write: as it was where the write does not cover it, and otherwise the
write's. -/
theorem performWrite_host (a : Nat) :
    (¬ w.covers true a ∧ kget 0 (performWrite s w).mem.host a = kget 0 s.mem.host a)
      ∨ w.covers true a ∧ kget 0 (performWrite s w).mem.host a = w.byteFor a := by
  cases h : w.host
  · left
    obtain ⟨l2, hm⟩ := performWrite_mem_of_hbm s w h
    refine ⟨fun hc => by simp [hc.1] at h, ?_⟩
    rw [hm, writeHbm_host]
  · rw [performWrite_mem_of_host s w h, kget_writeCells]
    by_cases hc : w.addr ≤ a ∧ a < w.addr + w.data.length
    · exact .inr ⟨⟨h, hc.1, hc.2⟩, if_pos hc⟩
    · exact .inl ⟨fun hcov => hc hcov.2, if_neg hc⟩

/-- A byte of HBM after one performed write: as it was, or one that the write puts there. -/
theorem performWrite_hbm (x : Nat) :
    kget 0 (performWrite s w).mem.hbm (remapOf s.mem.remap x) = kget 0 s.mem.hbm (remapOf s.mem.remap x)
      ∨ w.puts s.mem.remap (.hbm x) (kget 0 (performWrite s w).mem.hbm (remapOf s.mem.remap x)) := by
  cases h : w.host
  · obtain ⟨l2, hm⟩ := performWrite_mem_of_hbm s w h
    rw [hm]
    obtain hsame | ⟨k, hk, hval, hat⟩ := kget_writeHbm_cases s.mem w.addr (remapOf s.mem.remap x) w.data
    · exact .inl hsame
    · exact .inr ⟨k, hk, hval, h, hat⟩
  · left
    rw [performWrite_mem_of_host s w h]

end

/-! ### Writes performed in order -/

section
variable (ws : List PortWrite) (s : State)

/-- Buffered writes performed one after another. -/
def performWrites (s : State) (ws : List PortWrite) : State := ws.foldl performWrite s

theorem performWrites_still : Still s (performWrites s ws) := Still.foldl performWrite_still ws s

theorem performWrites_ports : (performWrites s ws).mem.ports = s.mem.ports := by
  induction ws generalizing s with
  | nil => rfl
  | cons w t ih => exact (ih (performWrite s w)).trans (performWrite_ports s w)

theorem performWrites_host (a : Nat) :
    ((∀ w ∈ ws, ¬ w.covers true a) ∧ kget 0 (performWrites s ws).mem.host a = kget 0 s.mem.host a)
      ∨ ∃ w ∈ ws, w.covers true a ∧ kget 0 (performWrites s ws).mem.host a = w.byteFor a := by
  induction ws generalizing s with
  | nil => exact .inl ⟨fun w hw => absurd hw List.not_mem_nil, rfl⟩
  | cons w t ih =>
    rw [performWrites, List.foldl_cons, ← performWrites]
    obtain ⟨hnone, hsame⟩ | ⟨x, hx, hcov, hval⟩ := ih (performWrite s w)
    · obtain ⟨hw, hone⟩ | ⟨hw, hone⟩ := performWrite_host s w a
      · refine .inl ⟨fun x hx => ?_, hsame.trans hone⟩
        rcases List.mem_cons.1 hx with rfl | hx
        · exact hw
        · exact hnone x hx
      · exact .inr ⟨w, List.mem_cons_self .., hw, hsame.trans hone⟩
    · exact .inr ⟨x, List.mem_cons_of_mem _ hx, hcov, hval⟩

theorem performWrites_hbm (x : Nat) :
    kget 0 (performWrites s ws).mem.hbm (remapOf s.mem.remap x) = kget 0 s.mem.hbm (remapOf s.mem.remap x)
      ∨ ∃ w ∈ ws, w.puts s.mem.remap (.hbm x) (kget 0 (performWrites s ws).mem.hbm (remapOf s.mem.remap x)) := by
  induction ws generalizing s with
  | nil => exact .inl rfl
  | cons w t ih =>
    rw [performWrites, List.foldl_cons, ← performWrites]
    have hmap : (performWrite s w).mem.remap = s.mem.remap := (performWrite_still s w).remap
    have hrest := ih (performWrite s w)
    rw [hmap] at hrest
    obtain hsame | ⟨y, hy, hputs⟩ := hrest
    · rw [hsame]
      obtain hone | hone := performWrite_hbm s w x
      · exact .inl hone
      · exact .inr ⟨w, List.mem_cons_self .., hone⟩
    · exact .inr ⟨y, List.mem_cons_of_mem _ hy, hputs⟩

end

/-! ### What a release wait performs -/

theorem pickWrites_fst (p : PortWrite → Bool) (ws : List PortWrite) : (pickWrites p ws).map (·.1) = ws := by
  induction ws with
  | nil => rfl
  | cons w t ih => rw [pickWrites, List.map_cons, ih]

/-- A buffered write that the wait selects is performed. -/
theorem pickWrites_selected {p : PortWrite → Bool} {ws : List PortWrite} {u : PortWrite × Bool} (hu : u ∈ pickWrites p ws)
    (hp : p u.1 = true) : u.2 = true := by
  induction ws with
  | nil => exact absurd hu List.not_mem_nil
  | cons w t ih =>
    rw [pickWrites, List.mem_cons] at hu
    rcases hu with rfl | hu
    · have hw : p w = true := hp
      dsimp only
      rw [hw, Bool.true_or]
    · exact ih hu

/-- A wait that selects no buffered write performs none. -/
theorem pickWrites_none {p : PortWrite → Bool} {ws : List PortWrite} (h : ∀ w ∈ ws, p w = false) :
    pickWrites p ws = ws.map fun w => (w, false) := by
  induction ws with
  | nil => rfl
  | cons w t ih =>
    have ht := ih fun x hx => h x (List.mem_cons_of_mem _ hx)
    rw [pickWrites, ht, h w (List.mem_cons_self ..)]
    simp

/-- The buffered writes that a wait performs, and those that it leaves. -/
def performedBy (p : PortWrite → Bool) (ws : List PortWrite) : List PortWrite :=
  ((pickWrites p ws).filter (·.2)).map (·.1)
def leftBy (p : PortWrite → Bool) (ws : List PortWrite) : List PortWrite :=
  ((pickWrites p ws).filter fun u => !u.2).map (·.1)

section
variable (p : PortWrite → Bool) (ws : List PortWrite)

theorem mem_performedBy_or_leftBy {w : PortWrite} (h : w ∈ ws) : w ∈ performedBy p ws ∨ w ∈ leftBy p ws := by
  rw [← pickWrites_fst p ws] at h
  obtain ⟨u, hu, rfl⟩ := List.mem_map.1 h
  cases hb : u.2
  · exact .inr (List.mem_map_of_mem (List.mem_filter.2 ⟨hu, by simp [hb]⟩))
  · exact .inl (List.mem_map_of_mem (List.mem_filter.2 ⟨hu, hb⟩))

theorem mem_of_mem_performedBy {w : PortWrite} (h : w ∈ performedBy p ws) : w ∈ ws := by
  obtain ⟨u, hu, rfl⟩ := List.mem_map.1 h
  rw [← pickWrites_fst p ws]
  exact List.mem_map_of_mem (List.mem_filter.1 hu).1

theorem mem_of_mem_leftBy {w : PortWrite} (h : w ∈ leftBy p ws) : w ∈ ws ∧ p w = false := by
  obtain ⟨u, hu, rfl⟩ := List.mem_map.1 h
  obtain ⟨hmem, hnot⟩ := List.mem_filter.1 hu
  refine ⟨?_, ?_⟩
  · rw [← pickWrites_fst p ws]
    exact List.mem_map_of_mem hmem
  · rw [Bool.eq_false_iff]
    intro hp
    rw [pickWrites_selected hmem hp] at hnot
    exact absurd hnot Bool.false_ne_true

end

theorem drainWhere_eq (s : State) (p : PortWrite → Bool) : drainWhere s p
    = performWrites (setMem s { s.mem with ports := leftBy p s.mem.ports }) (performedBy p s.mem.ports) := by
  rw [performWrites, performedBy, List.foldl_map]; rfl

theorem drainWhere_still (s : State) (p : PortWrite → Bool) : Still s (drainWhere s p) := by
  rw [drainWhere_eq]
  refine Still.trans ?_ (performWrites_still _ _)
  exact Still.of_groups rfl rfl

theorem drainWhere_ports (s : State) (p : PortWrite → Bool) : (drainWhere s p).mem.ports = leftBy p s.mem.ports := by
  rw [drainWhere_eq, performWrites_ports, setMem_mem]

/-- A wait that selects nothing changes nothing. -/
theorem drainWhere_none {s : State} {p : PortWrite → Bool} (h : ∀ w ∈ s.mem.ports, p w = false) : drainWhere s p = s := by
  have hleft : leftBy p s.mem.ports = s.mem.ports := by
    rw [leftBy, pickWrites_none h, List.filter_eq_self.2, List.map_map]
    · exact List.map_id _
    · intro u hu
      obtain ⟨w, -, rfl⟩ := List.mem_map.1 hu
      rfl
  have hnone : performedBy p s.mem.ports = [] := by
    rw [performedBy, pickWrites_none h, List.filter_eq_nil_iff.2, List.map_nil]
    intro u hu
    obtain ⟨w, -, rfl⟩ := List.mem_map.1 hu
    exact Bool.false_ne_true
  rw [drainWhere_eq, hleft, hnone]
  rfl

/-! ### Waits one after another -/

/-- From the first state to the second buffered writes are performed and nothing else happens to any byte; what is still
buffered was buffered before. -/
structure Drains (s t : State) : Prop where
  bytes : Drained s t
  remap : t.mem.remap = s.mem.remap
  ports : ∀ w ∈ t.mem.ports, ∃ x ∈ s.mem.ports, x.host = w.host ∧ x.addr = w.addr ∧ x.data = w.data ∧ x.gid = w.gid

section
variable {s t u : State}

theorem Drains.of_sameBytes (hb : SameBytes s t) (hr : t.mem.remap = s.mem.remap) (hp : t.mem.ports = s.mem.ports) :
    Drains s t := ⟨fun l => .inl (hb l), hr, fun w hw => ⟨w, hp ▸ hw, rfl, rfl, rfl, rfl⟩⟩

theorem Drains.refl (s : State) : Drains s s := .of_sameBytes (fun _ => rfl) rfl rfl

theorem PortWrite.puts_congr {w x : PortWrite} (hh : x.host = w.host) (ha : x.addr = w.addr) (hd : x.data = w.data)
    {m : KMap Nat} {l : Loc} {b : Byte} (h : w.puts m l b) : x.puts m l b := by
  unfold PortWrite.puts at h ⊢
  rwa [hh, ha, hd]

theorem Drains.trans (h : Drains s t) (h' : Drains t u) : Drains s u := by
  refine ⟨fun l => ?_, h'.remap.trans h.remap, fun w hw => ?_⟩
  · obtain hsame | ⟨w, hw, hputs⟩ := h'.bytes l
    · obtain hsame' | ⟨w, hw, hputs⟩ := h.bytes l
      · exact .inl (hsame.trans hsame')
      · exact .inr ⟨w, hw, hsame ▸ hputs⟩
    · obtain ⟨x, hx, hh, ha, hd, -⟩ := h.ports w hw
      rw [h.remap] at hputs
      exact .inr ⟨x, hx, PortWrite.puts_congr hh ha hd hputs⟩
  · obtain ⟨x, hx, hh, ha, hd, hg⟩ := h'.ports w hw
    obtain ⟨y, hy, hh', ha', hd', hg'⟩ := h.ports x hx
    exact ⟨y, hy, hh'.trans hh, ha'.trans ha, hd'.trans hd, hg'.trans hg⟩

theorem Drains.foldl {α : Type} {f : State → α → State} (hf : ∀ s a, Drains s (f s a)) (l : List α) (s : State) :
    Drains s (l.foldl f s) := by
  induction l generalizing s with
  | nil => exact .refl s
  | cons a l ih => exact (hf s a).trans (ih _)

/-- A byte of host memory as the writes sent on to the host leave it. -/
theorem byteAt_host (s : State) (a : Nat) :
    byteAt s (.host a) = overlay (s.mem.ports.filter (·.sent)) 0 true a (kget 0 s.mem.host a) := rfl

/-- Outside HBM and host memory a byte hangs on nothing that buffered writes move. -/
theorem byteAt_still (h : Still s t) (l : Loc) (hhbm : ∀ a, l ≠ .hbm a) (hhost : ∀ a, l ≠ .host a) :
    byteAt t l = byteAt s l := by
  cases l with
  | scr it o => rw [byteAt, byteAt, readNow, readNow, h.items]
  | hbm a => exact absurd rfl (hhbm a)
  | host a => exact absurd rfl (hhost a)
  | weight a => rw [byteAt, byteAt, readNow, readNow, h.ws]
  | enum o => rw [byteAt, byteAt, readNow, readNow, h.part]

theorem drainWhere_bytes (s : State) (p : PortWrite → Bool) : Drained s (drainWhere s p) := by
  let s0 := setMem s { s.mem with ports := leftBy p s.mem.ports }
  have hremap : (drainWhere s p).mem.remap = s.mem.remap := (drainWhere_still s p).remap
  intro l
  match l with
  | .hbm x =>
    rw [byteAt_hbm, byteAt_hbm, hremap, drainWhere_eq]
    obtain hsame | ⟨w, hw, hputs⟩ := performWrites_hbm (performedBy p s.mem.ports) s0 x
    · exact .inl hsame
    · exact .inr ⟨w, mem_of_mem_performedBy p _ hw, hputs⟩
  | .host a =>
    rw [byteAt_host, byteAt_host, drainWhere_ports, drainWhere_eq]
    generalize hb : kget 0 (performWrites s0 (performedBy p s.mem.ports)).mem.host a = b
    obtain hkept | ⟨w, hw, hcov, hval⟩ := overlay_cases ((leftBy p s.mem.ports).filter (·.sent)) 0 true a b
    · rw [overlay_uncovered b hkept, ← hb]
      obtain ⟨hdone, hsame⟩ | ⟨w, hw, hcov, hval⟩ := performWrites_host (performedBy p s.mem.ports) s0 a
      · left
        rw [hsame]
        refine (overlay_uncovered _ fun w hw hcore => ?_).symm
        obtain ⟨hmem, hsent⟩ := List.mem_filter.1 hw
        obtain hw' | hw' := mem_performedBy_or_leftBy p _ hmem
        · exact hdone w hw'
        · exact hkept w (List.mem_filter.2 ⟨hw', hsent⟩) hcore
      · exact .inr ⟨w, mem_of_mem_performedBy p _ hw, hval ▸ hcov.puts_host _⟩
    · right
      refine ⟨w, (mem_of_mem_leftBy p _ (List.mem_filter.1 hw).1).1, ?_⟩
      rw [hval]; exact hcov.puts_host _
  | .scr it o => exact .inl (byteAt_still (drainWhere_still s p) _ (fun _ h => nomatch h) fun _ h => nomatch h)
  | .weight a => exact .inl (byteAt_still (drainWhere_still s p) _ (fun _ h => nomatch h) fun _ h => nomatch h)
  | .enum o => exact .inl (byteAt_still (drainWhere_still s p) _ (fun _ h => nomatch h) fun _ h => nomatch h)

theorem drainWhere_drains (s : State) (p : PortWrite → Bool) : Drains s (drainWhere s p) := by
  refine ⟨drainWhere_bytes s p, (drainWhere_still s p).remap, fun w hw => ?_⟩
  rw [drainWhere_ports] at hw
  exact ⟨w, (mem_of_mem_leftBy p _ hw).1, rfl, rfl, rfl, rfl⟩

end

end Sys2Proof.Machine
end

section
/-! Queues and address spaces (06 R130, R134; 13 R272, R279): the limits of the requests, and what registrations, releases
and invalidations leave. -/

namespace Sys2Proof.Machine

theorem queueRegOk_iff (r : QueueReg) : queueRegOk r = true ↔ r.queue < 32768 ∧ 4 ≤ r.size ∧ r.size ≤ 16 ∧ 4 ≤ r.csize
    ∧ r.csize ≤ 16 ∧ r.ceil ≤ 127 ∧ r.asid ≤ 255 ∧ r.ring % 4096 = 0 := by
  simp [queueRegOk, and_assoc]

section
variable {s : State} {src : Src}

/-! ### Queues -/

theorem exec_regQueue (r : QueueReg) : exec (.regQueue src r) s
    = .next (if !queueRegOk r then mgmtDone s src 6 0 else if queueInUse s r.queue then mgmtDone s src 3 0
      else mgmtDone (setHost s { s.host with queues := kins s.host.queues r.queue (newQueue s r) }) src 0 0) := rfl

theorem exec_queueUnregister (q : Nat) : exec (.queueUnregister src q) s
    = .next (if 32768 ≤ q then mgmtDone s src 6 0 else if queueInUse s q then mgmtDone s src 3 0
      else mgmtDone (setHost s { s.host with queues := kdel s.host.queues q }) src 0 0) := rfl

/-! ### Address spaces -/

/-- The state with an address space's root, or without one. -/
def withAsids (s : State) (m : KMap Nat) : State := setMem s { s.mem with asids := m }

theorem exec_regAsid (a root : Nat) : exec (.regAsid src a root) s
    = .next (if 255 < a ∨ root % 2 ^ 15 ≠ 0 ∨ hbmSize s.part.dies < root + 2 ^ 15 then mgmtDone s src 6 0
      else if asidInUse s a then mgmtDone s src 3 0
      else mgmtDone (withAsids s (kins s.mem.asids a root)) src 0 0) := rfl

theorem exec_asidRelease (a : Nat) : exec (.asidRelease src a) s
    = .next (if 255 < a then mgmtDone s src 6 0 else if asidInUse s a then mgmtDone s src 3 0
      else mgmtDone (withAsids (dropAsid s a) (kdel s.mem.asids a)) src 0 0) := rfl

theorem regAsid_outside {a root : Nat} (h : ¬ (a ≤ 255 ∧ root % 2 ^ 15 = 0 ∧ root + 2 ^ 15 ≤ hbmSize s.part.dies)) :
    exec (.regAsid src a root) s = .next (mgmtDone s src 6 0) := by
  rw [exec_regAsid, if_pos (by omega)]

theorem regAsid_inside {a root : Nat} (h : a ≤ 255 ∧ root % 2 ^ 15 = 0 ∧ root + 2 ^ 15 ≤ hbmSize s.part.dies) :
    exec (.regAsid src a root) s = .next (if asidInUse s a then mgmtDone s src 3 0
      else mgmtDone (withAsids s (kins s.mem.asids a root)) src 0 0) := by
  rw [exec_regAsid, if_neg (by omega)]

/-- Address spaces and held translations are no bytes. -/
theorem sameBytes_asids (s : State) (m : KMap Nat) (tlb : List Tlb) (is : List Inval) :
    SameBytes s (setMem s { s.mem with asids := m, tlb := tlb, invals := is }) := fun l => by cases l <;> rfl

/-! ### Invalidation -/

theorem exec_invalidate (a va len : Nat) : exec (.invalidate src a va len) s
    = .next (if 255 < a then mgmtDone s src 6 0
      else if (kfind s.mem.asids a).isNone then mgmtDone s src 0 0
      else bumpSerial (setMem s { s.mem with
        tlb := s.mem.tlb.filter fun t => !(t.asid == a && inRange va len t.va t.size)
        invals := s.mem.invals ++ [⟨s.ctl.serial, a, va, len, src⟩] })) := rfl

/-- The state in which the buffered writes of an invalidated ASID are performed and the invalidation is over. -/
def invalDone (s : State) (n : Nat) (i : Inval) : State :=
  let u := drainWhere s (writeOfAsid s i.asid)
  setMem u { u.mem with invals := u.mem.invals.filter fun x => !(x.id == n) }

theorem exec_invalidateComplete {n : Nat} {i : Inval} (h : s.mem.invals.find? (fun x => x.id == n) = some i) :
    exec (.invalidateComplete n) s
      = .next (if invalWaits s i || !srcCan s i.src then s else mgmtDone (invalDone s n i) i.src 0 0) := by
  show execInvalidateComplete n s = _
  rw [execInvalidateComplete, h]
  rfl

theorem invalDone_drained (n : Nat) (i : Inval) : Drained s (invalDone s n i) := by
  have hd : Drained s (drainWhere s (writeOfAsid s i.asid)) := drainWhere_bytes s _
  intro l
  have hsame : byteAt (invalDone s n i) l = byteAt (drainWhere s (writeOfAsid s i.asid)) l := by cases l <;> rfl
  rw [hsame]
  exact hd l

theorem invalDone_ports (n : Nat) (i : Inval) : ∀ w ∈ (invalDone s n i).mem.ports, writeOfAsid s i.asid w = false := by
  intro w hw
  have hports : (invalDone s n i).mem.ports = leftBy (writeOfAsid s i.asid) s.mem.ports := drainWhere_ports s _
  rw [hports] at hw
  exact (mem_of_mem_leftBy _ _ hw).2

theorem invalDone_invals (n : Nat) (i : Inval) :
    (invalDone s n i).mem.invals = s.mem.invals.filter fun x => !(x.id == n) := by
  rw [← (drainWhere_still s (writeOfAsid s i.asid)).invals]
  rfl

end

end Sys2Proof.Machine

namespace Sys2Proof
open Machine

/-- Settles O46, request by request: the limits from `queueRegOk_iff` and `regAsid_outside`, the end of an invalidation
through `drainWhere_bytes`. -/
theorem queuesAndAddressSpaces : Obligations.QueuesAndAddressSpaces := by
  unfold Obligations.QueuesAndAddressSpaces
  refine ⟨fun src r s => ?_, fun src q s => ?_, fun src a root s => ?_, fun src a va len s => ?_, fun n i s hi => ?_⟩
  · dsimp only
    rw [← queueRegOk_iff, exec_regQueue]
    refine ⟨fun hok => ?_, fun hok huse => ?_, fun hok huse => ?_⟩
    · simp [hok]
    · simp [hok, huse]
    · simp only [hok, huse, Bool.not_true, Bool.false_eq_true, if_false]
      exact ⟨_, newQueue s r, rfl, kfind_kins_self .., rfl, rfl, rfl, rfl, rfl, rfl, rfl, rfl, rfl, rfl, rfl, rfl,
        fun k hk => kfind_kins_ne _ _ (Ne.symm hk), rfl, rfl, rfl⟩
  · rw [exec_queueUnregister]
    refine ⟨fun hq => ?_, fun hq huse => ?_, fun hq huse => ?_⟩
    · rw [if_pos hq]
    · rw [if_neg (by omega), if_pos huse]
    · rw [if_neg (by omega), huse, if_neg Bool.false_ne_true]
      exact ⟨_, rfl, by rw [setHost_host, kfind_kdel, if_pos rfl],
        fun k hk => by rw [setHost_host, kfind_kdel, if_neg (Ne.symm hk)], rfl⟩
  · dsimp only
    refine ⟨regAsid_outside, fun hok huse => ?_, fun hok huse => ?_, fun ha => ?_, fun ha huse => ?_, fun ha huse => ?_⟩
    · rw [regAsid_inside hok, if_pos huse]
    · rw [regAsid_inside hok, huse, if_neg Bool.false_ne_true]
      exact ⟨_, rfl, kfind_kins_self .., fun k hk => kfind_kins_ne _ _ (Ne.symm hk), sameBytes_asids s _ _ _, rfl, rfl⟩
    · rw [exec_asidRelease, if_pos ha]
    · rw [exec_asidRelease, if_neg (by omega), if_pos huse]
    · rw [exec_asidRelease, if_neg (by omega), huse, if_neg Bool.false_ne_true]
      exact ⟨_, rfl, by rw [withAsids, setMem_mem, kfind_kdel, if_pos rfl], rfl, sameBytes_asids s _ _ _, rfl, rfl⟩
  · dsimp only
    rw [exec_invalidate]
    refine ⟨fun ha => ?_, fun ha hnone => ?_, fun ha hsome => ?_⟩
    · rw [if_pos ha]
    · rw [if_neg (by omega), hnone]; rfl
    · rw [if_neg (by omega), if_neg (by rwa [Option.isNone_iff_eq_none])]
      exact ⟨_, rfl, rfl, rfl, sameBytes_asids s _ _ _, rfl, rfl⟩
  · rw [exec_invalidateComplete hi]
    refine ⟨fun h => ?_, fun hwait hcan => ?_⟩
    · rw [if_pos (by rcases h with h | h <;> simp [h])]
    · rw [hwait, hcan]
      exact ⟨_, rfl, invalDone_drained n i, invalDone_ports n i, invalDone_invals n i⟩

end Sys2Proof
end

section
/-! HBM bytes through the remap (06 R119), and what a host agent does to them at their home (06 R140; 13 R271). -/

namespace Sys2Proof.Machine

/-! ### Bytes of HBM written and read back -/

section
variable {m : Mem} {pa : Nat}

/-- A place that no written byte has keeps its byte. -/
theorem kget_writeHbm_other {bs : List Byte} {x : Nat} (h : ∀ k, k < bs.length → remapOf m.remap (pa + k) ≠ x) :
    kget 0 (writeHbm m pa bs).hbm x = kget 0 m.hbm x := by
  obtain hsame | ⟨k, hk, -, hat⟩ := kget_writeHbm_cases m pa x bs
  · exact hsame
  · exact absurd hat (h k hk)

/-- Bytes at different places are all there after the write. -/
theorem kget_writeHbm_at {bs : List Byte}
    (h : ∀ i j, i < bs.length → j < bs.length → remapOf m.remap (pa + i) = remapOf m.remap (pa + j) → i = j)
    {k : Nat} (hk : k < bs.length) : kget 0 (writeHbm m pa bs).hbm (remapOf m.remap (pa + k)) = bs.getD k 0 := by
  induction bs generalizing m pa k with
  | nil => exact absurd hk (Nat.not_lt_zero k)
  | cons b t ih =>
    rw [writeHbm]
    cases k with
    | zero =>
      rw [kget_writeHbm_other, kget_kput]
      · exact if_pos rfl
      · intro j hj he
        rw [Nat.add_assoc, Nat.add_comm 1 j] at he
        have := h (j + 1) 0 (by simpa using hj) (by simp) he
        omega
    | succ k =>
      rw [← Nat.add_assoc, Nat.add_right_comm]
      refine ih (m := { m with hbm := kput 0 m.hbm (remapOf m.remap pa) b }) (fun i j hi hj he => ?_) (by simpa using hk)
      have := h (i + 1) (j + 1) (by simpa using hi) (by simpa using hj) (by
        rw [← Nat.add_assoc, ← Nat.add_assoc, Nat.add_right_comm pa i, Nat.add_right_comm pa j]; exact he)
      omega

theorem readHbm_length (n : Nat) : (readHbm m pa n).length = n := by simp [readHbm]

theorem readHbm_one (m : Mem) (a : Nat) : readHbm m a 1 = [kget 0 m.hbm (remapOf m.remap a)] := rfl

/-- HBM bytes hang on HBM and the remap alone. -/
theorem readHbm_congr {m' : Mem} (hh : m'.hbm = m.hbm) (hr : m'.remap = m.remap) (n : Nat) :
    readHbm m' pa n = readHbm m pa n := by rw [readHbm, readHbm, hh, hr]

theorem readHbm_writeHbm_same {bs : List Byte}
    (h : ∀ i j, i < bs.length → j < bs.length → remapOf m.remap (pa + i) = remapOf m.remap (pa + j) → i = j) :
    readHbm (writeHbm m pa bs) pa bs.length = bs := by
  refine List.ext_getElem (readHbm_length _) fun k hk hk' => ?_
  rw [← List.getD_eq_getElem _ 0 hk', ← kget_writeHbm_at h hk']
  simp [readHbm, writeHbm_remap]

/-- Another byte of HBM reads as before. -/
theorem readHbm_one_writeHbm_other {bs : List Byte} {a : Nat}
    (h : ∀ k, k < bs.length → remapOf m.remap a ≠ remapOf m.remap (pa + k)) :
    readHbm (writeHbm m pa bs) a 1 = readHbm m a 1 := by
  rw [readHbm_one, readHbm_one, writeHbm_remap, kget_writeHbm_other fun k hk => (h k hk).symm]

end

/-! ### A host agent's write -/

section
variable (s : State) (pa : Nat) (d : List Byte)

theorem hostLines_still (ks : List Nat) :
    Still s (ks.foldl (fun s k => fireLine (l2Write s 255 (k * 128)) (.hbm k)) s) :=
  Still.foldl (fun s k => (Still.of_groups rfl rfl : Still s (l2Write s 255 (k * 128))).trans (fireLine_still _ _)) ks s

theorem hostLines_mem (ks : List Nat) :
    ∃ l2, (ks.foldl (fun s k => fireLine (l2Write s 255 (k * 128)) (.hbm k)) s).mem = { s.mem with l2 := l2 } := by
  induction ks generalizing s with
  | nil => exact ⟨s.mem.l2, rfl⟩
  | cons k t ih =>
    obtain ⟨l2, hm⟩ := ih (fireLine (l2Write s 255 (k * 128)) (.hbm k))
    rw [fireLine_mem] at hm
    exact ⟨l2, hm⟩

theorem hostWriteHbm_still : Still s (hostWriteHbm s pa d) := by
  rw [hostWriteHbm]
  obtain ⟨h, hm⟩ := writeHbm_frame s.mem pa d
  rw [hm]
  refine Still.trans ?_ (hostLines_still _ _)
  exact Still.of_groups rfl rfl

theorem hostWriteHbm_mem : ∃ l2, (hostWriteHbm s pa d).mem = { writeHbm s.mem pa d with l2 := l2 } :=
  hostLines_mem _ _

end

section
variable {s t : State}

theorem Still.sameHost (h : Still s t) : SameHost s t := by
  have e := congrArg (fun x : State => { x.host with febuf := s.host.febuf }) h.state
  exact e

/-- Outside HBM a byte hangs on nothing that moves but the ports and host memory. -/
theorem byteAt_still_outside (h : Still s t) (hp : t.mem.ports = s.mem.ports) (hh : t.mem.host = s.mem.host) (l : Loc)
    (hl : ∀ a, l ≠ .hbm a) : byteAt t l = byteAt s l := by
  by_cases hx : ∃ a, l = .host a
  · obtain ⟨a, rfl⟩ := hx
    rw [byteAt_host, byteAt_host, hp, hh]
  · exact byteAt_still h l hl fun a ha => hx ⟨a, ha⟩

/-- A state that differs by one write to HBM holds its bytes. -/
theorem hbmHolds_of_writeHbm {pa : Nat} {d : List Byte} (hst : Still s t)
    (hm : ∃ l2, t.mem = { writeHbm s.mem pa d with l2 := l2 }) (hap : Apart s pa d.length) : HbmHolds s t pa d := by
  obtain ⟨l2, hm⟩ := hm
  refine ⟨?_, fun a ha => ?_, fun l hl => ?_⟩
  · rw [hm]
    exact (readHbm_congr rfl rfl d.length).trans (readHbm_writeHbm_same hap)
  · rw [byteAt_hbm, byteAt_hbm, hst.remap, hm]
    exact kget_writeHbm_other fun k hk => (ha k hk).symm
  · refine byteAt_still_outside hst ?_ ?_ l hl
    · rw [hm]; exact writeHbm_ports ..
    · rw [hm]; exact writeHbm_host ..

theorem hostWriteHbm_holds {pa : Nat} {d : List Byte} (hap : Apart s pa d.length) :
    HbmHolds s (hostWriteHbm s pa d) pa d :=
  hbmHolds_of_writeHbm (hostWriteHbm_still s pa d) (hostWriteHbm_mem s pa d) hap

theorem byteAt_answerHost (bs : List Byte) (l : Loc) : byteAt (answerHost t bs) l = byteAt t l := by cases l <;> rfl

/-- What the host gets back changes no byte. -/
theorem HbmHolds.answerHost {pa : Nat} {d : List Byte} (h : HbmHolds s t pa d) (bs : List Byte) :
    HbmHolds s (answerHost t bs) pa d := by
  obtain ⟨hat, hhbm, hother⟩ := h
  exact ⟨hat, fun a ha => (byteAt_answerHost ..).trans (hhbm a ha), fun l hl => (byteAt_answerHost ..).trans (hother l hl)⟩

/-- An aligned run of bytes inside a 2 MiB region lies at different places (06 R119). -/
theorem apart_of_aligned (s : State) {pa n : Nat} (hn : 0 < n) (hd : n ∣ 2 ^ 21) (ha : pa % n = 0) : Apart s pa n := by
  intro i j hi hj he
  obtain ⟨c, hc⟩ := hd
  obtain ⟨q, hq⟩ : n ∣ pa := Nat.dvd_of_mod_eq_zero ha
  have hreg : ∀ k, k < n → (pa + k) / 2 ^ 21 = q / c ∧ (pa + k) % 2 ^ 21 = n * (q % c) + k := by
    intro k hk
    have hdiv : (pa + k) / n = q := by
      rw [hq, Nat.mul_add_div hn, Nat.div_eq_of_lt hk, Nat.add_zero]
    have hmod : (pa + k) % n = k := by rw [hq, Nat.mul_add_mod, Nat.mod_eq_of_lt hk]
    rw [hc, ← Nat.div_div_eq_div_mul, hdiv, Nat.mod_mul, hdiv, hmod]
    exact ⟨rfl, Nat.add_comm ..⟩
  rw [remapOf, remapOf, (hreg i hi).1, (hreg j hj).1, (hreg i hi).2, (hreg j hj).2] at he
  omega

end

end Sys2Proof.Machine
end

section
/-! Settles O50: the mailbox, BAR0 by offset, and the aperture of BAR2 (13 R271; 06 R139, R140). -/

namespace Sys2Proof.Machine

/-! ### GO -/

section
variable (v : W64) (s : State)

theorem exec_go : exec (.go v) s = .next (runMailbox s v.toNat) := rfl

theorem go_discarded (h : v ≠ 1 ∨ s.host.busy = true) : exec (.go v) s = .next s := by
  have hv : v.toNat ≠ 1 ∨ s.host.busy = true := h.imp_left fun hne he => hne (BitVec.eq_of_toNat_eq he)
  rw [exec_go, runMailbox, if_pos hv]

theorem go_accepted (h : s.host.busy = false) : exec (.go 1) s
    = .next { s with host := { s.host with
        busy := true, mgmt := s.host.mgmt ++ [mgmtReqOf none 0 true s.host.mailbox] } } := by
  rw [exec_go, runMailbox, if_neg (by simp [h])]; rfl

end

theorem mgmtReqOf_ok (q : Option Nat) (i : Nat) (bs : List Byte) :
    (mgmtReqOf q i true bs).ok = true ↔ bs.getD 4 0 = 1 ∧ bs.getD 6 0 = 0 ∧ bs.getD 7 0 = 0 := by
  simp [mgmtReqOf, and_assoc]

/-! ### BAR0 by offset -/

theorem natLe_take_bytesLe {k n : Nat} (hk : k ≤ n) (x : Nat) : natLe ((bytesLe n x).take k) = x % 256 ^ k := by
  induction k generalizing n x with
  | zero => simp [natLe, Nat.mod_one]
  | succ k ih =>
    obtain ⟨n, rfl⟩ := Nat.exists_eq_add_of_le' (Nat.lt_of_lt_of_le (Nat.succ_pos k) hk)
    have hpow : (256 : Nat) ^ (k + 1) = 256 * 256 ^ k := by rw [Nat.pow_succ, Nat.mul_comm]
    rw [bytesLe, List.take_succ_cons, natLe, ih (Nat.le_of_succ_le_succ hk), BitVec.toNat_ofNat, hpow, Nat.mod_mul]

/-- Eight bytes laid over a register replace it. -/
theorem mergeReg_whole (old : Nat) (v : W64) : mergeReg old 0 (bytesLe 8 v.toNat) = v.toNat := by
  have hbytes : ((List.range 8).map fun i => if 0 ≤ i ∧ i < 0 + (bytesLe 8 v.toNat).length
      then (bytesLe 8 v.toNat).getD (i - 0) 0 else (bytesLe 8 old).getD i 0) = bytesLe 8 v.toNat := rfl
  rw [mergeReg, hbytes, natLe_bytesLe]
  exact Nat.mod_eq_of_lt v.isLt

section
variable (s : State)

theorem exec_barRegisterWrite (off : Nat) (d : List Byte) : exec (.barRegisterWrite off d) s = .next (barWrite s off d) := rfl

theorem barWrite_doorbell {q : Nat} (hq : q < 32768) (d : List Byte) :
    barWrite s (8 * q) d = ringDoorbell s q (natLe (d.take 4)) := by
  rw [barWrite, if_pos (by omega), if_pos (by omega), Nat.mul_div_cancel_left q (by omega)]

theorem barWrite_mailbox {off : Nat} (hlo : 0x50000 ≤ off) (hhi : off < 0x50040) (d : List Byte) :
    barWrite s off d = writeMailbox s (off - 0x50000) d := by
  rw [barWrite, if_neg (by omega), if_pos ⟨hlo, hhi⟩]

theorem barWrite_go (d : List Byte) : barWrite s 0x50040 d = runMailbox s (natLe (d.take 8)) := by
  rw [barWrite, if_neg (by omega), if_neg (by omega), if_pos rfl]

theorem barWrite_apbase (d : List Byte) : barWrite s 0x50080 d = writeApbase s (mergeReg s.host.apbase 0 d) := by
  rw [barWrite, if_neg (by omega), if_neg (by omega), if_neg (by omega), if_pos (by omega)]

theorem barWrite_head {q : Nat} (hq : q < 32768) (d : List Byte) :
    barWrite s (0x80000 + 8 * q) d = ringHead s q (natLe (d.take 8)) := by
  rw [barWrite, if_neg (by omega), if_neg (by omega), if_neg (by omega), if_neg (by omega), if_pos (by omega),
    if_pos (by omega), Nat.add_sub_cancel_left, Nat.mul_div_cancel_left q (by omega)]

theorem barWrite_unlisted {off : Nat} (h : (0x40000 ≤ off ∧ off < 0x50000) ∨ (0x50048 ≤ off ∧ off < 0x50080)
    ∨ (0x50088 ≤ off ∧ off < 0x80000) ∨ 0xC0000 ≤ off) (d : List Byte) : barWrite s off d = s := by
  rw [barWrite, if_neg (by omega), if_neg (by omega), if_neg (by omega), if_neg (by omega), if_neg (by omega)]

/-- Eight bytes written to a register of BAR0 act as the register's own instruction. -/
theorem barRegisterWrite_names (off : Nat) (v : W64) : let w := exec (.barRegisterWrite off (bytesLe 8 v.toNat)) s
    (∀ q, q < 32768 → off = 8 * q → w = exec (.submissionDoorbell q v) s)
    ∧ (∀ q, q < 32768 → off = 0x80000 + 8 * q → w = exec (.completionHeadDoorbell q v) s)
    ∧ (off = 0x50040 → w = exec (.go v) s)
    ∧ (off = 0x50080 → v.toNat % 2 ^ 36 = 0 → w = .next { s with host := { s.host with apbase := v.toNat } }) := by
  have hwhole : natLe ((bytesLe 8 v.toNat).take 8) = v.toNat := by
    rw [natLe_take_bytesLe (Nat.le_refl 8)]; exact Nat.mod_eq_of_lt v.isLt
  refine ⟨?_, ?_, ?_, ?_⟩
  · rintro q hq rfl
    rw [exec_barRegisterWrite, barWrite_doorbell s hq, natLe_take_bytesLe (by omega)]
    rfl
  · rintro q hq rfl
    rw [exec_barRegisterWrite, barWrite_head s hq, hwhole]
    rfl
  · rintro rfl
    rw [exec_barRegisterWrite, barWrite_go, hwhole, exec_go]
  · rintro rfl hv
    rw [exec_barRegisterWrite, barWrite_apbase, mergeReg_whole, writeApbase, if_pos hv]
    rfl

/-- The mailbox bytes that a write covers become its bytes. -/
theorem barRegisterWrite_mailbox {off : Nat} (d : List Byte) (hlo : 0x50000 ≤ off) (hhi : off < 0x50040) :
    ∃ mb, exec (.barRegisterWrite off d) s = .next { s with host := { s.host with mailbox := mb } }
      ∧ ∀ k, k < 64 → mb.getD k 0 = if off ≤ 0x50000 + k ∧ 0x50000 + k < off + d.length then
          d.getD (0x50000 + k - off) 0 else s.host.mailbox.getD k 0 := by
  refine ⟨_, by rw [exec_barRegisterWrite, barWrite_mailbox s hlo hhi]; rfl, fun k hk => ?_⟩
  rw [List.getD_eq_getElem _ _ (by simpa using hk), List.getElem_map, List.getElem_range]
  have hiff : (off - 0x50000 ≤ k ∧ k < off - 0x50000 + d.length) ↔ (off ≤ 0x50000 + k ∧ 0x50000 + k < off + d.length) := by
    omega
  have hsub : k - (off - 0x50000) = 0x50000 + k - off := by omega
  simp only [hiff, hsub]

end

/-! ### Accesses through BAR2 -/

section
variable {s : State}

/-- With nothing waiting, an access is served at once, or is the one that waits. -/
theorem hostAccess_alone (hs : s.host.stalled = []) (a : HostAcc) : hostAccess s a
    = if ownedBy s.run.xfers 0 a.span.1 a.span.2 then { s with host := { s.host with stalled := [a] } } else serveHost s a := by
  have hsame : setHost s { s.host with stalled := [] } = s := by rw [← hs]; rfl
  rw [hostAccess, hs, List.nil_append]
  show serveStalled 1 _ = _
  rw [serveStalled]
  show (if ownedBy s.run.xfers 0 a.span.1 a.span.2 then _ else
    serveStalled 0 (serveHost (setHost s { s.host with stalled := [] }) a)) = _
  rw [hsame]
  rfl

theorem hostReach_iff (s : State) (pa n : Nat) : hostReach s pa n = true
    ↔ pa + n ≤ hbmSize s.part.dies ∧ ∀ k ∈ linesOf pa n, poisoned s.mem (k * 128) = false := by
  simp [hostReach]

theorem serveHost_unreached {a : HostAcc} (h : ¬ hostReach s a.span.1 a.span.2 = true) : serveHost s a = abortHost s 2 := by
  exact if_pos (by simpa using h)

theorem serveHost_read {pa n : Nat} (h : hostReach s pa n = true) :
    serveHost s (.read pa n) = answerHost s (readHbm s.mem pa n) := by
  rw [serveHost]; exact if_neg (by simp [HostAcc.span, h])

theorem serveHost_write {pa : Nat} {d : List Byte} (h : hostReach s pa d.length = true) :
    serveHost s (.write pa d) = hostWriteHbm s pa d := by
  rw [serveHost]; exact if_neg (by simp [HostAcc.span, h])

theorem serveHost_atomic (op : HostOp) {wide : Bool} {pa : Nat} (x y : W64) {n : Nat} (hn : n = if wide then 8 else 4)
    (h : hostReach s pa n = true) : serveHost s (.atomic op wide pa x y)
      = answerHost (hostWriteHbm s pa (bytesLe n (hostOpNew op (8 * n) (natLe (readHbm s.mem pa n)) x.toNat y.toNat)))
          (readHbm s.mem pa n) := by
  subst hn
  exact if_neg (by simp [HostAcc.span, h])

theorem bar2Access_inside (wr : Bool) {off : Nat} {d : List Byte} (h : off + d.length ≤ 2 ^ 36) :
    exec (.bar2Access wr off d) s
      = .next (hostAccess s (if wr then .write (s.host.apbase + off) d else .read (s.host.apbase + off) d.length)) :=
  congrArg Host.Outcome.next (if_neg (by omega))

/-- The place and length of an access through BAR2. -/
theorem bar2_span (wr : Bool) (pa : Nat) (d : List Byte) :
    (if wr then HostAcc.write pa d else .read pa d.length).span = (pa, d.length) := by cases wr <;> rfl

theorem bar2Atomic_inside (op : HostOp) (wide : Bool) {off n : Nat} (x y : W64) (hn : n = if wide then 8 else 4)
    (h : off + n ≤ 2 ^ 36) (ha : off % n = 0) : exec (.bar2Atomic op (if wide then .w64 else .w32) off x y) s
      = .next (hostAccess s (.atomic op wide (s.host.apbase + off) x y)) := by
  subst hn
  cases wide
  · exact congrArg Host.Outcome.next (if_neg fun hc => hc.elim (fun hc => Nat.not_lt.2 h hc) fun hc => hc ha)
  · exact congrArg Host.Outcome.next (if_neg fun hc => hc.elim (fun hc => Nat.not_lt.2 h hc) fun hc => hc ha)

/-- Bytes depend on a number modulo their range alone. -/
theorem bytesLe_mod (n x : Nat) : bytesLe n (x % 2 ^ (8 * n)) = bytesLe n x := by
  have h : natLe (bytesLe n x) = x % 2 ^ (8 * n) := by rw [natLe_bytesLe, Nat.pow_mul]
  rw [← h]
  simpa using bytesLe_natLe (bytesLe n x)

/-- The bytes that a host AtomicOp leaves. -/
theorem bytesLe_hostOpNew (op : HostOp) (n old x y : Nat) : bytesLe n (hostOpNew op (8 * n) old x y)
    = bytesLe n (match op with
      | .add => old + x
      | .exch => x
      | .cas => if old = x % 2 ^ (8 * n) then y else old) := by
  cases op with
  | add => exact bytesLe_mod n (old + x)
  | exch => exact bytesLe_mod n x
  | cas =>
    show bytesLe n (if old = x % 2 ^ (8 * n) then y % 2 ^ (8 * n) else old) = _
    split
    · exact bytesLe_mod n y
    · rfl

end

end Sys2Proof.Machine

namespace Sys2Proof
open Machine

/-- Settles O50: each offset of BAR0 by its own branch; an access through BAR2 with none waiting before it is served at
once at the home of its lines, where a host agent's write is one write to HBM. -/
theorem mailboxAndAperture : Obligations.MailboxAndAperture := by
  refine ⟨fun v s => ⟨go_discarded v s, ?_⟩, fun off v s => barRegisterWrite_names s off v, fun off d s =>
    ⟨barRegisterWrite_mailbox s d, fun h => ?_⟩, fun off s hs => ⟨fun d hd => ⟨?_, ?_, ?_, ?_⟩, ?_, fun _ _ _ => rfl⟩⟩
  · rintro rfl hbusy
    exact ⟨_, go_accepted s hbusy, rfl, rfl, rfl, mgmtReqOf_ok ..⟩
  · rw [exec_barRegisterWrite, barWrite_unlisted s h]
  · intro hfree hhome
    rw [bar2Access_inside false hd, hostAccess_alone hs, if_neg (by simpa [HostAcc.span] using hfree)]
    exact congrArg Host.Outcome.next (serveHost_read ((hostReach_iff ..).2 hhome))
  · intro hfree hhome hap
    refine ⟨_, bar2Access_inside true hd, ?_⟩
    rw [if_pos rfl, hostAccess_alone hs, if_neg (by simpa [HostAcc.span] using hfree),
      serveHost_write ((hostReach_iff ..).2 hhome)]
    have hst := hostWriteHbm_still s (s.host.apbase + off) d
    exact ⟨hostWriteHbm_holds hap, hst.part, hst.sameHost, hst.xfers⟩
  · intro hfree hhome wr
    rw [bar2Access_inside wr hd, hostAccess_alone hs, bar2_span, if_neg (by simpa using hfree), serveHost_unreached]
    · rfl
    · rw [bar2_span, hostReach_iff]; exact hhome
  · intro hfree wr
    refine ⟨_, ?_, bar2_span wr _ d⟩
    rw [bar2Access_inside wr hd, hostAccess_alone hs, bar2_span, if_pos (by simpa using hfree)]
  · intro op wide x y n hin hal hbase hfree hhome old
    have hpos : 0 < n := by cases wide <;> decide
    have hdvd : n ∣ 2 ^ 21 := by cases wide <;> decide
    have hdvd' : n ∣ 2 ^ 36 := by cases wide <;> decide
    have hap : Apart s (s.host.apbase + off) n := apart_of_aligned s hpos hdvd (Nat.mod_eq_zero_of_dvd
      (Nat.dvd_add (hdvd'.trans (Nat.dvd_of_mod_eq_zero hbase)) (Nat.dvd_of_mod_eq_zero hal)))
    refine ⟨_, bar2Atomic_inside op wide x y rfl hin hal, ?_⟩
    rw [hostAccess_alone hs, if_neg (by simpa [HostAcc.span] using hfree),
      serveHost_atomic op x y rfl ((hostReach_iff ..).2 hhome), bytesLe_hostOpNew]
    refine ⟨rfl, rfl, (hostWriteHbm_holds ?_).answerHost _⟩
    rw [length_bytesLe]; exact hap

end Sys2Proof
end

section
/-! Refutes O23. The statement ranges over every instruction that issues, also over the reserved width code W = 7, which
no word decodes to (14 R298) and which the model executes as a datum of 16 bytes from one register; `storedBytes` takes
those bytes from four. -/

namespace Sys2Proof.Tests
open Sys2Proof.Machine

/-- A store of the reserved width 7, one address for all lanes, v3 and v4 its data. -/
def wideSt : Instr := .st ⟨3, 4, 63, 7, 0⟩
def wideStOp : StoreOp := ⟨3, 4, 63, 7, false⟩
def wideS : State := baseG fun g => putV 4 (fun _ => 1) (memG g)

/-- Every lane passes its checks, and the port takes other bytes than those of v3 to v6: v4 is lost. -/
theorem reservedWidth_store_drops_registers : ∃ g g1, (wideStOp.form wideSt).Issues wideS g g1
    ∧ (storeHits wideS g wideStOp [63]).map LaneHit.loc? = [Loc.hbm 0x1001000].map some
    ∧ wideStOp.pre ((wideStOp.form wideSt).ctx wideS g) = none ∧ ((wideStOp.form wideSt).ctx wideS g).x = ends
    ∧ blockedBy wideS (storeHits wideS g wideStOp [63]) 16 = none
    ∧ conflictHeld wideS (who wideS wideS.ctl.cur g) (storeHits wideS g wideStOp [63]) = false
    ∧ nextB (exec wideSt wideS) (fun t => !decide (t.mem.ports
        = (storeInOrder (who wideS wideS.ctl.cur g) g.relFence
            [(.hbm 0x1001000, storedBytes g false 16 3 63)] wideS).mem.ports)) = true :=
  issues_of (by decide +kernel)

end Sys2Proof.Tests

namespace Sys2Proof
open Machine Tests

/-- Refutes O23: a store of the reserved width code 7 with v4 = 1 puts a zero where the statement has the byte of v4. -/
theorem not_storesWriteAndReadBack : ¬ Obligations.StoresWriteAndReadBack := by
  intro h
  obtain ⟨hstores, -, -⟩ := h
  obtain ⟨g, g1, hissues, hplaces, hpre, hx, hblocked, hconflict, hports⟩ := reservedWidth_store_drops_registers
  have hx0 : ((wideStOp.form wideSt).ctx wideS g).x ≠ 0 := by rw [hx]; decide
  have hlast : [((Mask.list ends).getLast?).getD 0] = [63] := by decide +kernel
  have hls : [((Mask.list ((wideStOp.form wideSt).ctx wideS g).x).getLast?).getD 0] = [63] := hx ▸ hlast
  have hclaim := hstores wideSt wideStOp wideS g g1 rfl hissues
  simp only [show wideStOp.v = 63 from rfl, if_true, hls] at hclaim
  obtain ⟨t, -, u, hexec, -, -, -, hu, -, -, -, hsame, -⟩ :=
    hclaim [.hbm 0x1001000] hplaces hpre hx0 hblocked hconflict
  rw [hexec, nextB, hsame, hu] at hports
  exact absurd hports (by simp [wideStOp, bytesM, storeWidth])

end Sys2Proof
end

section
/-! Refutes O24, at CMNT. The statement asks of every byte of the range that no engine transfer owns it; the model asks it
of the range as a whole, and so also finds an owned range of no bytes that lies strictly inside. -/

namespace Sys2Proof.Tests
open Sys2Proof.Machine

/-- The translation of the page that the range lies in, as a die holds it. -/
def cmntPage : Tlb := ⟨0, 0, 0, 0x1000000, 0x1000000, true, true, false, false⟩

/-- A transfer in flight that owns a range of no bytes, in the middle of the line of address 0x1000. -/
def emptyOwner : Xfer := { tXfer 9 with owned := [(0x1001040, 0, 0)] }
def cmntOwnedS : State :=
  let s := baseG fun g => putS 6 128 (memG g)
  { s with mem := { s.mem with tlb := [cmntPage] }, run := { s.run with xfers := [emptyOwner] } }

/-- CMNT over one line that the transfer owns no byte of waits. -/
theorem emptyOwnedRange_holds_cmnt : ∃ g g1, cmntForm.Issues cmntOwnedS g g1 ∧ rdS g 4 = 0x1000 ∧ rdS g 6 = 128
    ∧ (who cmntOwnedS cmntOwnedS.ctl.cur g).die = 0 ∧ (who cmntOwnedS cmntOwnedS.ctl.cur g).asid = 0
    ∧ (drainGroup cmntOwnedS cmntOwnedS.ctl.cur).mem.tlb = [cmntPage]
    ∧ (drainGroup cmntOwnedS cmntOwnedS.ctl.cur).run.xfers = [emptyOwner]
    ∧ nextB (exec (.cmntCinv ⟨1, 4, 6, 0⟩) cmntOwnedS) (fun t => grpB t cmntOwnedS.ctl.cur fun h => h.wait.isSome) = true :=
  issues_of (by decide +kernel)

/-- A page that the die holds serves every address in it. -/
theorem translate_cmntPage {s : State} (h : s.mem.tlb = [cmntPage]) {q : Nat} (hq : q < 0x1000000) :
    translate s 0 0 q .load = .ok cmntPage := by
  have hfind : tlbFind s.mem 0 0 q = some cmntPage := by
    rw [tlbFind, h]
    exact List.find?_cons_of_pos (by simpa [cmntPage] using hq)
  rw [Machine.translate, hfind]
  rfl

/-- No transfer owns a single byte through a range of none. -/
theorem emptyOwner_owns_nothing (key : Nat) : ownedBy [emptyOwner] 0 key 1 = false := by
  simp [ownedBy, emptyOwner]

end Sys2Proof.Tests

namespace Sys2Proof
open Machine Tests

/-- Refutes O24: with an owned range of no bytes inside the line, CMNT.CINV waits where the statement has it retire. -/
theorem not_fencesAndMaintenance : ¬ Obligations.FencesAndMaintenance := by
  intro h
  obtain ⟨⟨-, hcmnt⟩, -⟩ := h
  obtain ⟨g, g1, hissues, hstart, hlen, hdie, hasid, htlb, hxfers, hwait⟩ := emptyOwnedRange_holds_cmnt
  have hclaim := hcmnt ⟨1, 4, 6, 0⟩ (.cmntCinv ⟨1, 4, 6, 0⟩) true cmntOwnedS g g1 (.inr (.inr ⟨rfl, rfl⟩)) hissues
  obtain ⟨t, u, hexec, hgrp, hretired, -⟩ := hclaim (.inr (by
    have hs : (rdS g (4 : BitVec 6).toNat).toNat = 0x1000 := congrArg BitVec.toNat hstart
    have hl : (rdS g (6 : BitVec 6).toNat).toNat = 128 := congrArg BitVec.toNat hlen
    rw [hs, hl, hdie, hasid]
    refine ⟨by omega, fun q hlo hhi => ⟨cmntPage, translate_cmntPage htlb (by omega), ?_, ?_, ?_, ?_, ?_, ?_⟩⟩
    · exact Nat.zero_le q
    · show q < 0 + 0x1000000; omega
    · decide
    · decide
    · intro _
      rw [ownedLoc, hxfers]
      exact emptyOwner_owns_nothing _
    · exact fun p _ hhi' _ _ => translate_cmntPage htlb (by omega)))
  obtain ⟨-, hidle, -⟩ := hretired
  rw [hexec, nextB, grpB, hgrp] at hwait
  simp [hidle] at hwait

end Sys2Proof
end

section
/-! Refutes O47, where a page of the source faults. The statement has the window join the record that `recordOf` finds; the
model adds the waiting agent by the record's number, which a fault table that holds a number twice gives to another. -/

namespace Sys2Proof.Tests
open Sys2Proof.Machine

/-- Two records of one number: the first of another ASID, the second that of the window's page. -/
def twinRecords : KMap FaultRec :=
  [(0xFF000000, { tRec with asid := 1, agents := [] }), (0xFF000000, { tRec with agents := [] })]
def twinWin : LoadWin := ⟨tSrc, 0x80, 0x5000000, 0, 0x1001, 0, 0, false, []⟩
def twinS : State :=
  let s := beginS 0x5000000 []
  { s with mem := { s.mem with faults := twinRecords } }

/-- The page faults, a record of it stands, and the window parks on no record of its ASID. -/
theorem twinRecords_lose_the_window : twinS.part.win = some twinWin ∧ srcCan twinS tSrc = true
    ∧ (pageError twinS 0x5000000).map (fun c => decide (c = walkBusy)) = some false
    ∧ poolFull twinS 0xFF 0 0x5000000 false = false
    ∧ nextB (exec .loadWindowCopy twinS) (fun t => decide (∀ e ∈ t.mem.faults,
        ¬ ((Agent.window, 0x5000000, 7) ∈ e.2.agents ∧ e.2.asid = 0))) = true := by decide +kernel

end Sys2Proof.Tests

namespace Sys2Proof
open Machine Tests

/-- Refutes O47: with two records of number 0xFF000000, LOAD_WINDOW_COPY adds the window to the one of ASID 1, and no record
of its own ASID names it. -/
theorem not_loadWindowFillsWeightStores : ¬ Obligations.LoadWindowFillsWeightStores := by
  intro h
  obtain ⟨-, hbegins, -⟩ := h
  obtain ⟨hwin, hcan, herror, hpool, hlost⟩ := twinRecords_lose_the_window
  obtain ⟨c, hc, hbusy⟩ := Option.map_eq_some_iff.1 herror
  obtain ⟨host, hfault⟩ : ∃ host, Machine.translate twinS 0 0 0x5000000 .load = .error (c, host) := by
    rw [pageError] at hc
    split at hc
    · exact absurd hc (by simp)
    · rename_i e he
      exact ⟨e.2, by rw [he, ← Option.some.inj hc]⟩
  have hclaim := hbegins twinWin twinS hwin rfl rfl hcan
  obtain ⟨-, hpages⟩ := hclaim
  obtain ⟨-, hinside⟩ := hpages 0 (by decide) (fun j hj => absurd hj (Nat.not_lt_zero j))
  obtain ⟨-, hparks⟩ := hinside (by decide) c host hfault
  obtain ⟨u, hexec, -, -, -, -, e, he, hagent, hasid, -, -⟩ := hparks (of_decide_eq_false hbusy) hpool
  rw [hexec, nextB] at hlost
  exact of_decide_eq_true hlost e he ⟨hagent, hasid⟩

end Sys2Proof
end

section
/-! What memory instructions share: the waits of a release and of an acquire (07 R150, R153), the checks of their lanes (06
R115 to R118), and what one that writes no register leaves when it completes. -/

namespace Sys2Proof.Machine

/-! ### Groups and flights beside the memories -/

/-- From the first state to the second groups change in the notes of memory instructions alone, and no flight moves. -/
structure Notes (s t : State) : Prop where
  groups : ∀ k, plainAt t k = plainAt s k
  flights : t.run.flights = s.run.flights

/-- The same, and memory changes by buffered writes performed alone. -/
structure Waits (s t : State) : Prop extends Notes s t where
  drains : Drains s t

section
variable {s t u : State}

theorem Notes.refl (s : State) : Notes s s := ⟨fun _ => rfl, rfl⟩
theorem Notes.trans (h : Notes s t) (h' : Notes t u) : Notes s u :=
  ⟨fun k => (h'.groups k).trans (h.groups k), h'.flights.trans h.flights⟩

theorem Notes.of_run (hg : t.run.groups = s.run.groups) (hf : t.run.flights = s.run.flights) : Notes s t :=
  ⟨fun k => by rw [plainAt, plainAt, grp, grp, hg], hf⟩

theorem Notes.modGrp (s : State) (gid : Nat) {f : Group → Group} (hf : ∀ g, (f g).plain = g.plain) :
    Notes s (modGrp s gid f) := ⟨fun k => plainAt_modGrp s gid k hf, rfl⟩

theorem Still.notes (h : Still s t) : Notes s t := ⟨h.groups, h.flights⟩

theorem Waits.refl (s : State) : Waits s s := ⟨.refl s, .refl s⟩
theorem Waits.trans (h : Waits s t) (h' : Waits t u) : Waits s u :=
  ⟨h.toNotes.trans h'.toNotes, h.drains.trans h'.drains⟩

theorem Waits.foldl {α : Type} {f : State → α → State} (hf : ∀ s a, Waits s (f s a)) (l : List α) (s : State) :
    Waits s (l.foldl f s) := by
  induction l generalizing s with
  | nil => exact .refl s
  | cons a l ih => exact (hf s a).trans (ih _)

/-- A change of anything but the memories below the caches, the ports, the groups and the flights. -/
theorem Waits.of_sameBytes (hn : Notes s t) (hb : SameBytes s t) (hr : t.mem.remap = s.mem.remap)
    (hp : t.mem.ports = s.mem.ports) : Waits s t := ⟨hn, .of_sameBytes hb hr hp⟩

theorem Waits.modGrp (s : State) (gid : Nat) {f : Group → Group} (hf : ∀ g, (f g).plain = g.plain) :
    Waits s (modGrp s gid f) :=
  .of_sameBytes (.modGrp s gid hf) (fun l => by cases l <;> rfl) rfl rfl

end

section
variable (s : State)

theorem drainWhere_waits (p : PortWrite → Bool) : Waits s (drainWhere s p) :=
  ⟨(drainWhere_still s p).notes, drainWhere_drains s p⟩

theorem drainCore_waits (core : Nat) : Waits s (drainCore s core) := drainWhere_waits s _

theorem flashL1_waits (core : Nat) : Waits s (flashL1 s core) :=
  .of_sameBytes (.of_run rfl rfl) (fun l => by cases l <;> rfl) rfl rfl

theorem promoteLine_waits (core line : Nat) : Waits s (promoteLine s core line) := by
  rw [promoteLine]
  refine Waits.trans (Waits.foldl drainCore_waits ((kget [] s.mem.relset line).filter fun c => !(c == core)) s) ?_
  exact .of_sameBytes (.of_run rfl rfl) (fun l => by cases l <;> rfl) rfl rfl

theorem promoteReads_waits (w : Who) : Waits s (promoteReads s w) := by
  rw [promoteReads]
  split
  · exact Waits.foldl drainCore_waits _ s
  · exact Waits.foldl (fun s k => promoteLine_waits s w.core k) _ s

/-! ### Writes sent on to the host -/

/-- The mark that a buffered write to host memory has been sent on. -/
def PortWrite.sendBy (gid : Nat) (w : PortWrite) : PortWrite :=
  if w.host && writeBefore gid w then { w with sent := true } else w

theorem PortWrite.sendBy_same (gid : Nat) (w : PortWrite) : (w.sendBy gid).core = w.core ∧ (w.sendBy gid).gid = w.gid
    ∧ (w.sendBy gid).host = w.host ∧ (w.sendBy gid).addr = w.addr ∧ (w.sendBy gid).data = w.data := by
  unfold PortWrite.sendBy; split <;> exact ⟨rfl, rfl, rfl, rfl, rfl⟩

theorem PortWrite.sendBy_sent {gid : Nat} {w : PortWrite} (h : w.sent = true) : (w.sendBy gid).sent = true := by
  unfold PortWrite.sendBy; split
  · rfl
  · exact h

theorem PortWrite.sendBy_covers (gid : Nat) (w : PortWrite) (host : Bool) (a : Nat) :
    (w.sendBy gid).covers host a ↔ w.covers host a := by
  obtain ⟨-, -, hh, ha, hd⟩ := w.sendBy_same gid
  rw [PortWrite.covers, PortWrite.covers, hh, ha, hd]

theorem PortWrite.sendBy_byteFor (gid : Nat) (w : PortWrite) (a : Nat) : (w.sendBy gid).byteFor a = w.byteFor a := by
  obtain ⟨-, -, -, ha, hd⟩ := w.sendBy_same gid
  rw [PortWrite.byteFor, PortWrite.byteFor, ha, hd]

theorem sendHost_ports (gid : Nat) : (sendHost s gid).mem.ports = s.mem.ports.map (PortWrite.sendBy gid) := rfl

/-- A byte of host memory once writes have been sent on: as before, or one that such a write holds. -/
theorem byteAt_sendHost (gid a : Nat) : byteAt (sendHost s gid) (.host a) = byteAt s (.host a)
    ∨ ∃ w ∈ s.mem.ports, w.puts s.mem.remap (.host a) (byteAt (sendHost s gid) (.host a)) := by
  rw [byteAt_host, byteAt_host, sendHost_ports]
  show overlay _ 0 true a (kget 0 s.mem.host a) = _ ∨ ∃ w ∈ s.mem.ports, w.puts _ _ (overlay _ 0 true a (kget 0 s.mem.host a))
  generalize kget 0 s.mem.host a = b
  obtain hnone | ⟨w', hw', hcov, hval⟩ :=
    overlay_cases ((s.mem.ports.map (PortWrite.sendBy gid)).filter (·.sent)) 0 true a b
  · left
    rw [overlay_uncovered b hnone, overlay_uncovered]
    intro w hw _ hcov
    obtain ⟨hmem, hsent⟩ := List.mem_filter.1 hw
    exact hnone (w.sendBy gid) (List.mem_filter.2 ⟨List.mem_map_of_mem hmem, PortWrite.sendBy_sent hsent⟩)
      (.inr (PortWrite.sendBy_sent hsent)) ((w.sendBy_covers gid true a).2 hcov)
  · right
    obtain ⟨w, hw, rfl⟩ := List.mem_map.1 (List.mem_filter.1 hw').1
    rw [hval, w.sendBy_byteFor]
    exact ⟨w, hw, ((w.sendBy_covers gid true a).1 hcov).puts_host _⟩

theorem sendHost_drains (gid : Nat) : Drains s (sendHost s gid) := by
  refine ⟨fun l => ?_, rfl, fun w' hw' => ?_⟩
  · cases l with
    | host a => exact byteAt_sendHost s gid a
    | scr it o => exact .inl rfl
    | hbm a => exact .inl rfl
    | weight a => exact .inl rfl
    | enum o => exact .inl rfl
  · rw [sendHost_ports] at hw'
    obtain ⟨w, hw, rfl⟩ := List.mem_map.1 hw'
    obtain ⟨-, hg, hh, ha, hd⟩ := w.sendBy_same gid
    exact ⟨w, hw, hh.symm, ha.symm, hd.symm, hg.symm⟩

theorem sendHost_waits (gid : Nat) : Waits s (sendHost s gid) := ⟨.of_run rfl rfl, sendHost_drains s gid⟩

/-! ### The release wait and the acquire -/

theorem drainTo_waits (sys : Bool) (gid : Nat) : Waits s (drainTo s sys gid) := by
  rw [drainTo]
  split
  · exact drainWhere_waits s _
  · exact (drainWhere_waits s _).trans (sendHost_waits _ gid)

theorem drainGroup_waits (gid : Nat) : Waits s (drainGroup s gid) := by
  rw [drainGroup]
  refine (drainTo_waits s true gid).trans ?_
  exact .of_sameBytes (.of_run rfl rfl) (fun l => by cases l <;> rfl) rfl rfl

theorem releaseAt_waits (w : Who) (lvl : Nat) : Waits s (releaseAt s w lvl) := by
  rw [releaseAt]
  split
  · exact drainGroup_waits s w.gid
  · split
    · exact drainTo_waits s false w.gid
    · exact .refl s

theorem seeWrites_sameBytes (core gid : Nat) : SameBytes s (seeWrites s core gid) := by
  refine sameBytes_of s _ rfl rfl rfl rfl rfl (fun a b => ?_) fun _ => rfl
  refine overlay_sent_map _ (fun w => ?_) _ _ _ _ _
  split <;> exact ⟨rfl, rfl, rfl, rfl, rfl⟩

theorem dropAhead_notes (gid : Nat) : Notes s (dropAhead s gid) := .modGrp s gid fun _ => rfl
theorem forgetReads_notes (gid : Nat) : Notes s (forgetReads s gid) := .modGrp s gid fun _ => rfl

theorem modGrp_sameBytes (gid : Nat) (f : Group → Group) : SameBytes s (modGrp s gid f) := fun l => by cases l <;> rfl

theorem SameBytes.trans {s t u : State} (h : SameBytes s t) (h' : SameBytes t u) : SameBytes s u :=
  fun l => (h' l).trans (h l)

theorem flashL1_sameBytes (core : Nat) : SameBytes s (flashL1 s core) := fun l => by cases l <;> rfl

/-- An acquire changes no byte. -/
theorem acquireAt_sameBytes (w : Who) (lvl : Nat) : SameBytes s (acquireAt s w lvl) := by
  have hsee : SameBytes s (if lvl = 0 then s else dropAhead (seeWrites s w.core w.gid) w.gid) := by
    split
    · exact fun _ => rfl
    · exact (seeWrites_sameBytes s w.core w.gid).trans (modGrp_sameBytes _ _ _)
  rw [acquireAt]
  split
  · exact hsee.trans (flashL1_sameBytes _ _)
  · exact hsee

theorem acquireAt_notes (w : Who) (lvl : Nat) : Notes s (acquireAt s w lvl) := by
  have hsee : Notes s (if lvl = 0 then s else dropAhead (seeWrites s w.core w.gid) w.gid) := by
    split
    · exact .refl s
    · exact (Notes.of_run rfl rfl : Notes s (seeWrites s w.core w.gid)).trans (dropAhead_notes _ _)
  rw [acquireAt]
  split
  · exact hsee.trans (.of_run rfl rfl)
  · exact hsee

/-! ### Translations held -/

theorem noteTlb_eq (die asid va : Nat) (acc : Acc) :
    ∃ tlb, noteTlb s die asid va acc = setMem s { s.mem with tlb := tlb } := by
  unfold noteTlb
  split
  · split
    · split
      · exact ⟨s.mem.tlb, rfl⟩
      · exact ⟨_, rfl⟩
    · exact ⟨s.mem.tlb, rfl⟩
  · exact ⟨s.mem.tlb, rfl⟩

/-- Keeping the lanes' pages translated touches nothing else. -/
theorem noteAll_eq (w : Who) (acc : Acc) (hs : List LaneHit) :
    ∃ tlb, noteAll s w acc hs = setMem s { s.mem with tlb := tlb } := by
  induction hs generalizing s with
  | nil => exact ⟨s.mem.tlb, rfl⟩
  | cons h t ih =>
    obtain ⟨tlb, htlb⟩ := noteTlb_eq s w.die w.asid h.va acc
    obtain ⟨tlb', htlb'⟩ := ih (setMem s { s.mem with tlb := tlb })
    refine ⟨tlb', ?_⟩
    rw [noteAll, List.foldl_cons, htlb]
    exact htlb'

theorem noteAll_waits (w : Who) (acc : Acc) (hs : List LaneHit) : Waits s (noteAll s w acc hs) := by
  obtain ⟨tlb, h⟩ := noteAll_eq s w acc hs
  rw [h]
  exact .of_sameBytes (.of_run rfl rfl) (fun l => by cases l <;> rfl) rfl rfl

end

/-! ### The checks of the lanes -/

section
variable {s t : State}

theorem resolve_congr (h : SameMemory s t) (w : Who) (acc : Acc) (va n : Nat) :
    resolve t w acc va n = resolve s w acc va n := by
  unfold resolve
  simp only [translate_congr h, h.mem]

theorem check_congr (h : SameMemory s t) (w : Who) (acc : Acc) (va n : Nat) : check t w acc va n = check s w acc va n := by
  rw [check, check, resolve_congr h]

theorem probe_congr (h : SameMemory s t) (w : Who) (acc : Acc) (n : Nat) (ls : List Nat) (addr : Nat → Nat) :
    probe t w acc n ls addr = probe s w acc n ls addr := by
  simp only [probe, check_congr h]

theorem blockedBy_congr (h : SameMemory s t) (hs : List LaneHit) (n : Nat) : blockedBy t hs n = blockedBy s hs n := by
  have howned : ownedLoc t = ownedLoc s := by funext l n; exact ownedLoc_congr h l n
  have hwindow : inWindow t = inWindow s := by funext l; cases l <;> simp [inWindow, h.part]
  rw [blockedBy, blockedBy, howned, hwindow]

theorem sameMemory_delayed (s : State) (g : Group) : SameMemory s (delayed s g) :=
  ⟨delayed_mem s g, delayed_part s g, by rw [delayed_run]⟩

theorem Form.begun_sameMemory (f : Form) (s : State) (g g1 : Group) : SameMemory s (f.begun s g g1) :=
  ⟨delayed_mem s g, delayed_part s g, by rw [Form.begun, setGrp_xfers, delayed_run]⟩

@[simp] theorem Form.ctx_w (f : Form) (s : State) (g : Group) : (f.ctx s g).w = who s s.ctl.cur g := who_delayed s g g _

/-- Lanes that all have a place trap nowhere. -/
theorem placed_hit {hs : List LaneHit} (hp : ∀ h ∈ hs, h.loc?.isSome) {h : LaneHit} (hh : h ∈ hs) :
    ∃ l nc, h.hit = .ok l nc := by
  have := hp h hh
  unfold LaneHit.loc? at this
  split at this
  · exact ⟨_, _, by assumption⟩
  · exact absurd this Bool.false_ne_true

/-- Lanes that all have a place stop the instruction only where it waits for one. -/
theorem hitsPreOn_placed {c : Ctx} {hs : List LaneHit} (hp : ∀ h ∈ hs, h.loc?.isSome) (kind n : Nat)
    (bs : List LaneHit) (whole : Bool) : hitsPreOn s c kind n hs bs whole = (blockedBy s bs n).map .wait := by
  have hcause : hs.filter (fun h => h.cause?.isSome) = [] := by
    rw [List.filter_eq_nil_iff]
    intro h hh
    obtain ⟨l, nc, hl⟩ := placed_hit hp hh
    simp [LaneHit.cause?, hl]
  have hearly : hs.any LaneHit.isEarly = false := by
    rw [List.any_eq_false]
    intro h hh
    obtain ⟨l, nc, hl⟩ := placed_hit hp hh
    simp [LaneHit.isEarly, LaneHit.cause?, hl]
  have hbusy : (hs.any fun h => h.hit == .busy) = false := by
    rw [List.any_eq_false]
    intro h hh
    obtain ⟨l, nc, hl⟩ := placed_hit hp hh
    simp [hl]
  have hxlate : (hs.filter LaneHit.isXlate).isEmpty = true := by
    rw [List.isEmpty_iff, List.filter_eq_nil_iff]
    intro h hh
    obtain ⟨l, nc, hl⟩ := placed_hit hp hh
    simp [LaneHit.isXlate, hl]
  have htrap : lanesTrap hs c.dst = none := by rw [lanesTrap, hcause]
  simp only [hitsPreOn, wholeTrap, htrap, hearly, hbusy, hxlate, Option.map_none, ite_self, Bool.not_true,
    Bool.false_eq_true, if_false]

end

/-! ### Completion -/

theorem Group.plain_bare (g : Group) : g.plain.bare = g.bare := rfl

section
variable {s : State} {g g1 : Group}

/-- An instruction that issues, and whose effect writes no register and moves nothing of its group but the notes of memory
instructions, completes. -/
theorem issue_noted {m : Meaning} {u : State} (hi : m.form.Issues s g g1) (hpre : m.pre (m.form.ctx s g) = none)
    (hbody : m.body (m.form.ctx s g) (m.form.begun s g g1) = .done u)
    (hplain : plainAt u s.ctl.cur = plainAt (m.form.begun s g g1) s.ctl.cur) :
    ∃ t h k, issue m s = .next t ∧ grp t s.ctl.cur = some h ∧ Retired m.form g h ∧ NoRegister m.form g h
      ∧ Settled (m.form.ctx s g) (m.form.ctx s g).next u t k := by
  have hbegun : plainAt (m.form.begun s g g1) s.ctl.cur = some g1.plain := by
    rw [plainAt, Form.begun, grp_setGrp_self]; rfl
  rw [hbegun, plainAt, Option.map_eq_some_iff] at hplain
  obtain ⟨k, hk, hkp⟩ := hplain
  obtain ⟨-, -, -, hkin⟩ := rename_spec hi.names
  have hfield {α : Type} (p : Group → α) (hp : ∀ x : Group, p x.plain = p x) : p k = p g1 := by
    rw [← hp k, hkp, hp]
  obtain ⟨t, h, hissue, hcur, hret, hcar, hset⟩ := issue_done hi hpre hbody hk
    ((hfield Group.split fun _ => rfl).trans hkin.split) ((hfield Group.active fun _ => rfl).trans hkin.active)
  obtain ⟨hv, hs, hp, hf⟩ := kept_of_carries hi.names (hfield Group.v fun _ => rfl) (hfield Group.s fun _ => rfl)
    (hfield Group.p fun _ => rfl) (hfield Group.fpflags fun _ => rfl) (hfield Group.satf fun _ => rfl) hcar
  refine ⟨t, h, k, hissue, hcur, hret, ⟨hv, hs, hp, hf, ?_⟩, hset⟩
  have hbare : h.bare = k.bare := by
    have e := congrArg Group.bare hcar.kept
    exact e
  have hg1 : g1.bare = g.bare := by
    have e := congrArg Group.bare hkin.kept
    exact e
  rw [hbare, ← Group.plain_bare k, hkp, Group.plain_bare, hg1]

/-- What an instruction settles into reads the same bytes. -/
theorem Settled.sameBytes {c : Ctx} {pc : Nat} {u t : State} {k : Group} (h : Settled c pc u t k) : SameBytes u t :=
  sameBytes_of u t (by rw [h.mem]) (by rw [h.mem]) (by rw [h.mem]) (by rw [h.mem]) h.part
    (fun _ _ => by rw [h.mem]) fun _ => by rw [h.items]

theorem Form.begun_drains (f : Form) (s : State) (g g1 : Group) : Drains s (f.begun s g g1) := by
  have hmem : (f.begun s g g1).mem = s.mem := delayed_mem s g
  refine .of_sameBytes ?_ (by rw [hmem]) (by rw [hmem])
  refine sameBytes_of s _ (by rw [hmem]) (by rw [hmem]) (by rw [hmem]) (by rw [hmem]) (delayed_part s g)
    (fun _ _ => by rw [hmem]) fun _ => ?_
  rw [Form.begun, setGrp_items, delayed_run]

end

end Sys2Proof.Machine
end

section
/-! Settles O26: one read-modify-write at its place (15 R310, R311; 06 R139), and an ATOMN that an open transaction defers
(08 R177, R179). -/

namespace Sys2Proof.Machine

/-! ### The value that is stored -/

/-- The model's operation on numbers is the statement's on bits. -/
theorem atomNew_eq_rmw {op : Nat} (hop : op ≤ 9) {n : Nat} (a x y : BitVec n) :
    atomNew op n a.toNat x.toNat y.toNat = (rmw op a x y).toNat := by
  have hslt (p q : BitVec n) : (sextNat n p.toNat < sextNat n q.toNat) ↔ p.slt q = true := by
    rw [sextNat_eq_toInt, sextNat_eq_toInt, BitVec.ofNat_toNat, BitVec.ofNat_toNat, BitVec.setWidth_eq, BitVec.setWidth_eq,
      BitVec.slt_iff_toInt_lt]
  have hult (p q : BitVec n) : p.ult q = decide (p.toNat < q.toNat) := rfl
  match op, hop with
  | 0, _ => exact (BitVec.toNat_add a x).symm
  | 1, _ => exact (BitVec.toNat_and a x).symm
  | 2, _ => exact (BitVec.toNat_or a x).symm
  | 3, _ => exact (BitVec.toNat_xor a x).symm
  | 4, _ => simp only [atomNew, rmw, hslt]; split <;> rfl
  | 5, _ => simp only [atomNew, rmw, hult, decide_eq_true_eq]; split <;> omega
  | 6, _ => simp only [atomNew, rmw, hslt]; split <;> rfl
  | 7, _ => simp only [atomNew, rmw, hult, decide_eq_true_eq]; split <;> omega
  | 8, _ => rfl
  | 9, _ => simp only [atomNew, rmw, ← BitVec.toNat_inj]; split <;> rfl

/-- What a read-modify-write of n bytes leaves of an old value, as the statement has it. -/
def rmwValue (op n x y old : Nat) : Nat :=
  if op = 10 then (atomFadd (BitVec.ofNat 32 old) (BitVec.ofNat 32 x)).toNat
  else (rmw op (BitVec.ofNat (8 * n) old) (BitVec.ofNat (8 * n) x) (BitVec.ofNat (8 * n) y)).toNat

theorem atomNew_eq_rmwValue {op n x y old : Nat} (hop : op ≤ 9 ∨ op = 10 ∧ n = 4) (hx : x < 256 ^ n) (hy : y < 256 ^ n)
    (hold : old < 256 ^ n) : atomNew op (8 * n) old x y = rmwValue op n x y old := by
  have hpow : (256 : Nat) ^ n = 2 ^ (8 * n) := by rw [Nat.pow_mul]
  rw [hpow] at hx hy hold
  rw [rmwValue]
  rcases hop with hop | ⟨rfl, -⟩
  · rw [if_neg (by omega), ← atomNew_eq_rmw hop, BitVec.toNat_ofNat, BitVec.toNat_ofNat, BitVec.toNat_ofNat,
      Nat.mod_eq_of_lt hold, Nat.mod_eq_of_lt hx, Nat.mod_eq_of_lt hy]
  · rw [if_pos rfl]; rfl

/-! ### At a scratchpad place -/

/-- Bytes put as versions are found as versions. -/
theorem kfind_verPut (m : KMap Byte) (a x : Nat) (bs : List Byte) :
    kfind (verPut m a bs) x = if a ≤ x ∧ x < a + bs.length then some (bs.getD (x - a) 0) else kfind m x := by
  induction bs generalizing m a with
  | nil => rw [if_neg (by simp)]; rfl
  | cons b t ih =>
    rw [verPut, ih, List.length_cons]
    by_cases hx : a = x
    · subst hx
      rw [if_neg (by omega), if_pos (by omega), kfind_kins_self, Nat.sub_self]; rfl
    · rw [kfind_kins_ne _ _ hx]
      by_cases hin : a + 1 ≤ x ∧ x < a + 1 + t.length
      · obtain ⟨k, rfl⟩ := Nat.exists_eq_add_of_le hin.1
        rw [if_pos hin, if_pos (by omega), Nat.add_sub_cancel_left, Nat.add_assoc, Nat.add_sub_cancel_left, Nat.add_comm 1 k]
        rfl
      · rw [if_neg hin, if_neg (by omega)]

theorem readCells_length (m : List Host.Cell) (a n : Nat) : (readCells m a n).length = n := by simp [readCells]

/-- The bytes and the versions of a work item after a read-modify-write in its scratchpad. -/
def Item.afterRmw (i : Item) (o n new : Nat) : Item :=
  let versioned := i.txOpen && decide (i.scrOff ≤ o % 2 ^ 19) && decide (o % 2 ^ 19 + n ≤ i.scrOff + i.scrLen)
  { i with
    scr := writeCells i.scr o (bytesLe n new)
    verScr := if versioned then verPut i.verScr o (bytesLe n new) else i.verScr }

section
variable {s : State} {w : Who} {rel : Bool} {op n x y : Nat}

/-- A read-modify-write at a scratchpad place. -/
theorem atomAt_scr {it o : Nat} {i : Item} (hi : kfind s.run.items it = some i) :
    (atomAt s w rel op n x y (.scr it o)).1 = natLe (readCells i.scr o n)
      ∧ kfind (atomAt s w rel op n x y (.scr it o)).2.run.items it
        = some (i.afterRmw o n (atomNew op (8 * n) (natLe (readCells i.scr o n)) x y))
      ∧ (atomAt s w rel op n x y (.scr it o)).2.mem = s.mem := by
  have hget : (kfind s.run.items it).getD Item.fresh = i := by rw [hi]; rfl
  have hold : (atomAt s w rel op n x y (.scr it o)).1 = natLe (readCells i.scr o n) := by rw [← hget]; rfl
  refine ⟨hold, ?_, ?_⟩
  · rw [atomAt]
    rw [(fireScr_still _ _ _ _).items, modItem_items, kfind_kmod, if_pos rfl, hi, Option.map_some]
    rfl
  · rw [atomAt]
    exact fireScr_mem _ _ _ _

theorem Item.afterRmw_reads (i : Item) (o n new : Nat) : readCells (i.afterRmw o n new).scr o n = bytesLe n new := by
  have h := readCells_writeCells_same i.scr o (bytesLe n new)
  rwa [length_bytesLe] at h

theorem Item.afterRmw_other (i : Item) {o n a : Nat} (new : Nat) (h : a < o ∨ o + n ≤ a) :
    kget 0 (i.afterRmw o n new).scr a = kget 0 i.scr a :=
  (kget_writeCells ..).trans (if_neg (by rw [length_bytesLe]; omega))

theorem Item.afterRmw_version (i : Item) {o n k : Nat} (new : Nat) (htx : i.txOpen = true) (hlo : i.scrOff ≤ o % 2 ^ 19)
    (hhi : o % 2 ^ 19 + n ≤ i.scrOff + i.scrLen) (hk : k < n) :
    kfind (i.afterRmw o n new).verScr (o + k) = some ((bytesLe n new).getD k 0) := by
  have hver : (i.afterRmw o n new).verScr = verPut i.verScr o (bytesLe n new) :=
    if_pos (by rw [htx, decide_eq_true hlo, decide_eq_true hhi]; rfl)
  rw [hver, kfind_verPut, length_bytesLe, if_pos (by omega), Nat.add_sub_cancel_left]

/-! ### At an HBM place -/

/-- The state in which a read-modify-write at HBM has written its bytes. -/
def rmwWritten (s : State) (w : Who) (pa : Nat) (bs : List Byte) : State :=
  let s := dropL1 s w.core [pa / 128]
  l2Write (setMem (staleFront s w.gid [pa / 128]) (writeHbm s.mem pa bs)) 255 pa

theorem rmwWritten_still (s : State) (w : Who) (pa : Nat) (bs : List Byte) : Still s (rmwWritten s w pa bs) := by
  obtain ⟨h, hm⟩ := writeHbm_frame (dropL1 s w.core [pa / 128]).mem pa bs
  rw [rmwWritten, hm]
  exact .of_groups rfl rfl

/-- Without a conflict and with no buffered write in its way, a read-modify-write at HBM reads and writes its bytes. -/
theorem atomAt_hbm {pa : Nat} (hfree : w.it.txOpen = true → holderOf s w.item (pa / 128) = none)
    (hports : ∀ p ∈ s.mem.ports, p.core = w.core → p.host = false → p.addr + p.data.length ≤ pa ∨ pa + n ≤ p.addr) :
    atomAt s w false op n x y (.hbm pa) = (natLe (readHbm s.mem pa n), fireHbm (rmwWritten s w pa
      (bytesLe n (atomNew op (8 * n) (natLe (readHbm s.mem pa n)) x y))) pa n) := by
  have hclaim : (if w.it.txOpen then (txClaim s w.item (pa / 128)).2 else s) = s := by
    split
    · next htx => rw [txClaim, hfree htx]
    · rfl
  have hdrain : drainWhere s (fun p => p.core == w.core && !p.host && decide (p.addr < pa + n)
      && decide (pa < p.addr + p.data.length)) = s := by
    refine drainWhere_none fun p hp => ?_
    by_cases hc : p.core = w.core ∧ p.host = false
    · have := hports p hp hc.1 hc.2
      simp; omega
    · by_cases hcore : p.core = w.core
      · have : p.host = true := by simpa [hcore] using hc
        simp [this]
      · simp [hcore]
  rw [atomAt, hclaim, hdrain]
  rfl

/-- What it leaves of the memories: HBM through the remap, and nothing else but the caches. -/
theorem rmwWritten_mem (s : State) (w : Who) (pa : Nat) (bs : List Byte) :
    ∃ l2, (rmwWritten s w pa bs).mem = { writeHbm (dropL1 s w.core [pa / 128]).mem pa bs with l2 := l2 } := ⟨_, rfl⟩

theorem readHbm_rmwWritten {pa : Nat} {bs : List Byte} (hap : Apart s pa bs.length) :
    readHbm (fireHbm (rmwWritten s w pa bs) pa n).mem pa bs.length = bs := by
  obtain ⟨l2, hm⟩ := rmwWritten_mem s w pa bs
  rw [fireHbm_mem, hm]
  exact (readHbm_congr rfl rfl bs.length).trans (readHbm_writeHbm_same hap)

theorem readHbm_rmwWritten_other {pa a : Nat} {bs : List Byte}
    (h : ∀ k, k < bs.length → remapOf s.mem.remap a ≠ remapOf s.mem.remap (pa + k)) :
    readHbm (fireHbm (rmwWritten s w pa bs) pa n).mem a 1 = readHbm s.mem a 1 := by
  obtain ⟨l2, hm⟩ := rmwWritten_mem s w pa bs
  rw [fireHbm_mem, hm]
  exact (readHbm_congr rfl rfl 1).trans (readHbm_one_writeHbm_other (m := (dropL1 s w.core [pa / 128]).mem) h)

theorem rmwWritten_others (s : State) (w : Who) (pa n : Nat) (bs : List Byte) :
    let t := fireHbm (rmwWritten s w pa bs) pa n
    t.run.items = s.run.items ∧ t.mem.ports = s.mem.ports ∧ t.mem.host = s.mem.host := by
  obtain ⟨l2, hm⟩ := rmwWritten_mem s w pa bs
  refine ⟨((rmwWritten_still s w pa bs).trans (fireHbm_still _ pa n)).items, ?_, ?_⟩
  · rw [fireHbm_mem, hm]; exact writeHbm_ports ..
  · rw [fireHbm_mem, hm]; exact writeHbm_host ..

end

/-! ### The lanes of an atomic -/

section
variable {s : State} {g g1 : Group} {o : AtomOp} {c : Ctx} {i : Instr}

/-- Lanes that address no host page pass the check of the operation's kind as they come. -/
theorem atomHits_eq {hs : List LaneHit} (hhits : probe s c.w .atomic o.bytes (Mask.list c.x) (o.addr c.g) = hs)
    (hplace : ∀ h ∈ hs, ∀ a nc, h.hit ≠ .ok (.host a) nc) : o.hits c s = hs := by
  rw [AtomOp.hits, hhits]
  refine (List.map_congr_left fun h hh => ?_).trans (List.map_id hs)
  have hno := hplace h hh
  split
  · next a nc hx => exact absurd hx (hno a nc)
  · rfl

/-- An atomic whose lanes all have a place outside host memory is performed. -/
theorem atomRun_placed {hs : List LaneHit} (hans : c.g.hostAns = none) (hx : c.x ≠ 0) (hhits : o.hits c s = hs)
    (hp : ∀ h ∈ hs, h.loc?.isSome) (hblocked : blockedBy c.s0 hs o.bytes = none) : o.run c s = o.perform c s hs := by
  rw [AtomOp.run, hans]
  dsimp only
  rw [if_neg hx, hhits, hitsPre, hitsPreOn_placed hp, hblocked]
  rfl

theorem hostLanes_nil {hs : List LaneHit} (hplace : ∀ h ∈ hs, ∀ a, h.loc? ≠ some (.host a)) : o.hostLanes c hs = [] := by
  rw [AtomOp.hostLanes, List.filterMap_eq_nil_iff]
  intro h hh
  split
  · next a ha => exact absurd ha (hplace h hh a)
  · rfl

end

/-! ### Lanes deferred to a commit -/

/-- A work item whose transaction takes more writes. -/
def Item.deferring (it : Item) (es : List VerWrite) (ls : List (Nat × Nat)) : Item :=
  { it with vers := it.vers ++ es, relLines := it.relLines ++ ls }

theorem Item.deferring_deferring (it : Item) (es es' : List VerWrite) (ls ls' : List (Nat × Nat)) :
    (it.deferring es ls).deferring es' ls' = it.deferring (es ++ es') (ls ++ ls') := by
  simp [Item.deferring, List.append_assoc]

/-- The writes of lanes that defer, in lane order, and their lines where they have release order. -/
def AtomOp.deferred (o : AtomOp) (c : Ctx) (e : Nat × Nat) : VerWrite :=
  .op ⟨o.op, o.bytes, e.2, o.x c.g e.1, o.y c.g e.1⟩
def relLinesOf (c : Ctx) (rel : Bool) (pas : List Nat) : List (Nat × Nat) :=
  if rel then pas.map fun pa => (c.w.core, pa / 128) else []

section
variable {o : AtomOp} {c : Ctx} {rel : Bool}

/-- Lanes that all defer join the work item's writes one after another, and change nothing else. -/
theorem lanes_deferred (hd : ∀ pa, o.defers c.w (.hbm pa) = true) {hs : List LaneHit} {pas : List Nat}
    (hp : hs.map LaneHit.loc? = pas.map (some ∘ Loc.hbm)) (s : State) :
    ∃ is, o.lanes c rel hs s = ([], { s with run := { s.run with items := is } })
      ∧ ∀ k, kfind is k = if k = c.w.item then (kfind s.run.items k).map fun it =>
          it.deferring (((hs.map (·.lane)).zip pas).map (o.deferred c)) (relLinesOf c rel pas)
        else kfind s.run.items k := by
  induction hs generalizing pas s with
  | nil =>
    obtain rfl : pas = [] := by simpa using hp.symm
    refine ⟨s.run.items, rfl, fun k => ?_⟩
    have hid : (fun it : Item => it.deferring ((([] : List LaneHit).map (·.lane)).zip ([] : List Nat) |>.map (o.deferred c))
        (relLinesOf c rel [])) = id := by
      funext it
      cases rel <;> simp [Item.deferring, relLinesOf]
    rw [hid, Option.map_id]
    exact (ite_self _).symm
  | cons h t ih =>
    cases pas with
    | nil => exact absurd hp (by simp)
    | cons pa pas =>
      obtain ⟨hloc, hrest⟩ := List.cons.inj hp
      have hloc' : h.loc? = some (.hbm pa) := hloc
      let e : VerWrite := o.deferred c (h.lane, pa)
      let put (it : Item) : Item := it.deferring [e] (relLinesOf c rel [pa])
      have hput : (fun it : Item => ({ it with
          vers := it.vers ++ [e]
          relLines := if rel then it.relLines ++ [(c.w.core, pa / 128)] else it.relLines } : Item)) = put := by
        funext it
        cases rel
        · simp [put, Item.deferring, relLinesOf]
        · rfl
      obtain ⟨is, hlanes, hitems⟩ := ih hrest (modItem s c.w.item put)
      refine ⟨is, ?_, fun k => ?_⟩
      · rw [AtomOp.lanes, hloc']
        dsimp only
        rw [if_pos (hd pa)]
        exact (congrArg (fun f => o.lanes c rel t (modItem s c.w.item f)) hput).trans hlanes
      · rw [hitems k, modItem_items, kfind_kmod]
        by_cases hk : k = c.w.item
        · rw [if_pos hk, if_pos hk, if_pos hk.symm, Option.map_map]
          congr 1
          funext it
          have hlines : relLinesOf c rel [pa] ++ relLinesOf c rel pas = relLinesOf c rel (pa :: pas) := by
            cases rel <;> rfl
          show (it.deferring [e] _).deferring _ _ = _
          rw [Item.deferring_deferring, hlines]
          rfl
        · rw [if_neg hk, if_neg hk, if_neg (Ne.symm hk)]

end

/-! ### Issue -/

theorem majOf_pkAT_ne {base : Nat} (hb : base ≤ 0x2C * 2 ^ 26) (f : AT) : majOf (pkAT base f) ≠ 0x3F := by
  have := f.d.isLt; have := f.v.isLt; have := f.ord.isLt; have := f.lvl.isLt; have := f.lh.isLt
  exact majOf_ofNat_ne (by omega)

/-- Every atomic issues with its operands, in one word that is no hint. -/
theorem atomOf_runs {i : Instr} {o : AtomOp} (h : atomOf i = some o) :
    (∀ s, exec i s = issue (o.meaning i) s) ∧ majOf (wordOf i) ≠ 0x3F := by
  unfold atomOf at h
  split at h <;> cases h
  all_goals exact ⟨fun _ => rfl, majOf_pkAT_ne (by decide) _⟩

/-- REMOTE is for an acquire alone. -/
theorem levelTrap_remote {c : Ctx} {lvl : Nat} (h : levelTrap c lvl false = none) : lvl ≠ 14 := by
  rintro rfl
  simp [levelTrap] at h

section
variable {s : State} {g g1 : Group} {o : AtomOp} {i : Instr}

/-- The lanes of an atomic that issues, from their places. -/
theorem atom_hits {hs : List LaneHit} (hhs : hs = (Mask.list ((o.form i).ctx s g).x).map fun l =>
      ⟨l, (rdVl g o.v l).toNat + (rdVl g (o.v + 1) l).toNat * 2 ^ 32, check s (who s s.ctl.cur g) .atomic
        ((rdVl g o.v l).toNat + (rdVl g (o.v + 1) l).toNat * 2 ^ 32) o.bytes⟩)
    (hplace : ∀ h ∈ hs, ∀ a, h.loc? ≠ some (.host a)) :
    o.hits ((o.form i).ctx s g) ((o.form i).begun s g g1) = hs := by
  refine atomHits_eq ?_ fun h hh a nc hx => hplace h hh a (by rw [LaneHit.loc?, hx])
  rw [probe_congr ((o.form i).begun_sameMemory s g g1), Form.ctx_w, hhs]
  rfl

/-- The lanes of an atomic that are performed at once. -/
def AtomOp.performsAt (o : AtomOp) (c : Ctx) (h : LaneHit) : Bool :=
  match h.loc? with
  | some l => !o.defers c.w l
  | none => false

theorem performsAt_eq_any (o : AtomOp) (c : Ctx) :
    (fun h : LaneHit => h.loc?.any fun l => !o.defers c.w l) = o.performsAt c := by
  funext h
  rw [AtomOp.performsAt]
  cases h.loc? <;> rfl

/-- What REMOTE does for one lane (07 R153, R154). -/
def AtomOp.promotes (o : AtomOp) (c : Ctx) (s : State) (h : LaneHit) : State :=
  match h.loc? with
  | some (.hbm pa) => if o.defers c.w (.hbm pa) then promoteReads s c.w else promoteLine s c.w.core (pa / 128)
  | _ => s

/-- The state in which an atomic performs its lanes: pages noted, arrivals logged, release and promotion done. -/
def AtomOp.readied (o : AtomOp) (c : Ctx) (hs : List LaneHit) (s : State) : State :=
  let s1 := logAll (noteAll s c.w .atomic hs) c (o.entries c hs)
  let s2 := if o.rel && hs.any (o.performsAt c) then releaseAt s1 c.w (releaseLevel c.g o.lvl) else s1
  if o.lvl = 14 then hs.foldl (o.promotes c) (flashL1 s2 c.w.core) else s2

/-- The flight of the old values of an atomic without host lanes. -/
def AtomOp.flight (o : AtomOp) (c : Ctx) (olds : List (Nat × Nat)) : Flight :=
  ⟨0, c.gid, false, true, o.d, maskOf fun l => olds.any fun e => e.1 == l, if o.ret then atomVals o.wide olds else [],
    o.f.lh.toNat + 1, none, c.pc, none⟩

/-- The state after the lanes: an acquire, and the old values in flight. -/
def AtomOp.concluded (o : AtomOp) (c : Ctx) (r : List (Nat × Nat) × State) : State :=
  let s4 := if o.acq then forgetReads (acquireAt r.2 c.w o.lvl) c.gid else r.2
  if o.ret then launchFlight s4 (o.flight c r.1) else s4

/-- An atomic that no log holds and that has no lane on a host page. -/
theorem perform_unheld {c : Ctx} {hs : List LaneHit} (hlog : heldByLog c.w.l (o.entries c hs) = false)
    (hconflict : conflictHeld c.s0 c.w (hs.filter (o.performsAt c)) = false) (hhost : o.hostLanes c hs = []) (s : State) :
    o.perform c s hs
      = .done (o.concluded c (o.lanes c (o.rel || c.g.relFence) hs (o.readied c hs s))) := by
  have hheld : (heldByLog c.w.l (o.entries c hs)
      || conflictHeld c.s0 c.w (hs.filter fun h => h.loc?.any fun l => !o.defers c.w l)) = false := by
    rw [hlog, Bool.false_or, performsAt_eq_any, hconflict]
  rw [AtomOp.perform]
  dsimp only
  rw [hheld, hhost]
  rfl

/-- An ATOMN whose lanes all defer does nothing but note them. -/
theorem perform_deferred {c : Ctx} {hs : List LaneHit} (hd : ∀ pa, o.defers c.w (.hbm pa) = true) (hret : o.ret = false)
    (hacq : o.acq = false) (hlvl : o.lvl ≠ 14) (hloc : ∀ h ∈ hs, ∃ pa, h.loc? = some (.hbm pa)) (s : State) :
    o.perform c s hs
      = .done (o.lanes c (o.rel || c.g.relFence) hs (logAll (noteAll s c.w .atomic hs) c [])).2 := by
  have hnone : ∀ h ∈ hs, o.performsAt c h = false := by
    intro h hh
    obtain ⟨pa, hpa⟩ := hloc h hh
    simp [AtomOp.performsAt, hpa, hd]
  have hnow : hs.filter (o.performsAt c) = [] := List.filter_eq_nil_iff.2 fun h hh => by simp [hnone h hh]
  have hentries : o.entries c hs = [] := by
    unfold AtomOp.entries
    split
    · rfl
    · dsimp only
      rw [List.filter_eq_nil_iff.2]
      · rfl
      · intro h hh
        obtain ⟨pa, hpa⟩ := hloc h hh
        simp [hpa, hd]
  have hreadied : o.readied c hs s = logAll (noteAll s c.w .atomic hs) c [] := by
    have hany : hs.any (o.performsAt c) = false := List.any_eq_false.2 fun h hh => by simp [hnone h hh]
    rw [AtomOp.readied, hentries, hany, Bool.and_false, if_neg hlvl]
    rfl
  rw [perform_unheld, hreadied, AtomOp.concluded, hret, hacq]
  · rfl
  · rw [hentries]; rfl
  · rw [hnow, conflictHeld, List.any_nil, Bool.and_false]
  · refine hostLanes_nil fun h hh a ha => ?_
    obtain ⟨pa, hpa⟩ := hloc h hh
    rw [hpa] at ha
    cases ha

/-- The lanes' places, one by one. -/
theorem loc_of_places {hs : List LaneHit} {ps : List Loc} (hp : hs.map LaneHit.loc? = ps.map some) :
    ∀ h ∈ hs, ∃ p ∈ ps, h.loc? = some p := by
  intro h hh
  have hmem : h.loc? ∈ ps.map some := hp ▸ List.mem_map_of_mem hh
  obtain ⟨p, hps, hpa⟩ := List.mem_map.1 hmem
  exact ⟨p, hps, hpa.symm⟩

end

end Sys2Proof.Machine

namespace Sys2Proof
open Machine

/-- Settles O26: at a scratchpad place through `atomAt_scr`, at an HBM place through `atomAt_hbm`; an ATOMN in an open
transaction through `lanes_deferred`. -/
theorem readModifyWriteOncePerLane : Obligations.ReadModifyWriteOncePerLane := by
  refine ⟨?_, ?_⟩
  · intro s w rel op n x y l hn hop hx hy
    refine ⟨?_, ?_⟩
    · rintro it o i rfl hi
      obtain ⟨hold, hitem, hmem⟩ := atomAt_scr (w := w) (rel := rel) (op := op) (n := n) (x := x) (y := y) hi
      have hnew : atomNew op (8 * n) (natLe (readCells i.scr o n)) x y = rmwValue op n x y (natLe (readCells i.scr o n)) :=
        atomNew_eq_rmwValue hop hx hy (by simpa [readCells_length] using natLe_lt (readCells i.scr o n))
      rw [hnew] at hitem
      refine ⟨hold, _, hitem, ?_, fun a ha => Item.afterRmw_other i _ ha, fun htx hlo hhi k hk => ?_, by rw [hmem],
        by rw [hmem]⟩
      · rw [hold]; exact Item.afterRmw_reads i o n _
      · rw [hold]; exact Item.afterRmw_version i _ htx hlo hhi hk
    · rintro pa rfl rfl hfree hports hap
      have hrun := atomAt_hbm (op := op) (x := x) (y := y) hfree hports
      have hnew : atomNew op (8 * n) (natLe (readHbm s.mem pa n)) x y = rmwValue op n x y (natLe (readHbm s.mem pa n)) :=
        atomNew_eq_rmwValue hop hx hy (by simpa [readHbm_length] using natLe_lt (readHbm s.mem pa n))
      rw [hnew] at hrun
      obtain ⟨hitems, hpt, hhost⟩ := rmwWritten_others s w pa n (bytesLe n (rmwValue op n x y (natLe (readHbm s.mem pa n))))
      rw [hrun]
      refine ⟨rfl, ?_, fun a ha => ?_, hitems, hpt, hhost⟩
      · have h := readHbm_rmwWritten (s := s) (w := w) (n := n) (pa := pa)
          (bs := bytesLe n (rmwValue op n x y (natLe (readHbm s.mem pa n)))) (by
            rw [length_bytesLe]; exact fun i j hi hj he => hap i j hi hj he)
        rwa [length_bytesLe] at h
      · exact readHbm_rmwWritten_other fun k hk => ha k (by simpa using hk)
  · intro i o s g g1 ho hret hi c w addr hs pas hp hpre hans hx hblocked hacq it hit htx
    obtain ⟨hexec, hmaj⟩ := atomOf_runs ho
    have hloc : ∀ h ∈ hs, ∃ pa, h.loc? = some (.hbm pa) := by
      intro h hh
      obtain ⟨p, hps, hpa⟩ := loc_of_places (ps := pas.map .hbm) (by rw [hp, List.map_map]) h hh
      obtain ⟨pa, -, rfl⟩ := List.mem_map.1 hps
      exact ⟨pa, hpa⟩
    have hcw : c.w = w := Form.ctx_w ..
    have hwit : w.it = it := by
      show (kfind s.run.items g.item).getD Item.fresh = it
      rw [hit]; rfl
    have hd (pa : Nat) : o.defers c.w (.hbm pa) = true := by rw [AtomOp.defers, hret, hcw, hwit, htx]; rfl
    have hlvl : o.lvl ≠ 14 := levelTrap_remote (c := c) (hacq ▸ firstTrap_none hpre _ (by simp))
    have hhits : o.hits c ((o.form i).begun s g g1) = hs := atom_hits rfl fun h hh a ha => by
      obtain ⟨pa, hpa⟩ := hloc h hh
      rw [hpa] at ha
      cases ha
    have hrun := atomRun_placed (c := c) (s := (o.form i).begun s g g1) hans hx hhits
      (fun h hh => by obtain ⟨pa, hpa⟩ := hloc h hh; rw [hpa]; rfl)
      ((blockedBy_congr (sameMemory_delayed s g) hs o.bytes).trans hblocked)
    obtain ⟨tlb, htlb⟩ := noteAll_eq ((o.form i).begun s g g1) c.w .atomic hs
    let s1 := logAll (noteAll ((o.form i).begun s g g1) c.w .atomic hs) c []
    have hmem : s1.mem = { s.mem with tlb := tlb } := by
      show (noteAll ((o.form i).begun s g g1) c.w .atomic hs).mem = _
      rw [htlb, setMem_mem, Form.begun, setGrp_mem, delayed_mem]
    have hold : s1.run.items = s.run.items := by
      show (noteAll ((o.form i).begun s g g1) c.w .atomic hs).run.items = _
      rw [htlb, setMem_items, Form.begun, setGrp_items, delayed_run]
    obtain ⟨is, hlanes, hitems⟩ := lanes_deferred (rel := o.rel || c.g.relFence) hd hp s1
    have hbody : (o.meaning i).body c ((o.form i).begun s g g1) = .done { s1 with run := { s1.run with items := is } } := by
      refine hrun.trans ((perform_deferred hd hret hacq hlvl hloc _).trans ?_)
      rw [hlanes]
    have hnotes : Notes ((o.form i).begun s g g1) { s1 with run := { s1.run with items := is } } :=
      ((noteAll_waits _ c.w .atomic hs).toNotes.trans (.modGrp _ _ fun _ => rfl)).trans (.of_run rfl rfl)
    obtain ⟨t, h, k, hissue, hgrp, hretired, hregs, hset⟩ := issue_noted (m := o.meaning i) hi hpre hbody (hnotes.groups _)
    have hitem := hitems g.item
    rw [hcw, if_pos (show g.item = w.item from rfl), hold, hit, Option.map_some] at hitem
    have hlane : hs.map (·.lane) = Mask.list c.x := by
      rw [List.map_map]; exact List.map_id _
    rw [hlane] at hitem
    refine ⟨t, h, _, (hexec s).trans hissue, hgrp, hretired, hregs, (congrArg (kfind · g.item) hset.items).trans hitem, rfl,
      ?_, rfl, ?_, ?_⟩
    · show it.relLines ++ relLinesOf c (o.rel || g.relFence) pas = _
      rw [relLinesOf, hcw]
    · refine sameBytes_of s t (by rw [hset.mem, hmem]) (by rw [hset.mem, hmem]) (by rw [hset.mem, hmem])
        (by rw [hset.mem, hmem]) ?_ (fun _ _ => by rw [hset.mem, hmem]) fun j => ?_
      · rw [hset.part]
        show (noteAll ((o.form i).begun s g g1) c.w .atomic hs).part = _
        rw [htlb, setMem_part, Form.begun, setGrp_part, delayed_part]
      · rw [hset.items, hitems j, hold]
        split
        · cases kfind s.run.items j <;> rfl
        · rfl
    · rw [hset.mem, hmem]

end Sys2Proof
end

section
/-! Settles O25: an atomic performs its lanes one after another (15 R310; 06 R139). What a read-modify-write does hangs on
nothing that groups hold, so that the notes the model takes between two lanes change none. -/

namespace Sys2Proof.Machine

/-! ### What hangs on no group -/

/-- A state without its groups. -/
def State.sansGroups (s : State) : State := { s with run := { s.run with groups := [] } }

/-- What a step leaves beside the groups hangs on nothing that groups hold. -/
def Blind (f : State → State) : Prop := ∀ s, (f s).sansGroups = (f s.sansGroups).sansGroups

section
variable {f g : State → State} {s t : State}

theorem Blind.congr (hf : Blind f) (h : s.sansGroups = t.sansGroups) : (f s).sansGroups = (f t).sansGroups := by
  rw [hf s, h, ← hf t]

theorem Blind.comp (hg : Blind g) (hf : Blind f) : Blind fun s => g (f s) := fun s => hg.congr (hf s)

theorem Blind.foldl {α : Type} {f : State → α → State} (hf : ∀ a, Blind (f · a)) (l : List α) :
    Blind fun s => l.foldl f s := by
  induction l with
  | nil => exact fun _ => rfl
  | cons a l ih => exact ih.comp (hf a)

/-- A step that moves groups alone. -/
theorem Blind.of_groups (hf : ∀ s, (f s).sansGroups = s.sansGroups) : Blind f := fun s => (hf s).trans (hf s.sansGroups).symm

theorem modGrp_sansGroups (s : State) (gid : Nat) (f : Group → Group) : (modGrp s gid f).sansGroups = s.sansGroups := rfl

theorem fireLine_sansGroups (s : State) (l : MonLine) : (fireLine s l).sansGroups = s.sansGroups := by
  unfold fireLine
  generalize s.mem.mons = ms
  induction ms generalizing s with
  | nil => rfl
  | cons e t ih =>
    rw [List.foldl_cons, ih]
    split <;> rfl

theorem fireLines_sansGroups (ks : List Nat) (f : Nat → MonLine) (s : State) :
    (ks.foldl (fun s k => fireLine s (f k)) s).sansGroups = s.sansGroups := by
  induction ks generalizing s with
  | nil => rfl
  | cons k t ih => rw [List.foldl_cons, ih, fireLine_sansGroups]

theorem fireHbm_sansGroups (s : State) (pa n : Nat) : (fireHbm s pa n).sansGroups = s.sansGroups :=
  fireLines_sansGroups _ _ _
theorem fireScr_sansGroups (s : State) (it o n : Nat) : (fireScr s it o n).sansGroups = s.sansGroups :=
  fireLines_sansGroups _ _ _

theorem performWrite_blind (w : PortWrite) : Blind (performWrite · w) := by
  intro s
  dsimp only
  unfold performWrite
  split
  · rfl
  · dsimp only
    rw [fireHbm_sansGroups, fireHbm_sansGroups]
    rfl

theorem drainWhere_blind (p : PortWrite → Bool) : Blind (drainWhere · p) := by
  intro s
  dsimp only
  rw [drainWhere_eq, drainWhere_eq]
  exact (Blind.foldl performWrite_blind _).congr rfl

theorem noteRelease_blind (core pa : Nat) : Blind (noteRelease · core pa) := by
  intro s
  have hdrain := Blind.foldl (f := drainCore) (fun core => drainWhere_blind _) (kget [] s.mem.relset (pa / 128)) s
  have hmem := congrArg State.mem hdrain
  have hset : s.sansGroups.mem.relset = s.mem.relset := rfl
  unfold noteRelease
  dsimp only
  rw [hset]
  split
  · rfl
  · split
    · rfl
    · have hput : Blind fun s => setMem s { s.mem with relset := kins s.mem.relset (pa / 128) [core] } := fun _ => rfl
      exact hput.congr hdrain

theorem markAbort_blind (it : Nat) (a : Abort) : Blind (markAbort · it a) := by
  intro s
  have hitem : kfind s.sansGroups.run.items it = kfind s.run.items it := rfl
  unfold markAbort
  dsimp only
  rw [hitem]
  split
  · rfl
  · split
    · rfl
    · split <;> rfl

/-- A claim on a line sees the work items and launches, and marks one for an abort. -/
theorem txClaim_blind (item line : Nat) : Blind fun s => (txClaim s item line).2 := by
  intro s
  have hholder : holderOf s.sansGroups item line = holderOf s item line := rfl
  have hdoomed : doomed s.sansGroups item = doomed s item := rfl
  have hrank (k : Nat) : txRank s.sansGroups k = txRank s k := rfl
  unfold txClaim
  dsimp only
  rw [hholder]
  split
  · rfl
  · rw [hdoomed, hrank, hrank]
    split
    · rfl
    · split
      · exact markAbort_blind _ _ s
      · exact markAbort_blind _ _ s

end

/-! ### A read-modify-write -/

/-- What goes before a read-modify-write at HBM: the transaction's claim, and the buffered writes it overlaps. -/
def rmwReady (s : State) (w : Who) (pa n : Nat) : State :=
  drainWhere (if w.it.txOpen then (txClaim s w.item (pa / 128)).2 else s) fun p =>
    p.core == w.core && !p.host && decide (p.addr < pa + n) && decide (pa < p.addr + p.data.length)

/-- What comes after: the bytes, the set of cores of the line, and the monitors on it. -/
def rmwDone (s : State) (w : Who) (rel : Bool) (pa n : Nat) (bs : List Byte) : State :=
  fireHbm (if rel then noteRelease (rmwWritten s w pa bs) w.core pa else rmwWritten s w pa bs) pa n

theorem atomAt_hbm_eq (s : State) (w : Who) (rel : Bool) (op n x y pa : Nat) : atomAt s w rel op n x y (.hbm pa)
    = (natLe (readHbm (rmwReady s w pa n).mem pa n), rmwDone (rmwReady s w pa n) w rel pa n
        (bytesLe n (atomNew op (8 * n) (natLe (readHbm (rmwReady s w pa n).mem pa n)) x y))) := rfl

section
variable (w : Who) (rel : Bool) (op n x y pa : Nat)

theorem rmwReady_blind : Blind (rmwReady · w pa n) := by
  refine (drainWhere_blind _).comp (g := (drainWhere · _)) (f := fun s =>
    if w.it.txOpen then (txClaim s w.item (pa / 128)).2 else s) fun s => ?_
  dsimp only
  split
  · exact txClaim_blind _ _ s
  · rfl

theorem rmwWritten_blind (bs : List Byte) : Blind (rmwWritten · w pa bs) := fun _ => rfl

theorem rmwDone_blind (bs : List Byte) : Blind (rmwDone · w rel pa n bs) := by
  intro s
  dsimp only
  rw [rmwDone, rmwDone, fireHbm_sansGroups, fireHbm_sansGroups]
  split
  · exact ((noteRelease_blind w.core pa).comp (rmwWritten_blind w pa bs)) s
  · exact rmwWritten_blind w pa bs s

/-- A read-modify-write returns and leaves the same whatever groups hold. -/
theorem atomAt_blind (l : Loc) {s t : State} (h : s.sansGroups = t.sansGroups) :
    (atomAt s w rel op n x y l).1 = (atomAt t w rel op n x y l).1
      ∧ (atomAt s w rel op n x y l).2.sansGroups = (atomAt t w rel op n x y l).2.sansGroups := by
  cases l with
  | scr it o =>
    have hitem : s.run.items = t.run.items := by
      have e := congrArg (fun x : State => x.run.items) h
      exact e
    rw [atomAt, atomAt, hitem]
    refine ⟨rfl, ?_⟩
    dsimp only
    rw [fireScr_sansGroups, fireScr_sansGroups]
    have hmod (f : Item → Item) : Blind (modItem · it f) := fun _ => rfl
    exact (hmod _).congr h
  | hbm pa =>
    have hready := (rmwReady_blind w n pa).congr h
    have hmem : (rmwReady s w pa n).mem = (rmwReady t w pa n).mem := by
      have e := congrArg State.mem hready
      exact e
    rw [atomAt_hbm_eq, atomAt_hbm_eq, hmem]
    exact ⟨rfl, (rmwDone_blind w rel n pa _).congr hready⟩
  | host a => exact ⟨rfl, h⟩
  | weight a => exact ⟨rfl, h⟩
  | enum o => exact ⟨rfl, h⟩

/-! ### What it notes -/

theorem markAbort_notes (s : State) (it : Nat) (a : Abort) : Notes s (markAbort s it a) := by
  unfold markAbort
  split
  · exact .refl s
  · split
    · exact .refl s
    · dsimp only
      split <;> exact .of_run rfl rfl

theorem txClaim_notes (s : State) (item line : Nat) : Notes s (txClaim s item line).2 := by
  unfold txClaim
  split
  · exact .refl s
  · split
    · exact .refl s
    · split <;> exact markAbort_notes ..

theorem noteRelease_notes (s : State) (core pa : Nat) : Notes s (noteRelease s core pa) := by
  unfold noteRelease
  dsimp only
  split
  · exact .refl s
  · split
    · exact .of_run rfl rfl
    · exact (Waits.foldl drainCore_waits _ s).toNotes.trans (.of_run rfl rfl)

theorem atomAt_notes (s : State) (l : Loc) : Notes s (atomAt s w rel op n x y l).2 := by
  cases l with
  | scr it o =>
    rw [atomAt]
    refine Notes.trans ?_ (fireScr_still _ it o n).notes
    exact .of_run rfl rfl
  | hbm pa =>
    rw [atomAt_hbm_eq, rmwDone]
    have hready : Notes s (rmwReady s w pa n) := by
      rw [rmwReady]
      refine Notes.trans ?_ (drainWhere_waits _ _).toNotes
      split
      · exact txClaim_notes ..
      · exact .refl s
    refine hready.trans (Notes.trans ?_ (fireHbm_still _ pa n).notes)
    split
    · exact (rmwWritten_still _ w pa _).notes.trans (noteRelease_notes ..)
    · exact (rmwWritten_still _ w pa _).notes
  | host a => exact .refl s
  | weight a => exact .refl s
  | enum o => exact .refl s

end

/-! ### The lanes -/

theorem endAhead_plain (g : Group) (l : Loc) (n : Nat) : (endAhead g l n).plain = g.plain := by
  unfold endAhead; split <;> rfl

theorem noteRead_plain (g : Group) (l : Loc) : (noteRead g l).plain = g.plain := by
  unfold noteRead
  split
  · split
    · rfl
    · split <;> rfl
  · rfl

section
variable {o : AtomOp} {c : Ctx} {rel : Bool}

/-- One lane performed at once, then the others. -/
theorem lanes_cons {h : LaneHit} {l : Loc} (hl : h.loc? = some l) (hhost : ∀ a, l ≠ .host a) (hd : o.defers c.w l = false)
    (t : List LaneHit) (s : State) :
    let r := atomAt s c.w rel o.op o.bytes (o.x c.g h.lane) (o.y c.g h.lane) l
    let rest := o.lanes c rel t (modGrp r.2 c.gid fun g => endAhead (if o.ret then noteRead g l else g) l o.bytes)
    o.lanes c rel (h :: t) s = ((h.lane, r.1) :: rest.1, rest.2) := by
  rw [AtomOp.lanes, hl]
  cases l with
  | host a => exact absurd rfl (hhost a)
  | scr it o' => dsimp only; rw [hd]; rfl
  | hbm pa => dsimp only; rw [hd]; rfl
  | weight a => dsimp only; rw [hd]; rfl
  | enum o' => dsimp only; rw [hd]; rfl

/-- Lanes that all perform at once are a chain of read-modify-writes, beside what they note in their group. -/
theorem lanes_chain {hs : List LaneHit} {places : List Loc} (hp : hs.map LaneHit.loc? = places.map some)
    (hhost : ∀ p ∈ places, ∀ a, p ≠ .host a) (hd : ∀ l, o.defers c.w l = false) {s u : State}
    (hsu : s.sansGroups = u.sansGroups) :
    ∃ v, RmwChain o c rel ((hs.map (·.lane)).zip places) u (o.lanes c rel hs s).1 v
      ∧ (o.lanes c rel hs s).2.sansGroups = v.sansGroups ∧ Notes s (o.lanes c rel hs s).2
      ∧ (o.lanes c rel hs s).1.map (·.1) = hs.map (·.lane) := by
  induction hs generalizing places s u with
  | nil =>
    obtain rfl : places = [] := by simpa using hp.symm
    exact ⟨u, .nil u, hsu, .refl s, rfl⟩
  | cons h t ih =>
    cases places with
    | nil => exact absurd hp (by simp)
    | cons l places =>
      obtain ⟨hl, hrest⟩ := List.cons.inj hp
      have hrun := lanes_cons (rel := rel) hl (hhost l List.mem_cons_self) (hd l) t s
      obtain ⟨hold, hsame⟩ := atomAt_blind c.w rel o.op o.bytes (o.x c.g h.lane) (o.y c.g h.lane) l hsu
      obtain ⟨v, hchain, hv, hnotes, hlanes⟩ := ih hrest (fun p hp' => hhost p (List.mem_cons_of_mem _ hp'))
        (u := (atomAt u c.w rel o.op o.bytes (o.x c.g h.lane) (o.y c.g h.lane) l).2)
        (s := modGrp (atomAt s c.w rel o.op o.bytes (o.x c.g h.lane) (o.y c.g h.lane) l).2 c.gid
          fun g => endAhead (if o.ret then noteRead g l else g) l o.bytes) hsame
      rw [hrun]
      have hstep : atomAt u c.w rel o.op o.bytes (o.x c.g h.lane) (o.y c.g h.lane) l
          = ((atomAt s c.w rel o.op o.bytes (o.x c.g h.lane) (o.y c.g h.lane) l).1,
            (atomAt u c.w rel o.op o.bytes (o.x c.g h.lane) (o.y c.g h.lane) l).2) := Prod.ext hold.symm rfl
      refine ⟨v, .cons h.lane l _ u _ v _ _ hstep hchain, hv, ?_, congrArg (h.lane :: ·) hlanes⟩
      refine ((atomAt_notes _ _ _ _ _ _ s l).trans (.modGrp _ _ fun g => ?_)).trans hnotes
      rw [endAhead_plain]
      split
      · exact noteRead_plain g l
      · rfl

end

/-! ### Before and after the lanes -/

theorem turnOf_unforced {l : Launch} (h : replaying l = false) (byItem : Bool) (e : LogEntry) : turnOf l byItem e = .go := by
  rw [turnOf, h]; rfl

/-- Outside REPLAY no arrival waits for its turn. -/
theorem heldByLog_unforced {l : Launch} (h : replaying l = false) (es : List (Bool × LogEntry)) : heldByLog l es = false := by
  induction es generalizing l with
  | nil => rfl
  | cons e t ih =>
    rw [heldByLog, turnOf_unforced h, ih (l := { l with replayLog := l.replayLog.erase e.2 }) h]
    rfl

theorem replaying_of_det_zero {l : Launch} (h : l.pkt.det = 0) : replaying l = false := by rw [replaying, h]; rfl

theorem logAll_waits (s : State) (c : Ctx) (es : List (Bool × LogEntry)) : Waits s (logAll s c es) := by
  have hchoose (s : State) (e : Bool × LogEntry) : Waits s (choose s c.g.launch e.1 e.2) :=
    .of_sameBytes (.of_run rfl rfl) (fun l => by cases l <;> rfl) rfl rfl
  exact (Waits.foldl hchoose es s).trans (.modGrp _ _ fun _ => rfl)

theorem promotes_waits (o : AtomOp) (c : Ctx) (s : State) (h : LaneHit) : Waits s (o.promotes c s h) := by
  unfold AtomOp.promotes
  split
  · split
    · exact promoteReads_waits s c.w
    · exact promoteLine_waits ..
  · exact .refl s

theorem readied_waits (o : AtomOp) (c : Ctx) (hs : List LaneHit) (s : State) : Waits s (o.readied c hs s) := by
  have hlog := (noteAll_waits s c.w .atomic hs).trans (logAll_waits _ c (o.entries c hs))
  have hrel : Waits s (if o.rel && hs.any (o.performsAt c)
      then releaseAt (logAll (noteAll s c.w .atomic hs) c (o.entries c hs)) c.w (releaseLevel c.g o.lvl)
      else logAll (noteAll s c.w .atomic hs) c (o.entries c hs)) := by
    split
    · exact hlog.trans (releaseAt_waits ..)
    · exact hlog
  rw [AtomOp.readied]
  split
  · exact (hrel.trans (flashL1_waits ..)).trans (Waits.foldl (promotes_waits o c) hs _)
  · exact hrel

/-- Bytes hang on nothing that groups hold. -/
theorem sameBytes_of_sansGroups {s t : State} (h : t.sansGroups = s.sansGroups) : SameBytes s t := by
  intro l
  have hb (u : State) : byteAt u l = byteAt u.sansGroups l := by cases l <;> rfl
  rw [hb t, hb s, h]

/-- The flights once an atomic that returns has put its old values in flight. -/
def AtomOp.flies (o : AtomOp) (c : Ctx) (olds : List (Nat × Nat)) (n : Nat) : List Flight :=
  if o.ret then [{ o.flight c olds with id := n }] else []

theorem concluded_spec (o : AtomOp) (c : Ctx) (r : List (Nat × Nat) × State) :
    SameBytes r.2 (o.concluded c r) ∧ (∀ k, plainAt (o.concluded c r) k = plainAt r.2 k)
      ∧ ∃ n, (o.concluded c r).run.flights = r.2.run.flights ++ o.flies c r.1 n := by
  have hacq : SameBytes r.2 (if o.acq then forgetReads (acquireAt r.2 c.w o.lvl) c.gid else r.2)
      ∧ Notes r.2 (if o.acq then forgetReads (acquireAt r.2 c.w o.lvl) c.gid else r.2) := by
    split
    · exact ⟨(acquireAt_sameBytes r.2 c.w o.lvl).trans (modGrp_sameBytes (acquireAt r.2 c.w o.lvl) c.gid _),
        (acquireAt_notes r.2 c.w o.lvl).trans (forgetReads_notes ..)⟩
    · exact ⟨fun _ => rfl, .refl _⟩
  rw [AtomOp.concluded]
  unfold AtomOp.flies
  generalize (if o.acq then forgetReads (acquireAt r.2 c.w o.lvl) c.gid else r.2) = s4 at hacq ⊢
  obtain ⟨hbytes, hnotes⟩ := hacq
  split
  · refine ⟨hbytes.trans fun l => by cases l <;> rfl, hnotes.groups, s4.ctl.serial, ?_⟩
    show s4.run.flights ++ _ = _
    rw [hnotes.flights]
  · exact ⟨hbytes, hnotes.groups, 0, by rw [hnotes.flights, List.append_nil]⟩

/-- The instruction's own issue takes one from the flight's lookahead. -/
theorem flight_counted (o : AtomOp) (c : Ctx) (olds : List (Nat × Nat)) (n : Nat) :
    [({ o.flight c olds with id := n } : Flight)].map (fun f => if f.gid = c.gid then { f with left := f.left - 1 } else f)
      = [{ o.flight c olds with id := n, left := o.f.lh.toNat }] := congrArg (fun f => [f]) (if_pos rfl)

/-! ### The values in flight -/

theorem find?_of_mem_nodup {α : Type} {l : List (Nat × α)} (hn : (l.map (·.1)).Nodup) {e : Nat × α} (he : e ∈ l) :
    (l.find? fun x => x.1 == e.1) = some e := by
  induction l with
  | nil => exact absurd he List.not_mem_nil
  | cons x t ih =>
    rw [List.map_cons, List.nodup_cons] at hn
    obtain ⟨hx, ht⟩ := hn
    rcases List.mem_cons.1 he with rfl | he
    · exact List.find?_cons_of_pos (beq_self_eq_true _)
    · rw [List.find?_cons_of_neg]
      · exact ih ht he
      · intro hc
        exact hx (by rw [eq_of_beq hc]; exact List.mem_map_of_mem he)

section
variable {olds : List (Nat × Nat)} {m : Mask}

/-- The lanes in flight are those that the old values came from. -/
theorem flight_lanes (h : olds.map (·.1) = Mask.list m) : (maskOf fun l => olds.any fun e => e.1 == l) = m := by
  refine Mask.ext_lanes _ _ fun l hl => ?_
  rw [Mask.has_maskOf _ l hl, Bool.eq_iff_iff, List.any_eq_true]
  have hmem : l ∈ olds.map (·.1) ↔ Mask.has m l = true := by rw [h, Mask.mem_list, and_iff_right hl]
  rw [← hmem, List.mem_map]
  exact exists_congr fun e => and_congr_right fun _ => beq_iff_eq

/-- Each register in flight holds its part of a lane's old value. -/
theorem atomVals_lane (wide : Bool) (h : olds.map (·.1) = Mask.list m) {e : Nat × Nat} (he : e ∈ olds) {k : Nat}
    (hk : k < if wide then 2 else 1) :
    ((atomVals wide olds).getD k []).getD e.1 0 = e.2 / 2 ^ (32 * k) % 2 ^ 32 := by
  have hlane : e.1 < 64 := by
    have : e.1 ∈ Mask.list m := h ▸ List.mem_map_of_mem he
    exact ((Mask.mem_list m e.1).1 this).1
  have hfind := find?_of_mem_nodup (h ▸ Mask.nodup_list m) he
  have hreg : (atomVals wide olds).getD k []
      = mkLanes fun l => ((olds.find? fun x => x.1 == l).map (·.2)).getD 0 / 2 ^ (32 * k) % 2 ^ 32 := by
    rw [atomVals, List.getD_eq_getElem _ _ (by simpa using hk), List.getElem_map, List.getElem_range]
  rw [hreg]
  refine (laneOf_mkLanes 0 _ e.1 hlane).trans ?_
  rw [hfind]
  rfl

end

end Sys2Proof.Machine

namespace Sys2Proof
open Machine

/-- Settles O25: the effect is `perform_unheld`, its lanes are `lanes_chain` from the state that `readied_waits` speaks of,
and `concluded_spec` says what follows them. -/
theorem atomicsPerformEachLane : Obligations.AtomicsPerformEachLane := by
  intro i o s g g1 ho hi c w addr hs places hp hhost hpre hans hx hblocked htx hdet
  obtain ⟨hexec, hmaj⟩ := atomOf_runs ho
  have hcw : c.w = w := Form.ctx_w ..
  have hloc := loc_of_places hp
  have hnohost : ∀ h ∈ hs, ∀ a, h.loc? ≠ some (.host a) := by
    intro h hh a ha
    obtain ⟨p, hpm, hpl⟩ := hloc h hh
    exact hhost p hpm a (Option.some.inj (hpl.symm.trans ha))
  have hd (l : Loc) : o.defers c.w l = false := by
    unfold AtomOp.defers
    rw [hcw]
    rcases htx with h | h <;> simp [h]
  have hforce : replaying c.w.l = false := by rw [hcw]; exact replaying_of_det_zero hdet
  have hrun := atomRun_placed (c := c) (s := (o.form i).begun s g g1) hans hx (atom_hits rfl hnohost)
    (fun h hh => by obtain ⟨p, -, hpl⟩ := hloc h hh; rw [hpl]; rfl)
    ((blockedBy_congr (sameMemory_delayed s g) hs o.bytes).trans hblocked)
  have hbody := hrun.trans (perform_unheld (heldByLog_unforced hforce _) (by rw [conflictHeld, hforce]; rfl)
    (hostLanes_nil hnohost) _)
  have hready := readied_waits o c hs ((o.form i).begun s g g1)
  obtain ⟨v, hchain, hsame, hnotes, hlanes⟩ := lanes_chain (rel := o.rel || c.g.relFence) hp hhost hd
    (rfl : (o.readied c hs ((o.form i).begun s g g1)).sansGroups = _)
  obtain ⟨hbytes, hplain, n, hflights⟩ := concluded_spec o c
    (o.lanes c (o.rel || c.g.relFence) hs (o.readied c hs ((o.form i).begun s g g1)))
  obtain ⟨t, h, k, hissue, hgrp, hretired, hregs, hset⟩ := issue_noted (m := o.meaning i) hi hpre hbody
    ((hplain _).trans ((hready.toNotes.trans hnotes).groups _))
  have hlane : hs.map (·.lane) = Mask.list c.x := by
    rw [List.map_map]; exact List.map_id _
  rw [hlane] at hchain hlanes
  have hflt := (show Settled c c.next _ t k from hset).flights
  rw [if_neg (show ¬ majOf c.word = 0x3F from hmaj), hflights, hnotes.flights, hready.flights] at hflt
  have hbefore : ((o.form i).begun s g g1).run.flights = s.run.flights := by
    rw [Form.begun, setGrp_flights, delayed_run]
  rw [hbefore] at hflt
  refine ⟨t, h, _, v, _, (hexec s).trans hissue, hgrp, hretired, hregs,
    (((o.form i).begun_drains s g g1).trans hready.drains).bytes, hchain,
    ((sameBytes_of_sansGroups hsame).trans hbytes).trans hset.sameBytes, fun hret => ?_, fun hret => ?_⟩
  · have hflies : o.flies c (o.lanes c (o.rel || c.g.relFence) hs (o.readied c hs ((o.form i).begun s g g1))).1 n = [_] :=
      if_pos hret
    rw [hflies, List.map_append, flight_counted o c] at hflt
    have hlast := congrArg List.getLast? hflt
    rw [List.getLast?_concat] at hlast
    refine ⟨_, hlast, rfl, rfl, rfl, rfl, rfl, rfl, flight_lanes hlanes, ?_, fun e he r hr => ?_⟩
    · show (if o.ret then atomVals o.wide _ else []).length = _
      rw [if_pos hret, atomVals, List.length_map, List.length_range]; rfl
    · show ((if o.ret then atomVals o.wide _ else []).getD r []).getD e.1 0 = _
      rw [if_pos hret]
      exact atomVals_lane o.wide hlanes he hr
  · have hflies : o.flies c (o.lanes c (o.rel || c.g.relFence) hs (o.readied c hs ((o.form i).begun s g g1))).1 n = [] :=
      if_neg (by simp [hret])
    rw [hflt, hflies, List.append_nil, List.length_map]

end Sys2Proof
end

section
/-! Settles O20: the trap that the checks of a memory instruction raise (11 R235, R236; 17 R369; 18 R406), and what a gather
performs before it. -/

namespace Sys2Proof.Machine

/-! ### Addresses -/

theorem disp_eq (h : Hints) : disp h = (match h.himm with
    | none => 0
    | some y => y.signExtend 64 : W64).toInt := by
  unfold disp
  rcases h.himm with _ | y
  · rfl
  · dsimp only
    rw [sextNat_eq_toInt, BitVec.ofNat_toNat, BitVec.setWidth_eq, BitVec.toInt_signExtend_of_le (by decide)]

/-- The model's address arithmetic is the statement's on 64-bit words. -/
theorem laneAddr_eq_addrM (g : Group) (base idx l : Nat) : laneAddr g base idx l = addrM g base idx l := by
  rw [laneAddr, addrM, wrapNat_eq_ofInt, disp_eq, BitVec.ofInt_add, BitVec.ofInt_add, BitVec.ofInt_toInt]
  congr 3
  · exact BitVec.eq_of_toNat_eq (by simp)
  · split
    · rfl
    · exact BitVec.eq_of_toNat_eq (by simp)

/-! ### The trap of several lanes -/

section
variable {hs : List LaneHit} {dst : Nat}

theorem LaneHit.cause_of_trap {h : LaneHit} {k : Nat} (hk : h.hit = .trap k) : h.cause? = some k := by
  rw [LaneHit.cause?, hk]

theorem LaneHit.trap_of_cause {h : LaneHit} {k : Nat} (hk : h.cause? = some k) : h.hit = .trap k := by
  unfold LaneHit.cause? at hk
  split at hk
  · next j hj => rw [hj, Option.some.inj hk]
  · exact absurd hk (by simp)

/-- The least of a list of numbers folded from one of them. -/
theorem foldl_min_spec (l : List Nat) (a : Nat) : l.foldl min a ∈ a :: l ∧ ∀ x ∈ a :: l, l.foldl min a ≤ x := by
  induction l generalizing a with
  | nil => exact ⟨List.mem_singleton_self a, fun x hx => by rw [List.mem_singleton.1 hx]; exact Nat.le_refl _⟩
  | cons b t ih =>
    obtain ⟨hmem, hle⟩ := ih (min a b)
    have hmin := hle (min a b) List.mem_cons_self
    rw [List.foldl_cons]
    refine ⟨?_, fun x hx => ?_⟩
    · rcases List.mem_cons.1 hmem with h | h
      · rcases Nat.le_total a b with hab | hab
        · rw [h, Nat.min_eq_left hab]; exact List.mem_cons_self
        · rw [h, Nat.min_eq_right hab]; exact List.mem_cons_of_mem _ List.mem_cons_self
      · exact List.mem_cons_of_mem _ (List.mem_cons_of_mem _ h)
    · rcases List.mem_cons.1 hx with rfl | hx
      · exact Nat.le_trans hmin (Nat.min_le_left _ _)
      · rcases List.mem_cons.1 hx with rfl | hx
        · exact Nat.le_trans hmin (Nat.min_le_right _ _)
        · exact hle x (List.mem_cons_of_mem _ hx)

/-- Where some lane traps, the trap has the lowest cause, the address of the first lane that raised it, and the lanes that
trap. -/
theorem lanesTrap_spec {x : LaneHit} {j : Nat} (hx : x ∈ hs) (hj : x.cause? = some j) :
    ∃ k y, lanesTrap hs dst = some ⟨k, BitVec.ofNat 64 y.va, some (hitMask (hs.filter fun h => h.cause?.isSome)), dst⟩
      ∧ hs.find? (fun h => h.cause? == some k) = some y ∧ y.cause? = some k
      ∧ ∀ z ∈ hs, ∀ i, z.cause? = some i → k ≤ i := by
  have hmem {z : LaneHit} {i : Nat} (hz : z ∈ hs) (hi : z.cause? = some i) : z ∈ hs.filter fun h => h.cause?.isSome :=
    List.mem_filter.2 ⟨hz, by rw [hi]; rfl⟩
  have hcause {z : LaneHit} (hz : z ∈ hs.filter fun h => h.cause?.isSome) : z.cause? = some (z.cause?.getD 255) := by
    obtain ⟨i, hi⟩ := Option.isSome_iff_exists.1 (List.mem_filter.1 hz).2
    rw [hi]; rfl
  unfold lanesTrap
  generalize hts : hs.filter (fun h => h.cause?.isSome) = ts at hmem hcause
  cases ts with
  | nil => exact absurd (hmem hx hj) List.not_mem_nil
  | cons h t =>
    obtain ⟨hin, hle⟩ := foldl_min_spec (t.map fun x => x.cause?.getD 255) (h.cause?.getD 255)
    dsimp only
    generalize (t.map fun x => x.cause?.getD 255).foldl min (h.cause?.getD 255) = k at hin hle
    obtain ⟨z, hz, hzk⟩ : ∃ z ∈ h :: t, z.cause?.getD 255 = k := by
      rw [← List.map_cons (f := fun x : LaneHit => x.cause?.getD 255)] at hin
      exact List.mem_map.1 hin
    have hzc : z.cause? = some k := by rw [hcause hz, hzk]
    have hzs : z ∈ hs := by rw [← hts] at hz; exact (List.mem_filter.1 hz).1
    have hsome : (hs.find? fun h => h.cause? == some k).isSome :=
      List.find?_isSome.2 ⟨z, hzs, by rw [hzc]; exact beq_self_eq_true _⟩
    obtain ⟨y, hy⟩ := Option.isSome_iff_exists.1 hsome
    have hfind : (h :: t).find? (fun x => x.cause? == some k) = some y := by
      have hboth : (fun h : LaneHit => decide (h.cause?.isSome = true ∧ (h.cause? == some k) = true))
          = fun h => h.cause? == some k := by
        funext a
        cases a.cause? with
        | none => rfl
        | some j => rw [Bool.eq_iff_iff]; simp
      rw [← hts, List.find?_filter, hboth, hy]
    refine ⟨k, y, by rw [hfind]; rfl, hy, by simpa using List.find?_some hy, fun w hw i hi => ?_⟩
    have hwi := hle (w.cause?.getD 255) (by
      rw [← List.map_cons (f := fun x : LaneHit => x.cause?.getD 255)]
      exact List.mem_map_of_mem (hmem hw hi))
    rwa [hi] at hwi

/-- A misaligned lane stops the instruction before any translation. -/
theorem hitsPreOn_misaligned {s : State} {c : Ctx} {x : LaneHit} (hx : x ∈ hs) (ha : x.hit = .trap cALIGN) (kind n : Nat)
    (bs : List LaneHit) (whole : Bool) : hitsPreOn s c kind n hs bs whole
      = (if whole then wholeTrap hs c.dst else lanesTrap hs c.dst).map .trap := by
  have hearly : hs.any LaneHit.isEarly = true :=
    List.any_eq_true.2 ⟨x, hx, by simp [LaneHit.isEarly, LaneHit.cause_of_trap ha, ha]⟩
  rw [hitsPreOn]
  exact if_pos hearly

/-- Of lanes in ascending order the first with a cause is the lowest. -/
theorem va_of_lowest {k low : Nat} {y e : LaneHit} (hord : hs.Pairwise fun a b => a.lane < b.lane)
    (hy : hs.find? (fun h => h.cause? == some k) = some y) (he : e ∈ hs) (hek : e.cause? = some k) (hel : e.lane = low)
    (hlow : ∀ z ∈ hs, z.cause? = some k → low ≤ z.lane) : y = e := by
  obtain ⟨hyk, as, bs, hsplit, hbefore⟩ := List.find?_eq_some_iff_append.1 hy
  have hyk : y.cause? = some k := by simpa using hyk
  have hyl := hlow y (List.mem_of_find?_eq_some hy) hyk
  rw [hsplit] at he hord
  rcases List.mem_append.1 he with he | he
  · exact absurd (hbefore e he) (by simp [hek])
  · rcases List.mem_cons.1 he with rfl | he
    · rfl
    · have := List.rel_of_pairwise_cons (List.pairwise_append.1 hord).2.1 he
      omega

theorem mask_list_ascending (m : Mask) : (Mask.list m).Pairwise (· < ·) := List.Pairwise.filter _ List.pairwise_lt_range

end

/-! ### Traps of instructions that changed nothing -/

section
variable {s : State} {g g1 : Group}

/-- An instruction that issues and whose effect is a trap ends in it. -/
theorem issue_trap {m : Meaning} (hi : m.form.Issues s g g1) (hpre : m.pre (m.form.ctx s g) = none)
    {cause : Nat} {info : W64} {lanes : Option Mask}
    (hbody : m.body (m.form.ctx s g) (m.form.begun s g g1) = .trap ⟨cause, info, lanes, m.dst g⟩) :
    issue m s = .next (takeTrap (delayed s g) s.ctl.cur g (m.form.trapReq g cause info (lanes.getD g.active))) := by
  rw [hi.issue_eq hpre, hbody]
  show Host.Outcome.next (raise (m.form.ctx s g) (delayed s g) _ true false false) = _
  have hgrp : grp (delayed s g) (m.form.ctx s g).gid = some g := (grp_delayed s g _).trans hi.cur
  rw [raise, hgrp]
  rfl

theorem storeOf_runs {i : Instr} {o : StoreOp} (h : storeOf i = some o) (s : State) : exec i s = issue (o.meaning i) s := by
  unfold storeOf at h
  split at h <;> cases h <;> rfl

theorem loadOf_runs {i : Instr} {o : LoadOp} (h : loadOf i = some o) (s : State) : exec i s = issue (o.meaning i) s := by
  unfold loadOf at h
  split at h <;> cases h <;> rfl

theorem check_misaligned (s : State) (w : Who) (acc : Acc) {va n : Nat} (h : va % n ≠ 0) :
    check s w acc va n = .trap cALIGN := if_pos h

/-- The checks of lanes at the addresses of format M, in the state that the instruction issued from. -/
theorem probe_addrM {s u : State} (hs : SameMemory s u) (w : Who) (acc : Acc) (n : Nat) (ls : List Nat) (base idx : Nat) :
    probe u w acc n ls (laneAddr g base idx)
      = ls.map fun l => ⟨l, addrM g base idx l, check s w acc (addrM g base idx l) n⟩ := by
  rw [probe_congr hs, probe]
  simp only [laneAddr_eq_addrM]

end

/-! ### A store with a misaligned lane -/

section
variable {s : State} {g g1 : Group} {i : Instr} {o : StoreOp}

/-- The lanes of a store that trap. -/
def trapLanes (ls : List Nat) (hit : Nat → Hit) : Mask := maskOf fun l => ls.any fun m => m == l && match hit m with
  | .trap _ => true
  | _ => false

theorem hitMask_traps (ls : List Nat) (va : Nat → Nat) (hit : Nat → Hit) :
    hitMask ((ls.map fun l => (⟨l, va l, hit l⟩ : LaneHit)).filter fun h => h.cause?.isSome) = trapLanes ls hit := by
  refine congrArg maskOf (funext fun l => ?_)
  rw [List.any_filter, List.any_map]
  congr 1
  funext m
  dsimp only [Function.comp, LaneHit.cause?]
  cases hit m <;> simp

/-- The store's lanes in the state that it issued from. -/
theorem storeHits_eq : o.hits ((o.form i).ctx s g) ((o.form i).begun s g g1)
    = (o.lanes ((o.form i).ctx s g)).map fun l => ⟨l, addrM g o.s o.v l,
        check s (who s s.ctl.cur g) .store (addrM g o.s o.v l) (bytesM (storeWidth o.w))⟩ := by
  rw [StoreOp.hits, Form.ctx_w]
  exact probe_addrM ((o.form i).begun_sameMemory s g g1) ..

theorem storeLanes_ascending (c : Ctx) : (o.lanes c).Pairwise (· < ·) := by
  rw [StoreOp.lanes]
  split
  · exact List.pairwise_singleton ..
  · exact mask_list_ascending c.x

end

/-! ### What a load leaves before its trap -/

section
variable (s : State) (w : Who) (md : L1Mode)

theorem takeTag_still (core line : Nat) : Still s (takeTag s core line) := by
  unfold takeTag
  dsimp only
  split <;> exact .of_groups rfl rfl

theorem touchLoad_still (l : Loc) (nc : Bool) : Still s (touchLoad s w md l nc) := by
  unfold touchLoad
  split
  · next pa =>
    split
    · exact .refl s
    · have hread : Still s (l2Read s w.die pa md.guest) := .of_groups rfl rfl
      dsimp only
      split
      · exact (hread.trans (takeTag_still _ w.core (pa / 128))).trans (.of_groups rfl rfl)
      · exact hread
  · exact .refl s

theorem readLane_still (l : Loc) (nc : Bool) (n : Nat) : Still s (readLane s w md l nc n).2 := by
  rw [readLane]
  exact (touchLoad_still ..).trans (.modGrp _ _ fun g => by rw [endAhead_plain, noteRead_plain])

theorem noteAll_still (acc : Acc) (hs : List LaneHit) : Still s (noteAll s w acc hs) := by
  obtain ⟨tlb, h⟩ := noteAll_eq s w acc hs
  rw [h]
  exact .of_groups rfl rfl

/-- Lanes that all have a place are read one after another. -/
theorem readLanes_spec (n : Nat) {hs : List LaneHit} (hp : ∀ h ∈ hs, h.loc?.isSome) (s : State) :
    Still s (readLanes s w md n hs).2 ∧ (readLanes s w md n hs).1.map (·.1) = hs.map (·.lane) := by
  induction hs generalizing s with
  | nil => exact ⟨.refl s, rfl⟩
  | cons h t ih =>
    obtain ⟨l, nc, hl⟩ := placed_hit hp List.mem_cons_self
    obtain ⟨hst, hlanes⟩ := ih (fun x hx => hp x (List.mem_cons_of_mem _ hx)) (readLane s w md l nc n).2
    rw [readLanes, hl]
    exact ⟨(readLane_still s w md l nc n).trans hst, congrArg (h.lane :: ·) hlanes⟩

end

/-! ### The trap of a gather -/

section
variable {s u : State} {g g1 k : Group}

/-- With at most 30 slots in use a trap spills nothing, whatever the memories hold. -/
theorem CanDeliver.of_plain {gid : Nat} (h : CanDeliver s gid g) (hk : k.plain.kept = g.plain.kept)
    (hslots : slotsOf g.stack ≤ 30) (hi : u.run.items = s.run.items) (hl : u.run.launches = s.run.launches) :
    CanDeliver u gid k := by
  have hfield {α : Type} (p : Group → α) (hp : ∀ x : Group, p x.plain.kept = p x) : p k = p g := by
    rw [← hp k, hk, hp]
  have hstack : k.stack = g.stack := hfield Group.stack fun _ => rfl
  obtain ⟨hhandler, hroom, -, hclosed⟩ := h
  refine ⟨?_, ?_, spillFault_core _ _ _ _ _ (by rw [hstack]; omega) (by rw [hstack]; omega), ?_⟩
  · rwa [hfield Group.trapvec fun _ => rfl]
  · rwa [hstack, hl, hfield Group.launch fun _ => rfl]
  · rwa [hi, hfield Group.item fun _ => rfl]

/-- The gather's trap request: lanes left, cause and information as its lanes raise them. -/
def gatherReq (c : Ctx) (k : Group) (t : Tr) (left : Mask) (bit : Bool) : TrapReq :=
  { cause := t.cause, info := t.info, lanes := left, restarting := true, gather := bit, dst := t.dst,
    gdone := k.active &&& ~~~left, pc := c.first, next := c.next }

/-- An instruction that issues and whose effect is a part performed and a trap for the lanes left enters its handler with
them, the part's state around it. -/
theorem issue_part {m : Meaning} (hi : m.form.Issues s g g1) (hpre : m.pre (m.form.ctx s g) = none) {t : Tr} {left : Mask}
    {bit : Bool} (hbody : m.body (m.form.ctx s g) (m.form.begun s g g1) = .part u { t with lanes := some left } bit)
    (hcur : grp u s.ctl.cur = some k) (hcan : CanDeliver u s.ctl.cur k) (hslots : slotsOf k.stack + 2 ≤ 32) :
    issue m s = .next (setGrp u s.ctl.cur (deliver k (gatherReq (m.form.ctx s g) k t left bit))) := by
  rw [hi.issue_eq hpre, hbody]
  show Host.Outcome.next (raise (m.form.ctx s g) u _ true bit true) = _
  have hgrp : grp u (m.form.ctx s g).gid = some k := hcur
  rw [raise, hgrp]
  exact congrArg Host.Outcome.next (takeTrap_core u s.ctl.cur k _ hcan hslots)

/-- The lanes of a gather that have no place. -/
def leftLanes (hs : List LaneHit) : Mask := maskOf fun l => hs.any fun e => e.lane == l && e.loc?.isNone

section
variable {hs : List LaneHit} {x : Mask}

theorem hitMask_has (l : Nat) (hl : l < 64) : Mask.has (hitMask hs) l = true ↔ ∃ h ∈ hs, h.lane = l := by
  rw [hitMask, Mask.has_maskOf _ l hl, List.any_eq_true]
  exact exists_congr fun h => and_congr_right fun _ => beq_iff_eq

/-- The lanes left are those whose checks do not pass. -/
theorem leftLanes_eq (hl : hs.map (·.lane) = Mask.list x) :
    x &&& ~~~(hitMask (hs.filter fun h => h.loc?.isSome)) = leftLanes hs := by
  have hlane {h : LaneHit} (hh : h ∈ hs) : h.lane < 64 ∧ Mask.has x h.lane = true := by
    rw [← Mask.mem_list, ← hl]; exact List.mem_map_of_mem hh
  refine Mask.ext_lanes _ _ fun l hlt => ?_
  rw [Mask.has_and, Mask.has_not _ l hlt, leftLanes, Mask.has_maskOf _ l hlt, Bool.eq_iff_iff, Bool.and_eq_true,
    Bool.not_eq_true', ← Bool.not_eq_true, hitMask_has l hlt, List.any_eq_true]
  constructor
  · rintro ⟨hx, hnone⟩
    obtain ⟨h, hh, rfl⟩ : ∃ h ∈ hs, h.lane = l := by
      rw [← List.mem_map, hl, Mask.mem_list]; exact ⟨hlt, hx⟩
    refine ⟨h, hh, ?_⟩
    rw [beq_self_eq_true, Bool.true_and, Option.isNone_iff_eq_none]
    by_contra hloc
    exact hnone ⟨h, List.mem_filter.2 ⟨hh, Option.isSome_iff_ne_none.2 hloc⟩, rfl⟩
  · rintro ⟨h, hh, hcond⟩
    rw [Bool.and_eq_true, beq_iff_eq, Option.isNone_iff_eq_none] at hcond
    obtain ⟨rfl, hloc⟩ := hcond
    refine ⟨(hlane hh).2, ?_⟩
    rintro ⟨h', hh', heq⟩
    obtain ⟨hmem, hsome⟩ := List.mem_filter.1 hh'
    have hsame : h' = h := List.inj_on_of_nodup_map (hl ▸ Mask.nodup_list x) hmem hh heq
    rw [hsame, hloc] at hsome
    exact absurd hsome Bool.false_ne_true

/-- The lanes performed are the others. -/
theorem hitMask_placed (hl : hs.map (·.lane) = Mask.list x) :
    hitMask (hs.filter fun h => h.loc?.isSome) = x &&& ~~~(leftLanes hs) := by
  have hsub : ∀ l, l < 64 → Mask.has (hitMask (hs.filter fun h => h.loc?.isSome)) l = true → Mask.has x l = true := by
    intro l hlt hh
    obtain ⟨h, hmem, rfl⟩ := (hitMask_has l hlt).1 hh
    have := List.mem_map_of_mem (f := LaneHit.lane) (List.mem_filter.1 hmem).1
    rw [hl, Mask.mem_list] at this
    exact this.2
  rw [← leftLanes_eq hl]
  refine Mask.ext_lanes _ _ fun l hlt => ?_
  rw [Mask.has_and, Mask.has_not _ l hlt, Mask.has_and, Mask.has_not _ l hlt]
  have hin := hsub l hlt
  cases hm : Mask.has (hitMask (hs.filter fun h => h.loc?.isSome)) l
  · cases Mask.has x l <;> rfl
  · rw [hin hm]; rfl

end

theorem leftLanes_of_placed (hp : ∀ h ∈ hs, h.loc?.isSome) : leftLanes hs = 0 := by
  refine Mask.ext_lanes _ _ fun l hl => ?_
  rw [leftLanes, Mask.has_maskOf _ l hl, show Mask.has 0 l = false from Mask.has_zero l, List.any_eq_false]
  intro h hh
  obtain ⟨p, hloc⟩ := Option.isSome_iff_exists.1 (hp h hh)
  simp [hloc]

/-- Of lanes none of which faults in translation one that is left traps. -/
theorem trap_of_left (hb : ∀ e ∈ hs, e.isXlate = false ∧ e.hit ≠ .busy) (hleft : leftLanes hs ≠ 0) :
    ∃ e ∈ hs, ∃ k, e.cause? = some k := by
  by_contra hnone
  refine hleft (leftLanes_of_placed fun e he => ?_)
  obtain ⟨hx, hbusy⟩ := hb e he
  rcases hh : e.hit with ⟨l, nc⟩ | k | ⟨k, host⟩ | _
  · rw [LaneHit.loc?, hh]; rfl
  · exact absurd ⟨e, he, k, LaneHit.cause_of_trap hh⟩ hnone
  · rw [LaneHit.isXlate, hh] at hx; exact absurd hx (by simp)
  · exact absurd hh hbusy

theorem inL1_congr (h : SameMemory s u) (w : Who) (md : L1Mode) (e : LaneHit) : e.inL1 u w md = e.inL1 s w md := by
  unfold LaneHit.inL1
  split
  · next l nc => cases l <;> simp [l1Hit, l1Line, h.mem]
  · rfl

/-- What a gather with lanes that trap, and none that faults in translation, has performed before its trap, and the trap's
GATHER bit. -/
structure GatherPart (o : LoadOp) (c : Ctx) (s : State) (hs : List LaneHit) (u : State) (bit : Bool) : Prop where
  groups : ∀ j, plainAt u j = plainAt s j ∨ plainAt u j = plainAt c.s0 j
  items : u.run.items = s.run.items ∨ u.run.items = c.s0.run.items
  launches : u.run.launches = s.run.launches ∨ u.run.launches = c.s0.run.launches
  flight : (∃ e ∈ hs, e.loc?.isSome) → bit = true
    ∧ ∃ vs n, u.run.flights.getLast? = some { o.flight c vs with id := n }
    ∧ vs.map (·.1) = (hs.filter fun h => h.loc?.isSome).map (·.lane)

theorem gatherRun_part {o : LoadOp} {c : Ctx} {t : Tr}
    (hhits : probe s c.w o.acc (bytesM o.w) (Mask.list c.x) (laneAddr c.g o.s o.v) = hs)
    (hl : hs.map (·.lane) = Mask.list c.x) (hb : ∀ e ∈ hs, e.isXlate = false ∧ e.hit ≠ .busy)
    (hblocked : blockedBy s (hs.filter fun h => !h.inL1 s c.w (l1ModeOf c.g o.bypass o.na)) (bytesM o.w) = none)
    (ht : lanesTrap hs c.dst = some t) :
    ∃ u bit, o.gatherRun c s = .part u { t with lanes := some (leftLanes hs) } bit ∧ GatherPart o c s hs u bit := by
  have hbusy : (hs.any fun h => h.hit == .busy) = false := by
    rw [List.any_eq_false]
    exact fun h hh => by simpa using (hb h hh).2
  have hxlate : (hs.filter LaneHit.isXlate).isEmpty = true := by
    rw [List.isEmpty_iff, List.filter_eq_nil_iff]
    exact fun h hh => by simp [(hb h hh).1]
  have hplaced : ∀ h ∈ hs.filter (fun h => h.loc?.isSome), h.loc?.isSome := fun h hh => (List.mem_filter.1 hh).2
  rw [LoadOp.gatherRun]
  dsimp only
  rw [hhits, hbusy, hblocked, hxlate, ht, leftLanes_eq hl]
  cases hempty : (hs.filter fun h => h.loc?.isSome).isEmpty
  · obtain ⟨hst, hlanes⟩ := readLanes_spec c.w (l1ModeOf c.g o.bypass o.na) (bytesM o.w) hplaced
      (noteAll s c.w o.acc (hs.filter fun h => h.loc?.isSome))
    have hall := (noteAll_still s c.w o.acc (hs.filter fun h => h.loc?.isSome)).trans hst
    refine ⟨_, true, rfl, fun j => .inl (hall.groups j), .inl hall.items, .inl hall.launches, ?_⟩
    rintro -
    exact ⟨rfl, _, _, List.getLast?_concat, hlanes⟩
  · refine ⟨_, c.replay, rfl, fun j => .inr rfl, .inr rfl, .inr rfl, ?_⟩
    rintro ⟨e, he, hloc⟩
    rw [List.isEmpty_iff] at hempty
    exact absurd (List.mem_filter.2 ⟨he, hloc⟩) (hempty ▸ List.not_mem_nil)

end

section
variable {s u : State} {g g1 : Group} {o : LoadOp} {hs : List LaneHit} {bit : Bool}

/-- The gather's group keeps all that its trap needs. -/
theorem GatherPart.group {f : Form} (hi : f.Issues s g g1) (h : GatherPart o (f.ctx s g) (f.begun s g g1) hs u bit) :
    ∃ k, grp u s.ctl.cur = some k ∧ k.plain.kept = g.plain.kept ∧ k.active = g.active := by
  obtain ⟨-, -, -, hkin⟩ := rename_spec hi.names
  have hbegun : plainAt (f.begun s g g1) s.ctl.cur = some g1.plain := by
    rw [plainAt, Form.begun, grp_setGrp_self]; rfl
  have hdelayed : plainAt (delayed s g) s.ctl.cur = some g.plain := by rw [plainAt, grp_delayed, hi.cur]; rfl
  have hkept : g1.plain.kept = g.plain.kept := by
    have e := congrArg Group.plain hkin.kept
    exact e
  obtain hg | hg := h.groups s.ctl.cur
  · rw [hbegun, plainAt, Option.map_eq_some_iff] at hg
    obtain ⟨k, hk, hkp⟩ := hg
    have hactive : k.active = g1.active := by
      have e := congrArg Group.active hkp
      exact e
    exact ⟨k, hk, by rw [hkp, hkept], hactive.trans hkin.active⟩
  · rw [show (f.ctx s g).s0 = delayed s g from rfl, hdelayed, plainAt, Option.map_eq_some_iff] at hg
    obtain ⟨k, hk, hkp⟩ := hg
    have hactive : k.active = g.active := by
      have e := congrArg Group.active hkp
      exact e
    exact ⟨k, hk, by rw [hkp], hactive⟩

theorem GatherPart.runs {f : Form} (h : GatherPart o (f.ctx s g) (f.begun s g g1) hs u bit) :
    u.run.items = s.run.items ∧ u.run.launches = s.run.launches := by
  have hitems : (f.begun s g g1).run.items = s.run.items := by rw [Form.begun, setGrp_items, delayed_run]
  have hlaunches : (f.begun s g g1).run.launches = s.run.launches := by rw [Form.begun, setGrp_launches, delayed_run]
  have hrun : (f.ctx s g).s0.run = s.run := delayed_run s g
  obtain ⟨-, hi, hl, -⟩ := h
  rw [hitems, hrun, or_self] at hi
  rw [hlaunches, hrun, or_self] at hl
  exact ⟨hi, hl⟩

end

/-! ### A misaligned lane -/

/-- A misaligned lane stops all: the trap has the lowest cause, the address of the lowest lane that raised it, and the
lanes that trap, or none of its own where the instruction faults as a whole. -/
theorem hitsPreOn_lowest {ls : List Nat} {va : Nat → Nat} {hit : Nat → Hit} {m k low : Nat} (hord : ls.Pairwise (· < ·))
    (hm : m ∈ ls) (ha : hit m = .trap cALIGN) (hlow : low ∈ ls) (hk : hit low = .trap k)
    (hleast : ∀ l ∈ ls, ∀ j, hit l = .trap j → k < j ∨ k = j ∧ low ≤ l)
    (s : State) (c : Ctx) (kind n : Nat) (bs : List LaneHit) (whole : Bool) :
    hitsPreOn s c kind n (ls.map fun l => ⟨l, va l, hit l⟩) bs whole
      = some (.trap ⟨k, BitVec.ofNat 64 (va low), if whole then none else some (trapLanes ls hit), c.dst⟩) := by
  have hmem {l : Nat} (hl : l ∈ ls) : (⟨l, va l, hit l⟩ : LaneHit) ∈ ls.map fun l => ⟨l, va l, hit l⟩ :=
    List.mem_map_of_mem (f := fun l => (⟨l, va l, hit l⟩ : LaneHit)) hl
  have hrises : ∀ z ∈ ls.map (fun l => (⟨l, va l, hit l⟩ : LaneHit)), ∀ j, z.cause? = some j →
      k < j ∨ k = j ∧ low ≤ z.lane := by
    intro z hz j hj
    obtain ⟨l, hl, rfl⟩ := List.mem_map.1 hz
    exact hleast l hl j (LaneHit.trap_of_cause hj)
  have hcause : (⟨low, va low, hit low⟩ : LaneHit).cause? = some k := LaneHit.cause_of_trap hk
  obtain ⟨k', y, htrap, hfind, hyk, hmin⟩ := lanesTrap_spec (dst := c.dst) (hmem hlow) hcause
  have hkk : k' = k := by
    have h1 := hmin _ (hmem hlow) k hcause
    have h2 := hrises y (List.mem_of_find?_eq_some hfind) k' hyk
    omega
  subst hkk
  have hy : y = ⟨low, va low, hit low⟩ :=
    va_of_lowest (low := low) (List.pairwise_map.2 hord) hfind (hmem hlow) hcause rfl fun z hz hzk => by
      have := hrises z hz k' hzk
      omega
  rw [hitsPreOn_misaligned (hmem hm) ha, wholeTrap, htrap, hy, hitMask_traps]
  cases whole <;> rfl

section
variable {s : State} {g g1 : Group} {i : Instr}

/-- A store with a misaligned lane traps and performs nothing. -/
theorem StoreOp.traps_misaligned {o : StoreOp} (ho : storeOf i = some o) (hi : (o.form i).Issues s g g1)
    (hpre : o.pre ((o.form i).ctx s g) = none) (hx : ((o.form i).ctx s g).x ≠ 0) {hit : Nat → Hit}
    (hhit : hit = fun l => check s (who s s.ctl.cur g) .store (addrM g o.s o.v l) (bytesM (storeWidth o.w)))
    {m k low : Nat} (hm : m ∈ o.lanes ((o.form i).ctx s g)) (hmis : addrM g o.s o.v m % bytesM (storeWidth o.w) ≠ 0)
    (hlow : low ∈ o.lanes ((o.form i).ctx s g)) (hk : hit low = .trap k)
    (hleast : ∀ l ∈ o.lanes ((o.form i).ctx s g), ∀ j, hit l = .trap j → k < j ∨ k = j ∧ low ≤ l) :
    (o.form i).TrapsWith s g k (BitVec.ofNat 64 (addrM g o.s o.v low))
      (if o.v = 63 then g.active else trapLanes (o.lanes ((o.form i).ctx s g)) hit) := by
  have hm' : hit m = .trap cALIGN := by rw [hhit]; exact check_misaligned s _ _ hmis
  have hbody : o.run ((o.form i).ctx s g) ((o.form i).begun s g g1) = .trap ⟨k, BitVec.ofNat 64 (addrM g o.s o.v low),
      if o.v == 63 then none else some (trapLanes (o.lanes ((o.form i).ctx s g)) hit), dstNone⟩ := by
    rw [StoreOp.run, if_neg hx]
    dsimp only
    rw [storeHits_eq, hitsPre]
    subst hhit
    rw [hitsPreOn_lowest (storeLanes_ascending _) hm hm' hlow hk hleast]
    rfl
  have htrap := issue_trap (m := o.meaning i) hi hpre hbody
  rw [Form.TrapsWith, show (o.form i).i = i from rfl, storeOf_runs ho, htrap]
  congr 3
  by_cases hv : o.v = 63 <;> simp [hv]

/-- A load of one misaligned address traps as a whole. -/
theorem LoadOp.traps_misaligned {o : LoadOp} (ho : loadOf i = some o) (hv : o.v = 63) (hi : (o.form i).Issues s g g1)
    (hpre : o.pre ((o.form i).ctx s g) = none) (hx : ((o.form i).ctx s g).x ≠ 0)
    (hmis : addrM g o.s 63 0 % bytesM o.w ≠ 0) :
    (o.form i).TrapsWith s g cALIGN (BitVec.ofNat 64 (addrM g o.s 63 0)) g.active := by
  have hcheck (l : Nat) : check s (who s s.ctl.cur g) o.acc (addrM g o.s 63 l) (bytesM o.w) = .trap cALIGN :=
    check_misaligned s _ _ hmis
  have hleast : ∀ l ∈ [Mask.lowest ((o.form i).ctx s g).x], ∀ j,
      check s (who s s.ctl.cur g) o.acc (addrM g o.s 63 l) (bytesM o.w) = .trap j →
      cALIGN < j ∨ cALIGN = j ∧ Mask.lowest ((o.form i).ctx s g).x ≤ l := fun l hl j hj =>
    .inr ⟨Hit.trap.inj ((hcheck l).symm.trans hj), Nat.le_of_eq (List.mem_singleton.1 hl).symm⟩
  have hbody : o.run ((o.form i).ctx s g) ((o.form i).begun s g g1)
      = .trap ⟨cALIGN, BitVec.ofNat 64 (addrM g o.s 63 0), none, o.dstOf g⟩ := by
    rw [LoadOp.run, if_neg hx, if_neg (by simp [LoadOp.gather, hv]), LoadOp.single]
    dsimp only
    rw [Form.ctx_w, Form.ctx_g, probe_addrM ((o.form i).begun_sameMemory s g g1),
      hitsPreOn_lowest (va := addrM g o.s 63) (List.pairwise_singleton (· < ·) (Mask.lowest ((o.form i).ctx s g).x))
        (List.mem_singleton_self _) (hcheck _) (List.mem_singleton_self _) (hcheck _) hleast]
    rfl
  have htrap := issue_trap (m := o.meaning i) hi hpre hbody
  rw [Form.TrapsWith, show (o.form i).i = i from rfl, loadOf_runs ho, htrap]
  rfl

/-- The lanes of a gather with what their checks say. -/
def gatherHits (s : State) (g : Group) (o : LoadOp) (x : Mask) : List LaneHit :=
  (Mask.list x).map fun l => ⟨l, addrM g o.s o.v l,
    check s (who s s.ctl.cur g) o.acc (addrM g o.s o.v l) (bytesM o.w)⟩

theorem gatherHits_lanes (s : State) (g : Group) (o : LoadOp) (x : Mask) :
    (gatherHits s g o x).map (·.lane) = Mask.list x := by
  rw [gatherHits, List.map_map]
  exact List.map_id _

/-- A gather with lanes that are left, none of which faults in translation, performs the others and ends in the trap of those
that are left. -/
theorem LoadOp.gather_body {o : LoadOp} (hv : o.v ≠ 63) {hs : List LaneHit}
    (hhs : hs = gatherHits s g o ((o.form i).ctx s g).x)
    (hblocked : blockedBy s (hs.filter fun h => !h.inL1 s (who s s.ctl.cur g) (l1ModeOf g o.bypass o.na)) (bytesM o.w)
      = none)
    (hb : ∀ e ∈ hs, e.isXlate = false ∧ e.hit ≠ .busy) (hleft : leftLanes hs ≠ 0) :
    ∃ k y u bit, o.run ((o.form i).ctx s g) ((o.form i).begun s g g1)
        = .part u ⟨k, BitVec.ofNat 64 y, some (leftLanes hs), o.dstOf g⟩ bit
      ∧ GatherPart o ((o.form i).ctx s g) ((o.form i).begun s g g1) hs u bit
      ∧ (∃ x ∈ hs, x.cause? = some k) ∧ ∀ z ∈ hs, ∀ j, z.cause? = some j → k ≤ j := by
  have hlanes : hs.map (·.lane) = Mask.list ((o.form i).ctx s g).x := by rw [hhs, gatherHits_lanes]
  have hsame := (o.form i).begun_sameMemory s g g1
  have hhits : probe ((o.form i).begun s g g1) ((o.form i).ctx s g).w o.acc (bytesM o.w) (Mask.list ((o.form i).ctx s g).x)
      (laneAddr ((o.form i).ctx s g).g o.s o.v) = hs := by
    rw [Form.ctx_w, probe_addrM hsame, hhs]
    rfl
  have hx : ((o.form i).ctx s g).x ≠ 0 := by
    intro hx
    rw [← leftLanes_eq hlanes, hx] at hleft
    exact hleft (BitVec.zero_and ..)
  have hblocked' : blockedBy ((o.form i).begun s g g1) (hs.filter fun h =>
      !h.inL1 ((o.form i).begun s g g1) ((o.form i).ctx s g).w (l1ModeOf ((o.form i).ctx s g).g o.bypass o.na))
      (bytesM o.w) = none := by
    rw [blockedBy_congr hsame]
    simp only [inL1_congr hsame, Form.ctx_w]
    exact hblocked
  obtain ⟨e, he, j, hj⟩ := trap_of_left hb hleft
  obtain ⟨k, y, htrap, hfind, hyk, hmin⟩ := lanesTrap_spec (dst := ((o.form i).ctx s g).dst) he hj
  obtain ⟨u, bit, hrun, hpart⟩ := gatherRun_part hhits hlanes hb hblocked' htrap
  refine ⟨k, y.va, u, bit, ?_, hpart, ⟨y, List.mem_of_find?_eq_some hfind, hyk⟩, hmin⟩
  rw [LoadOp.run, if_neg hx, if_pos (by simp [LoadOp.gather, hv]), hrun]
  rfl

/-- Where not every lane is left, some lane is performed. -/
theorem placed_of_left {hs : List LaneHit} {x : Mask} (hl : hs.map (·.lane) = Mask.list x) (hne : leftLanes hs ≠ x) :
    ∃ e ∈ hs, e.loc?.isSome := by
  by_contra hnone
  refine hne ?_
  have hempty : (hs.filter fun h => h.loc?.isSome) = [] := List.filter_eq_nil_iff.2 fun e he hloc => hnone ⟨e, he, hloc⟩
  rw [← leftLanes_eq hl, hempty]
  refine Mask.ext_lanes _ _ fun l hlt => ?_
  rw [Mask.has_and, Mask.has_not _ l hlt, hitMask, Mask.has_maskOf _ l hlt, List.any_nil, Bool.not_false, Bool.and_true]

/-- The flight of a gather's part brings the lanes performed. -/
theorem LoadOp.flight_placed {o : LoadOp} {c : Ctx} {vs : List (Nat × Nat)} {hs : List LaneHit} {x : Mask}
    (hl : hs.map (·.lane) = Mask.list x) (hvs : vs.map (·.1) = (hs.filter fun h => h.loc?.isSome).map (·.lane)) :
    (o.flight c vs).lanes = x &&& ~~~(leftLanes hs) := by
  rw [← hitMask_placed hl, LoadOp.flight, hitMask]
  refine congrArg maskOf (funext fun l => ?_)
  have hany := congrArg (fun ls : List Nat => ls.any (· == l)) hvs
  simp only [List.any_map] at hany
  exact hany

end

end Sys2Proof.Machine

namespace Sys2Proof
open Machine

/-- Settles O20: a misaligned lane stops a store and a load of one address through `hitsPreOn_lowest`, which gives the
trap; a gather is `gatherRun_part`, and its trap `issue_part`. -/
theorem accessesThatTrap : Obligations.AccessesThatTrap := by
  refine ⟨⟨?_, ?_⟩, ?_⟩
  · intro i o s g g1 ho hi c n ls hit hpre hx ⟨m, hm, hmis⟩ k low hlow hk hleast
    exact StoreOp.traps_misaligned ho hi hpre hx rfl hm hmis hlow hk hleast
  · intro i o s g g1 ho hv hi c a hpre hx hmis
    exact LoadOp.traps_misaligned ho hv hi hpre hx hmis
  · intro i o s g g1 ho hv hi c w n hs left hpre hblocked hb hleft hcan hslots
    have hlanes : hs.map (·.lane) = Mask.list c.x := gatherHits_lanes s g o c.x
    obtain ⟨cause, y, u, bit, hbody, hpart, hcause, hmin⟩ := LoadOp.gather_body (g1 := g1) hv rfl hblocked hb hleft
    obtain ⟨k, hk, hkept, hactive⟩ := hpart.group hi
    obtain ⟨hitems, hlaunches⟩ := hpart.runs
    have hstack : k.stack = g.stack := by have e := congrArg Group.stack hkept; exact e
    have hvec : k.trapvec = g.trapvec := by have e := congrArg Group.trapvec hkept; exact e
    have hissue := issue_part (m := o.meaning i) (t := ⟨cause, BitVec.ofNat 64 y, some left, o.dstOf g⟩) hi hpre hbody hk
      (hcan.of_plain hkept hslots hitems hlaunches) (by rw [hstack]; omega)
    refine ⟨_, _, trapEntryOf k (gatherReq c k ⟨cause, BitVec.ofNat 64 y, some left, o.dstOf g⟩ left bit),
      (loadOf_runs ho s).trans hissue, grp_setGrp_self .., congrArg (_ :: ·) hstack, hvec, rfl, rfl,
      congrArg (· &&& ~~~left) hactive, fun j => ?_, hcause, rfl, rfl, rfl, fun hne => ?_⟩
    · by_cases hj : ∃ x ∈ hs, x.cause? = some j
      · obtain ⟨x, hx, hxj⟩ := hj
        exact .inl (hmin x hx j hxj)
      · exact .inr fun x hx hxj => hj ⟨x, hx, hxj⟩
    · obtain ⟨hbit, vs, id, hflight, hvs⟩ := hpart.flight (placed_of_left hlanes hne)
      exact ⟨hbit, _, hflight, rfl, LoadOp.flight_placed (o := o) (c := c) hlanes hvs, rfl⟩

end Sys2Proof
end
